-- ==== Sys2Proof/Word.lean ====
section
/-! DEFINITION. The word types of the Tercor N9 and the sparse table that holds what is keyed by a number. -/

namespace Sys2Proof

/-- One byte of memory. -/
abbrev Byte := BitVec 8
/-- A vector register lane: 32 bits (R15). -/
abbrev Word := BitVec 32
/-- A scalar register, an address, a latch lane: 64 bits (R15). -/
abbrev DWord := BitVec 64
/-- A set of lanes, bit L for lane L. -/
abbrev Mask := BitVec 64

/-- A sparse table: keys strictly rising, an absent key reads as the caller's default. -/
abbrev Table (α : Type) := List (Nat × α)

/-- The entry under `k`, if there is one. -/
def Table.get? {α : Type} : Table α → Nat → Option α
  | [], _ => none
  | (j, x) :: t, k => if j = k then some x else Table.get? t k

/-- The entry under `k`, or `d`. -/
def Table.getD {α : Type} (t : Table α) (k : Nat) (d : α) : α :=
  match Table.get? t k with
  | some x => x
  | none => d

/-- Set the entry under `k`, keeping the keys in rising order. -/
def Table.set {α : Type} : Table α → Nat → α → Table α
  | [], k, x => [(k, x)]
  | (j, y) :: t, k, x =>
    if k < j then (k, x) :: (j, y) :: t
    else if k = j then (k, x) :: t
    else (j, y) :: Table.set t k x

/-- Remove the entry under `k`. -/
def Table.del {α : Type} : Table α → Nat → Table α
  | [], _ => []
  | (j, y) :: t, k => if j = k then t else (j, y) :: Table.del t k

/-- Change every entry. -/
def Table.mapVals {α : Type} (t : Table α) (f : Nat → α → α) : Table α :=
  t.map fun e => (e.1, f e.1 e.2)

/-- The keys strictly rise. -/
def Table.sorted {α : Type} : Table α → Bool
  | [] => true
  | [_] => true
  | (j, _) :: (k, y) :: t => decide (j < k) && Table.sorted ((k, y) :: t)

end Sys2Proof
end

