-- ==== Sys2Proof/Syntax.lean ====
section
/-! DEFINITION. The instructions and steps of the Tercor N9: one constructor of `Instr` per row of the opcode
table, over the operand records of the instruction formats (R40 to R68). -/

namespace Sys2Proof

/-- A source operand (R46, R48). -/
inductive Src where
  | v (n : Fin 128) | s (n : Fin 64) | o (n : Fin 8) | la | lb | ls | lane | width
  | const (k : Fin 32) | lit
  deriving DecidableEq, Repr

/-- A destination (R47, R49). -/
inductive Dst where
  | v (n : Fin 128) | s (n : Fin 64) | null
  deriving DecidableEq, Repr

/-- The read-path permutations (R62). -/
inductive PermKind where
  | none | rot | bcast | bfly | mirror | rotw | bcastg
  deriving DecidableEq, Repr

/-- A source field of XV with its fill slot, kill bit and permutation (R57). -/
structure SrcX where
  sel : Src
  fill : Option (Fin 8)
  kill : Bool
  perm : PermKind
  amt : Fin 64
  deriving DecidableEq, Repr

/-- The field of a source an operation does not use: all zero (R45). -/
def SrcX.unused : SrcX := ⟨.v 0, none, false, .none, 0⟩

/-- BV with two source fields (R52). -/
structure Bv where
  rb : Bool
  d : Dst
  a : Src
  b : Src
  lit : Option DWord
  deriving DecidableEq, Repr

/-- BV of a one-source operation: its B field is unused and it takes no literal (R122). -/
structure Bv1 where
  rb : Bool
  d : Dst
  a : Src
  deriving DecidableEq, Repr

/-- XV (R57). `mod3` and `func6` are read by the accessors of the instruction's family (R81 to R87). -/
structure Xv where
  rb : Bool
  d : Dst
  slot : Option (Fin 8)
  p : Fin 16
  pn : Bool
  mod3 : Fin 8
  func6 : Fin 64
  a : SrcX
  b : SrcX
  c : SrcX
  lit : Option DWord
  deriving DecidableEq, Repr

/-- XV of ICMP and FCMP: a predicate destination, the condition in MOD3 (R132, R145). -/
structure CmpXv where
  rb : Bool
  pd : Fin 16
  p : Fin 16
  pn : Bool
  cond : Fin 8
  func6 : Fin 64
  a : SrcX
  b : SrcX
  lit : Option DWord
  deriving DecidableEq, Repr

/-- XV of PSET (R133). -/
structure PsetXv where
  rb : Bool
  pd : Fin 16
  p : Fin 16
  pn : Bool
  pa : Fin 16
  pb : Fin 16
  pc : Fin 16
  tt : BitVec 8
  deriving DecidableEq, Repr

/-- The two directions of PMOV (R134). -/
inductive PmovDir where
  | toPred (pd : Fin 16) (a : SrcX)
  | toReg (d : Dst) (pa : Fin 16)
  deriving DecidableEq, Repr

/-- XV of PMOV (R134). -/
structure PmovXv where
  rb : Bool
  p : Fin 16
  pn : Bool
  dir : PmovDir
  lit : Option DWord
  deriving DecidableEq, Repr

/-- BV of BALLOT: a predicate number in the A field (R177). -/
structure BallotBv where
  rb : Bool
  d : Dst
  pa : Fin 16
  deriving DecidableEq, Repr

/-- BV of VOTE: predicate numbers in D and A (R177). -/
structure VoteBv where
  rb : Bool
  pd : Fin 16
  pa : Fin 16
  deriving DecidableEq, Repr

/-- BV of ELECT: a predicate number in D (R177). -/
structure ElectBv where
  rb : Bool
  pd : Fin 16
  deriving DecidableEq, Repr

/-- XV of BALLOT, VOTE and ELECT: predicate fields, a member mask in C (R174, R177). BALLOT's destination stands in
`d`, VOTE's and ELECT's in `pd`. -/
structure PredXv where
  rb : Bool
  d : Dst
  pd : Fin 16
  pa : Fin 16
  p : Fin 16
  pn : Bool
  mod3 : Fin 8
  func6 : Fin 64
  c : SrcX
  lit : Option DWord
  deriving DecidableEq, Repr

/-- BB of BRA and BRU (R54). -/
structure Bb where
  rb : Bool
  p : Fin 16
  n : Bool
  pr : Fin 4
  ofs : BitVec 14
  lit : Option DWord
  deriving DecidableEq, Repr

/-- Access sizes (R55). -/
inductive Size where
  | b8 | b16 | b32 | b64 | b128
  deriving DecidableEq, Repr

/-- Bytes of an access size. -/
def Size.bytes : Size → Nat
  | .b8 => 1 | .b16 => 2 | .b32 => 4 | .b64 => 8 | .b128 => 16

/-- Memory scopes of an access (R59). -/
inductive Scope where
  | group | quad | device | fabric | system
  deriving DecidableEq, Repr

/-- Memory order (R59). -/
inductive Ord where
  | relaxed | acquire | release | acqrel
  deriving DecidableEq, Repr

/-- BM (R55). -/
structure Bm where
  rb : Bool
  d : Dst
  a : Src
  off4 : Fin 16
  sz : Size
  deriving DecidableEq, Repr

/-- BM of the hints: data field and SZ are zero (R226). -/
structure BmHint where
  rb : Bool
  a : Src
  off4 : Fin 16
  deriving DecidableEq, Repr

/-- XM (R59). -/
structure Xm where
  rb : Bool
  d : Dst
  p : Fin 16
  pn : Bool
  sz : Size
  scope : Scope
  ord : Ord
  a : Src
  ak : Bool
  x : Src
  xsh : Fin 8
  ofs : BitVec 20
  cls : Fin 4
  tk : Option (Fin 4)
  func6 : Fin 64
  lit : Option DWord
  deriving DecidableEq, Repr

/-- XT (R61). -/
structure Xt where
  rb : Bool
  d : Dst
  p : Fin 16
  pn : Bool
  e8 : BitVec 8
  a : Src
  b : Src
  c : Src
  x : Src
  imm : BitVec 32
  lit : Option DWord
  deriving DecidableEq, Repr

/-- Integer and logic operations (R120). -/
inductive IOp where
  | iadd | isub | iaddc | imul | imulh | imad | imin | imax | iabs | idot4 | and | or | xor | andn
  | shl | shr | sar | rotl | fshr | bfe | bfi | popc | clz | ctz | brev | prmt | sel | mov | lea
  | iadd3 | isad | iadd2
  deriving DecidableEq, Repr

/-- Arithmetic floating-point operations (R143, R146, R147). -/
inductive FOp where
  | fadd | fsub | fmul | ffma | fmin | fmax | frnd | fclass | fdot2 | fscale
  deriving DecidableEq, Repr

/-- Class L floating-point functions (R148). -/
inductive SOp where
  | frcp | frsq | fsqrt | fexp2 | flog2 | fsin | fcos | ftanh | fdiv
  deriving DecidableEq, Repr

/-- Floating-point TYPE (R85). -/
inductive FType where
  | f32 | f16x2 | bf16x2 | f64
  deriving DecidableEq, Repr

/-- An operation of a PAIR (R66). -/
inductive PairOp where
  | int (op : IOp)
  | fp (op : FOp) (ty : FType)
  deriving DecidableEq, Repr

/-- One half of a PAIR (R65). -/
structure PairHalf where
  op : PairOp
  d : Dst
  a : Src
  ak : Bool
  b : Src
  bk : Bool
  p : Fin 16
  pn : Bool
  deriving DecidableEq, Repr

/-- PAIR (R65). -/
structure Pair where
  rb : Bool
  x : PairHalf
  y : PairHalf
  deriving DecidableEq, Repr

/-- What an atomic does to its location (R218, R219, R236), `record` being that of a fault record (R365). The width is the
access's. -/
inductive AtomOp where
  | add | and | or | xor | smin | smax | umin | umax | exch | cas
  | fadd (ty : FType) | fmin | fmax | record
  deriving DecidableEq, Repr

/-- The kinds of access a remote request makes (R191). -/
inductive PeerKind where
  | load | store | atom (op : AtomOp) | mcred (op : AtomOp)
  deriving DecidableEq, Repr

/-- One lane's part of a request: its lane, its byte offset in the window, its size, and the bytes stored or the operands
(R294). -/
structure LaneReq where
  lane : Nat
  off : Nat
  size : Nat
  data : List Byte
  deriving DecidableEq, Repr

/-- A request of another device to a window of this one: the lanes of one line (R190, R191, R294); the plane it travels on and
its number among the requests of its source to this device on that plane (R298). -/
structure PeerReq where
  id : Nat
  src : Nat
  plane : Nat
  pseq : Nat
  ftid : BitVec 32
  win : Nat
  cls : Nat
  kind : PeerKind
  lanes : List LaneReq
  deadline : Int
  deriving DecidableEq, Repr

/-- A reply slot of a wave or of a TCE (R295, R296). -/
structure SlotRef where
  tce : Bool
  owner : Nat
  slot : Nat
  deriving DecidableEq, Repr

/-- The slot that an MCRED_ACK answers, and the plane that brings it (R223, R309). -/
structure AckIn where
  plane : Nat
  slot : SlotRef
  deriving DecidableEq, Repr

/-- What a reply carries: per lane the bytes read, an acknowledgement, or a failure (R303, R305). -/
inductive ReplyBody where
  | data (lanes : List (Nat × List Byte)) | ack | refused | poison | unsupported
  deriving DecidableEq, Repr

/-- A reply that reaches this device on a plane (R301). -/
structure PeerReply where
  plane : Nat
  slot : SlotRef
  seq : BitVec 8
  peer : Nat
  body : ReplyBody
  deriving DecidableEq, Repr

/-- Who sends a mailbox command: the port, the SPDM session that carries it (R400), and the IDE stream it came on (R399). -/
structure MbReq where
  port : Nat
  sess : Option Nat
  stream : Option Nat
  deriving DecidableEq, Repr

/-- What a queue is created with (R325). -/
structure QueueCfg where
  ctx : Nat
  device : Bool
  base : Nat
  k : Nat
  deriving DecidableEq, Repr

/-- A host request to tenancy state (R399). `stream` is the IDE stream it came on. -/
structure HostReq where
  port : Nat
  ten : Nat
  stream : Option Nat
  write : Bool
  addr : Nat
  size : Nat
  data : List Byte
  deriving DecidableEq, Repr

/-- A Meridian message (R407). -/
structure MMsg where
  type : BitVec 8
  sender : BitVec 12
  subject : BitVec 12
  ceiling : BitVec 12
  nextceil : BitVec 12
  rsv : BitVec 8
  group : BitVec 32
  mnum : BitVec 32
  effective : DWord
  sent : DWord
  deriving DecidableEq, Repr

/-- A Meridian message as a port brings it (R408). -/
structure MFlit where
  port : Nat
  msg : MMsg
  deriving DecidableEq, Repr

/-- A flit as it arrives: its header and whether its tag verifies (R440, R441). -/
structure Flit where
  vc : BitVec 2
  keyph : Bool
  replay : Bool
  dest : Nat
  src : Nat
  ctrlo : BitVec 16
  credit : BitVec 12
  rsv : BitVec 8
  tagOk : Bool
  deriving DecidableEq, Repr

/-- Sensor events (R445). -/
inductive Sensor where
  | supplyGlitch (die : Nat) | clockGlitch (die : Nat) | lodestarGlitch (code : BitVec 8)
  | temperature (die : Nat) (deciC : Int) | meshBreach | faultInjection
  deriving DecidableEq, Repr

/-- A firmware image or record as Lodestar meets it: do its two signatures verify, its security version (R449). -/
structure BootImage where
  rsaOk : Bool
  slhOk : Bool
  version : Nat
  digest : Nat
  deriving DecidableEq, Repr

/-- What a boot finds: the three images, the partition mode, its owner port, the sensor events met, the repair fuses of the
stacks as remap entries of pseudo-channels (R428, R449, R450), and the granules that the firmware keeps for itself (R393). -/
structure BootIn where
  stage1 : BootImage
  cpfw : BootImage
  config : BootImage
  mode : Fin 3
  owner : Fin 2
  device : Fin 4096
  alarms : List Sensor
  fuses : List (Nat × BitVec 64)
  firmware : List Nat
  deriving DecidableEq, Repr

/-- Telemetry readings (R451). -/
structure Telemetry where
  diePower : List (BitVec 32)
  dieTemp : List Int
  stackTemp : List Int
  pkgPower : Nat
  coolant : Int
  deriving DecidableEq, Repr

/-- What the symbol code finds in a burst (R430). -/
inductive BurstErr where
  | clean | corrected | uncorrectable
  deriving DecidableEq, Repr

/-- The moments of an access at its memory controller (R426): it arrives, it is issued to the stack, its data has moved. -/
inductive HbmPhase where
  | arrives | issued | moved
  deriving DecidableEq, Repr

/-- An access at a memory controller (R426, R427, R430): one of the 16 bursts of a row, which is a window spare with `spare`;
`opens` says that the controller opens the row for it. -/
structure HbmAcc where
  phase : HbmPhase
  bank : Nat
  row : Nat
  spare : Bool
  opens : Bool
  write : Bool
  col : Nat
  err : BurstErr
  deriving DecidableEq, Repr

/-- SRAM errors (R431). -/
inductive SramErr where
  | corrected | scratch (group off : Nat) | accum (quad bank : Nat) | llc (line : Nat) | remap (pc : Nat)
  | tlb (core : Nat) | tceTlb (quad : Nat) | llTlb (die : Nat) | walker (die : Nat) | tags
  deriving DecidableEq, Repr

/-- A stream of a port and the key that IDE_KM programs for it (R402). -/
structure StreamKey where
  stream : Nat
  key : Nat
  deriving DecidableEq, Repr

/-- TDISP requests (R399). -/
inductive TdispReq where
  | lock | start | stop
  deriving DecidableEq, Repr

/-- Every instruction word and every step of the device, one constructor per row of the opcode table. -/
inductive Instr where
  | iaddBv (f : Bv)
  | iaddXv (f : Xv)
  | isubBv (f : Bv)
  | isubXv (f : Xv)
  | iaddcBv (f : Bv)
  | iaddcXv (f : Xv)
  | imulBv (f : Bv)
  | imulXv (f : Xv)
  | imulhBv (f : Bv)
  | imulhXv (f : Xv)
  | imadBv (f : Bv)
  | imadXv (f : Xv)
  | iminBv (f : Bv)
  | iminXv (f : Xv)
  | imaxBv (f : Bv)
  | imaxXv (f : Xv)
  | iabsBv (f : Bv1)
  | iabsXv (f : Xv)
  | idot4Bv (f : Bv)
  | idot4Xv (f : Xv)
  | andBv (f : Bv)
  | andXv (f : Xv)
  | orBv (f : Bv)
  | orXv (f : Xv)
  | xorBv (f : Bv)
  | xorXv (f : Xv)
  | andnBv (f : Bv)
  | andnXv (f : Xv)
  | lop3Xv (f : Xv)
  | shlBv (f : Bv)
  | shlXv (f : Xv)
  | shrBv (f : Bv)
  | shrXv (f : Xv)
  | sarBv (f : Bv)
  | sarXv (f : Xv)
  | rotlBv (f : Bv)
  | rotlXv (f : Xv)
  | fshrBv (f : Bv)
  | fshrXv (f : Xv)
  | bfeBv (f : Bv)
  | bfeXv (f : Xv)
  | bfiBv (f : Bv)
  | bfiXv (f : Xv)
  | popcBv (f : Bv1)
  | popcXv (f : Xv)
  | clzBv (f : Bv1)
  | clzXv (f : Xv)
  | ctzBv (f : Bv1)
  | ctzXv (f : Xv)
  | brevBv (f : Bv1)
  | brevXv (f : Xv)
  | prmtBv (f : Bv)
  | prmtXv (f : Xv)
  | icmpXv (f : CmpXv)
  | selBv (f : Bv)
  | selXv (f : Xv)
  | movBv (f : Bv1)
  | movXv (f : Xv)
  | leaBv (f : Bv)
  | leaXv (f : Xv)
  | iadd3Bv (f : Bv)
  | iadd3Xv (f : Xv)
  | isadBv (f : Bv)
  | isadXv (f : Xv)
  | iadd2Bv (f : Bv)
  | iadd2Xv (f : Xv)
  | psetXv (f : PsetXv)
  | pmovXv (f : PmovXv)
  | icvtXv (f : Xv)
  | faddBv (f : Bv)
  | faddXv (f : Xv)
  | fsubBv (f : Bv)
  | fsubXv (f : Xv)
  | fmulBv (f : Bv)
  | fmulXv (f : Xv)
  | ffmaBv (f : Bv)
  | ffmaXv (f : Xv)
  | fminBv (f : Bv)
  | fminXv (f : Xv)
  | fmaxBv (f : Bv)
  | fmaxXv (f : Xv)
  | fcmpXv (f : CmpXv)
  | frndBv (f : Bv1)
  | frndXv (f : Xv)
  | fclassBv (f : Bv1)
  | fclassXv (f : Xv)
  | frcpBv (f : Bv1)
  | frcpXv (f : Xv)
  | frsqBv (f : Bv1)
  | frsqXv (f : Xv)
  | fsqrtBv (f : Bv1)
  | fsqrtXv (f : Xv)
  | fexp2Bv (f : Bv1)
  | fexp2Xv (f : Xv)
  | flog2Bv (f : Bv1)
  | flog2Xv (f : Xv)
  | fsinBv (f : Bv1)
  | fsinXv (f : Xv)
  | fcosBv (f : Bv1)
  | fcosXv (f : Xv)
  | ftanhBv (f : Bv1)
  | ftanhXv (f : Xv)
  | fdivBv (f : Bv)
  | fdivXv (f : Xv)
  | fcvtXv (f : Xv)
  | ftoiXv (f : Xv)
  | itofXv (f : Xv)
  | npackXv (f : Xv)
  | nunpkXv (f : Xv)
  | fdot2Xv (f : Xv)
  | fscaleBv (f : Bv)
  | fscaleXv (f : Xv)
  | xshfBv (f : Bv)
  | xshfXv (f : Xv)
  | xrotBv (f : Bv)
  | xrotXv (f : Xv)
  | xbflyBv (f : Bv)
  | xbflyXv (f : Xv)
  | xbcastBv (f : Bv)
  | xbcastXv (f : Xv)
  | xredBv (f : Bv1)
  | xredXv (f : Xv)
  | xscanBv (f : Bv1)
  | xscanXv (f : Xv)
  | ballotBv (f : BallotBv)
  | ballotXv (f : PredXv)
  | voteBv (f : VoteBv)
  | voteXv (f : PredXv)
  | matchBv (f : Bv1)
  | matchXv (f : Xv)
  | electBv (f : ElectBv)
  | electXv (f : PredXv)
  | nopBs (rb : Bool)
  | nopXt (f : Xt)
  | braBb (f : Bb)
  | bruBb (f : Bb)
  | jmpiBs (rb : Bool) (a : Src) (pr : Fin 4)
  | jmpiXt (f : Xt)
  | callBs (rb : Bool) (d : Dst) (ofs : BitVec 14)
  | callXt (f : Xt)
  | retBs (rb : Bool) (a : Src)
  | retXt (f : Xt)
  | jmarkBs (rb : Bool) (j : Fin 4) (ofs : BitVec 14)
  | jmarkXt (f : Xt)
  | joinBs (rb : Bool) (j : Fin 4)
  | joinXt (f : Xt)
  | exitBs (rb : Bool)
  | exitXt (f : Xt)
  | waitcBs (rb : Bool) (l : Fin 64) (c : Fin 16) (x : Fin 64)
  | waitcXt (f : Xt)
  | lwaitBs (rb : Bool) (t : Fin 4) (ns : BitVec 19)
  | lwaitXt (f : Xt)
  | sleepBs (rb : Bool) (ns : BitVec 21)
  | sleepXt (f : Xt)
  | yieldBs (rb : Bool)
  | yieldXt (f : Xt)
  | setprioBs (rb : Bool) (pr : Fin 4)
  | setprioXt (f : Xt)
  | trapBs (rb : Bool) (code : BitVec 16)
  | trapXt (f : Xt)
  | brkptBs (rb : Bool) (code : BitVec 16)
  | brkptXt (f : Xt)
  | ldBm (f : Bm)
  | ldXm (f : Xm)
  | stBm (f : Bm)
  | stXm (f : Xm)
  | ldnfBm (f : Bm)
  | ldnfXm (f : Xm)
  | atomXm (f : Xm)
  | atomfXm (f : Xm)
  | redXm (f : Xm)
  | redfXm (f : Xm)
  | casXm (f : Xm)
  | fenceXm (f : Xm)
  | prefBm (f : BmHint)
  | prefXm (f : Xm)
  | cinvBm (f : BmHint)
  | cinvXm (f : Xm)
  | cdemoteBm (f : BmHint)
  | cdemoteXm (f : Xm)
  | pgreqXm (f : Xm)
  | mcredXm (f : Xm)
  | sldBm (f : Bm)
  | sldXm (f : Xm)
  | sstBm (f : Bm)
  | sstXm (f : Xm)
  | tcopyXt (f : Xt)
  | tstoreXt (f : Xt)
  | tgatherXt (f : Xt)
  | cpyXt (f : Xt)
  | cpywaitBs (rb : Bool) (t : Fin 4) (n : Fin 64)
  | cpywaitXt (f : Xt)
  | rdvinitXt (f : Xt)
  | rdvarrXt (f : Xt)
  | rdvexpXt (f : Xt)
  | rdvwaitXt (f : Xt)
  | rdvtestXt (f : Xt)
  | pwaitXt (f : Xt)
  | tmapXt (f : Xt)
  | tunmapXt (f : Xt)
  | tqueryXt (f : Xt)
  | aclaimXt (f : Xt)
  | arelXt (f : Xt)
  | azeroXt (f : Xt)
  | mmaXt (f : Xt)
  | mmagXt (f : Xt)
  | awaitBs (rb : Bool) (b : Fin 8)
  | awaitXt (f : Xt)
  | ardXt (f : Xt)
  | adrainXt (f : Xt)
  | aloadXt (f : Xt)
  | oprdyBs (rb : Bool)
  | oprdyXt (f : Xt)
  | wpubXt (f : Xt)
  | wtestXt (f : Xt)
  | launchXt (f : Xt)
  | lparmXt (f : Xt)
  | movsXt (f : Xt)
  | movswXt (f : Xt)
  | tretBs (rb : Bool)
  | tretXt (f : Xt)
  | tlbinvXt (f : Xt)
  | perfrdXt (f : Xt)
  | dbgmarkBs (rb : Bool) (code : BitVec 16)
  | dbgmarkXt (f : Xt)
  | haltwXt (f : Xt)
  | syscallBs (rb : Bool) (code : BitVec 16)
  | syscallXt (f : Xt)
  | pair (f : Pair)
  | runStart (core : Nat)
  | suspendResume (wave : Nat)
  | suspendSave (wave : Nat)
  | classLLand (wave op : Nat)
  | sleepWake (wave lane : Nat)
  | lwaitTimeout (wave lane : Nat)
  | pwaitWake (wave lane : Nat)
  | waveEnd (wave : Nat)
  | groupExit (group : Nat)
  | homeAccess (acc : Nat)
  | storeVisible (acc : Nat)
  | atomicPerform (acc : Nat)
  | wctReturn (acc : Nat)
  | loadLand (wave op : Nat) (lanes : Mask)
  | fenceComplete (wave op : Nat)
  | remoteRequest (r : PeerReq)
  | remoteAck (id : Nat)
  | remoteReply (r : PeerReply)
  | requestTimeout (slot : SlotRef)
  | hostCompletion (acc : Nat) (body : ReplyBody)
  | mcredApply (r : PeerReq)
  | mcredAck (ack : AckIn) (seq : BitVec 8) (failed : Option (Nat × Nat))
  | translationWalk (core va : Nat)
  | prqPost (ctx : Nat)
  | tlbinvComplete (id : Nat)
  | tceAccept (quad copy : Nat)
  | copyComplete (quad copy : Nat)
  | cpyComplete (wave op : Nat)
  | rdvarrApply (wave op : Nat)
  | fillComplete (quad op : Nat)
  | arbiterVisit (quad : Nat)
  | opComplete (quad op : Nat)
  | zeroingDone (quad op : Nat)
  | bankTransferDone (quad op : Nat)
  | doorbellWrite (port q : Nat) (stream : Option Nat) (val : DWord)
  | admitDesc (part q : Nat)
  | chainRecord (part q : Nat)
  | chainReplay (part q : Nat)
  | launchOpen (launch : Nat)
  | wpPublish (pub : Nat)
  | groupDispatch (die : Nat)
  | coreReserve (launch : Nat)
  | deficitCharge
  | launchRetire (launch : Nat)
  | preemptSaveDone (ctx : Nat)
  | contextRestore (ctx : Nat)
  | killComplete (ctx : Nat)
  | coreSplitApply (core : Nat)
  | status (r : MbReq)
  | takeover (r : MbReq)
  | tenCreate (r : MbReq) (ten : Nat) (policy : DWord)
  | tenDestroy (r : MbReq) (ten : Nat)
  | grant (r : MbReq) (ten gran : Nat)
  | reclaim (r : MbReq) (ten gran : Nat)
  | ways (r : MbReq) (ten : Nat) (ways : BitVec 16)
  | ctxCreate (r : MbReq) (ctx : Nat) (desc : BitVec 512)
  | ctxKill (r : MbReq) (ctx : Nat)
  | queueCreate (r : MbReq) (q : Nat) (cfg : QueueCfg)
  | queueReset (r : MbReq) (q : Nat)
  | pageRespRetry (r : MbReq) (ctx : Nat) (seq : BitVec 32)
  | pageRespDeny (r : MbReq) (ctx : Nat) (seq : BitVec 32)
  | tlbInv (r : MbReq) (ctx : Nat) (all : Bool) (va pages : Nat)
  | windowSet (r : MbReq) (win : Nat) (entry : BitVec 128)
  | coreCfgDrain (r : MbReq) (arg : DWord)
  | coreCfgForce (r : MbReq) (arg : DWord)
  | hostRequest (r : HostReq)
  | tdiConfigChange (port ten : Nat)
  | getVersion (port : Nat)
  | getCapabilities (port : Nat)
  | negotiateAlgorithms (port : Nat)
  | getDigests (port : Nat)
  | getCertificate (port chain : Nat)
  | challenge (port : Nat)
  | getMeasurements (port : Nat) (sess : Option Nat) (index : Nat)
  | keyExchange (port : Nat) (mlkem ecdh : Nat)
  | finish (port : Nat) (ok : Bool)
  | keyUpdate (port sess : Nat)
  | endSession (port sess : Nat)
  | ideKm (port sess ten : Nat) (stream : StreamKey)
  | registerWrite (port off : Nat) (val : DWord)
  | mctlEnSet (port : Nat)
  | mctlEnClear (port : Nat)
  | mctlLeave (port : Nat)
  | mlimitWrite (port : Nat) (val : DWord)
  | heartbeat (m : MFlit)
  | announce (m : MFlit)
  | drop (m : MFlit)
  | join (m : MFlit)
  | leave (m : MFlit)
  | silent (m : MFlit)
  | heartbeatTimer
  | meridianEffective
  | silenceTimeout (n : Nat)
  | groupSilence
  | epochTimeout
  | joinListenEnd
  | foundGroup
  | flitReceive (port : Nat) (f : Flit)
  | replayRequest (port : Nat) (ctr : Nat)
  | planeRehash (port : Nat)
  | reattest (port : Nat) (rsaOk slhOk : Bool)
  | portReopen (port : Nat)
  | rekey (port : Nat) (rx : Bool)
  | rekeyDeadline (port : Nat) (rx : Bool)
  | securityAlarm (a : Sensor)
  | powerOn (b : BootIn)
  | recoveryLoad (b : BootIn)
  | telemetryUpdate (t : Telemetry)
  | powerLimitRevision (mhz : Nat)
  | refreshSlot (pc : Nat)
  | refreshDone (pc : Nat)
  | stackTemperature (stack : Nat) (deciC : Int)
  | hbmAccess (pc : Nat) (a : HbmAcc)
  | trackerClear
  | remapPersist (stack : Nat)
  | remapReloadDone (pc : Nat)
  | scrubRead (pc : Nat) (a : HbmAcc)
  | sramError (e : SramErr)
  | hkpwWrite (port : Nat) (val : DWord)
  | pwChangeDone
  | nonInstruction (opc : BitVec 8)
  | tdispRequest (port sess ten : Nat) (rq : TdispReq)
  | portLinkChange (port : Nat) (up : Bool)
  | powerLoss
  | meridianInvalidType (m : MFlit)
  deriving DecidableEq, Repr

end Sys2Proof
end

