-- ==== Sys2Proof/Machine/Legal.lean ====
section
/-! DEFINITION. Selector codes and the encoding checks of R69: which field values make a word no instruction, and
the opcode or selector value its ILLEGAL trap names. -/

namespace Sys2Proof

/-- The offending opcode or selector of a word that is no instruction, if there is one (R69). -/
abbrev Bad := Option (BitVec 8)

/-- `v` offends when `b` holds. -/
def badIf (b : Bool) (v : BitVec 8) : Bad := if b then some v else none

/-- The first offence of a list, in field order. -/
def firstBad : List Bad → Bad
  | [] => none
  | some v :: _ => some v
  | none :: t => firstBad t

/-- The full 8-bit source selector (R48). -/
def srcCode : Src → Nat
  | .v n => n.val
  | .s n => 128 + n.val
  | .o n => 192 + n.val
  | .la => 200
  | .lb => 201
  | .ls => 202
  | .lane => 203
  | .width => 204
  | .lit => 223
  | .const k => 224 + k.val

/-- The compact 7-bit source selector (R46); 128 where there is none. -/
def srcCode7 : Src → Nat
  | .v n => if n.val < 64 then n.val else 128
  | .s n => if n.val < 32 then 64 + n.val else 128
  | .o n => 96 + n.val
  | .la => 104
  | .lb => 105
  | .ls => 106
  | .lane => 107
  | .width => 128
  | .const k => if k.val < 19 then 108 + k.val else 128
  | .lit => 127

/-- The full 8-bit destination selector (R49). -/
def dstCode : Dst → Nat
  | .v n => n.val
  | .s n => 128 + n.val
  | .null => 255

/-- The compact 7-bit destination selector (R47); 128 where there is none. -/
def dstCode7 : Dst → Nat
  | .v n => if n.val < 64 then n.val else 128
  | .s n => if n.val < 32 then 64 + n.val else 128
  | .null => 127

/-- A source selector as the value a trap names. -/
def srcBv (x : Src) : BitVec 8 := BitVec.ofNat 8 (srcCode x)
/-- A destination selector as the value a trap names. -/
def dstBv (x : Dst) : BitVec 8 := BitVec.ofNat 8 (dstCode x)

/-- A compact source selector as the value a trap names (R46, R69; notes/assumptions/14.md). -/
def srcBv7 (x : Src) : BitVec 8 := BitVec.ofNat 8 (srcCode7 x)
/-- A compact destination selector as the value a trap names (R47, R69). -/
def dstBv7 (x : Dst) : BitVec 8 := BitVec.ofNat 8 (dstCode7 x)
/-- An offence named by another value. -/
def Bad.named (b : Bad) (v : BitVec 8) : Bad := b.map fun _ => v

/-- How an operand is read: its width, and the format an inline constant is converted to (R50, R118, R139). -/
inductive Rd where
  | i32 | i64 | i16x2 | f32 | f64 | f16x2 | bf16x2 | f16 | bf16
  deriving DecidableEq, Repr

/-- A 64-bit read. -/
def Rd.wide : Rd → Bool
  | .i64 => true
  | .f64 => true
  | _ => false

/-- An integer read: inline entries 24 to 31 are not integers (R50). -/
def Rd.int : Rd → Bool
  | .i32 => true
  | .i64 => true
  | .i16x2 => true
  | _ => false

/-- A wave-uniform source (R27). -/
def Src.uniform : Src → Bool
  | .s _ => true
  | .ls => true
  | .const _ => true
  | .lit => true
  | .width => true
  | _ => false

/-- A wave-uniform operand of R243: an s register, ls, the literal, or an inline entry 0 to 23. -/
def Src.uni243 : Src → Bool
  | .s _ => true
  | .ls => true
  | .lit => true
  | .const k => k.val < 24
  | _ => false

/-- A file register: what a fill or a kill may name (R30, R32). -/
def Src.isReg : Src → Bool
  | .v _ => true
  | .s _ => true
  | _ => false

/-- A source a permutation may name (R63). -/
def Src.permutable : Src → Bool
  | .v _ => true
  | .la => true
  | .lb => true
  | .o _ => true
  | _ => false

/-- The literal. -/
def Src.isLit : Src → Bool
  | .lit => true
  | _ => false

/-- The second register of a 64-bit operand must be even (R17). -/
def oddPair (r : Rd) : Src → Bool
  | .v n => r.wide && n.val % 2 == 1
  | _ => false

/-- The literal as a 32-bit operand must have a zero upper half (R43). -/
def litBad (r : Rd) (lit : Option DWord) : Src → Bool
  | .lit => match lit with
    | none => true
    | some x => !r.wide && x.toNat / 2 ^ 32 != 0
  | _ => false

/-- An integer read of an inline entry 24 to 31 (R50). -/
def constBad (r : Rd) : Src → Bool
  | .const k => r.int && decide (24 ≤ k.val)
  | _ => false

/-- The checks of a source that is read as `r`. -/
def srcBad (r : Rd) (lit : Option DWord) (x : Src) : Bad :=
  badIf (oddPair r x || litBad r lit x || constBad r x) (srcBv x)

/-- A permutation amount out of range (R62). -/
def permBad (k : PermKind) (amt : Fin 64) : Bool :=
  match k with
  | .none => amt != 0
  | .mirror => decide (6 < amt.val)
  | .bcastg => decide (6 < amt.val)
  | _ => false

/-- The checks of an extended source that is read as `r` (R30, R32, R62, R63). -/
def srcXBad (r : Rd) (lit : Option DWord) (x : SrcX) : Bad :=
  firstBad [srcBad r lit x.sel,
    badIf ((x.fill.isSome || x.kill) && !x.sel.isReg) (srcBv x.sel),
    badIf (x.perm != .none && !x.sel.permutable) (srcBv x.sel),
    badIf (permBad x.perm x.amt) (srcBv x.sel)]

/-- Two fill fields of one instruction name the same slot (R30). -/
def sameFill (x y : SrcX) : Bool :=
  match x.fill, y.fill with
  | some i, some j => i == j
  | _, _ => false

/-- The shape of an operation: how its sources are read, the width of its result, and its class. -/
structure Shape where
  a : Option Rd
  b : Option Rd
  c : Option Rd
  wide : Bool
  classL : Bool
  deriving DecidableEq, Repr

/-- The checks of one optional source field: unused fields are zero (R45). -/
def fieldBad (r : Option Rd) (lit : Option DWord) (x : SrcX) : Bad :=
  match r with
  | none => badIf (decide (x ≠ SrcX.unused)) (srcBv x.sel)
  | some r => srcXBad r lit x

/-- A source field that is read is wave-uniform. -/
def fieldUniform (r : Option Rd) (x : SrcX) : Bool := r.isNone || x.sel.uniform

/-- A source field that is read names the literal. -/
def fieldLit (r : Option Rd) (x : SrcX) : Bool := r.isSome && x.sel.isLit

/-- Destination checks: a 64-bit vector result needs an even register (R17), an s destination wave-uniform sources
(R27, R139). -/
def dstBad (d : Dst) (wide uniform : Bool) : Bad :=
  match d with
  | .v n => badIf (wide && n.val % 2 == 1) (dstBv d)
  | .s _ => badIf (!uniform) (dstBv d)
  | .null => none

/-- The checks of XV for an operation of shape `sh`. -/
def xvBad (opc : BitVec 8) (sh : Shape) (f : Xv) : Bad :=
  firstBad [
    fieldBad sh.a f.lit f.a, fieldBad sh.b f.lit f.b, fieldBad sh.c f.lit f.c,
    badIf (sameFill f.a f.b || sameFill f.a f.c || sameFill f.b f.c) opc,
    badIf (f.lit.isSome && !(fieldLit sh.a f.a || fieldLit sh.b f.b || fieldLit sh.c f.c)) opc,
    badIf (sh.classL && f.slot.isSome) opc,
    badIf (f.c.perm != .none || f.c.amt != 0) (srcBv f.c.sel),
    dstBad f.d sh.wide (fieldUniform sh.a f.a && fieldUniform sh.b f.b && fieldUniform sh.c f.c)]

/-- A source of BV or PAIR must have a compact selector (R46). -/
def compactBad (x : Src) : Bad := badIf (srcCode7 x == 128) (srcBv7 x)
/-- A destination of BV or PAIR must have a compact selector (R47). -/
def compactDstBad (d : Dst) : Bad := badIf (dstCode7 d == 128) (dstBv7 d)

/-- The third source of BV and PAIR is the destination, which must be a register (R53). -/
def dstSrc : Dst → Option Src
  | .v n => some (.v n)
  | .s n => some (.s n)
  | .null => none

/-- The checks of BV with two source fields (R52, R53). -/
def bvBad (opc : BitVec 8) (sh : Shape) (f : Bv) : Bad :=
  firstBad [compactDstBad f.d, compactBad f.a, compactBad f.b,
    match sh.a with | some r => (srcBad r f.lit f.a).named (srcBv7 f.a) | none => none,
    match sh.b with | some r => (srcBad r f.lit f.b).named (srcBv7 f.b) | none => none,
    badIf (f.a.isLit) (srcBv7 f.a), badIf (f.lit.isSome != f.b.isLit) opc,
    badIf (sh.c.isSome && (dstSrc f.d).isNone) (dstBv7 f.d),
    (dstBad f.d sh.wide (f.a.uniform && f.b.uniform)).named (dstBv7 f.d)]

/-- The checks of BV with one source field. -/
def bv1Bad (sh : Shape) (f : Bv1) : Bad :=
  firstBad [compactDstBad f.d, compactBad f.a, badIf (f.a.isLit) (srcBv7 f.a),
    match sh.a with | some r => (srcBad r none f.a).named (srcBv7 f.a) | none => none,
    (dstBad f.d sh.wide f.a.uniform).named (dstBv7 f.d)]

/-! ### Integer operations (R81, R120) -/

/-- The integer TYPE codes (R81). -/
inductive ITy where
  | s32 | n32 | s64 | n64 | b32 | b64
  deriving DecidableEq, Repr

/-- A 64-bit type. -/
def ITy.wide : ITy → Bool
  | .s64 => true
  | .n64 => true
  | .b64 => true
  | _ => false

/-- A signed type (R118). -/
def ITy.signed : ITy → Bool
  | .s32 => true
  | .s64 => true
  | _ => false

/-- The width in bits of a type. -/
def ITy.bits (t : ITy) : Nat := if t.wide then 64 else 32

/-- TYPE of FUNC6[2:0] (R81). -/
def ityOf (f6 : Fin 64) : Option ITy :=
  match f6.val % 8 with
  | 0 => some .s32
  | 1 => some .n32
  | 2 => some .s64
  | 3 => some .n64
  | 4 => some .b32
  | 5 => some .b64
  | _ => none

/-- SAT, FUNC6[5] (R81). -/
def satOf (f6 : Fin 64) : Bool := decide (32 ≤ f6.val)

/-- FUNC6[4:3]. -/
def f6mid (f6 : Fin 64) : Nat := f6.val / 8 % 4

/-- The opcode byte of an integer operation (R80). -/
def IOp.opc : IOp → Nat
  | .iadd => 0x01 | .isub => 0x02 | .iaddc => 0x03 | .imul => 0x04 | .imulh => 0x05 | .imad => 0x06
  | .imin => 0x07 | .imax => 0x08 | .iabs => 0x09 | .idot4 => 0x0A | .and => 0x0B | .or => 0x0C
  | .xor => 0x0D | .andn => 0x0E | .shl => 0x10 | .shr => 0x11 | .sar => 0x12 | .rotl => 0x13
  | .fshr => 0x14 | .bfe => 0x15 | .bfi => 0x16 | .popc => 0x17 | .clz => 0x18 | .ctz => 0x19
  | .brev => 0x1A | .prmt => 0x1B | .sel => 0x1D | .mov => 0x1E | .lea => 0x1F | .iadd3 => 0x20
  | .isad => 0x21 | .iadd2 => 0x22

/-- SAT is allowed (R81, R120). -/
def IOp.satOk : IOp → Bool
  | .iadd => true | .isub => true | .imad => true | .iabs => true | .iadd3 => true | .iadd2 => true
  | _ => false

/-- The types an operation lists (R120). -/
def IOp.tyOk (op : IOp) (t : ITy) : Bool :=
  match op with
  | .iaddc => t == .s32 || t == .n32 || t == .b32
  | .prmt => t == .s32 || t == .n32 || t == .b32
  | .iadd2 => t == .s32 || t == .n32 || t == .b32
  | .idot4 => t == .s32 || t == .n32
  | _ => true

/-- How an integer operation reads its sources and how wide its result is (R118, R120, R123). -/
def IOp.shape (op : IOp) (t : ITy) : Shape :=
  let k : Rd := if t.wide then .i64 else .i32
  match op with
  | .iaddc => ⟨some .i32, some .i32, some .i32, true, false⟩
  | .imad => ⟨some k, some k, some k, t.wide, false⟩
  | .iabs => ⟨some k, none, none, t.wide, false⟩
  | .popc => ⟨some k, none, none, t.wide, false⟩
  | .clz => ⟨some k, none, none, t.wide, false⟩
  | .ctz => ⟨some k, none, none, t.wide, false⟩
  | .brev => ⟨some k, none, none, t.wide, false⟩
  | .mov => ⟨some k, none, none, t.wide, false⟩
  | .idot4 => ⟨some k, some k, some k, t.wide, false⟩
  | .shl => ⟨some k, some .i32, none, t.wide, false⟩
  | .shr => ⟨some k, some .i32, none, t.wide, false⟩
  | .sar => ⟨some k, some .i32, none, t.wide, false⟩
  | .rotl => ⟨some k, some .i32, none, t.wide, false⟩
  | .fshr => ⟨some k, some .i32, some k, t.wide, false⟩
  | .bfe => ⟨some k, some .i32, none, t.wide, false⟩
  | .bfi => ⟨some k, some .i32, some k, t.wide, false⟩
  | .prmt => ⟨some k, some k, some k, t.wide, false⟩
  | .sel => ⟨some k, some k, some k, t.wide, false⟩
  | .lea => ⟨some k, some .i32, some .i32, t.wide, false⟩
  | .iadd3 => ⟨some k, some k, some k, t.wide, false⟩
  | .isad => ⟨some k, some k, some k, t.wide, false⟩
  | _ => ⟨some k, some k, none, t.wide, false⟩

/-- The checks of an integer operation in XV (R81, R120, R138). -/
def intXvBad (op : IOp) (f : Xv) : Bad :=
  let opc := BitVec.ofNat 8 op.opc
  match ityOf f.func6 with
  | none => some opc
  | some t =>
    firstBad [badIf (f.mod3 != 0 || f6mid f.func6 != 0 || !op.tyOk t || (satOf f.func6 && !op.satOk)) opc,
      xvBad opc (op.shape t) f]

/-- LOP3's shape (R82, R125). -/
def lop3Shape (wide : Bool) : Shape :=
  let k : Rd := if wide then .i64 else .i32
  ⟨some k, some k, some k, wide, false⟩

/-- The source and destination types of ICVT (R83). -/
inductive CvtTy where
  | s8 | s16 | s32 | s64 | n8 | n16 | n32 | n64
  deriving DecidableEq, Repr

/-- Bits of an ICVT type. -/
def CvtTy.bits : CvtTy → Nat
  | .s8 => 8 | .s16 => 16 | .s32 => 32 | .s64 => 64 | .n8 => 8 | .n16 => 16 | .n32 => 32 | .n64 => 64

/-- A signed ICVT type. -/
def CvtTy.signed : CvtTy → Bool
  | .s8 => true | .s16 => true | .s32 => true | .s64 => true
  | _ => false

/-- The ICVT type of a 3-bit code (R83). -/
def cvtTyOf (n : Nat) : CvtTy :=
  match n % 8 with
  | 0 => .s8 | 1 => .s16 | 2 => .s32 | 3 => .s64 | 4 => .n8 | 5 => .n16 | 6 => .n32 | _ => .n64

/-- ICVT's shape (R135). -/
def icvtShape (dt st : CvtTy) : Shape :=
  ⟨some (if st.bits = 64 then .i64 else .i32), none, none, dt.bits == 64, false⟩

/-- PMOV's checks (R130, R134). -/
def pmovBad (f : PmovXv) : Bad :=
  match f.dir with
  | .toPred _ a =>
    let r : Rd := if a.sel.uniform then .i64 else .i32
    firstBad [srcXBad r f.lit a, badIf (f.lit.isSome != a.sel.isLit) 0x24]
  | .toReg d _ =>
    firstBad [badIf f.lit.isSome 0x24, match d with | .s _ => some (dstBv d) | _ => none]

/-- ICMP's checks (R132, R84). -/
def icmpBad (f : CmpXv) : Bad :=
  match ityOf f.func6 with
  | none => some 0x1C
  | some t =>
    let r : Rd := if t.wide then .i64 else .i32
    firstBad [badIf (decide (8 ≤ f.func6.val) || decide (6 ≤ f.cond.val)) 0x1C,
      srcXBad r f.lit f.a, srcXBad r f.lit f.b, badIf (sameFill f.a f.b) 0x1C,
      badIf (f.lit.isSome != (f.a.sel.isLit || f.b.sel.isLit)) 0x1C]

/-! ### Floating-point operations (R85, R86) -/

/-- TYPE of FUNC6[2:0] (R85). -/
def ftyOf (f6 : Fin 64) : Option FType :=
  match f6.val % 8 with
  | 0 => some .f32
  | 1 => some .f16x2
  | 2 => some .bf16x2
  | 3 => some .f64
  | _ => none

/-- NEGA and NEGL (R85). -/
def negaOf (f6 : Fin 64) : Bool := f6.val / 8 % 2 == 1
def neglOf (f6 : Fin 64) : Bool := f6.val / 16 % 2 == 1

/-- The operand read of a floating-point type (R139). -/
def FType.rd : FType → Rd
  | .f32 => .f32 | .f16x2 => .f16x2 | .bf16x2 => .bf16x2 | .f64 => .f64

/-- The opcode byte of an arithmetic floating-point operation. -/
def FOp.opc : FOp → Nat
  | .fadd => 0x30 | .fsub => 0x31 | .fmul => 0x32 | .ffma => 0x33 | .fmin => 0x34 | .fmax => 0x35
  | .frnd => 0x37 | .fclass => 0x38 | .fdot2 => 0x47 | .fscale => 0x48

/-- How a floating-point operation reads its sources (R139, R143, R147). -/
def FOp.shape (op : FOp) (t : FType) : Shape :=
  let w := t == .f64
  match op with
  | .ffma => ⟨some t.rd, some t.rd, some t.rd, w, false⟩
  | .frnd => ⟨some t.rd, none, none, w, false⟩
  | .fclass => ⟨some t.rd, none, none, false, false⟩
  | .fdot2 => ⟨some t.rd, some t.rd, some .f32, false, false⟩
  | .fscale => ⟨some t.rd, some (match t with | .f16x2 => .i16x2 | .bf16x2 => .i16x2 | _ => .i32), none, w, false⟩
  | _ => ⟨some t.rd, some t.rd, none, w, false⟩

/-- SAT, MOD3 and negation a floating-point operation does not take (R85, R143, R147, R157). -/
def FOp.modBad (op : FOp) (t : FType) (f6 : Fin 64) (mod3 : Fin 8) : Bool :=
  match op with
  | .fmin => satOf f6 || mod3 != 0
  | .fmax => satOf f6 || mod3 != 0
  | .fclass => satOf f6 || mod3 != 0 || neglOf f6
  | .frnd => satOf f6 || decide (4 < mod3.val) || neglOf f6
  | .fdot2 => satOf f6 || decide (4 < mod3.val) || t == .f32 || t == .f64
  | .fscale => decide (4 < mod3.val) || neglOf f6
  | _ => decide (4 < mod3.val)

/-- The checks of an arithmetic floating-point operation in XV. -/
def fpXvBad (op : FOp) (f : Xv) : Bad :=
  let opc := BitVec.ofNat 8 op.opc
  match ftyOf f.func6 with
  | none => some opc
  | some t => firstBad [badIf (op.modBad t f.func6 f.mod3) opc, xvBad opc (op.shape t) f]

/-- The opcode byte of a class L function. -/
def SOp.opc : SOp → Nat
  | .frcp => 0x39 | .frsq => 0x3A | .fsqrt => 0x3B | .fexp2 => 0x3C | .flog2 => 0x3D | .fsin => 0x3E
  | .fcos => 0x3F | .ftanh => 0x40 | .fdiv => 0x41

/-- How a class L function reads its sources. -/
def SOp.shape (op : SOp) (t : FType) : Shape :=
  match op with
  | .fdiv => ⟨some t.rd, some t.rd, none, t == .f64, true⟩
  | _ => ⟨some t.rd, none, none, t == .f64, true⟩

/-- The checks of a class L function in XV (R85, R148, R157). -/
def sfXvBad (op : SOp) (f : Xv) : Bad :=
  let opc := BitVec.ofNat 8 op.opc
  match ftyOf f.func6 with
  | none => some opc
  | some t =>
    firstBad [badIf (decide (4 < f.mod3.val) || (neglOf f.func6 && op != .fdiv)) opc, xvBad opc (op.shape t) f]

/-- FCMP's checks (R145). -/
def fcmpBad (f : CmpXv) : Bad :=
  match ftyOf f.func6 with
  | none => some 0x36
  | some t =>
    firstBad [badIf (satOf f.func6 || t == .f16x2 || t == .bf16x2) 0x36,
      srcXBad t.rd f.lit f.a, srcXBad t.rd f.lit f.b, badIf (sameFill f.a f.b) 0x36,
      badIf (f.lit.isSome != (f.a.sel.isLit || f.b.sel.isLit)) 0x36]

/-- The formats of the conversions (R86). -/
inductive FFmt where
  | f32 | f16 | bf16 | f64
  deriving DecidableEq, Repr

/-- A conversion format of a 2-bit code; FUNC6[2:0] codes above 3 are none (R86). -/
def ffmtOf (n : Nat) : Option FFmt :=
  match n with
  | 0 => some .f32
  | 1 => some .f16
  | 2 => some .bf16
  | 3 => some .f64
  | _ => none

/-- The operand read of a conversion format. -/
def FFmt.rd : FFmt → Rd
  | .f32 => .f32 | .f16 => .f16 | .bf16 => .bf16 | .f64 => .f64

/-- The integer types of FTOI and ITOF (R86). -/
def itoTy (n : Nat) : ITy :=
  match n % 4 with
  | 0 => .s32 | 1 => .n32 | 2 => .s64 | _ => .n64

/-- FCVT's checks (R86, R149). -/
def fcvtBad (f : Xv) : Bad :=
  match ffmtOf (f.func6.val % 8), ffmtOf (f6mid f.func6) with
  | some dt, some st =>
    firstBad [badIf (satOf f.func6 || decide (4 < f.mod3.val) || dt == st) 0x42,
      xvBad 0x42 ⟨some st.rd, none, none, dt == .f64, false⟩ f]
  | _, _ => some 0x42

/-- FTOI's checks (R86, R150). -/
def ftoiBad (f : Xv) : Bad :=
  match ffmtOf (f.func6.val % 8) with
  | some st =>
    firstBad [badIf (satOf f.func6 || decide (4 < f.mod3.val)) 0x43,
      xvBad 0x43 ⟨some st.rd, none, none, (itoTy (f6mid f.func6)).wide, false⟩ f]
  | none => some 0x43

/-- ITOF's checks (R86, R151). -/
def itofBad (f : Xv) : Bad :=
  match ffmtOf (f.func6.val % 8) with
  | some dt =>
    firstBad [badIf (satOf f.func6 || decide (4 < f.mod3.val)) 0x44,
      xvBad 0x44 ⟨some (if (itoTy (f6mid f.func6)).wide then .i64 else .i32), none, none, dt == .f64, false⟩ f]
  | none => some 0x44

/-- NPACK's checks (R86, R153). Its b and c are integer reads (R50; DEDUCED, notes/assumptions/16.md). -/
def npackBad (f : Xv) : Bad :=
  match ffmtOf (f.func6.val % 8) with
  | some st =>
    firstBad [badIf (f.mod3 != 0 || (satOf f.func6 && f6mid f.func6 != 1)) 0x45,
      xvBad 0x45 ⟨some st.rd, some .i32, some .i32, false, false⟩ f]
  | none => some 0x45

/-- NUNPK's checks (R86, R154). Its a and b are integer reads (R50; DEDUCED, notes/assumptions/16.md). -/
def nunpkBad (f : Xv) : Bad :=
  match ffmtOf (f.func6.val % 8) with
  | some dt =>
    firstBad [badIf (satOf f.func6 || f.mod3 != 0) 0x46,
      xvBad 0x46 ⟨some .i32, some .i32, none, dt == .f64, false⟩ f]
  | none => some 0x46

/-! ### Cross-lane (R87, R174, R177) -/

/-- Cross-lane operations with register operands. -/
inductive XOp where
  | xshf | xrot | xbfly | xbcast | xred | xscan | match
  deriving DecidableEq, Repr

/-- The opcode byte of a cross-lane operation. -/
def XOp.opc : XOp → Nat
  | .xshf => 0x60 | .xrot => 0x61 | .xbfly => 0x62 | .xbcast => 0x63 | .xred => 0x64 | .xscan => 0x65
  | .match => 0x68

/-- The member-mask field: absent (0), or a wave-uniform 64-bit operand (R174). -/
def maskBad (lit : Option DWord) (c : SrcX) : Bad :=
  if c = SrcX.unused then none
  else firstBad [badIf (!c.sel.uni243) (srcBv c.sel), badIf (c.perm != .none || c.amt != 0) (srcBv c.sel),
    badIf ((c.fill.isSome || c.kill) && !c.sel.isReg) (srcBv c.sel), badIf (c.sel.isLit && lit.isNone) (srcBv c.sel)]

/-- The declared sub-group width: a code 5 to 7 is reserved (R87). -/
def wsBad (mod3 : Fin 8) : Bool := decide (4 < mod3.val)

/-- How a cross-lane operation reads A and B and how wide its result is (R177). -/
def XOp.shape (op : XOp) (t : ITy) : Shape :=
  let k : Rd := if t.wide then .i64 else .i32
  match op with
  | .xred => ⟨some k, none, none, t.wide, true⟩
  | .xscan => ⟨some k, none, none, t.wide, true⟩
  | .match => ⟨some k, none, none, true, true⟩
  | _ => ⟨some k, some k, none, t.wide, true⟩

/-- The shape in XV: operation 6 of XRED and XSCAN is a floating-point operation, whose A is an F32 read (R50, R87; DEDUCED,
notes/assumptions/16.md). -/
def XOp.xvShape (op : XOp) (t : ITy) (f : Xv) : Shape :=
  if (op == .xred || op == .xscan) && f.func6.val / 8 == 6 then { op.shape t with a := some .f32 } else op.shape t

/-- An s destination, which only BALLOT takes (R177). -/
def sDstBad : Dst → Bad
  | .s n => some (dstBv (.s n))
  | _ => none

/-- The checks of XSHF, XROT, XBFLY, XBCAST, XRED, XSCAN and MATCH in XV (R87, R174 to R178, R183). -/
def xlXvBad (op : XOp) (f : Xv) : Bad :=
  let opc := BitVec.ofNat 8 op.opc
  match ityOf f.func6 with
  | none => some opc
  | some t =>
    let kind := f.func6.val / 8
    let red := op == .xred || op == .xscan
    let sh := op.xvShape t f
    firstBad [badIf (wsBad f.mod3 || (if red then decide (7 ≤ kind) || (kind == 6 && t != .s32) else kind != 0)) opc,
      fieldBad sh.a f.lit f.a, fieldBad sh.b f.lit f.b, maskBad f.lit f.c,
      badIf (op == .xbcast && !f.b.sel.uniform) (srcBv f.b.sel),
      badIf (sameFill f.a f.b || sameFill f.a f.c || sameFill f.b f.c) opc,
      badIf (f.lit.isSome && !(fieldLit sh.a f.a || fieldLit sh.b f.b || f.c.sel.isLit)) opc,
      badIf f.slot.isSome opc, sDstBad f.d, dstBad f.d sh.wide true]

/-- The checks of BV XSHF, XROT, XBFLY and XBCAST. -/
def xlBvBad (op : XOp) (f : Bv) : Bad :=
  firstBad [bvBad (BitVec.ofNat 8 op.opc) (op.shape .s32) {f with d := .null}, compactDstBad f.d, (sDstBad f.d).named (dstBv7 f.d),
    badIf (op == .xbcast && !f.b.uniform) (srcBv7 f.b)]

/-- The checks of BV XRED, XSCAN and MATCH. -/
def xlBv1Bad (op : XOp) (f : Bv1) : Bad :=
  firstBad [bv1Bad (op.shape .s32) {f with d := .null}, compactDstBad f.d, (sDstBad f.d).named (dstBv7 f.d),
    (dstBad f.d (op.shape .s32).wide true).named (dstBv7 f.d)]

/-- The checks of BALLOT, VOTE and ELECT in XV (R177). -/
def ballotXvBad (f : PredXv) : Bad :=
  firstBad [badIf (f.mod3 != 0 || f.func6 != 0 || f.pd != 0) 0x66, maskBad f.lit f.c,
    badIf (f.lit.isSome != f.c.sel.isLit) 0x66,
    match f.d with | .s _ => none | d => some (dstBv d)]
def voteXvBad (f : PredXv) : Bad :=
  firstBad [badIf (wsBad f.mod3 || decide (2 < f.func6.val) || f.d != .null) 0x67, maskBad f.lit f.c,
    badIf (f.lit.isSome != f.c.sel.isLit) 0x67]
def electXvBad (f : PredXv) : Bad :=
  firstBad [badIf (wsBad f.mod3 || f.func6 != 0 || f.d != .null || f.pa != 0) 0x69, maskBad f.lit f.c,
    badIf (f.lit.isSome != f.c.sel.isLit) 0x69]

/-! ### Memory forms (R55, R60, R225, R226, R241) -/

/-- The memory opcodes with an XM form. -/
inductive MOp where
  | ld | st | ldnf | atom | atomf | red | redf | cas | fence | pref | cinv | cdemote | pgreq | mcred | sld | sst
  deriving DecidableEq, Repr

/-- The opcode byte of a memory opcode. -/
def MOp.opc : MOp → Nat
  | .ld => 0x80 | .st => 0x81 | .ldnf => 0x82 | .atom => 0x83 | .atomf => 0x84 | .red => 0x85 | .redf => 0x86
  | .cas => 0x87 | .fence => 0x88 | .pref => 0x89 | .cinv => 0x8A | .cdemote => 0x8B | .pgreq => 0x8C
  | .mcred => 0x8D | .sld => 0x8E | .sst => 0x8F

/-- Registers of a v group of an access size (R225). -/
def Size.regs : Size → Nat
  | .b64 => 2
  | .b128 => 4
  | _ => 1

/-- The register kinds an opcode's data field takes (opening table of the chapter): v allowed, s allowed. -/
def MOp.kinds : MOp → Bool × Bool
  | .ld => (true, false) | .ldnf => (true, false) | .atom => (true, false) | .atomf => (true, false)
  | .cas => (true, false) | .sld => (false, true) | .sst => (false, true)
  | .st => (true, true) | .red => (true, true) | .redf => (true, true) | .mcred => (true, true)
  | _ => (false, false)

/-- The checks of a data group: its start is a multiple of its size (R225, R236). -/
def groupBad (op : MOp) (sz : Size) (d : Dst) : Bad :=
  let n := match op with | .cas => 2 * sz.regs | _ => sz.regs
  match d with
  | .v r => badIf (!op.kinds.1 || r.val % n != 0) (dstBv d)
  | .s r => badIf (!op.kinds.2 || (sz == .b128 && r.val % 2 == 1)) (dstBv d)
  | .null => some (dstBv d)

/-- The address register of BM: an even v register or an s register (R55). -/
def bmAddrBad : Src → Bad
  | .v n => badIf (n.val % 2 == 1 || decide (64 ≤ n.val)) (srcBv7 (.v n))
  | .s n => badIf (decide (32 ≤ n.val)) (srcBv7 (.s n))
  | x => some (srcBv7 x)

/-- The checks of BM. SLD and SST take an s register as address (R226). -/
def bmBad (op : MOp) (f : Bm) : Bad :=
  firstBad [compactDstBad f.d, (groupBad op f.sz f.d).named (dstBv7 f.d), bmAddrBad f.a,
    badIf ((op == .sld || op == .sst) && !f.a.uniform) (srcBv7 f.a)]

/-- The base of XM: an even v pair, an s register, the literal, or an inline entry 0 to 23 (R60). -/
def baseBad (lit : Option DWord) : Src → Bad
  | .v n => badIf (n.val % 2 == 1) (srcBv (.v n))
  | .s _ => none
  | .lit => badIf lit.isNone (srcBv .lit)
  | .const k => badIf (decide (24 ≤ k.val)) (srcBv (.const k))
  | x => some (srcBv x)

/-- The index of XM: any selector but a latch or a slot; its low 32 bits are used (R60). -/
def indexBad (lit : Option DWord) : Src → Bad
  | .o n => some (srcBv (.o n))
  | .la => some (srcBv .la)
  | .lb => some (srcBv .lb)
  | .ls => some (srcBv .ls)
  | .lit => badIf (match lit with | none => true | some x => x.toNat / 2 ^ 32 != 0) (srcBv .lit)
  | .const k => badIf (decide (24 ≤ k.val)) (srcBv (.const k))
  | _ => none

/-- SZ, SCOPE, ORD, CLS and ticket values an opcode takes (R194, R209, R226). -/
def MOp.xmFieldsOk (op : MOp) (f : Xm) : Bool :=
  let relAcq := match op with
    | .ld => f.ord == .relaxed || f.ord == .acquire
    | .ldnf => f.ord == .relaxed || f.ord == .acquire
    | .sld => f.ord == .relaxed || f.ord == .acquire
    | .atom => true | .atomf => true | .cas => true
    | .st => f.ord == .relaxed || f.ord == .release
    | .sst => f.ord == .relaxed || f.ord == .release
    | .red => f.ord == .relaxed || f.ord == .release
    | .redf => f.ord == .relaxed || f.ord == .release
    | .mcred => f.ord == .relaxed || f.ord == .release
    | _ => f.ord == .relaxed
  let cls := match op with
    | .ld => true | .ldnf => true | .sld => true | .pref => true
    | .mcred => f.cls == 0 | .fence => f.cls == 0 | .cinv => f.cls == 0 | .cdemote => f.cls == 0 | .pgreq => f.cls == 0
    | _ => f.cls != 3
  let tk := f.tk.isNone || op == .ld || op == .ldnf
  let scope := match op with
    | .mcred => f.scope == .fabric || f.scope == .system
    | .pref => f.scope == .group | .cinv => f.scope == .group | .cdemote => f.scope == .group | .pgreq => f.scope == .group
    | _ => true
  let sz := match op with
    | .fence => f.sz == .b8 | .pref => f.sz == .b8 | .cinv => f.sz == .b8 | .cdemote => f.sz == .b8 | .pgreq => f.sz == .b8
    | _ => true
  relAcq && cls && tk && scope && sz

/-- The operation and width of an atomic's FUNC6 (R88). -/
def atomOf (op : MOp) (f6 : Fin 64) : Option (AtomOp × Size) :=
  let k := f6.val / 8
  let t := f6.val % 8
  match op with
  | .cas => if k = 0 then (match t with | 4 => some (.cas, .b32) | 5 => some (.cas, .b64) | _ => none) else none
  | .atomf | .redf =>
    match k, t with
    | 0, 0 => some (.fadd .f32, .b32)
    | 0, 1 => some (.fadd .f16x2, .b32)
    | 0, 2 => some (.fadd .bf16x2, .b32)
    | 0, 3 => some (.fadd .f64, .b64)
    | 1, 0 => some (.fmin, .b32)
    | 2, 0 => some (.fmax, .b32)
    | _, _ => none
  | .mcred =>
    if t = 6 then (if k = 0 then some (.fadd .f32, .b32) else none)
    else if t = 0 || t = 1 || t = 4 then
      match k with
      | 0 => some (.add, .b32)
      | 1 => some (.and, .b32)
      | 2 => some (.or, .b32)
      | 3 => some (.xor, .b32)
      | _ => none
    else none
  | .atom | .red =>
    match ityOf f6 with
    | none => none
    | some ty =>
      let sz : Size := if ty.wide then .b64 else .b32
      let raw := ty == .b32 || ty == .b64
      match k with
      | 0 => if raw then none else some (.add, sz)
      | 1 => some (.and, sz)
      | 2 => some (.or, sz)
      | 3 => some (.xor, sz)
      | 4 => if raw then none else some (if ty.signed then .smin else .umin, sz)
      | 5 => if raw then none else some (if ty.signed then .smax else .umax, sz)
      | 6 => if op = .atom then some (.exch, sz) else none
      | _ => none
  | _ => none

/-- The checks of XM (R88, R226, R241). -/
def xmBad (op : MOp) (f : Xm) : Bad :=
  let opc := BitVec.ofNat 8 op.opc
  let noAddr := f.a == .v 0 && !f.ak && f.x == .v 0 && f.xsh == 0 && f.ofs == 0
  let f6ok := match op with
    | .ld => f.func6 == 0 || (f.func6 == 1 && (f.sz == .b8 || f.sz == .b16))
    | .ldnf => f.func6 == 0 || (f.func6 == 1 && (f.sz == .b8 || f.sz == .b16))
    | .sld => f.func6 == 0 || (f.func6 == 1 && (f.sz == .b8 || f.sz == .b16))
    | .atom | .atomf | .red | .redf | .cas | .mcred =>
      match atomOf op f.func6 with
      | some (_, sz) => sz == f.sz
      | none => false
    | _ => f.func6 == 0
  let addr := firstBad [baseBad f.lit f.a, indexBad f.lit f.x, badIf (f.ak && !f.a.isReg) (srcBv f.a),
    badIf (f.lit.isSome && !(f.a.isLit || f.x.isLit)) opc]
  firstBad [badIf (!op.xmFieldsOk f || !f6ok) opc,
    match op with
    | .fence => firstBad [badIf (!noAddr || f.lit.isSome) opc, match f.d with | .v _ => some (dstBv f.d) | _ => none]
    | .pref | .cinv | .cdemote | .pgreq => firstBad [addr, badIf (f.d != .v 0) (dstBv f.d)]
    | .sld | .sst => firstBad [addr, badIf (!f.a.uniform) (srcBv f.a), badIf (!f.x.uniform) (srcBv f.x),
        badIf (f.x == .width) (srcBv f.x), groupBad op f.sz f.d]
    | _ => firstBad [addr, groupBad op f.sz f.d]]

/-! ### XT forms (R61) -/

/-- What an XT source field holds. -/
inductive SUse where
  | none    -- unused: zero
  | uni     -- wave-uniform 64-bit operand (R243)
  | target  -- an even v register or an s register (R163)
  | cpyAddr -- an address of CPY (R243)
  | cpyLen  -- CPY's valid bytes (R243)
  deriving DecidableEq, Repr

/-- What an XT destination field holds. -/
inductive DUse where
  | zero | null | s | sNull | v | vs | target
  deriving DecidableEq, Repr

/-- The fields of an XT opcode: which are used, which bits of E8 and IMM32 are fields, whether P is per lane. -/
structure XtSpec where
  opc : Nat
  d : DUse
  a : SUse
  b : SUse
  c : SUse
  x : SUse
  e8 : Nat
  imm : Nat
  lane : Bool

/-- The checks of an XT source field. -/
def suseBad (lit : Option DWord) (u : SUse) (x : Src) : Bad :=
  firstBad [badIf (match u, x with
      | .none, y => y != .v 0
      | .uni, y => !y.uni243
      | .target, .v n => n.val % 2 == 1
      | .target, .s _ => false
      | .target, _ => true
      | .cpyAddr, .v n => n.val % 2 == 1
      | .cpyAddr, .s _ => false
      | .cpyAddr, .lit => false
      | .cpyAddr, _ => true
      | .cpyLen, .v _ => false
      | .cpyLen, .s _ => false
      | .cpyLen, .lit => match lit with | some l => l.toNat / 2 ^ 32 != 0 | _ => false
      | .cpyLen, .const k => decide (24 ≤ k.val)
      | .cpyLen, _ => true) (srcBv x),
    badIf (x.isLit && lit.isNone) (srcBv x)]

/-- The checks of an XT destination field. -/
def duseBad (u : DUse) (d : Dst) : Bad :=
  badIf (match u, d with
    | .zero, d => d != .v 0
    | .null, d => d != .null
    | .s, .s _ => false
    | .s, _ => true
    | .sNull, .v _ => true
    | .sNull, _ => false
    | .v, .v _ => false
    | .v, _ => true
    | .vs, .null => true
    | .vs, _ => false
    | .target, .v n => n.val % 2 == 1
    | .target, .s _ => false
    | .target, .null => true) (dstBv d)

/-- The field checks of an XT opcode (R45, R61). -/
def xtBad (sp : XtSpec) (f : Xt) : Bad :=
  let opc := BitVec.ofNat 8 sp.opc
  firstBad [duseBad sp.d f.d, suseBad f.lit sp.a f.a, suseBad f.lit sp.b f.b, suseBad f.lit sp.c f.c, suseBad f.lit sp.x f.x,
    badIf (!sp.lane && (f.p != 0 || f.pn)) opc,
    badIf (f.e8.toNat &&& (255 - sp.e8) != 0) opc,
    badIf (f.imm.toNat &&& (2 ^ 32 - 1 - sp.imm) != 0) opc,
    badIf (f.lit.isSome && !(f.a.isLit || f.b.isLit || f.c.isLit || f.x.isLit)) opc]

/-- The XT opcodes. -/
inductive TOp where
  | nop | jmpi | call | ret | jmark | join | exit | waitc | lwait | sleep | yield | setprio | trap | brkpt
  | tcopy | tstore | tgather | cpy | cpywait | rdvinit | rdvarr | rdvexp | rdvwait | rdvtest | pwait
  | tmap | tunmap | tquery | aclaim | arel | azero | mma | mmag | await | ard | adrain | aload | oprdy
  | wpub | wtest | launch | lparm | movs | movsw | tret | tlbinv | perfrd | dbgmark | haltw | syscall
  deriving DecidableEq, Repr

/-- The XT field table (R167, R242, R279, R338, R351, R371, R453). -/
def TOp.xt : TOp → XtSpec
  | .nop => ⟨0x70, .zero, .none, .none, .none, .none, 0, 0, false⟩
  | .jmpi => ⟨0x73, .zero, .target, .none, .none, .none, 3, 0, true⟩
  | .call => ⟨0x74, .target, .none, .none, .none, .none, 0, 0xFFFFFFFF, true⟩
  | .ret => ⟨0x75, .zero, .target, .none, .none, .none, 0, 0, true⟩
  | .jmark => ⟨0x76, .zero, .none, .none, .none, .none, 3, 0xFFFFFFFF, true⟩
  | .join => ⟨0x77, .zero, .none, .none, .none, .none, 3, 0, true⟩
  | .exit => ⟨0x78, .zero, .none, .none, .none, .none, 0, 0, true⟩
  | .waitc => ⟨0x79, .zero, .none, .none, .none, .none, 0, 0xFFFF, false⟩
  | .lwait => ⟨0x7A, .zero, .none, .none, .none, .none, 3, 0xFFFFFFFF, true⟩
  | .sleep => ⟨0x7B, .zero, .none, .none, .none, .none, 0, 0xFFFFFFFF, false⟩
  | .yield => ⟨0x7C, .zero, .none, .none, .none, .none, 0, 0, false⟩
  | .setprio => ⟨0x7D, .zero, .none, .none, .none, .none, 3, 0, false⟩
  | .trap => ⟨0x7E, .zero, .none, .none, .none, .none, 0, 0xFFFF, true⟩
  | .brkpt => ⟨0x7F, .zero, .none, .none, .none, .none, 0, 0xFFFF, true⟩
  | .tcopy => ⟨0xA0, .sNull, .uni, .uni, .uni, .uni, 7, 0x3FFF, false⟩
  | .tstore => ⟨0xA1, .null, .uni, .uni, .uni, .uni, 3, 0x3FFF, false⟩
  | .tgather => ⟨0xA2, .null, .uni, .uni, .uni, .uni, 7, 0x7FFFFFFF, false⟩
  | .cpy => ⟨0xA3, .null, .cpyAddr, .cpyAddr, .cpyLen, .none, 15, 3, true⟩
  | .cpywait => ⟨0xA4, .null, .none, .none, .none, .none, 3, 0x3F, false⟩
  | .rdvinit => ⟨0xA5, .null, .uni, .uni, .none, .none, 0, 0, false⟩
  | .rdvarr => ⟨0xA6, .null, .uni, .none, .none, .none, 1, 0, true⟩
  | .rdvexp => ⟨0xA7, .null, .uni, .uni, .none, .none, 0, 0, false⟩
  | .rdvwait => ⟨0xA8, .sNull, .uni, .uni, .none, .none, 0, 0, false⟩
  | .rdvtest => ⟨0xA9, .sNull, .uni, .none, .none, .none, 0, 0, false⟩
  | .pwait => ⟨0xAA, .sNull, .uni, .uni, .uni, .none, 0, 0, false⟩
  | .tmap => ⟨0xB0, .s, .uni, .none, .none, .none, 0, 0xFFFFFF, false⟩
  | .tunmap => ⟨0xB1, .null, .uni, .none, .none, .none, 0, 0, false⟩
  | .tquery => ⟨0xB2, .s, .uni, .none, .none, .none, 0, 0, false⟩
  | .aclaim => ⟨0xB3, .null, .none, .none, .none, .none, 255, 0, false⟩
  | .arel => ⟨0xB4, .null, .none, .none, .none, .none, 255, 0, false⟩
  | .azero => ⟨0xB5, .null, .none, .none, .none, .none, 7, 0, false⟩
  | .mma => ⟨0xB6, .null, .uni, .uni, .none, .uni, 7, 7, false⟩
  | .mmag => ⟨0xB7, .null, .uni, .uni, .uni, .uni, 7, 0x3FF, false⟩
  | .await => ⟨0xB8, .sNull, .none, .none, .none, .none, 7, 0, false⟩
  | .ard => ⟨0xB9, .v, .none, .none, .none, .none, 7, 0x7FF, true⟩
  | .adrain => ⟨0xBA, .null, .uni, .none, .none, .uni, 7, 0x3FFF, false⟩
  | .aload => ⟨0xBB, .null, .uni, .none, .none, .uni, 7, 0x3FFF, false⟩
  | .oprdy => ⟨0xBC, .null, .none, .none, .none, .none, 0, 0, false⟩
  | .wpub => ⟨0xC0, .sNull, .uni, .uni, .none, .none, 0, 0, false⟩
  | .wtest => ⟨0xC1, .s, .uni, .none, .none, .none, 1, 0, false⟩
  | .launch => ⟨0xC2, .sNull, .uni, .uni, .none, .none, 0, 0, false⟩
  | .lparm => ⟨0xC3, .s, .uni, .none, .none, .none, 7, 0, false⟩
  | .movs => ⟨0xC8, .vs, .none, .none, .none, .none, 255, 0, true⟩
  | .movsw => ⟨0xC9, .null, .uni, .none, .none, .none, 255, 0, false⟩
  | .tret => ⟨0xCA, .null, .none, .none, .none, .none, 0, 0, false⟩
  | .tlbinv => ⟨0xCB, .null, .uni, .uni, .none, .none, 3, 0, false⟩
  | .perfrd => ⟨0xCC, .s, .none, .none, .none, .none, 255, 0, false⟩
  | .dbgmark => ⟨0xCD, .null, .uni, .none, .none, .none, 0, 0xFFFF, false⟩
  | .haltw => ⟨0xCE, .null, .none, .none, .none, .none, 1, 0xFFFF, false⟩
  | .syscall => ⟨0xCF, .null, .none, .none, .none, .none, 0, 0xFFFF, true⟩

/-- Bits [hi:lo] of a field word. -/
def bits (x hi lo : Nat) : Nat := x / 2 ^ lo % 2 ^ (hi + 1 - lo)

/-- A special register index with a register (R18, R370). -/
def sregIndexOk (n : Nat) : Bool := n ≤ 0x19 || (0x80 ≤ n && n ≤ 0x8D)

/-- The field values of an XT opcode that no operand decides (R13, R83, R167, R246, R264, R279, R288, R293, R351,
R370, R373, R380, R386). -/
def TOp.fieldsBad (t : TOp) (f : Xt) : Bad :=
  let opc := BitVec.ofNat 8 t.xt.opc
  let imm := f.imm.toNat
  let e := f.e8.toNat
  match t with
  | .call | .jmark => badIf (imm % 4 != 0) opc
  | .tcopy => badIf (decide (3584 ≤ bits imm 11 0) || (bits e 2 2 == 1 && decide (128 ≤ bits imm 11 0))) opc
  | .tstore => badIf (decide (3584 ≤ bits imm 11 0) || bits imm 13 12 == 3) opc
  | .tgather => badIf (decide (3584 ≤ bits imm 11 0)) opc
  | .tmap =>
    let fmt := bits imm 3 0
    badIf (decide (9 ≤ fmt) || (decide (4 ≤ fmt) && bits imm 9 4 != 0) ||
      decide ((if bits imm 11 11 = 1 then 3583 else 127) < bits imm 23 12)) opc
  | .aclaim | .arel => badIf (e == 0) opc
  | .mma => badIf (bits imm 2 0 == 7) opc
  | .mmag => badIf (bits imm 2 0 == 7) opc
  | .ard => badIf (decide (128 < bits imm 6 0 + ((bits imm 10 7 + 1) * 64 + 127) / 128)) opc
  | .adrain | .aload => badIf (decide (128 < bits imm 6 0 + bits imm 13 7 + 1)) opc
  | .movs => badIf (!sregIndexOk e || (e == 1 && (match f.d with | .s _ => true | _ => false))) f.e8
  | .movsw => badIf (!sregIndexOk e) f.e8
  | .perfrd => badIf (decide (10 < e)) f.e8
  | _ => none

/-- TLBINV with KIND 1 has A8 and B8 of 0 (R380), which no wave-uniform selector is; every other opcode's fields are
those of the table. -/
def TOp.bad (t : TOp) (f : Xt) : Bad :=
  match t with
  | .tlbinv =>
    if f.e8 = 1 then
      firstBad [xtBad {t.xt with a := .none, b := .none} f]
    else firstBad [xtBad t.xt f, badIf (decide (2 ≤ f.e8.toNat)) 0xCB]
  | _ => firstBad [xtBad t.xt f, t.fieldsBad f]

/-! ### Base control forms -/

/-- A target or return address in BS: an even v register or an s register, compact (R90). -/
def targetBad : Src → Bad := bmAddrBad

/-- A return-address destination in BS (R90). -/
def targetDstBad : Dst → Bad
  | .v n => badIf (n.val % 2 == 1 || decide (64 ≤ n.val)) (dstBv7 (.v n))
  | .s n => badIf (decide (32 ≤ n.val)) (dstBv7 (.s n))
  | .null => some (dstBv7 .null)

/-- BB: with a literal OFS is zero and the literal is a multiple of 4 (R54). -/
def bbBad (opc : BitVec 8) (f : Bb) : Bad :=
  match f.lit with
  | none => none
  | some l => badIf (f.ofs != 0 || l.toNat % 4 != 0) opc

/-! ### PAIR (R66, R68, R136) -/

/-- The shape of a pair operation (R66). -/
def PairOp.shape : PairOp → Shape
  | .int op => op.shape .s32
  | .fp op t => op.shape t

/-- The pair code of an operation (R66); 0 where it has none. -/
def PairOp.code : PairOp → Nat
  | .int op => op.opc
  | .fp .fadd .f32 => 0x30
  | .fp .fsub .f32 => 0x31
  | .fp .fmul .f32 => 0x32
  | .fp .ffma .f32 => 0x33
  | .fp .fmin .f32 => 0x34
  | .fp .fmax .f32 => 0x35
  | .fp .fadd .f16x2 => 0x36
  | .fp .fsub .f16x2 => 0x37
  | .fp .fmul .f16x2 => 0x38
  | .fp .ffma .f16x2 => 0x39
  | .fp .fadd .bf16x2 => 0x3A
  | .fp .fsub .bf16x2 => 0x3B
  | .fp .fmul .bf16x2 => 0x3C
  | .fp .ffma .bf16x2 => 0x3D
  | .fp _ _ => 0

/-- Class W operations that have a pair code (R36, R80). -/
def PairOp.classW : PairOp → Bool
  | .int .imulh => true
  | .int .idot4 => true
  | _ => false

/-- The v registers a half reads, its C source included. -/
def PairHalf.vregs (h : PairHalf) : List Nat :=
  let sh := h.op.shape
  let one (u : Option Rd) (x : Src) : List Nat := match u, x with
    | some _, .v n => [n.val]
    | _, _ => []
  one sh.a h.a ++ one sh.b h.b ++ (match sh.c, h.d with | some _, .v n => [n.val] | _, _ => [])

/-- The v registers a half writes. -/
def PairHalf.dsts (h : PairHalf) : List Nat :=
  match h.d with
  | .v n => if h.op.shape.wide then [n.val, n.val + 1] else [n.val]
  | _ => []

/-- Distinct numbers of a list. -/
def distinct : List Nat → List Nat
  | [] => []
  | x :: t => if t.contains x then distinct t else x :: distinct t

/-- The checks of one half of a PAIR. -/
def halfBad (h : PairHalf) : Bad :=
  let sh := h.op.shape
  firstBad [badIf (h.op.code == 0) 0xFE,
    compactBad h.a, compactBad h.b, compactDstBad h.d,
    badIf h.a.isLit (srcBv7 h.a), badIf h.b.isLit (srcBv7 h.b),
    match sh.a with | some r => (srcBad r none h.a).named (srcBv7 h.a) | none => none,
    match sh.b with | some r => (srcBad r none h.b).named (srcBv7 h.b) | none => badIf (h.b != .v 0) (srcBv7 h.b),
    badIf (h.ak && !h.a.isReg) (srcBv7 h.a),
    badIf (h.bk && !(h.b.isReg && sh.b.isSome)) (srcBv7 h.b),
    match h.d with
    | .s _ => some (dstBv7 h.d)
    | .v n => badIf (sh.wide && n.val % 2 == 1) (dstBv7 h.d)
    | .null => badIf sh.c.isSome (dstBv7 h.d)]

/-- The checks of PAIR (R66, R68, R136). -/
def pairBad (f : Pair) : Bad :=
  firstBad [halfBad f.x, halfBad f.y,
    badIf (f.x.op.classW && f.y.op.classW) 0xFE,
    badIf (decide (3 < (distinct (f.x.vregs ++ f.y.vregs)).length)) 0xFE,
    badIf (f.x.dsts.any f.y.dsts.contains) 0xFE]

/-! ### Every instruction -/

/-- BALLOT in BV has an s destination (R177). -/
def ballotBvBad (f : BallotBv) : Bad :=
  firstBad [compactDstBad f.d, match f.d with | .s _ => none | d => some (dstBv7 d)]

/-- LOP3's checks (R82). -/
def lop3Bad (f : Xv) : Bad := xvBad 0x0F (lop3Shape (decide (32 ≤ f.func6.val))) f

/-- ICVT's checks (R83, R135). -/
def icvtBad (f : Xv) : Bad :=
  firstBad [badIf (f6mid f.func6 != 0) 0x25, xvBad 0x25 (icvtShape (cvtTyOf f.func6.val) (cvtTyOf f.mod3.val)) f]

/-- The offending value of an instruction word that is no instruction (R69); a step of the device has none. -/
def bad : Instr → Bad
  | .iaddBv f => bvBad (BitVec.ofNat 8 (IOp.opc .iadd)) (IOp.shape .iadd .s32) f
  | .iaddXv f => intXvBad .iadd f
  | .isubBv f => bvBad (BitVec.ofNat 8 (IOp.opc .isub)) (IOp.shape .isub .s32) f
  | .isubXv f => intXvBad .isub f
  | .iaddcBv f => bvBad (BitVec.ofNat 8 (IOp.opc .iaddc)) (IOp.shape .iaddc .s32) f
  | .iaddcXv f => intXvBad .iaddc f
  | .imulBv f => bvBad (BitVec.ofNat 8 (IOp.opc .imul)) (IOp.shape .imul .s32) f
  | .imulXv f => intXvBad .imul f
  | .imulhBv f => bvBad (BitVec.ofNat 8 (IOp.opc .imulh)) (IOp.shape .imulh .s32) f
  | .imulhXv f => intXvBad .imulh f
  | .imadBv f => bvBad (BitVec.ofNat 8 (IOp.opc .imad)) (IOp.shape .imad .s32) f
  | .imadXv f => intXvBad .imad f
  | .iminBv f => bvBad (BitVec.ofNat 8 (IOp.opc .imin)) (IOp.shape .imin .s32) f
  | .iminXv f => intXvBad .imin f
  | .imaxBv f => bvBad (BitVec.ofNat 8 (IOp.opc .imax)) (IOp.shape .imax .s32) f
  | .imaxXv f => intXvBad .imax f
  | .iabsBv f => bv1Bad (IOp.shape .iabs .s32) f
  | .iabsXv f => intXvBad .iabs f
  | .idot4Bv f => bvBad (BitVec.ofNat 8 (IOp.opc .idot4)) (IOp.shape .idot4 .s32) f
  | .idot4Xv f => intXvBad .idot4 f
  | .andBv f => bvBad (BitVec.ofNat 8 (IOp.opc .and)) (IOp.shape .and .s32) f
  | .andXv f => intXvBad .and f
  | .orBv f => bvBad (BitVec.ofNat 8 (IOp.opc .or)) (IOp.shape .or .s32) f
  | .orXv f => intXvBad .or f
  | .xorBv f => bvBad (BitVec.ofNat 8 (IOp.opc .xor)) (IOp.shape .xor .s32) f
  | .xorXv f => intXvBad .xor f
  | .andnBv f => bvBad (BitVec.ofNat 8 (IOp.opc .andn)) (IOp.shape .andn .s32) f
  | .andnXv f => intXvBad .andn f
  | .lop3Xv f => lop3Bad f
  | .shlBv f => bvBad (BitVec.ofNat 8 (IOp.opc .shl)) (IOp.shape .shl .s32) f
  | .shlXv f => intXvBad .shl f
  | .shrBv f => bvBad (BitVec.ofNat 8 (IOp.opc .shr)) (IOp.shape .shr .s32) f
  | .shrXv f => intXvBad .shr f
  | .sarBv f => bvBad (BitVec.ofNat 8 (IOp.opc .sar)) (IOp.shape .sar .s32) f
  | .sarXv f => intXvBad .sar f
  | .rotlBv f => bvBad (BitVec.ofNat 8 (IOp.opc .rotl)) (IOp.shape .rotl .s32) f
  | .rotlXv f => intXvBad .rotl f
  | .fshrBv f => bvBad (BitVec.ofNat 8 (IOp.opc .fshr)) (IOp.shape .fshr .s32) f
  | .fshrXv f => intXvBad .fshr f
  | .bfeBv f => bvBad (BitVec.ofNat 8 (IOp.opc .bfe)) (IOp.shape .bfe .s32) f
  | .bfeXv f => intXvBad .bfe f
  | .bfiBv f => bvBad (BitVec.ofNat 8 (IOp.opc .bfi)) (IOp.shape .bfi .s32) f
  | .bfiXv f => intXvBad .bfi f
  | .popcBv f => bv1Bad (IOp.shape .popc .s32) f
  | .popcXv f => intXvBad .popc f
  | .clzBv f => bv1Bad (IOp.shape .clz .s32) f
  | .clzXv f => intXvBad .clz f
  | .ctzBv f => bv1Bad (IOp.shape .ctz .s32) f
  | .ctzXv f => intXvBad .ctz f
  | .brevBv f => bv1Bad (IOp.shape .brev .s32) f
  | .brevXv f => intXvBad .brev f
  | .prmtBv f => bvBad (BitVec.ofNat 8 (IOp.opc .prmt)) (IOp.shape .prmt .s32) f
  | .prmtXv f => intXvBad .prmt f
  | .icmpXv f => icmpBad f
  | .selBv f => bvBad (BitVec.ofNat 8 (IOp.opc .sel)) (IOp.shape .sel .s32) f
  | .selXv f => intXvBad .sel f
  | .movBv f => bv1Bad (IOp.shape .mov .s32) f
  | .movXv f => intXvBad .mov f
  | .leaBv f => bvBad (BitVec.ofNat 8 (IOp.opc .lea)) (IOp.shape .lea .s32) f
  | .leaXv f => intXvBad .lea f
  | .iadd3Bv f => bvBad (BitVec.ofNat 8 (IOp.opc .iadd3)) (IOp.shape .iadd3 .s32) f
  | .iadd3Xv f => intXvBad .iadd3 f
  | .isadBv f => bvBad (BitVec.ofNat 8 (IOp.opc .isad)) (IOp.shape .isad .s32) f
  | .isadXv f => intXvBad .isad f
  | .iadd2Bv f => bvBad (BitVec.ofNat 8 (IOp.opc .iadd2)) (IOp.shape .iadd2 .s32) f
  | .iadd2Xv f => intXvBad .iadd2 f
  | .psetXv _ => none
  | .pmovXv f => pmovBad f
  | .icvtXv f => icvtBad f
  | .faddBv f => bvBad (BitVec.ofNat 8 (FOp.opc .fadd)) (FOp.shape .fadd .f32) f
  | .faddXv f => fpXvBad .fadd f
  | .fsubBv f => bvBad (BitVec.ofNat 8 (FOp.opc .fsub)) (FOp.shape .fsub .f32) f
  | .fsubXv f => fpXvBad .fsub f
  | .fmulBv f => bvBad (BitVec.ofNat 8 (FOp.opc .fmul)) (FOp.shape .fmul .f32) f
  | .fmulXv f => fpXvBad .fmul f
  | .ffmaBv f => bvBad (BitVec.ofNat 8 (FOp.opc .ffma)) (FOp.shape .ffma .f32) f
  | .ffmaXv f => fpXvBad .ffma f
  | .fminBv f => bvBad (BitVec.ofNat 8 (FOp.opc .fmin)) (FOp.shape .fmin .f32) f
  | .fminXv f => fpXvBad .fmin f
  | .fmaxBv f => bvBad (BitVec.ofNat 8 (FOp.opc .fmax)) (FOp.shape .fmax .f32) f
  | .fmaxXv f => fpXvBad .fmax f
  | .fcmpXv f => fcmpBad f
  | .frndBv f => bv1Bad (FOp.shape .frnd .f32) f
  | .frndXv f => fpXvBad .frnd f
  | .fclassBv f => bv1Bad (FOp.shape .fclass .f32) f
  | .fclassXv f => fpXvBad .fclass f
  | .frcpBv f => bv1Bad (SOp.shape .frcp .f32) f
  | .frcpXv f => sfXvBad .frcp f
  | .frsqBv f => bv1Bad (SOp.shape .frsq .f32) f
  | .frsqXv f => sfXvBad .frsq f
  | .fsqrtBv f => bv1Bad (SOp.shape .fsqrt .f32) f
  | .fsqrtXv f => sfXvBad .fsqrt f
  | .fexp2Bv f => bv1Bad (SOp.shape .fexp2 .f32) f
  | .fexp2Xv f => sfXvBad .fexp2 f
  | .flog2Bv f => bv1Bad (SOp.shape .flog2 .f32) f
  | .flog2Xv f => sfXvBad .flog2 f
  | .fsinBv f => bv1Bad (SOp.shape .fsin .f32) f
  | .fsinXv f => sfXvBad .fsin f
  | .fcosBv f => bv1Bad (SOp.shape .fcos .f32) f
  | .fcosXv f => sfXvBad .fcos f
  | .ftanhBv f => bv1Bad (SOp.shape .ftanh .f32) f
  | .ftanhXv f => sfXvBad .ftanh f
  | .fdivBv f => bvBad (BitVec.ofNat 8 (SOp.opc .fdiv)) (SOp.shape .fdiv .f32) f
  | .fdivXv f => sfXvBad .fdiv f
  | .fcvtXv f => fcvtBad f
  | .ftoiXv f => ftoiBad f
  | .itofXv f => itofBad f
  | .npackXv f => npackBad f
  | .nunpkXv f => nunpkBad f
  | .fdot2Xv f => fpXvBad .fdot2 f
  | .fscaleBv f => bvBad (BitVec.ofNat 8 (FOp.opc .fscale)) (FOp.shape .fscale .f32) f
  | .fscaleXv f => fpXvBad .fscale f
  | .xshfBv f => xlBvBad .xshf f
  | .xshfXv f => xlXvBad .xshf f
  | .xrotBv f => xlBvBad .xrot f
  | .xrotXv f => xlXvBad .xrot f
  | .xbflyBv f => xlBvBad .xbfly f
  | .xbflyXv f => xlXvBad .xbfly f
  | .xbcastBv f => xlBvBad .xbcast f
  | .xbcastXv f => xlXvBad .xbcast f
  | .xredBv f => xlBv1Bad .xred f
  | .xredXv f => xlXvBad .xred f
  | .xscanBv f => xlBv1Bad .xscan f
  | .xscanXv f => xlXvBad .xscan f
  | .ballotBv f => ballotBvBad f
  | .ballotXv f => ballotXvBad f
  | .voteBv _ => none
  | .voteXv f => voteXvBad f
  | .matchBv f => xlBv1Bad .match f
  | .matchXv f => xlXvBad .match f
  | .electBv _ => none
  | .electXv f => electXvBad f
  | .nopBs _ => none
  | .nopXt f => TOp.bad .nop f
  | .braBb f => bbBad 0x71 f
  | .bruBb f => bbBad 0x72 f
  | .jmpiBs _ a _ => targetBad a
  | .jmpiXt f => TOp.bad .jmpi f
  | .callBs _ d _ => targetDstBad d
  | .callXt f => TOp.bad .call f
  | .retBs _ a => targetBad a
  | .retXt f => TOp.bad .ret f
  | .jmarkBs _ _ _ => none
  | .jmarkXt f => TOp.bad .jmark f
  | .joinBs _ _ => none
  | .joinXt f => TOp.bad .join f
  | .exitBs _ => none
  | .exitXt f => TOp.bad .exit f
  | .waitcBs _ _ _ _ => none
  | .waitcXt f => TOp.bad .waitc f
  | .lwaitBs _ _ _ => none
  | .lwaitXt f => TOp.bad .lwait f
  | .sleepBs _ _ => none
  | .sleepXt f => TOp.bad .sleep f
  | .yieldBs _ => none
  | .yieldXt f => TOp.bad .yield f
  | .setprioBs _ _ => none
  | .setprioXt f => TOp.bad .setprio f
  | .trapBs _ _ => none
  | .trapXt f => TOp.bad .trap f
  | .brkptBs _ _ => none
  | .brkptXt f => TOp.bad .brkpt f
  | .ldBm f => bmBad .ld f
  | .ldXm f => xmBad .ld f
  | .stBm f => bmBad .st f
  | .stXm f => xmBad .st f
  | .ldnfBm f => bmBad .ldnf f
  | .ldnfXm f => xmBad .ldnf f
  | .atomXm f => xmBad .atom f
  | .atomfXm f => xmBad .atomf f
  | .redXm f => xmBad .red f
  | .redfXm f => xmBad .redf f
  | .casXm f => xmBad .cas f
  | .fenceXm f => xmBad .fence f
  | .prefBm f => bmAddrBad f.a
  | .prefXm f => xmBad .pref f
  | .cinvBm f => bmAddrBad f.a
  | .cinvXm f => xmBad .cinv f
  | .cdemoteBm f => bmAddrBad f.a
  | .cdemoteXm f => xmBad .cdemote f
  | .pgreqXm f => xmBad .pgreq f
  | .mcredXm f => xmBad .mcred f
  | .sldBm f => bmBad .sld f
  | .sldXm f => xmBad .sld f
  | .sstBm f => bmBad .sst f
  | .sstXm f => xmBad .sst f
  | .tcopyXt f => TOp.bad .tcopy f
  | .tstoreXt f => TOp.bad .tstore f
  | .tgatherXt f => TOp.bad .tgather f
  | .cpyXt f => TOp.bad .cpy f
  | .cpywaitBs _ _ _ => none
  | .cpywaitXt f => TOp.bad .cpywait f
  | .rdvinitXt f => TOp.bad .rdvinit f
  | .rdvarrXt f => TOp.bad .rdvarr f
  | .rdvexpXt f => TOp.bad .rdvexp f
  | .rdvwaitXt f => TOp.bad .rdvwait f
  | .rdvtestXt f => TOp.bad .rdvtest f
  | .pwaitXt f => TOp.bad .pwait f
  | .tmapXt f => TOp.bad .tmap f
  | .tunmapXt f => TOp.bad .tunmap f
  | .tqueryXt f => TOp.bad .tquery f
  | .aclaimXt f => TOp.bad .aclaim f
  | .arelXt f => TOp.bad .arel f
  | .azeroXt f => TOp.bad .azero f
  | .mmaXt f => TOp.bad .mma f
  | .mmagXt f => TOp.bad .mmag f
  | .awaitBs _ _ => none
  | .awaitXt f => TOp.bad .await f
  | .ardXt f => TOp.bad .ard f
  | .adrainXt f => TOp.bad .adrain f
  | .aloadXt f => TOp.bad .aload f
  | .oprdyBs _ => none
  | .oprdyXt f => TOp.bad .oprdy f
  | .wpubXt f => TOp.bad .wpub f
  | .wtestXt f => TOp.bad .wtest f
  | .launchXt f => TOp.bad .launch f
  | .lparmXt f => TOp.bad .lparm f
  | .movsXt f => TOp.bad .movs f
  | .movswXt f => TOp.bad .movsw f
  | .tretBs _ => none
  | .tretXt f => TOp.bad .tret f
  | .tlbinvXt f => TOp.bad .tlbinv f
  | .perfrdXt f => TOp.bad .perfrd f
  | .dbgmarkBs _ _ => none
  | .dbgmarkXt f => TOp.bad .dbgmark f
  | .haltwXt f => TOp.bad .haltw f
  | .syscallBs _ _ => none
  | .syscallXt f => TOp.bad .syscall f
  | .pair f => pairBad f
  | .runStart _ => none
  | .suspendResume _ => none
  | .suspendSave _ => none
  | .classLLand _ _ => none
  | .sleepWake _ _ => none
  | .lwaitTimeout _ _ => none
  | .pwaitWake _ _ => none
  | .waveEnd _ => none
  | .groupExit _ => none
  | .homeAccess _ => none
  | .storeVisible _ => none
  | .atomicPerform _ => none
  | .wctReturn _ => none
  | .loadLand _ _ _ => none
  | .fenceComplete _ _ => none
  | .remoteRequest _ => none
  | .remoteAck _ => none
  | .remoteReply _ => none
  | .requestTimeout _ => none
  | .hostCompletion _ _ => none
  | .mcredApply _ => none
  | .mcredAck _ _ _ => none
  | .translationWalk _ _ => none
  | .prqPost _ => none
  | .tlbinvComplete _ => none
  | .tceAccept _ _ => none
  | .copyComplete _ _ => none
  | .cpyComplete _ _ => none
  | .rdvarrApply _ _ => none
  | .fillComplete _ _ => none
  | .arbiterVisit _ => none
  | .opComplete _ _ => none
  | .zeroingDone _ _ => none
  | .bankTransferDone _ _ => none
  | .doorbellWrite _ _ _ _ => none
  | .admitDesc _ _ => none
  | .chainRecord _ _ => none
  | .chainReplay _ _ => none
  | .launchOpen _ => none
  | .wpPublish _ => none
  | .groupDispatch _ => none
  | .coreReserve _ => none
  | .deficitCharge => none
  | .launchRetire _ => none
  | .preemptSaveDone _ => none
  | .contextRestore _ => none
  | .killComplete _ => none
  | .coreSplitApply _ => none
  | .status _ => none
  | .takeover _ => none
  | .tenCreate _ _ _ => none
  | .tenDestroy _ _ => none
  | .grant _ _ _ => none
  | .reclaim _ _ _ => none
  | .ways _ _ _ => none
  | .ctxCreate _ _ _ => none
  | .ctxKill _ _ => none
  | .queueCreate _ _ _ => none
  | .queueReset _ _ => none
  | .pageRespRetry _ _ _ => none
  | .pageRespDeny _ _ _ => none
  | .tlbInv _ _ _ _ _ => none
  | .windowSet _ _ _ => none
  | .coreCfgDrain _ _ => none
  | .coreCfgForce _ _ => none
  | .hostRequest _ => none
  | .tdiConfigChange _ _ => none
  | .getVersion _ => none
  | .getCapabilities _ => none
  | .negotiateAlgorithms _ => none
  | .getDigests _ => none
  | .getCertificate _ _ => none
  | .challenge _ => none
  | .getMeasurements _ _ _ => none
  | .keyExchange _ _ _ => none
  | .finish _ _ => none
  | .keyUpdate _ _ => none
  | .endSession _ _ => none
  | .ideKm _ _ _ _ => none
  | .registerWrite _ _ _ => none
  | .mctlEnSet _ => none
  | .mctlEnClear _ => none
  | .mctlLeave _ => none
  | .mlimitWrite _ _ => none
  | .heartbeat _ => none
  | .announce _ => none
  | .drop _ => none
  | .join _ => none
  | .leave _ => none
  | .silent _ => none
  | .heartbeatTimer => none
  | .meridianEffective => none
  | .silenceTimeout _ => none
  | .groupSilence => none
  | .epochTimeout => none
  | .joinListenEnd => none
  | .foundGroup => none
  | .flitReceive _ _ => none
  | .replayRequest _ _ => none
  | .planeRehash _ => none
  | .reattest _ _ _ => none
  | .portReopen _ => none
  | .rekey _ _ => none
  | .rekeyDeadline _ _ => none
  | .securityAlarm _ => none
  | .powerOn _ => none
  | .recoveryLoad _ => none
  | .telemetryUpdate _ => none
  | .powerLimitRevision _ => none
  | .refreshSlot _ => none
  | .refreshDone _ => none
  | .stackTemperature _ _ => none
  | .hbmAccess _ _ => none
  | .trackerClear => none
  | .remapPersist _ => none
  | .remapReloadDone _ => none
  | .scrubRead _ _ => none
  | .sramError _ => none
  | .hkpwWrite _ _ => none
  | .pwChangeDone => none
  | .nonInstruction _ => none
  | .tdispRequest _ _ _ _ => none
  | .portLinkChange _ _ => none
  | .powerLoss => none
  | .meridianInvalidType _ => none

end Sys2Proof
end

