-- ==== Sys2Proof/WellFormed.lean ====
section
/-! DEFINITION. Which instructions are well-formed: those whose fields pass every encoding check of R69. -/

namespace Sys2Proof

/-- The instruction's fields break no encoding rule (R69). -/
def Instr.wellFormed (i : Instr) : Bool := (bad i).isNone

end Sys2Proof
end

