-- ==== Sys2Proof/Decode.lean ====
section
/-! DEFINITION. The decoder, total on any bits and rejecting by the opcode or selector that offends (R40 to R69), and
the encoder, both written from the field maps of the instruction words. -/

namespace Sys2Proof

/-- Cut a number into fields of the given widths, the first field in the lowest bits. -/
def unpack : List Nat → Nat → List Nat
  | [], _ => []
  | w :: t, x => (x % 2 ^ w) :: unpack t (x / 2 ^ w)

/-- Join fields of width and value, the first in the lowest bits. -/
def pack : List (Nat × Nat) → Nat
  | [] => 0
  | (w, v) :: t => v + 2 ^ w * pack t

/-- The bytes of an instruction whose LEN is `len` (R41). -/
def lenBytes (len : Nat) : Nat :=
  match len with
  | 0 => 4
  | 1 => 12
  | 2 => 12
  | _ => 20

/-- The full source selector (R48). -/
def src8 (n : Nat) : Except (BitVec 8) Src :=
  if n < 128 then .ok (.v (Fin.ofNat 128 n))
  else if n < 192 then .ok (.s (Fin.ofNat 64 (n - 128)))
  else if n < 200 then .ok (.o (Fin.ofNat 8 (n - 192)))
  else if n = 200 then .ok .la
  else if n = 201 then .ok .lb
  else if n = 202 then .ok .ls
  else if n = 203 then .ok .lane
  else if n = 204 then .ok .width
  else if n = 223 then .ok .lit
  else if n < 224 then .error (BitVec.ofNat 8 n)
  else .ok (.const (Fin.ofNat 32 (n - 224)))

/-- The compact source selector (R46). -/
def src7 (n : Nat) : Src :=
  if n < 64 then .v (Fin.ofNat 128 n)
  else if n < 96 then .s (Fin.ofNat 64 (n - 64))
  else if n < 104 then .o (Fin.ofNat 8 (n - 96))
  else if n = 104 then .la
  else if n = 105 then .lb
  else if n = 106 then .ls
  else if n = 107 then .lane
  else if n < 127 then .const (Fin.ofNat 32 (n - 108))
  else .lit

/-- The full destination selector (R49). -/
def dst8 (n : Nat) : Except (BitVec 8) Dst :=
  if n < 128 then .ok (.v (Fin.ofNat 128 n))
  else if n < 192 then .ok (.s (Fin.ofNat 64 (n - 128)))
  else if n < 255 then .error (BitVec.ofNat 8 n)
  else .ok .null

/-- The compact destination selector (R47). -/
def dst7 (n : Nat) : Except (BitVec 8) Dst :=
  if n < 64 then .ok (.v (Fin.ofNat 128 n))
  else if n < 96 then .ok (.s (Fin.ofNat 64 (n - 64)))
  else if n < 127 then .error (BitVec.ofNat 8 n)
  else .ok .null

/-- A field that names a predicate: bits above [3:0] are zero (R130, R177). -/
def pred8 (n : Nat) : Except (BitVec 8) (Fin 16) :=
  if n < 16 then .ok (Fin.ofNat 16 n) else .error (BitVec.ofNat 8 n)

/-- A field that must be zero (R45). -/
def zeroField (v : BitVec 8) (n : Nat) : Except (BitVec 8) Unit :=
  if n = 0 then .ok () else .error v

/-- A slot field with its valid bit (R58). -/
def slotField (opc : BitVec 8) (valid slot : Nat) : Except (BitVec 8) (Option (Fin 8)) :=
  if valid = 1 then .ok (some (Fin.ofNat 8 slot))
  else if slot = 0 then .ok none
  else .error opc

/-- A permutation pattern (R62). -/
def permOf (n : Nat) : Option PermKind :=
  match n with
  | 0 => some .none | 1 => some .rot | 2 => some .bcast | 3 => some .bfly
  | 4 => some .mirror | 5 => some .rotw | 6 => some .bcastg | _ => none

/-- The code of a permutation pattern (R62). -/
def permCode : PermKind → Nat
  | .none => 0 | .rot => 1 | .bcast => 2 | .bfly => 3 | .mirror => 4 | .rotw => 5 | .bcastg => 6

/-- An access size (R55). -/
def sizeOf3 (n : Nat) : Option Size :=
  match n with
  | 0 => some .b8 | 1 => some .b16 | 2 => some .b32 | 3 => some .b64 | 4 => some .b128 | _ => none

/-- The code of an access size (R55). -/
def sizeCode : Size → Nat
  | .b8 => 0 | .b16 => 1 | .b32 => 2 | .b64 => 3 | .b128 => 4

/-- A memory scope (R59). -/
def scopeOf3 (n : Nat) : Option Scope :=
  match n with
  | 0 => some .group | 1 => some .quad | 2 => some .device | 3 => some .fabric | 4 => some .system | _ => none

/-- The code of a memory scope (R59). -/
def scopeCode : Scope → Nat
  | .group => 0 | .quad => 1 | .device => 2 | .fabric => 3 | .system => 4

/-- A memory order (R59). -/
def ordOf2 (n : Nat) : Ord :=
  match n with
  | 0 => .relaxed | 1 => .acquire | 2 => .release | _ => .acqrel

/-- The code of a memory order (R59). -/
def ordCode : Ord → Nat
  | .relaxed => 0 | .acquire => 1 | .release => 2 | .acqrel => 3

/-- A value that must be there, or the offending opcode. -/
def orBad {α : Type} (v : BitVec 8) : Option α → Except (BitVec 8) α
  | some x => .ok x
  | none => .error v

/-- The fields of the BS forms (R90). -/
inductive BsF where
  | none | jmpi (a : Src) (pr : Fin 4) | call (d : Dst) (ofs : BitVec 14) | ret (a : Src)
  | jmark (j : Fin 4) (ofs : BitVec 14) | join (j : Fin 4) | waitc (l : Fin 64) (c : Fin 16) (x : Fin 64)
  | lwait (t : Fin 4) (ns : BitVec 19) | sleep (ns : BitVec 21) | setprio (pr : Fin 4) | code (c : BitVec 16)
  | cpywait (t : Fin 4) (n : Fin 64) | await (b : Fin 8)
  deriving DecidableEq, Repr

/-- An instruction without its opcode: the fields of its format. -/
inductive Body where
  | bv (f : Bv) | bv1 (f : Bv1) | ballot (f : BallotBv) | vote (f : VoteBv) | elect (f : ElectBv) | bb (f : Bb)
  | bm (f : Bm) | hint (f : BmHint) | bs (rb : Bool) (f : BsF)
  | xv (f : Xv) | cmp (f : CmpXv) | pset (f : PsetXv) | pmov (f : PmovXv) | pred (f : PredXv)
  | xm (f : Xm) | xt (f : Xt) | pair (f : Pair)
  deriving DecidableEq, Repr

/-- The base form an opcode accepts (the Forms columns of the Opcode Map). -/
inductive BaseK where
  | none | bv | bv1 | ballot | vote | elect | bb | bm | hint
  | bs0 | bsJmpi | bsCall | bsRet | bsJmark | bsJoin | bsWaitc | bsLwait | bsSleep | bsSetprio | bsCode | bsCpywait | bsAwait
  deriving DecidableEq, Repr

/-- The extended form an opcode accepts. -/
inductive ExtK where
  | none | xv | cmp | pset | pmov | predBallot | predVote | predElect | xm | xt | pair
  deriving DecidableEq, Repr

/-- The forms an opcode accepts; none for a reserved opcode (R77). -/
def kindOf (opc : Nat) : Option (BaseK × ExtK) :=
  match opc with
  | 0x01 => some (.bv, .xv)
  | 0x02 => some (.bv, .xv)
  | 0x03 => some (.bv, .xv)
  | 0x04 => some (.bv, .xv)
  | 0x05 => some (.bv, .xv)
  | 0x06 => some (.bv, .xv)
  | 0x07 => some (.bv, .xv)
  | 0x08 => some (.bv, .xv)
  | 0x09 => some (.bv1, .xv)
  | 0x0A => some (.bv, .xv)
  | 0x0B => some (.bv, .xv)
  | 0x0C => some (.bv, .xv)
  | 0x0D => some (.bv, .xv)
  | 0x0E => some (.bv, .xv)
  | 0x0F => some (.none, .xv)
  | 0x10 => some (.bv, .xv)
  | 0x11 => some (.bv, .xv)
  | 0x12 => some (.bv, .xv)
  | 0x13 => some (.bv, .xv)
  | 0x14 => some (.bv, .xv)
  | 0x15 => some (.bv, .xv)
  | 0x16 => some (.bv, .xv)
  | 0x17 => some (.bv1, .xv)
  | 0x18 => some (.bv1, .xv)
  | 0x19 => some (.bv1, .xv)
  | 0x1A => some (.bv1, .xv)
  | 0x1B => some (.bv, .xv)
  | 0x1C => some (.none, .cmp)
  | 0x1D => some (.bv, .xv)
  | 0x1E => some (.bv1, .xv)
  | 0x1F => some (.bv, .xv)
  | 0x20 => some (.bv, .xv)
  | 0x21 => some (.bv, .xv)
  | 0x22 => some (.bv, .xv)
  | 0x23 => some (.none, .pset)
  | 0x24 => some (.none, .pmov)
  | 0x25 => some (.none, .xv)
  | 0x30 => some (.bv, .xv)
  | 0x31 => some (.bv, .xv)
  | 0x32 => some (.bv, .xv)
  | 0x33 => some (.bv, .xv)
  | 0x34 => some (.bv, .xv)
  | 0x35 => some (.bv, .xv)
  | 0x36 => some (.none, .cmp)
  | 0x37 => some (.bv1, .xv)
  | 0x38 => some (.bv1, .xv)
  | 0x39 => some (.bv1, .xv)
  | 0x3A => some (.bv1, .xv)
  | 0x3B => some (.bv1, .xv)
  | 0x3C => some (.bv1, .xv)
  | 0x3D => some (.bv1, .xv)
  | 0x3E => some (.bv1, .xv)
  | 0x3F => some (.bv1, .xv)
  | 0x40 => some (.bv1, .xv)
  | 0x41 => some (.bv, .xv)
  | 0x42 => some (.none, .xv)
  | 0x43 => some (.none, .xv)
  | 0x44 => some (.none, .xv)
  | 0x45 => some (.none, .xv)
  | 0x46 => some (.none, .xv)
  | 0x47 => some (.none, .xv)
  | 0x48 => some (.bv, .xv)
  | 0x60 => some (.bv, .xv)
  | 0x61 => some (.bv, .xv)
  | 0x62 => some (.bv, .xv)
  | 0x63 => some (.bv, .xv)
  | 0x64 => some (.bv1, .xv)
  | 0x65 => some (.bv1, .xv)
  | 0x66 => some (.ballot, .predBallot)
  | 0x67 => some (.vote, .predVote)
  | 0x68 => some (.bv1, .xv)
  | 0x69 => some (.elect, .predElect)
  | 0x70 => some (.bs0, .xt)
  | 0x71 => some (.bb, .none)
  | 0x72 => some (.bb, .none)
  | 0x73 => some (.bsJmpi, .xt)
  | 0x74 => some (.bsCall, .xt)
  | 0x75 => some (.bsRet, .xt)
  | 0x76 => some (.bsJmark, .xt)
  | 0x77 => some (.bsJoin, .xt)
  | 0x78 => some (.bs0, .xt)
  | 0x79 => some (.bsWaitc, .xt)
  | 0x7A => some (.bsLwait, .xt)
  | 0x7B => some (.bsSleep, .xt)
  | 0x7C => some (.bs0, .xt)
  | 0x7D => some (.bsSetprio, .xt)
  | 0x7E => some (.bsCode, .xt)
  | 0x7F => some (.bsCode, .xt)
  | 0x80 => some (.bm, .xm)
  | 0x81 => some (.bm, .xm)
  | 0x82 => some (.bm, .xm)
  | 0x83 => some (.none, .xm)
  | 0x84 => some (.none, .xm)
  | 0x85 => some (.none, .xm)
  | 0x86 => some (.none, .xm)
  | 0x87 => some (.none, .xm)
  | 0x88 => some (.none, .xm)
  | 0x89 => some (.hint, .xm)
  | 0x8A => some (.hint, .xm)
  | 0x8B => some (.hint, .xm)
  | 0x8C => some (.none, .xm)
  | 0x8D => some (.none, .xm)
  | 0x8E => some (.bm, .xm)
  | 0x8F => some (.bm, .xm)
  | 0xA0 => some (.none, .xt)
  | 0xA1 => some (.none, .xt)
  | 0xA2 => some (.none, .xt)
  | 0xA3 => some (.none, .xt)
  | 0xA4 => some (.bsCpywait, .xt)
  | 0xA5 => some (.none, .xt)
  | 0xA6 => some (.none, .xt)
  | 0xA7 => some (.none, .xt)
  | 0xA8 => some (.none, .xt)
  | 0xA9 => some (.none, .xt)
  | 0xAA => some (.none, .xt)
  | 0xB0 => some (.none, .xt)
  | 0xB1 => some (.none, .xt)
  | 0xB2 => some (.none, .xt)
  | 0xB3 => some (.none, .xt)
  | 0xB4 => some (.none, .xt)
  | 0xB5 => some (.none, .xt)
  | 0xB6 => some (.none, .xt)
  | 0xB7 => some (.none, .xt)
  | 0xB8 => some (.bsAwait, .xt)
  | 0xB9 => some (.none, .xt)
  | 0xBA => some (.none, .xt)
  | 0xBB => some (.none, .xt)
  | 0xBC => some (.bs0, .xt)
  | 0xC0 => some (.none, .xt)
  | 0xC1 => some (.none, .xt)
  | 0xC2 => some (.none, .xt)
  | 0xC3 => some (.none, .xt)
  | 0xC8 => some (.none, .xt)
  | 0xC9 => some (.none, .xt)
  | 0xCA => some (.bs0, .xt)
  | 0xCB => some (.none, .xt)
  | 0xCC => some (.none, .xt)
  | 0xCD => some (.bsCode, .xt)
  | 0xCE => some (.none, .xt)
  | 0xCF => some (.bsCode, .xt)
  | 0xFE => some (.none, .pair)
  | _ => none

/-- The Bv instruction of an opcode. -/
def buildBv (opc : Nat) (f : Bv) : Option Instr :=
  match opc with
  | 0x01 => some (.iaddBv f)
  | 0x02 => some (.isubBv f)
  | 0x03 => some (.iaddcBv f)
  | 0x04 => some (.imulBv f)
  | 0x05 => some (.imulhBv f)
  | 0x06 => some (.imadBv f)
  | 0x07 => some (.iminBv f)
  | 0x08 => some (.imaxBv f)
  | 0x0A => some (.idot4Bv f)
  | 0x0B => some (.andBv f)
  | 0x0C => some (.orBv f)
  | 0x0D => some (.xorBv f)
  | 0x0E => some (.andnBv f)
  | 0x10 => some (.shlBv f)
  | 0x11 => some (.shrBv f)
  | 0x12 => some (.sarBv f)
  | 0x13 => some (.rotlBv f)
  | 0x14 => some (.fshrBv f)
  | 0x15 => some (.bfeBv f)
  | 0x16 => some (.bfiBv f)
  | 0x1B => some (.prmtBv f)
  | 0x1D => some (.selBv f)
  | 0x1F => some (.leaBv f)
  | 0x20 => some (.iadd3Bv f)
  | 0x21 => some (.isadBv f)
  | 0x22 => some (.iadd2Bv f)
  | 0x30 => some (.faddBv f)
  | 0x31 => some (.fsubBv f)
  | 0x32 => some (.fmulBv f)
  | 0x33 => some (.ffmaBv f)
  | 0x34 => some (.fminBv f)
  | 0x35 => some (.fmaxBv f)
  | 0x41 => some (.fdivBv f)
  | 0x48 => some (.fscaleBv f)
  | 0x60 => some (.xshfBv f)
  | 0x61 => some (.xrotBv f)
  | 0x62 => some (.xbflyBv f)
  | 0x63 => some (.xbcastBv f)
  | _ => none

/-- The Xv instruction of an opcode. -/
def buildXv (opc : Nat) (f : Xv) : Option Instr :=
  match opc with
  | 0x01 => some (.iaddXv f)
  | 0x02 => some (.isubXv f)
  | 0x03 => some (.iaddcXv f)
  | 0x04 => some (.imulXv f)
  | 0x05 => some (.imulhXv f)
  | 0x06 => some (.imadXv f)
  | 0x07 => some (.iminXv f)
  | 0x08 => some (.imaxXv f)
  | 0x09 => some (.iabsXv f)
  | 0x0A => some (.idot4Xv f)
  | 0x0B => some (.andXv f)
  | 0x0C => some (.orXv f)
  | 0x0D => some (.xorXv f)
  | 0x0E => some (.andnXv f)
  | 0x0F => some (.lop3Xv f)
  | 0x10 => some (.shlXv f)
  | 0x11 => some (.shrXv f)
  | 0x12 => some (.sarXv f)
  | 0x13 => some (.rotlXv f)
  | 0x14 => some (.fshrXv f)
  | 0x15 => some (.bfeXv f)
  | 0x16 => some (.bfiXv f)
  | 0x17 => some (.popcXv f)
  | 0x18 => some (.clzXv f)
  | 0x19 => some (.ctzXv f)
  | 0x1A => some (.brevXv f)
  | 0x1B => some (.prmtXv f)
  | 0x1D => some (.selXv f)
  | 0x1E => some (.movXv f)
  | 0x1F => some (.leaXv f)
  | 0x20 => some (.iadd3Xv f)
  | 0x21 => some (.isadXv f)
  | 0x22 => some (.iadd2Xv f)
  | 0x25 => some (.icvtXv f)
  | 0x30 => some (.faddXv f)
  | 0x31 => some (.fsubXv f)
  | 0x32 => some (.fmulXv f)
  | 0x33 => some (.ffmaXv f)
  | 0x34 => some (.fminXv f)
  | 0x35 => some (.fmaxXv f)
  | 0x37 => some (.frndXv f)
  | 0x38 => some (.fclassXv f)
  | 0x39 => some (.frcpXv f)
  | 0x3A => some (.frsqXv f)
  | 0x3B => some (.fsqrtXv f)
  | 0x3C => some (.fexp2Xv f)
  | 0x3D => some (.flog2Xv f)
  | 0x3E => some (.fsinXv f)
  | 0x3F => some (.fcosXv f)
  | 0x40 => some (.ftanhXv f)
  | 0x41 => some (.fdivXv f)
  | 0x42 => some (.fcvtXv f)
  | 0x43 => some (.ftoiXv f)
  | 0x44 => some (.itofXv f)
  | 0x45 => some (.npackXv f)
  | 0x46 => some (.nunpkXv f)
  | 0x47 => some (.fdot2Xv f)
  | 0x48 => some (.fscaleXv f)
  | 0x60 => some (.xshfXv f)
  | 0x61 => some (.xrotXv f)
  | 0x62 => some (.xbflyXv f)
  | 0x63 => some (.xbcastXv f)
  | 0x64 => some (.xredXv f)
  | 0x65 => some (.xscanXv f)
  | 0x68 => some (.matchXv f)
  | _ => none

/-- The Bv1 instruction of an opcode. -/
def buildBv1 (opc : Nat) (f : Bv1) : Option Instr :=
  match opc with
  | 0x09 => some (.iabsBv f)
  | 0x17 => some (.popcBv f)
  | 0x18 => some (.clzBv f)
  | 0x19 => some (.ctzBv f)
  | 0x1A => some (.brevBv f)
  | 0x1E => some (.movBv f)
  | 0x37 => some (.frndBv f)
  | 0x38 => some (.fclassBv f)
  | 0x39 => some (.frcpBv f)
  | 0x3A => some (.frsqBv f)
  | 0x3B => some (.fsqrtBv f)
  | 0x3C => some (.fexp2Bv f)
  | 0x3D => some (.flog2Bv f)
  | 0x3E => some (.fsinBv f)
  | 0x3F => some (.fcosBv f)
  | 0x40 => some (.ftanhBv f)
  | 0x64 => some (.xredBv f)
  | 0x65 => some (.xscanBv f)
  | 0x68 => some (.matchBv f)
  | _ => none

/-- The CmpXv instruction of an opcode. -/
def buildCmpXv (opc : Nat) (f : CmpXv) : Option Instr :=
  match opc with
  | 0x1C => some (.icmpXv f)
  | 0x36 => some (.fcmpXv f)
  | _ => none

/-- The PsetXv instruction of an opcode. -/
def buildPsetXv (opc : Nat) (f : PsetXv) : Option Instr :=
  match opc with
  | 0x23 => some (.psetXv f)
  | _ => none

/-- The PmovXv instruction of an opcode. -/
def buildPmovXv (opc : Nat) (f : PmovXv) : Option Instr :=
  match opc with
  | 0x24 => some (.pmovXv f)
  | _ => none

/-- The BallotBv instruction of an opcode. -/
def buildBallotBv (opc : Nat) (f : BallotBv) : Option Instr :=
  match opc with
  | 0x66 => some (.ballotBv f)
  | _ => none

/-- The PredXv instruction of an opcode. -/
def buildPredXv (opc : Nat) (f : PredXv) : Option Instr :=
  match opc with
  | 0x66 => some (.ballotXv f)
  | 0x67 => some (.voteXv f)
  | 0x69 => some (.electXv f)
  | _ => none

/-- The VoteBv instruction of an opcode. -/
def buildVoteBv (opc : Nat) (f : VoteBv) : Option Instr :=
  match opc with
  | 0x67 => some (.voteBv f)
  | _ => none

/-- The ElectBv instruction of an opcode. -/
def buildElectBv (opc : Nat) (f : ElectBv) : Option Instr :=
  match opc with
  | 0x69 => some (.electBv f)
  | _ => none

/-- The Xt instruction of an opcode. -/
def buildXt (opc : Nat) (f : Xt) : Option Instr :=
  match opc with
  | 0x70 => some (.nopXt f)
  | 0x73 => some (.jmpiXt f)
  | 0x74 => some (.callXt f)
  | 0x75 => some (.retXt f)
  | 0x76 => some (.jmarkXt f)
  | 0x77 => some (.joinXt f)
  | 0x78 => some (.exitXt f)
  | 0x79 => some (.waitcXt f)
  | 0x7A => some (.lwaitXt f)
  | 0x7B => some (.sleepXt f)
  | 0x7C => some (.yieldXt f)
  | 0x7D => some (.setprioXt f)
  | 0x7E => some (.trapXt f)
  | 0x7F => some (.brkptXt f)
  | 0xA0 => some (.tcopyXt f)
  | 0xA1 => some (.tstoreXt f)
  | 0xA2 => some (.tgatherXt f)
  | 0xA3 => some (.cpyXt f)
  | 0xA4 => some (.cpywaitXt f)
  | 0xA5 => some (.rdvinitXt f)
  | 0xA6 => some (.rdvarrXt f)
  | 0xA7 => some (.rdvexpXt f)
  | 0xA8 => some (.rdvwaitXt f)
  | 0xA9 => some (.rdvtestXt f)
  | 0xAA => some (.pwaitXt f)
  | 0xB0 => some (.tmapXt f)
  | 0xB1 => some (.tunmapXt f)
  | 0xB2 => some (.tqueryXt f)
  | 0xB3 => some (.aclaimXt f)
  | 0xB4 => some (.arelXt f)
  | 0xB5 => some (.azeroXt f)
  | 0xB6 => some (.mmaXt f)
  | 0xB7 => some (.mmagXt f)
  | 0xB8 => some (.awaitXt f)
  | 0xB9 => some (.ardXt f)
  | 0xBA => some (.adrainXt f)
  | 0xBB => some (.aloadXt f)
  | 0xBC => some (.oprdyXt f)
  | 0xC0 => some (.wpubXt f)
  | 0xC1 => some (.wtestXt f)
  | 0xC2 => some (.launchXt f)
  | 0xC3 => some (.lparmXt f)
  | 0xC8 => some (.movsXt f)
  | 0xC9 => some (.movswXt f)
  | 0xCA => some (.tretXt f)
  | 0xCB => some (.tlbinvXt f)
  | 0xCC => some (.perfrdXt f)
  | 0xCD => some (.dbgmarkXt f)
  | 0xCE => some (.haltwXt f)
  | 0xCF => some (.syscallXt f)
  | _ => none

/-- The Bb instruction of an opcode. -/
def buildBb (opc : Nat) (f : Bb) : Option Instr :=
  match opc with
  | 0x71 => some (.braBb f)
  | 0x72 => some (.bruBb f)
  | _ => none

/-- The Bm instruction of an opcode. -/
def buildBm (opc : Nat) (f : Bm) : Option Instr :=
  match opc with
  | 0x80 => some (.ldBm f)
  | 0x81 => some (.stBm f)
  | 0x82 => some (.ldnfBm f)
  | 0x8E => some (.sldBm f)
  | 0x8F => some (.sstBm f)
  | _ => none

/-- The Xm instruction of an opcode. -/
def buildXm (opc : Nat) (f : Xm) : Option Instr :=
  match opc with
  | 0x80 => some (.ldXm f)
  | 0x81 => some (.stXm f)
  | 0x82 => some (.ldnfXm f)
  | 0x83 => some (.atomXm f)
  | 0x84 => some (.atomfXm f)
  | 0x85 => some (.redXm f)
  | 0x86 => some (.redfXm f)
  | 0x87 => some (.casXm f)
  | 0x88 => some (.fenceXm f)
  | 0x89 => some (.prefXm f)
  | 0x8A => some (.cinvXm f)
  | 0x8B => some (.cdemoteXm f)
  | 0x8C => some (.pgreqXm f)
  | 0x8D => some (.mcredXm f)
  | 0x8E => some (.sldXm f)
  | 0x8F => some (.sstXm f)
  | _ => none

/-- The BmHint instruction of an opcode. -/
def buildBmHint (opc : Nat) (f : BmHint) : Option Instr :=
  match opc with
  | 0x89 => some (.prefBm f)
  | 0x8A => some (.cinvBm f)
  | 0x8B => some (.cdemoteBm f)
  | _ => none

/-- The Pair instruction of an opcode. -/
def buildPair (opc : Nat) (f : Pair) : Option Instr :=
  match opc with
  | 0xFE => some (.pair f)
  | _ => none

/-- The BS instruction of an opcode. -/
def buildBs (opc : Nat) (rb : Bool) (f : BsF) : Option Instr :=
  match opc, f with
  | 0x70, .none => some (.nopBs rb)
  | 0x73, .jmpi a pr => some (.jmpiBs rb a pr)
  | 0x74, .call d ofs => some (.callBs rb d ofs)
  | 0x75, .ret a => some (.retBs rb a)
  | 0x76, .jmark j ofs => some (.jmarkBs rb j ofs)
  | 0x77, .join j => some (.joinBs rb j)
  | 0x78, .none => some (.exitBs rb)
  | 0x79, .waitc l c x => some (.waitcBs rb l c x)
  | 0x7A, .lwait t ns => some (.lwaitBs rb t ns)
  | 0x7B, .sleep ns => some (.sleepBs rb ns)
  | 0x7C, .none => some (.yieldBs rb)
  | 0x7D, .setprio pr => some (.setprioBs rb pr)
  | 0x7E, .code code => some (.trapBs rb code)
  | 0x7F, .code code => some (.brkptBs rb code)
  | 0xA4, .cpywait t n => some (.cpywaitBs rb t n)
  | 0xB8, .await b => some (.awaitBs rb b)
  | 0xBC, .none => some (.oprdyBs rb)
  | 0xCA, .none => some (.tretBs rb)
  | 0xCD, .code code => some (.dbgmarkBs rb code)
  | 0xCF, .code code => some (.syscallBs rb code)
  | _, _ => none

/-- The instruction of an opcode and its fields. -/
def build (opc : Nat) : Body → Option Instr
  | .bv f => buildBv opc f
  | .xv f => buildXv opc f
  | .bv1 f => buildBv1 opc f
  | .cmp f => buildCmpXv opc f
  | .pset f => buildPsetXv opc f
  | .pmov f => buildPmovXv opc f
  | .ballot f => buildBallotBv opc f
  | .pred f => buildPredXv opc f
  | .vote f => buildVoteBv opc f
  | .elect f => buildElectBv opc f
  | .xt f => buildXt opc f
  | .bb f => buildBb opc f
  | .bm f => buildBm opc f
  | .xm f => buildXm opc f
  | .hint f => buildBmHint opc f
  | .pair f => buildPair opc f
  | .bs rb f => buildBs opc rb f

/-- The forms whose register selectors are compact (R46, R47, R52, R55, R65, R90). -/
def Body.compact : Body → Bool
  | .bv _ => true
  | .bv1 _ => true
  | .ballot _ => true
  | .vote _ => true
  | .elect _ => true
  | .bm _ => true
  | .hint _ => true
  | .bs _ _ => true
  | .pair _ => true
  | _ => false

/-- The opcode and the fields of an instruction; a step of the device has none. -/
def bodyOf : Instr → Option (Nat × Body)
  | .iaddBv f => some (0x01, .bv f)
  | .iaddXv f => some (0x01, .xv f)
  | .isubBv f => some (0x02, .bv f)
  | .isubXv f => some (0x02, .xv f)
  | .iaddcBv f => some (0x03, .bv f)
  | .iaddcXv f => some (0x03, .xv f)
  | .imulBv f => some (0x04, .bv f)
  | .imulXv f => some (0x04, .xv f)
  | .imulhBv f => some (0x05, .bv f)
  | .imulhXv f => some (0x05, .xv f)
  | .imadBv f => some (0x06, .bv f)
  | .imadXv f => some (0x06, .xv f)
  | .iminBv f => some (0x07, .bv f)
  | .iminXv f => some (0x07, .xv f)
  | .imaxBv f => some (0x08, .bv f)
  | .imaxXv f => some (0x08, .xv f)
  | .iabsBv f => some (0x09, .bv1 f)
  | .iabsXv f => some (0x09, .xv f)
  | .idot4Bv f => some (0x0A, .bv f)
  | .idot4Xv f => some (0x0A, .xv f)
  | .andBv f => some (0x0B, .bv f)
  | .andXv f => some (0x0B, .xv f)
  | .orBv f => some (0x0C, .bv f)
  | .orXv f => some (0x0C, .xv f)
  | .xorBv f => some (0x0D, .bv f)
  | .xorXv f => some (0x0D, .xv f)
  | .andnBv f => some (0x0E, .bv f)
  | .andnXv f => some (0x0E, .xv f)
  | .lop3Xv f => some (0x0F, .xv f)
  | .shlBv f => some (0x10, .bv f)
  | .shlXv f => some (0x10, .xv f)
  | .shrBv f => some (0x11, .bv f)
  | .shrXv f => some (0x11, .xv f)
  | .sarBv f => some (0x12, .bv f)
  | .sarXv f => some (0x12, .xv f)
  | .rotlBv f => some (0x13, .bv f)
  | .rotlXv f => some (0x13, .xv f)
  | .fshrBv f => some (0x14, .bv f)
  | .fshrXv f => some (0x14, .xv f)
  | .bfeBv f => some (0x15, .bv f)
  | .bfeXv f => some (0x15, .xv f)
  | .bfiBv f => some (0x16, .bv f)
  | .bfiXv f => some (0x16, .xv f)
  | .popcBv f => some (0x17, .bv1 f)
  | .popcXv f => some (0x17, .xv f)
  | .clzBv f => some (0x18, .bv1 f)
  | .clzXv f => some (0x18, .xv f)
  | .ctzBv f => some (0x19, .bv1 f)
  | .ctzXv f => some (0x19, .xv f)
  | .brevBv f => some (0x1A, .bv1 f)
  | .brevXv f => some (0x1A, .xv f)
  | .prmtBv f => some (0x1B, .bv f)
  | .prmtXv f => some (0x1B, .xv f)
  | .icmpXv f => some (0x1C, .cmp f)
  | .selBv f => some (0x1D, .bv f)
  | .selXv f => some (0x1D, .xv f)
  | .movBv f => some (0x1E, .bv1 f)
  | .movXv f => some (0x1E, .xv f)
  | .leaBv f => some (0x1F, .bv f)
  | .leaXv f => some (0x1F, .xv f)
  | .iadd3Bv f => some (0x20, .bv f)
  | .iadd3Xv f => some (0x20, .xv f)
  | .isadBv f => some (0x21, .bv f)
  | .isadXv f => some (0x21, .xv f)
  | .iadd2Bv f => some (0x22, .bv f)
  | .iadd2Xv f => some (0x22, .xv f)
  | .psetXv f => some (0x23, .pset f)
  | .pmovXv f => some (0x24, .pmov f)
  | .icvtXv f => some (0x25, .xv f)
  | .faddBv f => some (0x30, .bv f)
  | .faddXv f => some (0x30, .xv f)
  | .fsubBv f => some (0x31, .bv f)
  | .fsubXv f => some (0x31, .xv f)
  | .fmulBv f => some (0x32, .bv f)
  | .fmulXv f => some (0x32, .xv f)
  | .ffmaBv f => some (0x33, .bv f)
  | .ffmaXv f => some (0x33, .xv f)
  | .fminBv f => some (0x34, .bv f)
  | .fminXv f => some (0x34, .xv f)
  | .fmaxBv f => some (0x35, .bv f)
  | .fmaxXv f => some (0x35, .xv f)
  | .fcmpXv f => some (0x36, .cmp f)
  | .frndBv f => some (0x37, .bv1 f)
  | .frndXv f => some (0x37, .xv f)
  | .fclassBv f => some (0x38, .bv1 f)
  | .fclassXv f => some (0x38, .xv f)
  | .frcpBv f => some (0x39, .bv1 f)
  | .frcpXv f => some (0x39, .xv f)
  | .frsqBv f => some (0x3A, .bv1 f)
  | .frsqXv f => some (0x3A, .xv f)
  | .fsqrtBv f => some (0x3B, .bv1 f)
  | .fsqrtXv f => some (0x3B, .xv f)
  | .fexp2Bv f => some (0x3C, .bv1 f)
  | .fexp2Xv f => some (0x3C, .xv f)
  | .flog2Bv f => some (0x3D, .bv1 f)
  | .flog2Xv f => some (0x3D, .xv f)
  | .fsinBv f => some (0x3E, .bv1 f)
  | .fsinXv f => some (0x3E, .xv f)
  | .fcosBv f => some (0x3F, .bv1 f)
  | .fcosXv f => some (0x3F, .xv f)
  | .ftanhBv f => some (0x40, .bv1 f)
  | .ftanhXv f => some (0x40, .xv f)
  | .fdivBv f => some (0x41, .bv f)
  | .fdivXv f => some (0x41, .xv f)
  | .fcvtXv f => some (0x42, .xv f)
  | .ftoiXv f => some (0x43, .xv f)
  | .itofXv f => some (0x44, .xv f)
  | .npackXv f => some (0x45, .xv f)
  | .nunpkXv f => some (0x46, .xv f)
  | .fdot2Xv f => some (0x47, .xv f)
  | .fscaleBv f => some (0x48, .bv f)
  | .fscaleXv f => some (0x48, .xv f)
  | .xshfBv f => some (0x60, .bv f)
  | .xshfXv f => some (0x60, .xv f)
  | .xrotBv f => some (0x61, .bv f)
  | .xrotXv f => some (0x61, .xv f)
  | .xbflyBv f => some (0x62, .bv f)
  | .xbflyXv f => some (0x62, .xv f)
  | .xbcastBv f => some (0x63, .bv f)
  | .xbcastXv f => some (0x63, .xv f)
  | .xredBv f => some (0x64, .bv1 f)
  | .xredXv f => some (0x64, .xv f)
  | .xscanBv f => some (0x65, .bv1 f)
  | .xscanXv f => some (0x65, .xv f)
  | .ballotBv f => some (0x66, .ballot f)
  | .ballotXv f => some (0x66, .pred f)
  | .voteBv f => some (0x67, .vote f)
  | .voteXv f => some (0x67, .pred f)
  | .matchBv f => some (0x68, .bv1 f)
  | .matchXv f => some (0x68, .xv f)
  | .electBv f => some (0x69, .elect f)
  | .electXv f => some (0x69, .pred f)
  | .nopBs rb => some (0x70, .bs rb .none)
  | .nopXt f => some (0x70, .xt f)
  | .braBb f => some (0x71, .bb f)
  | .bruBb f => some (0x72, .bb f)
  | .jmpiBs rb a pr => some (0x73, .bs rb (.jmpi a pr))
  | .jmpiXt f => some (0x73, .xt f)
  | .callBs rb d ofs => some (0x74, .bs rb (.call d ofs))
  | .callXt f => some (0x74, .xt f)
  | .retBs rb a => some (0x75, .bs rb (.ret a))
  | .retXt f => some (0x75, .xt f)
  | .jmarkBs rb j ofs => some (0x76, .bs rb (.jmark j ofs))
  | .jmarkXt f => some (0x76, .xt f)
  | .joinBs rb j => some (0x77, .bs rb (.join j))
  | .joinXt f => some (0x77, .xt f)
  | .exitBs rb => some (0x78, .bs rb .none)
  | .exitXt f => some (0x78, .xt f)
  | .waitcBs rb l c x => some (0x79, .bs rb (.waitc l c x))
  | .waitcXt f => some (0x79, .xt f)
  | .lwaitBs rb t ns => some (0x7A, .bs rb (.lwait t ns))
  | .lwaitXt f => some (0x7A, .xt f)
  | .sleepBs rb ns => some (0x7B, .bs rb (.sleep ns))
  | .sleepXt f => some (0x7B, .xt f)
  | .yieldBs rb => some (0x7C, .bs rb .none)
  | .yieldXt f => some (0x7C, .xt f)
  | .setprioBs rb pr => some (0x7D, .bs rb (.setprio pr))
  | .setprioXt f => some (0x7D, .xt f)
  | .trapBs rb code => some (0x7E, .bs rb (.code code))
  | .trapXt f => some (0x7E, .xt f)
  | .brkptBs rb code => some (0x7F, .bs rb (.code code))
  | .brkptXt f => some (0x7F, .xt f)
  | .ldBm f => some (0x80, .bm f)
  | .ldXm f => some (0x80, .xm f)
  | .stBm f => some (0x81, .bm f)
  | .stXm f => some (0x81, .xm f)
  | .ldnfBm f => some (0x82, .bm f)
  | .ldnfXm f => some (0x82, .xm f)
  | .atomXm f => some (0x83, .xm f)
  | .atomfXm f => some (0x84, .xm f)
  | .redXm f => some (0x85, .xm f)
  | .redfXm f => some (0x86, .xm f)
  | .casXm f => some (0x87, .xm f)
  | .fenceXm f => some (0x88, .xm f)
  | .prefBm f => some (0x89, .hint f)
  | .prefXm f => some (0x89, .xm f)
  | .cinvBm f => some (0x8A, .hint f)
  | .cinvXm f => some (0x8A, .xm f)
  | .cdemoteBm f => some (0x8B, .hint f)
  | .cdemoteXm f => some (0x8B, .xm f)
  | .pgreqXm f => some (0x8C, .xm f)
  | .mcredXm f => some (0x8D, .xm f)
  | .sldBm f => some (0x8E, .bm f)
  | .sldXm f => some (0x8E, .xm f)
  | .sstBm f => some (0x8F, .bm f)
  | .sstXm f => some (0x8F, .xm f)
  | .tcopyXt f => some (0xA0, .xt f)
  | .tstoreXt f => some (0xA1, .xt f)
  | .tgatherXt f => some (0xA2, .xt f)
  | .cpyXt f => some (0xA3, .xt f)
  | .cpywaitBs rb t n => some (0xA4, .bs rb (.cpywait t n))
  | .cpywaitXt f => some (0xA4, .xt f)
  | .rdvinitXt f => some (0xA5, .xt f)
  | .rdvarrXt f => some (0xA6, .xt f)
  | .rdvexpXt f => some (0xA7, .xt f)
  | .rdvwaitXt f => some (0xA8, .xt f)
  | .rdvtestXt f => some (0xA9, .xt f)
  | .pwaitXt f => some (0xAA, .xt f)
  | .tmapXt f => some (0xB0, .xt f)
  | .tunmapXt f => some (0xB1, .xt f)
  | .tqueryXt f => some (0xB2, .xt f)
  | .aclaimXt f => some (0xB3, .xt f)
  | .arelXt f => some (0xB4, .xt f)
  | .azeroXt f => some (0xB5, .xt f)
  | .mmaXt f => some (0xB6, .xt f)
  | .mmagXt f => some (0xB7, .xt f)
  | .awaitBs rb b => some (0xB8, .bs rb (.await b))
  | .awaitXt f => some (0xB8, .xt f)
  | .ardXt f => some (0xB9, .xt f)
  | .adrainXt f => some (0xBA, .xt f)
  | .aloadXt f => some (0xBB, .xt f)
  | .oprdyBs rb => some (0xBC, .bs rb .none)
  | .oprdyXt f => some (0xBC, .xt f)
  | .wpubXt f => some (0xC0, .xt f)
  | .wtestXt f => some (0xC1, .xt f)
  | .launchXt f => some (0xC2, .xt f)
  | .lparmXt f => some (0xC3, .xt f)
  | .movsXt f => some (0xC8, .xt f)
  | .movswXt f => some (0xC9, .xt f)
  | .tretBs rb => some (0xCA, .bs rb .none)
  | .tretXt f => some (0xCA, .xt f)
  | .tlbinvXt f => some (0xCB, .xt f)
  | .perfrdXt f => some (0xCC, .xt f)
  | .dbgmarkBs rb code => some (0xCD, .bs rb (.code code))
  | .dbgmarkXt f => some (0xCD, .xt f)
  | .haltwXt f => some (0xCE, .xt f)
  | .syscallBs rb code => some (0xCF, .bs rb (.code code))
  | .syscallXt f => some (0xCF, .xt f)
  | .pair f => some (0xFE, .pair f)
  | .runStart _ => none
  | .suspendResume _ => none
  | .suspendSave _ => none
  | .classLLand _ _ => none
  | .sleepWake _ _ => none
  | .lwaitTimeout _ _ => none
  | .pwaitWake _ _ => none
  | .waveEnd _ => none
  | .groupExit _ => none
  | .homeAccess _ => none
  | .storeVisible _ => none
  | .atomicPerform _ => none
  | .wctReturn _ => none
  | .loadLand _ _ _ => none
  | .fenceComplete _ _ => none
  | .remoteRequest _ => none
  | .remoteAck _ => none
  | .remoteReply _ => none
  | .requestTimeout _ => none
  | .hostCompletion _ _ => none
  | .mcredApply _ => none
  | .mcredAck _ _ _ => none
  | .translationWalk _ _ => none
  | .prqPost _ => none
  | .tlbinvComplete _ => none
  | .tceAccept _ _ => none
  | .copyComplete _ _ => none
  | .cpyComplete _ _ => none
  | .rdvarrApply _ _ => none
  | .fillComplete _ _ => none
  | .arbiterVisit _ => none
  | .opComplete _ _ => none
  | .zeroingDone _ _ => none
  | .bankTransferDone _ _ => none
  | .doorbellWrite _ _ _ _ => none
  | .admitDesc _ _ => none
  | .chainRecord _ _ => none
  | .chainReplay _ _ => none
  | .launchOpen _ => none
  | .wpPublish _ => none
  | .groupDispatch _ => none
  | .coreReserve _ => none
  | .deficitCharge => none
  | .launchRetire _ => none
  | .preemptSaveDone _ => none
  | .contextRestore _ => none
  | .killComplete _ => none
  | .coreSplitApply _ => none
  | .status _ => none
  | .takeover _ => none
  | .tenCreate _ _ _ => none
  | .tenDestroy _ _ => none
  | .grant _ _ _ => none
  | .reclaim _ _ _ => none
  | .ways _ _ _ => none
  | .ctxCreate _ _ _ => none
  | .ctxKill _ _ => none
  | .queueCreate _ _ _ => none
  | .queueReset _ _ => none
  | .pageRespRetry _ _ _ => none
  | .pageRespDeny _ _ _ => none
  | .tlbInv _ _ _ _ _ => none
  | .windowSet _ _ _ => none
  | .coreCfgDrain _ _ => none
  | .coreCfgForce _ _ => none
  | .hostRequest _ => none
  | .tdiConfigChange _ _ => none
  | .getVersion _ => none
  | .getCapabilities _ => none
  | .negotiateAlgorithms _ => none
  | .getDigests _ => none
  | .getCertificate _ _ => none
  | .challenge _ => none
  | .getMeasurements _ _ _ => none
  | .keyExchange _ _ _ => none
  | .finish _ _ => none
  | .keyUpdate _ _ => none
  | .endSession _ _ => none
  | .ideKm _ _ _ _ => none
  | .registerWrite _ _ _ => none
  | .mctlEnSet _ => none
  | .mctlEnClear _ => none
  | .mctlLeave _ => none
  | .mlimitWrite _ _ => none
  | .heartbeat _ => none
  | .announce _ => none
  | .drop _ => none
  | .join _ => none
  | .leave _ => none
  | .silent _ => none
  | .heartbeatTimer => none
  | .meridianEffective => none
  | .silenceTimeout _ => none
  | .groupSilence => none
  | .epochTimeout => none
  | .joinListenEnd => none
  | .foundGroup => none
  | .flitReceive _ _ => none
  | .replayRequest _ _ => none
  | .planeRehash _ => none
  | .reattest _ _ _ => none
  | .portReopen _ => none
  | .rekey _ _ => none
  | .rekeyDeadline _ _ => none
  | .securityAlarm _ => none
  | .powerOn _ => none
  | .recoveryLoad _ => none
  | .telemetryUpdate _ => none
  | .powerLimitRevision _ => none
  | .refreshSlot _ => none
  | .refreshDone _ => none
  | .stackTemperature _ _ => none
  | .hbmAccess _ _ => none
  | .trackerClear => none
  | .remapPersist _ => none
  | .remapReloadDone _ => none
  | .scrubRead _ _ => none
  | .sramError _ => none
  | .hkpwWrite _ _ => none
  | .pwChangeDone => none
  | .nonInstruction _ => none
  | .tdispRequest _ _ _ _ => none
  | .portLinkChange _ _ => none
  | .powerLoss => none
  | .meridianInvalidType _ => none

/-- An extended source from its fields. -/
def srcXOf (opc : BitVec 8) (sel k fs fv pat amt : Nat) : Except (BitVec 8) SrcX := do
  let x ← src8 sel
  let fill ← slotField opc fv fs
  let perm ← orBad opc (permOf pat)
  .ok ⟨x, fill, k == 1, perm, Fin.ofNat 64 amt⟩

/-- Field widths of XV above the opcode (R57). -/
def xvW : List Nat :=
  [8, 3, 1, 4, 1, 3, 1, 8, 1, 3, 1, 3, 6, 8, 1, 1, 3, 1, 3, 6, 8, 1, 3, 1, 6]

/-- The fields of XV before its selectors are read as a family reads them. -/
structure RawXv where
  d : Nat
  dos : Nat
  dov : Nat
  p : Fin 16
  pn : Bool
  mod3 : Fin 8
  a : Nat
  ak : Nat
  afs : Nat
  afv : Nat
  apat : Nat
  aamt : Nat
  b : Nat
  bk : Nat
  bfs : Nat
  bfv : Nat
  bpat : Nat
  bamt : Nat
  c : Nat
  ck : Nat
  cfs : Nat
  cfv : Nat
  func6 : Fin 64

/-- Cut an XV into its fields; reserved bits must be zero (R57). -/
def rawXv (opc : BitVec 8) (x : Nat) : Except (BitVec 8) RawXv :=
  match unpack xvW x with
  | [d, dos, dov, p, pn, mod3, r1, a, ak, afs, afv, apat, aamt, b, bk, r2, bfs, bfv, bpat, bamt, c, ck, cfs, cfv, f6] =>
    if r1 = 0 ∧ r2 = 0 then
      .ok ⟨d, dos, dov, Fin.ofNat 16 p, pn == 1, Fin.ofNat 8 mod3, a, ak, afs, afv, apat, aamt, b, bk, bfs, bfv, bpat, bamt,
        c, ck, cfs, cfv, Fin.ofNat 64 f6⟩
    else .error opc
  | _ => .error opc

/-- The fill, kill and permutation of A, B and C and the DO of a predicate field are zero (R130). -/
def RawXv.aBare (r : RawXv) : Bool := r.ak == 0 && r.afs == 0 && r.afv == 0 && r.apat == 0 && r.aamt == 0
def RawXv.bBare (r : RawXv) : Bool := r.bk == 0 && r.bfs == 0 && r.bfv == 0 && r.bpat == 0 && r.bamt == 0
def RawXv.cBare (r : RawXv) : Bool := r.ck == 0 && r.cfs == 0 && r.cfv == 0
def RawXv.noDo (r : RawXv) : Bool := r.dos == 0 && r.dov == 0

/-- `b` or the offending opcode. -/
def need (v : BitVec 8) (b : Bool) : Except (BitVec 8) Unit := if b then .ok () else .error v

def RawXv.srcA (r : RawXv) (opc : BitVec 8) : Except (BitVec 8) SrcX := srcXOf opc r.a r.ak r.afs r.afv r.apat r.aamt
def RawXv.srcB (r : RawXv) (opc : BitVec 8) : Except (BitVec 8) SrcX := srcXOf opc r.b r.bk r.bfs r.bfv r.bpat r.bamt
def RawXv.srcC (r : RawXv) (opc : BitVec 8) : Except (BitVec 8) SrcX := srcXOf opc r.c r.ck r.cfs r.cfv 0 0

/-- XV (R57). -/
def decXv (opc : BitVec 8) (rb : Bool) (lit : Option DWord) (x : Nat) : Except (BitVec 8) Body := do
  let r ← rawXv opc x
  let d ← dst8 r.d
  let slot ← slotField opc r.dov r.dos
  let a ← r.srcA opc
  let b ← r.srcB opc
  let c ← r.srcC opc
  .ok (.xv ⟨rb, d, slot, r.p, r.pn, r.mod3, r.func6, a, b, c, lit⟩)

/-- XV of ICMP and FCMP (R132, R145). -/
def decCmp (opc : BitVec 8) (rb : Bool) (lit : Option DWord) (x : Nat) : Except (BitVec 8) Body := do
  let r ← rawXv opc x
  let pd ← pred8 r.d
  let a ← r.srcA opc
  let b ← r.srcB opc
  need (BitVec.ofNat 8 r.c) (r.c == 0)
  need opc (r.cBare && r.noDo)
  .ok (.cmp ⟨rb, pd, r.p, r.pn, r.mod3, r.func6, a, b, lit⟩)

/-- XV of PSET (R133). -/
def decPset (opc : BitVec 8) (rb : Bool) (lit : Option DWord) (x : Nat) : Except (BitVec 8) Body := do
  let r ← rawXv opc x
  let pd ← pred8 r.d
  let pc ← pred8 r.c
  need opc (r.aBare && r.bBare && r.cBare && r.noDo && r.func6 == 4 && r.mod3 == 0 && lit.isNone)
  .ok (.pset ⟨rb, pd, r.p, r.pn, Fin.ofNat 16 (r.a % 16), Fin.ofNat 16 (r.b % 16), pc,
    BitVec.ofNat 8 (r.a / 16 + 16 * (r.b / 16))⟩)

/-- XV of PMOV (R134). -/
def decPmov (opc : BitVec 8) (rb : Bool) (lit : Option DWord) (x : Nat) : Except (BitVec 8) Body := do
  let r ← rawXv opc x
  need (BitVec.ofNat 8 r.b) (r.b == 0)
  need (BitVec.ofNat 8 r.c) (r.c == 0)
  need opc (r.bBare && r.cBare && r.noDo && r.mod3 == 0)
  if r.func6 = 0 then do
    let pd ← pred8 r.d
    let a ← r.srcA opc
    .ok (.pmov ⟨rb, r.p, r.pn, .toPred pd a, lit⟩)
  else if r.func6 = 4 then do
    let d ← dst8 r.d
    let pa ← pred8 r.a
    need opc r.aBare
    .ok (.pmov ⟨rb, r.p, r.pn, .toReg d pa, lit⟩)
  else .error opc

/-- XV of BALLOT, VOTE and ELECT (R174, R177). -/
def decPred (k : ExtK) (opc : BitVec 8) (rb : Bool) (lit : Option DWord) (x : Nat) : Except (BitVec 8) Body := do
  let r ← rawXv opc x
  let c ← r.srcC opc
  need (BitVec.ofNat 8 r.b) (r.b == 0)
  need opc (r.aBare && r.bBare && r.noDo)
  match k with
  | .predBallot => do
    let d ← dst8 r.d
    let pa ← pred8 r.a
    .ok (.pred ⟨rb, d, 0, pa, r.p, r.pn, r.mod3, r.func6, c, lit⟩)
  | .predVote => do
    let pd ← pred8 r.d
    let pa ← pred8 r.a
    .ok (.pred ⟨rb, .null, pd, pa, r.p, r.pn, r.mod3, r.func6, c, lit⟩)
  | _ => do
    let pd ← pred8 r.d
    need (BitVec.ofNat 8 r.a) (r.a == 0)
    .ok (.pred ⟨rb, .null, pd, 0, r.p, r.pn, r.mod3, r.func6, c, lit⟩)

/-- Field widths of XM above the opcode (R59). -/
def xmW : List Nat := [8, 4, 1, 3, 3, 2, 8, 1, 8, 3, 12, 20, 2, 1, 2, 1, 6]

/-- XM (R59). -/
def decXm (opc : BitVec 8) (rb : Bool) (lit : Option DWord) (x : Nat) : Except (BitVec 8) Body :=
  match unpack xmW x with
  | [d, p, pn, sz, sc, od, a, ak, ix, xsh, r1, ofs, cls, tkv, tk, r2, f6] => do
    let d ← dst8 d
    let sz ← orBad opc (sizeOf3 sz)
    let sc ← orBad opc (scopeOf3 sc)
    let a ← src8 a
    let ix ← src8 ix
    need opc (r1 == 0 && r2 == 0 && (tkv == 1 || tk == 0))
    .ok (.xm ⟨rb, d, Fin.ofNat 16 p, pn == 1, sz, sc, ordOf2 od, a, ak == 1, ix, Fin.ofNat 8 xsh, BitVec.ofNat 20 ofs,
      Fin.ofNat 4 cls, if tkv = 1 then some (Fin.ofNat 4 tk) else none, Fin.ofNat 64 f6, lit⟩)
  | _ => .error opc

/-- Field widths of XT above the opcode (R61). -/
def xtW : List Nat := [8, 4, 1, 8, 8, 8, 8, 8, 32]

/-- XT (R61). -/
def decXt (opc : BitVec 8) (rb : Bool) (lit : Option DWord) (x : Nat) : Except (BitVec 8) Body :=
  match unpack xtW x with
  | [d, p, pn, e8, a, b, c, ex, imm] => do
    let d ← dst8 d
    let a ← src8 a
    let b ← src8 b
    let c ← src8 c
    let ex ← src8 ex
    .ok (.xt ⟨rb, d, Fin.ofNat 16 p, pn == 1, BitVec.ofNat 8 e8, a, b, c, ex, BitVec.ofNat 32 imm, lit⟩)
  | _ => .error opc

/-- The operation of a pair code (R66). -/
def pairOpOf (n : Nat) : Option PairOp :=
  match n with
  | 0x01 => some (.int .iadd) | 0x02 => some (.int .isub) | 0x03 => some (.int .iaddc) | 0x04 => some (.int .imul)
  | 0x05 => some (.int .imulh) | 0x06 => some (.int .imad) | 0x07 => some (.int .imin) | 0x08 => some (.int .imax)
  | 0x09 => some (.int .iabs) | 0x0A => some (.int .idot4) | 0x0B => some (.int .and) | 0x0C => some (.int .or)
  | 0x0D => some (.int .xor) | 0x0E => some (.int .andn) | 0x10 => some (.int .shl) | 0x11 => some (.int .shr)
  | 0x12 => some (.int .sar) | 0x13 => some (.int .rotl) | 0x14 => some (.int .fshr) | 0x15 => some (.int .bfe)
  | 0x16 => some (.int .bfi) | 0x17 => some (.int .popc) | 0x18 => some (.int .clz) | 0x19 => some (.int .ctz)
  | 0x1A => some (.int .brev) | 0x1B => some (.int .prmt) | 0x1D => some (.int .sel) | 0x1E => some (.int .mov)
  | 0x1F => some (.int .lea) | 0x20 => some (.int .iadd3) | 0x21 => some (.int .isad) | 0x22 => some (.int .iadd2)
  | 0x30 => some (.fp .fadd .f32) | 0x31 => some (.fp .fsub .f32) | 0x32 => some (.fp .fmul .f32)
  | 0x33 => some (.fp .ffma .f32) | 0x34 => some (.fp .fmin .f32) | 0x35 => some (.fp .fmax .f32)
  | 0x36 => some (.fp .fadd .f16x2) | 0x37 => some (.fp .fsub .f16x2) | 0x38 => some (.fp .fmul .f16x2)
  | 0x39 => some (.fp .ffma .f16x2)
  | 0x3A => some (.fp .fadd .bf16x2) | 0x3B => some (.fp .fsub .bf16x2) | 0x3C => some (.fp .fmul .bf16x2)
  | 0x3D => some (.fp .ffma .bf16x2)
  | _ => none

/-- Field widths of PAIR above the opcode (R65). -/
def pairW : List Nat := [6, 7, 7, 1, 7, 1, 6, 7, 7, 1, 3, 7, 1, 4, 4, 1, 1, 14]

/-- PAIR (R65). -/
def decPair (opc : BitVec 8) (rb : Bool) (x : Nat) : Except (BitVec 8) Body :=
  match unpack pairW x with
  | [opa, da, aa, aak, ba, bak, opb, db, ab, abk, r1, bb, bbk, pa, pb, pan, pbn, r2] => do
    let oa ← orBad (BitVec.ofNat 8 opa) (pairOpOf opa)
    let da ← dst7 da
    let ob ← orBad (BitVec.ofNat 8 opb) (pairOpOf opb)
    let db ← dst7 db
    need opc (r1 == 0 && r2 == 0)
    .ok (.pair ⟨rb, ⟨oa, da, src7 aa, aak == 1, src7 ba, bak == 1, Fin.ofNat 16 pa, pan == 1⟩,
      ⟨ob, db, src7 ab, abk == 1, src7 bb, bbk == 1, Fin.ofNat 16 pb, pbn == 1⟩⟩)
  | _ => .error opc

/-- The BS forms, from the 21 bits above the opcode (R56, R90). -/
def decBs (k : BaseK) (opc : BitVec 8) (rb : Bool) (x : Nat) : Except (BitVec 8) Body :=
  match k with
  | .bs0 => if x = 0 then .ok (.bs rb .none) else .error opc
  | .bsJmpi =>
    match unpack [7, 2, 12] x with
    | [a, pr, r] => if r = 0 then .ok (.bs rb (.jmpi (src7 a) (Fin.ofNat 4 pr))) else .error opc
    | _ => .error opc
  | .bsCall =>
    match unpack [7, 14] x with
    | [d, ofs] => do
      let d ← dst7 d
      .ok (.bs rb (.call d (BitVec.ofNat 14 ofs)))
    | _ => .error opc
  | .bsRet =>
    match unpack [7, 14] x with
    | [a, r] => if r = 0 then .ok (.bs rb (.ret (src7 a))) else .error opc
    | _ => .error opc
  | .bsJmark =>
    match unpack [2, 5, 14] x with
    | [j, r, ofs] => if r = 0 then .ok (.bs rb (.jmark (Fin.ofNat 4 j) (BitVec.ofNat 14 ofs))) else .error opc
    | _ => .error opc
  | .bsJoin =>
    match unpack [2, 19] x with
    | [j, r] => if r = 0 then .ok (.bs rb (.join (Fin.ofNat 4 j))) else .error opc
    | _ => .error opc
  | .bsWaitc =>
    match unpack [6, 4, 6, 5] x with
    | [l, c, y, r] =>
      if r = 0 then .ok (.bs rb (.waitc (Fin.ofNat 64 l) (Fin.ofNat 16 c) (Fin.ofNat 64 y))) else .error opc
    | _ => .error opc
  | .bsLwait =>
    match unpack [2, 19] x with
    | [t, ns] => .ok (.bs rb (.lwait (Fin.ofNat 4 t) (BitVec.ofNat 19 ns)))
    | _ => .error opc
  | .bsSleep => .ok (.bs rb (.sleep (BitVec.ofNat 21 x)))
  | .bsSetprio =>
    match unpack [2, 19] x with
    | [pr, r] => if r = 0 then .ok (.bs rb (.setprio (Fin.ofNat 4 pr))) else .error opc
    | _ => .error opc
  | .bsCode =>
    match unpack [16, 5] x with
    | [c, r] => if r = 0 then .ok (.bs rb (.code (BitVec.ofNat 16 c))) else .error opc
    | _ => .error opc
  | .bsCpywait =>
    match unpack [2, 6, 13] x with
    | [t, n, r] => if r = 0 then .ok (.bs rb (.cpywait (Fin.ofNat 4 t) (Fin.ofNat 64 n))) else .error opc
    | _ => .error opc
  | .bsAwait =>
    match unpack [3, 18] x with
    | [b, r] => if r = 0 then .ok (.bs rb (.await (Fin.ofNat 8 b))) else .error opc
    | _ => .error opc
  | _ => .error opc

/-- The base forms, from the 21 bits above the opcode (R52, R54 to R56, R90, R177, R226). -/
def decBase (k : BaseK) (opc : BitVec 8) (rb : Bool) (lit : Option DWord) (x : Nat) : Except (BitVec 8) Body :=
  match k with
  | .none => .error opc
  | .bv =>
    match unpack [7, 7, 7] x with
    | [d, a, b] => do
      let d ← dst7 d
      .ok (.bv ⟨rb, d, src7 a, src7 b, lit⟩)
    | _ => .error opc
  | .bv1 =>
    match unpack [7, 7, 7] x with
    | [d, a, b] => do
      let d ← dst7 d
      need (BitVec.ofNat 8 b) (b == 0)
      need opc lit.isNone
      .ok (.bv1 ⟨rb, d, src7 a⟩)
    | _ => .error opc
  | .ballot =>
    match unpack [7, 7, 7] x with
    | [d, a, b] => do
      let d ← dst7 d
      let pa ← pred8 a
      need (BitVec.ofNat 8 b) (b == 0)
      need opc lit.isNone
      .ok (.ballot ⟨rb, d, pa⟩)
    | _ => .error opc
  | .vote =>
    match unpack [7, 7, 7] x with
    | [d, a, b] => do
      let pd ← pred8 d
      let pa ← pred8 a
      need (BitVec.ofNat 8 b) (b == 0)
      need opc lit.isNone
      .ok (.vote ⟨rb, pd, pa⟩)
    | _ => .error opc
  | .elect =>
    match unpack [7, 7, 7] x with
    | [d, a, b] => do
      let pd ← pred8 d
      need (BitVec.ofNat 8 a) (a == 0)
      need (BitVec.ofNat 8 b) (b == 0)
      need opc lit.isNone
      .ok (.elect ⟨rb, pd⟩)
    | _ => .error opc
  | .bb =>
    match unpack [4, 1, 2, 14] x with
    | [p, n, pr, ofs] => .ok (.bb ⟨rb, Fin.ofNat 16 p, n == 1, Fin.ofNat 4 pr, BitVec.ofNat 14 ofs, lit⟩)
    | _ => .error opc
  | .bm =>
    match unpack [7, 7, 4, 3] x with
    | [d, a, off, sz] => do
      let d ← dst7 d
      let sz ← orBad opc (sizeOf3 sz)
      need opc lit.isNone
      .ok (.bm ⟨rb, d, src7 a, Fin.ofNat 16 off, sz⟩)
    | _ => .error opc
  | .hint =>
    match unpack [7, 7, 4, 3] x with
    | [d, a, off, sz] => do
      need (BitVec.ofNat 8 d) (d == 0)
      need opc (sz == 0 && lit.isNone)
      .ok (.hint ⟨rb, src7 a, Fin.ofNat 16 off⟩)
    | _ => .error opc
  | k => if lit.isNone then decBs k opc rb x else .error opc

/-- The extended forms, from the 85 bits above the opcode. -/
def decExt (k : ExtK) (opc : BitVec 8) (rb : Bool) (lit : Option DWord) (x : Nat) : Except (BitVec 8) Body :=
  match k with
  | .none => .error opc
  | .xv => decXv opc rb lit x
  | .cmp => decCmp opc rb lit x
  | .pset => decPset opc rb lit x
  | .pmov => decPmov opc rb lit x
  | .predBallot => decPred .predBallot opc rb lit x
  | .predVote => decPred .predVote opc rb lit x
  | .predElect => decPred .predElect opc rb lit x
  | .xm => decXm opc rb lit x
  | .xt => decXt opc rb lit x
  | .pair => if lit.isNone then decPair opc rb x else .error opc

/-- The fields of the instruction whose bits are `x`, word 0 lowest, and whose opcode accepts `k` (R40 to R43). -/
def decBody (k : BaseK × ExtK) (opc : BitVec 8) (x : Nat) : Except (BitVec 8) Body :=
  let rb := x / 4 % 2 == 1
  match x % 4 with
  | 0 => decBase k.1 opc rb none (x / 2 ^ 11 % 2 ^ 21)
  | 2 => decBase k.1 opc rb (some (BitVec.ofNat 64 (x / 2 ^ 32))) (x / 2 ^ 11 % 2 ^ 21)
  | 1 => decExt k.2 opc rb none (x / 2 ^ 11 % 2 ^ 85)
  | _ => decExt k.2 opc rb (some (BitVec.ofNat 64 (x / 2 ^ 96))) (x / 2 ^ 11 % 2 ^ 85)

/-- The instruction whose bits are `x`, word 0 lowest, or the opcode or selector that makes it none (R69, R77). -/
def decode (x : Nat) : Except (BitVec 8) Instr :=
  let opc := x / 8 % 256
  let v := BitVec.ofNat 8 opc
  match kindOf opc with
  | none => .error v
  | some k =>
    match decBody k v x with
    | .error e => .error e
    | .ok b =>
      match build opc b with
      | none => .error v
      | some i =>
        match bad i with
        | some e => .error e
        | none => .ok i

/-! ### The encoder -/

/-- A truth value as a bit. -/
def bitOf (b : Bool) : Nat := if b then 1 else 0

/-- A slot field: valid bit and number. -/
def slotBits (x : Option (Fin 8)) : Nat × Nat :=
  match x with
  | some n => (1, n.val)
  | none => (0, 0)

/-- The literal's bits. -/
def litBits (lit : Option DWord) : List (Nat × Nat) :=
  match lit with
  | some l => [(64, l.toNat)]
  | none => []

/-- LEN of a base form (R42). -/
def lenB (lit : Option DWord) : Nat := if lit.isSome then 2 else 0
/-- LEN of an extended form (R42). -/
def lenX (lit : Option DWord) : Nat := if lit.isSome then 3 else 1

/-- LEN, RB and OPC (R40). -/
def headBits (len : Nat) (rb : Bool) (opc : Nat) : List (Nat × Nat) := [(2, len), (1, bitOf rb), (8, opc)]

/-- The fields of XV above the opcode (R57), from its selector values. -/
def xvBits (d : Nat) (slot : Option (Fin 8)) (p : Fin 16) (pn : Bool) (mod3 : Fin 8) (a : Nat) (ax : SrcX) (b : Nat)
    (bx : SrcX) (c : Nat) (cx : SrcX) (f6 : Fin 64) : List (Nat × Nat) :=
  [(8, d), (3, (slotBits slot).2), (1, (slotBits slot).1), (4, p.val), (1, bitOf pn), (3, mod3.val), (1, 0),
   (8, a), (1, bitOf ax.kill), (3, (slotBits ax.fill).2), (1, (slotBits ax.fill).1), (3, permCode ax.perm), (6, ax.amt.val),
   (8, b), (1, bitOf bx.kill), (1, 0), (3, (slotBits bx.fill).2), (1, (slotBits bx.fill).1), (3, permCode bx.perm),
   (6, bx.amt.val), (8, c), (1, bitOf cx.kill), (3, (slotBits cx.fill).2), (1, (slotBits cx.fill).1), (6, f6.val)]

/-- The fields of a BS form above the opcode (R90). -/
def bsBits : BsF → List (Nat × Nat)
  | .none => [(21, 0)]
  | .jmpi a pr => [(7, srcCode7 a), (2, pr.val), (12, 0)]
  | .call d ofs => [(7, dstCode7 d), (14, ofs.toNat)]
  | .ret a => [(7, srcCode7 a), (14, 0)]
  | .jmark j ofs => [(2, j.val), (5, 0), (14, ofs.toNat)]
  | .join j => [(2, j.val), (19, 0)]
  | .waitc l c x => [(6, l.val), (4, c.val), (6, x.val), (5, 0)]
  | .lwait t ns => [(2, t.val), (19, ns.toNat)]
  | .sleep ns => [(21, ns.toNat)]
  | .setprio pr => [(2, pr.val), (19, 0)]
  | .code c => [(16, c.toNat), (5, 0)]
  | .cpywait t n => [(2, t.val), (6, n.val), (13, 0)]
  | .await b => [(3, b.val), (18, 0)]

/-- The fields of an instruction, the lowest bits first, as its format lays them out. -/
def bodyBits (opc : Nat) : Body → List (Nat × Nat)
  | .bv f => headBits (lenB f.lit) f.rb opc ++ [(7, dstCode7 f.d), (7, srcCode7 f.a), (7, srcCode7 f.b)] ++ litBits f.lit
  | .bv1 f => headBits 0 f.rb opc ++ [(7, dstCode7 f.d), (7, srcCode7 f.a), (7, 0)]
  | .ballot f => headBits 0 f.rb opc ++ [(7, dstCode7 f.d), (7, f.pa.val), (7, 0)]
  | .vote f => headBits 0 f.rb opc ++ [(7, f.pd.val), (7, f.pa.val), (7, 0)]
  | .elect f => headBits 0 f.rb opc ++ [(7, f.pd.val), (7, 0), (7, 0)]
  | .bb f => headBits (lenB f.lit) f.rb opc ++ [(4, f.p.val), (1, bitOf f.n), (2, f.pr.val), (14, f.ofs.toNat)] ++ litBits f.lit
  | .bm f => headBits 0 f.rb opc ++ [(7, dstCode7 f.d), (7, srcCode7 f.a), (4, f.off4.val), (3, sizeCode f.sz)]
  | .hint f => headBits 0 f.rb opc ++ [(7, 0), (7, srcCode7 f.a), (4, f.off4.val), (3, 0)]
  | .bs rb f => headBits 0 rb opc ++ bsBits f
  | .xv f =>
    headBits (lenX f.lit) f.rb opc ++
      xvBits (dstCode f.d) f.slot f.p f.pn f.mod3 (srcCode f.a.sel) f.a (srcCode f.b.sel) f.b (srcCode f.c.sel) f.c f.func6 ++
      litBits f.lit
  | .cmp f =>
    headBits (lenX f.lit) f.rb opc ++
      xvBits f.pd.val none f.p f.pn f.cond (srcCode f.a.sel) f.a (srcCode f.b.sel) f.b 0 SrcX.unused f.func6 ++ litBits f.lit
  | .pset f =>
    headBits 1 f.rb opc ++
      xvBits f.pd.val none f.p f.pn 0 (f.pa.val + 16 * (f.tt.toNat % 16)) SrcX.unused (f.pb.val + 16 * (f.tt.toNat / 16))
        SrcX.unused f.pc.val SrcX.unused 4
  | .pmov f =>
    match f.dir with
    | .toPred pd a =>
      headBits (lenX f.lit) f.rb opc ++
        xvBits pd.val none f.p f.pn 0 (srcCode a.sel) a 0 SrcX.unused 0 SrcX.unused 0 ++ litBits f.lit
    | .toReg d pa =>
      headBits (lenX f.lit) f.rb opc ++
        xvBits (dstCode d) none f.p f.pn 0 pa.val SrcX.unused 0 SrcX.unused 0 SrcX.unused 4 ++ litBits f.lit
  | .pred f =>
    headBits (lenX f.lit) f.rb opc ++
      xvBits (if opc = 0x66 then dstCode f.d else f.pd.val) none f.p f.pn f.mod3 f.pa.val SrcX.unused 0 SrcX.unused
        (srcCode f.c.sel) f.c f.func6 ++ litBits f.lit
  | .xm f =>
    headBits (lenX f.lit) f.rb opc ++
      [(8, dstCode f.d), (4, f.p.val), (1, bitOf f.pn), (3, sizeCode f.sz), (3, scopeCode f.scope), (2, ordCode f.ord),
       (8, srcCode f.a), (1, bitOf f.ak), (8, srcCode f.x), (3, f.xsh.val), (12, 0), (20, f.ofs.toNat), (2, f.cls.val),
       (1, bitOf f.tk.isSome), (2, match f.tk with | some t => t.val | none => 0), (1, 0), (6, f.func6.val)] ++ litBits f.lit
  | .xt f =>
    headBits (lenX f.lit) f.rb opc ++
      [(8, dstCode f.d), (4, f.p.val), (1, bitOf f.pn), (8, f.e8.toNat), (8, srcCode f.a), (8, srcCode f.b),
       (8, srcCode f.c), (8, srcCode f.x), (32, f.imm.toNat)] ++ litBits f.lit
  | .pair f =>
    headBits 1 f.rb opc ++
      [(6, f.x.op.code), (7, dstCode7 f.x.d), (7, srcCode7 f.x.a), (1, bitOf f.x.ak), (7, srcCode7 f.x.b), (1, bitOf f.x.bk),
       (6, f.y.op.code), (7, dstCode7 f.y.d), (7, srcCode7 f.y.a), (1, bitOf f.y.ak), (3, 0), (7, srcCode7 f.y.b),
       (1, bitOf f.y.bk), (4, f.x.p.val), (4, f.y.p.val), (1, bitOf f.x.pn), (1, bitOf f.y.pn), (14, 0)]

/-- The bits of an instruction, word 0 lowest; 0 for a step of the device. -/
def encodeBits (i : Instr) : Nat :=
  match bodyOf i with
  | some (opc, b) => pack (bodyBits opc b)
  | none => 0

/-- The bytes an instruction takes; 0 for a step of the device. -/
def byteLen (i : Instr) : Nat :=
  match bodyOf i with
  | some (opc, b) => ((bodyBits opc b).map Prod.fst).sum / 8
  | none => 0

/-- The next `n` words of a number, the lowest first. -/
def wordsOf : Nat → Nat → List Word
  | 0, _ => []
  | n + 1, x => BitVec.ofNat 32 x :: wordsOf n (x / 2 ^ 32)

/-- The number whose words these are. -/
def ofWords : List Word → Nat
  | [] => 0
  | w :: t => w.toNat + 2 ^ 32 * ofWords t

/-- The words of an instruction (R40, R41). -/
def encode (i : Instr) : List Word := wordsOf (byteLen i / 4) (encodeBits i)

/-- The instruction of the words `ws`, the first word first. -/
def decodeWords (ws : List Word) : Except (BitVec 8) Instr := decode (ofWords ws)

/-- The instruction has an encoding (a step of the device has none). -/
def isWord (i : Instr) : Bool := (bodyOf i).isSome

/-- The number of the bytes of a memory image, the lowest address first (R6). -/
def ofBytes : List Byte → Nat
  | [] => 0
  | b :: t => b.toNat + 256 * ofBytes t

/-- The low `n` bytes of a number, the lowest first. -/
def bytesOf : Nat → Nat → List Byte
  | 0, _ => []
  | n + 1, x => BitVec.ofNat 8 x :: bytesOf n (x / 256)

/-- The instruction this decoder reads from an instruction whose bits are `w` (bit 0 the lowest of the first word). The
words are laid out little-endian, as the device stores them, and read back. -/
def decodeTableWord (nbits w : Nat) : Option Instr :=
  match decode (ofBytes (bytesOf 20 (w % 2 ^ nbits))) with
  | .ok i => some i
  | .error _ => none

end Sys2Proof
end

