-- ==== Sys2Proof/Config.lean ====
section
/-! DEFINITION. What one part fixes, and the free values: constants without a body, of which no proof can know anything.
Each is applied to plain data of the state, most to the counter `tick` that the step advances (notes/assumptions/4.md). -/

namespace Sys2Proof.Config

/-- The next candidate a step takes, of `n` (R23, R454; DESIGN CHOICE 6). -/
opaque pick : Nat → Nat
/-- The nanoseconds of chronometer time a step takes (R9, R454; DESIGN CHOICE 6). -/
opaque dt : Nat → Nat
/-- A free bit of a step, by its number within it: old or new value, one writer or the other (R38, R70, R216, R217, R252). -/
opaque bit : Nat → Nat → Bool
/-- A free number of a step: a victim of a replacement no rule orders, a promise (R195, R253; DESIGN CHOICE 8). -/
opaque num : Nat → Nat → Nat
/-- A number that one part fixes: when refresh begins, where the HBM keeps a burst (DESIGN CHOICE 23). -/
opaque fixed : Nat → Nat
/-- The home slice and set of a line, and the plane of a remote line: hashes no rule gives (R193, R195, R298). -/
opaque hash : Nat → Nat
/-- The members of a multicast group, which the switches' lists name outside the package (R189, R309; DESIGN CHOICE 48). -/
opaque member : Nat → Nat → Nat
/-- A free byte of a step: code or data of another device or of a host that no reply has fixed. -/
opaque byte : Nat → Nat → Byte
/-- The page that a launch's read-only parameter copy occupies: R330 gives it no address. -/
opaque param : Nat → Nat
/-- The result a special function would give before the bound of R110 is applied to it (DESIGN CHOICE 5): the
function's opcode, the fraction width of its format, FPMODE.FLUSH and the operand (R111). -/
opaque special : Nat → Nat → Bool → Nat → Nat
/-- The digest of measurement block `i` in state `t` (R403). -/
opaque digest : Nat → Nat → Nat
/-- A key drawn by Lodestar's DRBG (R395, R402). -/
opaque key : Nat → Nat

end Sys2Proof.Config
end

