-- ==== Sys2Proof/Machine/State.lean ====
section
/-! DEFINITION. The state of the Tercor N9 as plain data: every register, table and queue the spec gives it, and the
fields of the model's own that say which step comes next. Each field cites the rule that names it. Tables are sparse: a
key that is absent holds the initial value its accessor names. -/

namespace Sys2Proof.Machine

/-- Why a step has no next state. -/
inductive Fault where
  /-- Raised by every instruction word when the core in `focus` runs no wave, so nothing issues it (R23). Safe: the
  hardware never issues an instruction without a wave. -/
  | noIssuer
  deriving DecidableEq, Repr

/-- Why a step is refused. -/
inductive Refusal where
  /-- Raised by an arm of `exec` whose instruction has no meaning yet. Safe: nothing can be proved of it. -/
  | notModelled (mnemonic : String)
  deriving DecidableEq, Repr

/-- Memory: addresses strictly rising, no listed byte zero; an unlisted address reads as zero (R14). -/
abbrev Memory := List Host.Cell

/-! ### A wave -/

/-- A join register's record (R164, R165): absent from the table when empty. -/
structure JReg where
  pc : DWord
  mask : Mask
  arrived : Mask
  deriving DecidableEq, Repr

/-- Trap codes (R360). -/
inductive Cause where
  | illegal | runlen | priv | misalign | aperture | xlate | prot | handle | accown | promise | rdverr | wpstale | fabric
  | ecc | fpexc | deadread | syscall | brkpt
  deriving DecidableEq, Repr

/-- What a trap writes (R361, R362): its cause, the bits IMPRECISE and FETCH, TRAPPC, TRAPADDR and the return. -/
structure TrapRec where
  cause : Cause
  imprecise : Bool
  fetch : Bool
  pc : DWord
  addr : DWord
  mask : Mask
  ret : DWord
  newRun : Bool
  deriving DecidableEq, Repr

/-- What a waiting entry waits for (R158). -/
inductive WaitObj where
  | join (j : Nat)                                                   -- R165
  | exch (pc : DWord) (m : Mask)                                     -- R179
  | ticket (t : Nat) (id : Nat) (deadline : Option Nat)              -- R172
  | counts (l c x : Nat)                                             -- R170
  | sleep (until_ : Nat)                                             -- R171
  | copies (t n : Nat)                                               -- R256
  | rdv (off : Nat) (ph : Bool) (sd : Option (Fin 64)) (at_ : Nat)   -- R260; the step at which it issued (R290)
  | promise (off : Nat) (ph : Bool) (sd : Option (Fin 64)) (t : Nat) -- R254
  | bank (b : Nat) (op : Nat) (sd : Option (Fin 64)) (at_ : Nat)     -- R288; the step at which it issued (R290)
  | tret                                                             -- R364
  deriving DecidableEq, Repr

/-- An entry's state (R158). -/
inductive EState where
  | ready
  | wait (o : WaitObj)
  deriving DecidableEq, Repr

/-- A frontier entry (R158). `report` holds the traps due when the entry is next selected (R307, R360); `len` is the length
of the waiting instruction. -/
structure Entry where
  pc : DWord
  mask : Mask
  prio : Fin 4
  starve : Nat
  st : EState
  len : Nat
  report : List TrapRec
  deriving DecidableEq, Repr

/-- A latch or an operand cache slot: 64-bit lanes and a valid bit per lane (R15, R26, R29). -/
structure Latch where
  vals : List DWord
  valid : Mask
  deriving DecidableEq, Repr

/-- The upper operand levels (R24, R25). -/
structure Upper where
  la : Latch
  lb : Latch
  ls : DWord
  lsValid : Bool
  o : Table Latch
  deriving DecidableEq, Repr

/-- Invalid upper levels (R24). -/
def Upper.none : Upper := ⟨⟨[], 0⟩, ⟨[], 0⟩, 0, false, []⟩

/-- A register or a predicate that a class L instruction writes. -/
inductive RegRef where
  | v (n : Nat) | s (n : Nat) | p (n : Nat)
  deriving DecidableEq, Repr

/-- A pending class L write: the lanes it writes, their values, and the lanes another write has met (R38). -/
structure LWrite where
  reg : RegRef
  mask : Mask
  vals : List DWord
  met : Mask
  deriving DecidableEq, Repr

/-- The counter an operation is counted in (R39, R256). -/
inductive Ctr where
  | ldc | sc | xc | bc (t : Nat) | none
  deriving DecidableEq, Repr

/-- A failed access as a status word names it (R304, R305); `req` tells the requests of a wave apart. -/
structure Failure where
  code : Nat
  peer : Nat
  host : Bool
  port : Nat
  req : Nat
  deriving DecidableEq, Repr

/-- One lane of a CPY (R255): its destination's partition offset and the bytes it will write. -/
structure CpyLane where
  lane : Nat
  off : Nat
  data : List Byte
  deriving DecidableEq, Repr

/-- What a class L operation is, beyond its register writes. -/
inductive LWork where
  | value                                                  -- values known at issue
  | load (sz : Size) (sign : Bool) (kind : MOp)            -- lanes arrive from the accesses (R229 to R236)
  | fence (scope : Scope) (sd : Bool)                      -- R238
  | cpy (lanes : List CpyLane)                             -- R255
  | tcopy (copy : Nat)                                     -- the promise of a copy (R253)
  | tunmap (handle : Nat)                                  -- R271
  | ard (op : Nat)                                         -- R288
  | wpub (pub : Nat) (sd : Bool)                           -- R351
  | tlbinv (id : Nat)                                      -- R380
  | wtest (inst key : Nat)                                 -- reads the entry as it lands (R351)
  | launch (pa : Option Nat) (d : BitVec 512) (q : Nat)    -- R339: the descriptor's place in device memory, or itself
  deriving DecidableEq, Repr

/-- A class L operation of a wave (R36, R38, R39): `mask` its lanes, `ready` the lanes whose values are known, `left` the
lanes not landed, `done` the completion a rule names in place of a landing; `prompt`, of an operation that lands within 256
unsuspended cycles of its issue (R36), the cycles the wave had been suspended before it. -/
structure LOp where
  id : Nat
  ctr : Ctr
  pc : DWord
  work : LWork
  mask : Mask
  ready : Mask
  left : Mask
  writes : List LWrite
  done : Bool
  acquire : Bool
  ticket : Option Nat
  issued : Nat
  flags : BitVec 5
  prompt : Option Nat
  deriving DecidableEq, Repr

/-- A masked exchange's arrival record (R179): the lanes arrived and their captured operands a, b and predicate. -/
structure Exch where
  pc : DWord
  m : Mask
  instr : Instr
  arrived : Mask
  recv : Mask
  a : List DWord
  b : List DWord
  pr : Mask
  deriving DecidableEq, Repr

/-- A reply slot (R295). `busy` names the request it serves, `peer` the device that must answer, and `heard` the devices of
which some reply has come before the deadline (R305); `taken` orders the requests of the device, and `answered` names the
operation and the lanes whose registers the accepted reply has still to reach (R295); the deadline in chronometer and in group
time (R300). -/
structure RSlot where
  busy : Option Nat
  seq : BitVec 8
  peer : Option Nat
  heard : List Nat
  taken : Nat
  answered : Option (Nat × Mask)
  deadline : Nat
  gdeadline : Int
  deriving DecidableEq, Repr

/-- The failure record of a wave (R303): how many failures, the first, the request of the last, and what they will set in
PEERST (R306). -/
structure FailRec where
  n : Nat
  first : Option Failure
  last : Option Nat
  bits : Nat
  peer : Nat
  deriving DecidableEq, Repr

/-- A failure, rejection or stale publication not yet reported (R231, R262, R307, R351): the counter and the operation
it belongs to (`Ctr.none` for a FENCE and a rendezvous update), the ticket and the lane of a failed load, the PC of a
FENCE, and the TRAPADDR or the failure. -/
structure Report where
  cause : Cause
  ctr : Ctr
  op : Nat
  ticket : Option Nat
  lane : Option Nat
  pc : DWord
  addr : DWord
  fail : Option Failure
  deriving DecidableEq, Repr

/-- An update of a rendezvous object that waits for its turn (R259). -/
inductive RdvUpd where
  | arrive (n : Nat) | expect (n : Int)
  deriving DecidableEq, Repr

/-- A RDVARR or RDVEXP of a wave that has not been applied (R213, R259). -/
structure RdvPend where
  id : Nat
  off : Nat
  upd : RdvUpd
  deriving DecidableEq, Repr

/-- The state of the wave's current run (R21, R22, R37). -/
structure RunSt where
  isOpen : Bool
  slots : Nat
  prev : Nat      -- cycle of the previous issue slot
  deriving DecidableEq, Repr

/-- What a suspended instruction waits to do (R25): be tried again, be tried in the coming step, or go on with its remaining
requests, which need reply slots (R295), or its remaining page posts, which need room in the ring (R233). A run to which TRET
has returned while its context is being pre-empted is stopped until the context runs again (R364, R381). -/
inductive SuspKind where
  | retry | trying | rest (len : Nat) (ends : Bool) (pages : List Nat) | stopped
  deriving DecidableEq, Repr

/-- A suspension: since which core cycle, and the upper levels once saved (R25). -/
structure Susp where
  kind : SuspKind
  since : Nat
  saved : Option (Upper × Nat)
  deriving DecidableEq, Repr

/-- A trap wait (R366): the page, the kind, the address and the executing lanes, the request awaited, the answer once it
has come, and the saved levels. -/
structure TrapWait where
  vpn : Nat
  kind : Nat
  fetch : Bool
  addr : DWord
  mask : Mask
  seq : Option (BitVec 32)
  answer : Option Bool
  since : Nat
  saved : Option (Upper × Nat)
  deriving DecidableEq, Repr

/-- What handler mode keeps for TRET (R362, R364): `parked` is the exchange that the trapping entry waits on, whose completion
raised the trap, and the length of its instruction (R179). -/
structure Handler where
  up : Upper
  slots : Nat
  held : List Entry
  prio : Fin 4
  starve : Nat
  lanes : Mask
  report : List TrapRec
  parked : Option (DWord × Mask × Nat)
  deriving DecidableEq, Repr

/-- Due cycles of the timing contract (R37, R131): by register selector code, and 256 + n for p n. `wr` holds the lanes that
the latest class A and W writes of a register write (R38). -/
structure Timing where
  reg : Table Nat
  wr : Table Mask
  la : Nat
  lb : Nat
  ls : Nat
  o : Table Nat
  deriving DecidableEq, Repr

/-- A wave (R15 and the rules at its fields). Keyed by core × 32 + wave slot. -/
structure Wave where
  group : Nat                 -- group key
  launch : Nat                -- LAUNCHID (R18)
  ctx : Nat                   -- CTXID (R370)
  ten : Nat                   -- TENANCY (R18)
  waveid : Nat                -- WAVEID (R18)
  groupid : Nat               -- GROUPID (R18)
  groupwaves : Nat            -- GROUPWAVES (R18)
  parambase : DWord           -- PARAMBASE (R18)
  priv : Nat                  -- private slot (R330)
  nv : Nat                    -- R16
  ns : Nat                    -- R16
  v : Table (List Word)       -- v registers (R15)
  s : Table DWord             -- s registers (R15)
  p : Table Mask              -- p1 to p15 (R4, R15)
  dead : List Nat             -- dead bits, by selector code (R32)
  j : Table JReg              -- join registers (R164)
  frontier : List Entry       -- R158; the issuing entry first while a run is open
  launched : Mask             -- R329
  exited : Mask               -- R169
  up : Upper                  -- la, lb, ls, o0 to o7
  run : RunSt
  handler : Option Handler    -- handler mode (R362)
  lops : List LOp             -- LDC, SC, XC and BC0 to BC3 count these (R39, R256)
  fpmode : DWord              -- R19
  wstat : DWord               -- R20
  mwct : DWord                -- R207
  trapcause : DWord           -- R361
  trappc : DWord
  trapaddr : DWord
  trapmask : DWord            -- R370
  retpc : DWord
  traprun : DWord
  hsave : Table DWord         -- HSAVE0 to HSAVE7 (R370)
  peerst : DWord              -- R306
  perf : Table DWord          -- R373
  slots : Table RSlot         -- R295
  fail : FailRec              -- R303
  reports : List Report       -- not yet reported (R231, R262, R303, R351), oldest first
  rdvq : List RdvPend         -- R259
  exch : List Exch            -- R179
  susp : Option Susp          -- R25
  trapWait : Option TrapWait  -- R366
  oprdy : Option Nat          -- the latest OPRDY, while it holds later array instructions (R284)
  halting : Bool              -- a launch-scope halt waits for its run boundary (R369)
  time : Timing
  deriving DecidableEq, Repr

/-! ### Groups and cores -/

/-- Who wrote a byte of a partition: a store of a wave, a copy, or an ADRAIN. -/
inductive Writer where
  | wave (k : Nat) | copy | drain
  deriving DecidableEq, Repr

/-- A byte of a partition whose old value may still be read (R215 to R217, R252, R256): the write that replaced it and who wrote
it. `done` is the next fresh number when the write was over: a store's as it was performed, a copy's or ADRAIN's as it was
credited. `marks` holds the rendezvous objects at which the writer has arrived or that it has credited, each with whether the
phase has ended since; `clear` the waves for which the new value is certain and `all` that it is so for every wave; `seen` the
waves that have read it (R208); `ordered` the waves whose OPRDY has met it, `tce` and `arr` that it is visible to the quad's
TCE and to its array. -/
structure Stale where
  id : Nat
  done : Option Nat
  by_ : Writer
  off : Nat
  old : Byte
  marks : List (Nat × Bool)
  clear : List Nat
  seen : List Nat
  all : Bool
  ordered : List Nat
  tce : Bool
  arr : Bool
  deriving DecidableEq, Repr

/-- The credit of a completed array instruction `id` of a wave that is held at its object (R259): what it will apply. -/
structure Credit where
  id : Nat
  wave : Nat
  off : Nat
  bytes : Nat
  err : Bool
  flags : BitVec 5
  deriving DecidableEq, Repr

/-- A group (R333). Keyed by core × 16 + group slot. -/
structure Group where
  launch : Nat
  gid : Nat
  ctx : Nat
  off : Nat                   -- partition offset in the core's scratchpad, bytes
  size : Nat                  -- partition size, bytes
  scratch : Memory            -- partition contents, by partition offset
  stale : List Stale          -- bytes whose old value may still be read, of each byte the latest write first
  err : Bool                  -- group error flag (R290)
  bad : List Nat              -- partition offsets whose storage holds an uncorrectable error (R290, R431)
  code : Table (List (Nat × Word)) -- words of device memory that stores have replaced since dispatch, by pa / 4, each with the
                              -- time at which it was, oldest first (R70)
  credits : List Credit       -- credits held at their objects (R259)
  prio : Fin 4                -- launch priority (R287)
  waves : Nat
  deriving DecidableEq, Repr

/-- A cached translation (R379): the page's virtual base, its size, the leaf's target and permissions. -/
structure TlbEntry where
  ctx : Nat
  va : Nat
  size : Nat
  pte : DWord
  deriving DecidableEq, Repr

/-- An L1 line or replica: its bytes, the lease's expiry, the launch it was filled for, and which of its two bursts are
poisoned, a bit each (R192, R195, R430). -/
structure Leased where
  data : List Byte
  expiry : Nat
  launch : Nat
  poison : Nat
  deriving DecidableEq, Repr

/-- Handle entry states (R274). -/
inductive HState where
  | free | mapped | retiring
  deriving DecidableEq, Repr

/-- A tile handle entry (R268, R270). -/
structure HandleEntry where
  st : HState
  gen : Nat
  owner : Nat
  off : Nat
  rows : Nat
  pool : Bool
  swz : Bool
  sigma : BitVec 6
  fmt : Nat
  deriving DecidableEq, Repr

/-- A core (R1). Keyed by COREID. -/
structure Core where
  run : Option Nat            -- the wave whose run is open or suspended on the core (R23, R25)
  last : Nat                  -- wave slot that ran last (R23)
  cycle : Nat                 -- the next issue cycle (R37, R373)
  pipeA : Nat                 -- cycle at which pipe A is free (R37)
  pipeB : Nat                 -- cycle at which pipe B is free (R37)
  pipeS : Nat                 -- cycle at which the scalar pipe is free (R37)
  split : Nat                 -- scratchpad in 64 KiB units (R186)
  pendSplit : Option Nat      -- split to apply once empty (R186)
  reserve : List (Nat × Nat)  -- launches and groups that reserve the core, oldest first (R335)
  l1 : Table Leased           -- by line number (R192)
  tlb : List TlbEntry         -- 64 entries (R379)
  handles : Table HandleEntry -- R268
  deriving DecidableEq, Repr

/-! ### The matrix array and the tile copy engine -/

/-- Bank states (R278). -/
inductive BState where
  | free | owned | releasing
  deriving DecidableEq, Repr

/-- An accumulator bank (R275): elements by row × 128 + column. -/
structure Bank where
  st : BState
  owner : Nat
  int : Bool
  poison : Bool
  bad : Bool                  -- its storage holds an uncorrectable error (R290, R431)
  elems : Table Word
  deriving DecidableEq, Repr

/-- What an array instruction does (R277, R281, R282, R288). -/
inductive AOpKind where
  | zero (release : Bool)
  | mma (ty a b : Nat)
  | mmag (ty a b idx m : Nat)
  | ard (d arow n : Nat) (lanes : Mask)
  | adrain (tile arow rows : Nat)
  | aload (tile arow rows : Nat)
  deriving DecidableEq, Repr

/-- The stages of an array instruction (R283, R286), with the array cycle at which the stage ends; one recorded for a
restore is parked (R291). -/
inductive AStage where
  | queued | filling (until_ : Nat) | filled | running (until_ : Nat) | transfer (until_ : Nat) | parked
  deriving DecidableEq, Repr

/-- An array instruction not yet completed (R285). `a` and `b` hold the filled operands, a row of codes after a row;
`inst` numbers the instruction, 0 for a zeroing that the device queues itself; `reuseA` and `reuseB` say that an operand
is that of the core's previous op (R283). -/
structure AOp where
  id : Nat
  inst : Nat
  core : Nat
  group : Nat
  wave : Nat
  bank : Nat
  kind : AOpKind
  rdv : Option Nat
  stage : AStage
  weight : Nat
  err : Bool
  ecc : Bool                  -- an uncorrectable storage error met it (R290)
  aborted : Bool
  reuseA : Bool
  reuseB : Bool
  ha : HandleEntry            -- the tiles' entries as they stood at issue
  hb : HandleEntry
  a : List (List Nat)
  b : List (List Nat)
  ix : List Nat               -- the row indices of a gather as its fill began (R282)
  deriving DecidableEq, Repr

/-- A core's operand latch (R283): its previous MMA or MMAG while no OPRDY, TMAP or TUNMAP has followed, and the operands
filled last; `err` says that an index of the gathered operand lay beyond the pool. -/
structure OpLatch where
  key : Option AOpKind
  err : Bool
  a : List (List Nat)
  b : List (List Nat)
  deriving DecidableEq, Repr

/-- Tile copies (R247, R249, R250). -/
inductive CopyKind where
  | tcopy (conv : Nat) (tr : Bool) (cls : Nat) (sd : Bool)
  | tstore (widen : Nat) (cls : Nat)
  | tgather (conv : Nat) (n32 : Bool) (iofs : Nat)
  deriving DecidableEq, Repr

/-- A copy in the TCE's queue (R252): `nextRow` the rows begun, `rowsOpen` those not written yet with the memory bytes
read so far, `bad` the failed ones among them, `wait` the page awaited (R251). -/
structure Copy where
  id : Nat
  core : Nat
  group : Nat
  wave : Nat
  ctx : Nat
  launch : Nat
  kind : CopyKind
  tile : Nat
  h : HandleEntry             -- the tile's entry as it stood at issue
  row0 : Nat
  rows : Nat
  mem : DWord
  stride : DWord
  params : DWord              -- PARAMBASE of the wave that issued it (R330)
  rdv : Nat
  accepted : Bool
  nextRow : Nat
  rowsOpen : Table (List Byte)
  bad : List Nat
  err : Bool
  aborted : Bool
  flags : BitVec 5
  wct : Nat
  wait : Option (Nat × Option (BitVec 32) × Option Bool)
  deriving DecidableEq, Repr

/-- A quad (R1); the entry 128 holds the reply slots of the command processor alone (notes/assumptions/67.md). -/
structure Quad where
  banks : Table Bank
  ops : List AOp              -- every core's array instructions, in issue order (R285)
  next : Nat                  -- the core of the arbiter's next visit (R287)
  started : Nat               -- ops started in the visit (R287)
  busyUntil : Nat             -- array cycle at which it is free (R286)
  cycle : Nat                 -- array cycles
  latch : Table OpLatch       -- by core within the quad (R283)
  copies : List Copy          -- R252
  tlb : List TlbEntry         -- TCE TLB, 32 entries (R379)
  slots : Table RSlot         -- 64 reply slots (R296)
  claim : Option (Nat × Nat)  -- the array cycle of the bank instruction decided last, and its core (R277)
  deriving DecidableEq, Repr

/-! ### Memory system -/

/-- Where an access goes (R198); `param` is a launch's parameter copy (R330). -/
inductive Target where
  | scratch (group off : Nat)
  | dev (pa : Nat)
  | host (port addr : Nat)
  | remote (peer win off : Nat)
  | mcast (group win off : Nat)
  | param (launch off : Nat)
  deriving DecidableEq, Repr

/-- What an access does. -/
inductive AKind where
  | load | store | atom (op : AtomOp) | red (op : AtomOp) | mcred (op : AtomOp)
  deriving DecidableEq, Repr

/-- Where an access stands: not yet at its point; needing a reply slot; holding one while its plane is held (R299); a host
write that has left, or that a completion-carrying read follows (R222); pending at the home until its WCT; performed with its
WCT not yet returned; or returned and not yet visible. -/
inductive Stage where
  | travelling | needSlot | queued | posted | flushing
  | pending (w : Nat) | performed (w : Nat) | returned (w : Nat)
  deriving DecidableEq, Repr

/-- Who made an access: a wave, a copy of a quad's TCE, another device's request, or another engine of this device. -/
inductive Owner where
  | wave (k : Nat)
  | tce (quad copy : Nat)
  | peer (id : Nat)
  | engine
  deriving DecidableEq, Repr

/-- One lane's access, or one request of a peer (R198, R200): `part` is the offset of its bytes in the lane's access,
which the private window cuts in units of 4 bytes (R188); `data` holds the bytes stored or the operands; `whole` says
that the stores of its instruction to its line fill the line (R430). -/
structure Acc where
  id : Nat
  owner : Owner
  core : Nat
  op : Nat                    -- the class L operation or instruction it belongs to
  lane : Nat
  part : Nat
  kind : AKind
  tgt : Target
  size : Nat
  data : List Byte
  cls : Nat
  lease : Nat                 -- the context's LEASE at the request (R359)
  ten : Nat
  launch : Nat
  chain : Option Nat
  stage : Stage
  slot : Option Nat
  whole : Bool
  page : Option (Nat × Nat)   -- the page it was translated through: base and size (R380)
  deriving DecidableEq, Repr

/-- A line's home state (R202, R203). -/
structure LineSt where
  emax : Nat
  wprev : Nat
  deriving DecidableEq, Repr

/-- An LLC line (R193, R194, R430); `poison` holds a bit for each of its two bursts. -/
structure LlcLine where
  way : Nat
  cls : Nat
  chain : Nat
  tagged : Bool
  demoted : Bool
  ten : Nat
  used : Nat
  dirty : Bool
  poison : Nat
  deriving DecidableEq, Repr

/-- A physical residency range (R196). -/
structure Resid where
  base : Nat
  pages : Nat
  chain : Nat
  ctx : Nat
  deriving DecidableEq, Repr

/-- A peer's request being served here (R191, R220), what its lanes have read so far, and the failure it is answered with;
`key` is the model's own. -/
structure PeerIn where
  key : Nat
  req : PeerReq
  old : List (Nat × List Byte)
  bad : Option ReplyBody
  deriving DecidableEq, Repr

/-- A translation invalidation in progress (R380). One that moves granules covers the translations to them; `owner` is the
owner byte they take, if it changes (R394, R433). -/
structure Inval where
  id : Nat
  ctx : Nat
  all : Bool
  va : Nat
  pages : Nat
  wave : Option Nat
  port : Option Nat           -- the port whose TLB_INV it is
  dropped : Bool              -- every covered entry has been dropped
  waits : List Nat            -- the accesses through covered entries that were in flight then
  grans : List Nat
  owner : Option (BitVec 8)
  deriving DecidableEq, Repr

/-- Caches, home slices and what is in flight. -/
structure MemSys where
  bytes : Memory              -- device memory (R1, R14)
  poison : List Nat           -- bursts that the HBM delivers as poisoned, by burst number (R430)
  lines : Table LineSt        -- by line number
  accs : List Acc             -- in issue order; at one home line in serialisation order (R201)
  llc : Table LlcLine         -- by line number; a replica's line by its key (R193, R195)
  llcClock : Nat              -- recency counter (R194)
  reps : Table Leased         -- replicas, by (die + 1) × 2^45 + line number (R195)
  ranges : List Resid         -- R196
  windows : Table (BitVec 128) -- peer window table (R190)
  owners : Table (BitVec 8)   -- granule owners (R393)
  ways : Table (BitVec 12)    -- way masks by tenancy (R397)
  moving : List Nat           -- granules between the steps of R394
  llTlb : Table (List TlbEntry) -- last-level TLB by die (R379)
  walker : Table (List TlbEntry) -- walker cache by die: non-leaf entries (R379)
  invals : List Inval         -- R380
  peers : List PeerIn         -- requests of other devices being served
  deriving DecidableEq, Repr

/-! ### Launches, queues, waypoints, contexts -/

/-- Queue state (R325, R326). Keyed by partition × 64 + queue. -/
structure Queue where
  ctx : Nat
  device : Bool
  base : Nat
  k : Nat
  wridx : BitVec 32
  rdidx : BitVec 32
  qstat : Nat
  last : Option Nat           -- the launch or replay admitted last (R331)
  ids : List Nat              -- LAUNCHIDs given to descriptors not yet admitted (R330, R339)
  wait : List (Nat × Option (BitVec 32) × Option Bool) -- pages awaited at admission (R330, R356)
  held : Table (BitVec 512)   -- descriptors LAUNCH has appended whose slot took no store, by index (notes/assumptions/64.md)
  deriving DecidableEq, Repr

/-- An input map (R344). -/
structure WpMap where
  prod : Nat
  count : Nat
  step : Int
  stride : Int
  gen : Nat
  base : Nat
  deriving DecidableEq, Repr

/-- How a group's need of a key stands (R346, R352). -/
inductive NeedSt where
  | cur | next | deferred | overflowed
  deriving DecidableEq, Repr

/-- A registration (R346). -/
structure Need where
  gid : Nat
  map : Nat
  key : Nat
  gen : Nat
  st : NeedSt
  deriving DecidableEq, Repr

/-- An admitted launch (R327 to R332). Keyed by LAUNCHID. -/
structure Launch where
  ctx : Nat
  part : Nat
  queue : Nat
  desc : BitVec 512
  params : List DWord         -- the parameter copy (R330)
  inst : Nat                  -- chain instance, 0 outside any chain (R342)
  chain : Option Nat
  index : Nat                 -- index in the chain
  maps : List WpMap
  obase : Nat
  opened : Bool
  fault : Option Nat          -- launch code once it has failed (R330, R353)
  next : Nat                  -- groups dispatched
  dispatched : List Nat       -- GROUPIDs dispatched
  live : Nat                  -- groups resident or saved
  ovf : Bool
  needs : List Need
  slots : List Nat            -- private slots in use (R330)
  offered : Option (Nat × Nat) -- the offered group that fits nowhere, and since which chronometer time (R335)
  pred : Option Nat           -- the launch or replay to wait for (R331)
  deriving DecidableEq, Repr

/-- A waypoint entry (R341). -/
structure WpEntry where
  ctx : Nat
  inst : Nat
  key : Nat
  gen : Nat
  cur : Nat
  next : Nat
  defer : Bool
  held : Option Nat           -- the publication held on it
  creator : Nat               -- the launch that created it (R349)
  deriving DecidableEq, Repr

/-- A publication on its way (R348, R351): `who` numbers the wave within its launch, GROUPID × 16 + WAVEID; `held` says that
it has answered 3 and waits, on its entry or behind a held one of its wave. -/
structure Pub where
  id : Nat
  who : Nat
  op : Nat
  launch : Nat
  key : Nat
  gen : Nat
  held : Bool
  deriving DecidableEq, Repr

/-- A recorded chain (R355). Keyed by context × 64 + chain. -/
structure Chain where
  overlap : Bool
  entries : List (BitVec 512 × BitVec 1024)
  last : Option Nat           -- the instance admitted last, by its identity `lid` (R357)
  deriving DecidableEq, Repr

/-- A chain instance outstanding (R356, R357). `lid` is the identity its replay descriptor took. -/
structure Instance where
  lid : Nat
  ctx : Nat
  chain : Nat
  id : Nat
  part : Nat
  queue : Nat
  done : Nat
  doneVal : BitVec 32
  launches : List Nat         -- in chain order
  codes : Table Nat           -- the codes of the launches that have retired, by index
  ovfs : List Nat             -- those of them that retired with OVF = 1 (R352)
  prev : Option Nat           -- the instance of the chain admitted before it, by its identity `lid` (R357)
  deriving DecidableEq, Repr

/-- A saved group (R382): the group, its waves by slot, its handles and banks, its recorded array work and copies. -/
structure SavedGroup where
  core : Nat
  slot : Nat
  group : Group
  waves : List (Nat × Wave)
  handles : List (Nat × HandleEntry)
  banks : List (Nat × Bank)
  ops : List AOp
  copies : List Copy
  deriving DecidableEq, Repr

/-- How a context stands between running, pre-emption and kill (R381 to R385): its waves come to their run boundaries, its
work drains, it is saved. -/
inductive CtxSt where
  | live | stopping | draining | saved | killing
  deriving DecidableEq, Repr

/-- A page request that awaits its answer (R366, R367). -/
structure PageReq where
  seq : BitVec 32
  vpn : Nat
  kind : Nat
  launch : Nat
  index : Nat
  deriving DecidableEq, Repr

/-- A context (R358). -/
structure Ctx where
  desc : BitVec 512
  clease : DWord              -- CLEASE (R370)
  cto : DWord                 -- CTIMEOUT (R370)
  deficit : Int               -- D (R337)
  st : CtxSt
  saves : List SavedGroup
  served : Nat                -- time of last dispatch (R336)
  prqSeq : BitVec 32          -- next SEQ (R367)
  prq : List PageReq          -- answers awaited
  prqPend : List (Nat × Nat × Nat) -- page, kind and launch of posts that wait (R367)
  deriving DecidableEq, Repr

/-- The command processor. -/
structure Cp where
  queues : Table Queue
  launches : Table Launch
  order : List Nat            -- LAUNCHIDs in admission order
  nextLaunch : Nat
  wp : List WpEntry           -- R341
  pubs : List Pub             -- R348, in issue order
  chains : Table Chain
  instances : List Instance
  nextInst : Table Nat        -- R342
  ctxs : Table Ctx
  rot : Nat                   -- context last served (R337)
  charged : Nat               -- chronometer time charged to (R337)
  opens : List Nat            -- LAUNCHIDs in the order in which they opened (R346)
  deriving DecidableEq, Repr

/-! ### Hosts and tenancies -/

/-- TDI states (R399). -/
inductive TdiSt where
  | unlocked | locked | run | error
  deriving DecidableEq, Repr

/-- A tenancy (R393, R398). -/
structure Tenancy where
  policy : DWord
  part : Nat                  -- the partition that created it
  session : Nat               -- the SPDM session that created it (R393)
  key : Option Nat            -- its HBM key, until it is erased (R395, R446)
  tdi : Table TdiSt           -- by port (R399)
  stream : Table Nat          -- the selective IDE stream bound to the TDI, by port
  ideKey : Table Nat          -- the key of that stream, by port (R402)
  violations : Nat
  stopped : Bool              -- its issue is stopped and its granules fault (R446)
  dying : Bool                -- its destruction waits for its contexts (R393)
  failed : List Nat           -- the ports whose TDI has been in ERROR and not been locked since (R399)
  deriving DecidableEq, Repr

/-- The SPDM responder of a port (R401, R402): how far the connection has come, the session whose handshake is under way with
its handshake secret, and the sessions established, each with its secret and the number of its key updates. -/
structure Spdm where
  stage : Nat
  pending : Option (Nat × Nat)
  sessions : Table (Nat × Nat)
  deriving DecidableEq, Repr

/-- Status codes of the mailbox (R400). -/
inductive MbStatus where
  | ok | denied | busy | noctx | badarg
  deriving DecidableEq, Repr

/-- How a host's read completes (R399, R430): with data, as a poisoned completion, or with Completer Abort. -/
inductive HostAns where
  | data (bs : List Byte) | poisoned | abort
  deriving DecidableEq, Repr

/-- What a Zonar flit carries from this device: a request or a reply, a Meridian message, or the demand for a counter to be sent
again (R298, R407, R441). -/
inductive Zonar where
  | request (peer : Nat) (slot : SlotRef) (seq : BitVec 8) (r : PeerReq)
  | reply (id dest : Nat) (body : ReplyBody)
  | meridian (m : BitVec 256)
  | replayAsk (ctr : Nat)
  deriving DecidableEq, Repr

/-- A flit as it is sent (R440): its header, the nonce and the key under which its payload is encrypted, and the payload. -/
structure SentFlit where
  header : BitVec 64
  nonce : BitVec 96
  key : Nat
  body : Zonar
  deriving DecidableEq, Repr

/-- What the device sends to the outside. -/
inductive Out where
  | mb (port : Nat) (st : MbStatus)
  | mbStatus (port mode : Nat) (ports : List Nat) (tdis : List (Nat × TdiSt))
  | msix (port vector : Nat)
  | hostRead (port : Nat) (stream : Option Nat) (addr size acc : Nat)
  | hostWrite (port : Nat) (stream : Option Nat) (addr : Nat) (data : List Byte)
  | hostAtom (port : Nat) (stream : Option Nat) (addr size acc : Nat) (op : AtomOp) (data : List Byte)
  | hostReply (port : Nat) (ans : HostAns)
  | flit (port : Nat) (f : SentFlit)
  | spdm (port msg : Nat) (body : List Nat)
  | refreshRows (pc bank : Nat) (rows : List Nat)
  deriving DecidableEq, Repr

/-- Hosts, tenancies and attestation (chapter 20). -/
structure HostSt where
  mode : Fin 3                -- R392
  owner : Nat                 -- owner port in SINGLE mode
  takeover : Option Nat       -- the port that owns the partition once its contexts are gone (R392)
  device : Nat                -- DEVICEID (R18)
  tens : Table Tenancy
  spdm : Table Spdm
  drbg : Nat                  -- keys drawn
  rollback : Table (BitVec 64) -- the thermometer codes in the fuses (R449)
  digests : Table Nat         -- R403
  deriving DecidableEq, Repr

/-! ### Meridian -/

/-- Meridian states (R420). -/
inductive MState where
  | none | joining | member | leaving | local_
  deriving DecidableEq, Repr

/-- An announcement (R405). -/
structure Announce where
  sender : Nat
  ceiling : Nat
  effective : Nat
  sent : Nat
  deriving DecidableEq, Repr

/-- A membership change that is pending (R410), announced by device `by_`. -/
structure MChange where
  by_ : Nat
  subject : Nat
  join : Bool
  effective : Nat
  ceiling : Nat
  sent : Nat
  deriving DecidableEq, Repr

/-- A breach record (R422). -/
structure Breach where
  subject : Nat
  cafter : Nat
  cbefore : Nat
  kind : Nat
  mnum : BitVec 32
  end_ : Nat
  start : Nat
  deriving DecidableEq, Repr

/-- The Meridian protocol engine (chapter 21). -/
structure Meridian where
  delta : Int                 -- Δ (R413)
  slew : Nat                  -- ns still to be given back by slewing (R412)
  slewFrom : Nat
  en : Bool                   -- MCTL.EN (R421)
  group : BitVec 32           -- MGROUP
  limit : Nat                 -- MLIMIT
  admit_ : Table Bool         -- MADMIT
  st : MState                 -- MSTATE.STATE
  mnum : BitVec 32            -- MSTATE.MNUM
  mnums : List (Nat × BitVec 32) -- the membership numbers with the group times since which they held, newest first (R422)
  members : Table (Nat × Nat) -- members counted, their c_m and the SENT it came with (R405)
  anns : List Announce        -- pending announcements
  changes : List MChange      -- pending joins, leaves and removals
  founder : Nat
  own : Nat                   -- own c_m
  clock : Nat                 -- the clock the device runs during its own emergency drop (R416, R420)
  heard : Table Nat           -- group time of the last valid message, by sender (R417)
  seen : Table (List Nat)     -- SENTs of the valid messages, newest first, by sender × 256 + TYPE; 2^20 past, of the invalid (R408)
  invalid : BitVec 32         -- MDISCARD[31:0]
  late : BitVec 32            -- MDISCARD[63:32]
  brcount : BitVec 32         -- MBRCOUNT
  brlog : Table Breach        -- MBRLOG, by i mod 64
  openBr : Option Nat         -- index of the open breach
  dropEnd : Nat               -- end of the own emergency drop (R416)
  lastDrop : Option Nat
  since : Nat                 -- group time at which the state was entered, or of the last heartbeat while joining
  aligned : Option Nat        -- alignment time (R412)
  view : List (Nat × MMsg)    -- heartbeats heard while joining with their arrival, newest first (R412)
  epochFrom : Option (Nat × Nat) -- since when foreign MNUMs have been heard without a break, and when last (R411)
  nextBeat : Nat              -- group time of the next own heartbeat (R410)
  sentAt : Nat                -- greatest own SENT
  power : Nat                 -- power and thermal limit (R451)
  revised : Nat               -- group time of the last revision
  deriving DecidableEq, Repr

/-! ### Memory housekeeping -/

/-- A bank's disturbance tracker and state (R426, R427). -/
structure DBank where
  tracker : List (Nat × Nat)  -- row and count; spares at 16,384 + index
  pending : Nat               -- accesses arrived whose data has not moved
  issued : Nat                -- those of them issued to the stack
  openRow : Option Nat
  busy : Option Nat           -- end of the refresh that runs or is to run, in eighths of ns
  deriving DecidableEq, Repr

/-- A remap entry (R428, R435). -/
structure Remap where
  bank : Nat
  row : Nat
  spare : Nat
  persist : Bool
  deriving DecidableEq, Repr

/-- A pseudo-channel (R424 to R432). -/
structure PChan where
  slot : Nat                  -- number of the next refresh slot
  due : Option Nat            -- its time in eighths of ns; none before the first slot (notes/assumptions/23.md)
  debt : Nat                  -- D
  owed : List Nat             -- owed banks, oldest first
  banks : Table DBank
  forced : Option (Option Nat) -- a forced all-bank refresh holds the channel: it waits, or ends at a time
  ab : BitVec 32
  rfm : BitVec 24
  blocked : Option Nat        -- a reload is in progress since this time (R429)
  hot : Bool
  ue : BitVec 32
  ce : BitVec 32
  remap : Table Remap
  ceLog : List (Nat × Nat × Nat) -- corrected errors: bank, row, time (R428)
  scrub : Nat                 -- bursts scrubbed in this pass (R432)
  scrubFrom : Nat             -- chronometer time at which the pass may begin (R432)
  fix : Option HbmAcc         -- the write of a burst that the scrub has corrected (R432)
  deriving DecidableEq, Repr

/-- An access to the placement window at its controller (R433, R434): the access of the device that it serves, its channel, bank and spare
row, and whether its data has moved. -/
structure WinAcc where
  acc : Nat
  pc : Nat
  bank : Nat
  row : Nat
  write : Bool
  moved : Bool
  deriving DecidableEq, Repr

/-- Memory housekeeping (chapter 22). -/
structure House where
  scrubh : Nat                -- HKCTL
  scrub : Bool
  rdmthr : Nat
  sel : Nat                   -- HKSEL
  pcs : Table PChan
  sramUe : BitVec 32          -- HKSRAM
  sramCe : BitVec 32
  pwGran : Nat                -- HKPW
  pwBusy : Bool
  pwErr : Bool
  pwEn : Bool
  pwBg : Nat
  pwPc : Nat
  pwInval : Option Nat        -- the invalidation that ends a change of the window
  pwAccs : List WinAcc        -- the window's accesses at its controller, oldest first (R434)
  pend : Table (List (Nat × Remap)) -- pending remaps by stack (R428)
  flash : List (Nat × Remap)  -- flash log
  fuses : List (Nat × Remap)  -- repair fuses
  cleared : Nat               -- time of the last tracker clear (R427)
  deriving DecidableEq, Repr

/-! ### Links, alarms, boot, power -/

/-- A direction of a Zonar port (R440, R443): its key, its salt, and the counter of the next flit; `failed` is the counter that has
failed once and is awaited again. -/
structure Dir where
  key : Nat
  salt : BitVec 32
  ctr : Nat
  phase : Bool
  discarding : Bool
  failed : Option Nat
  rekey : Option Nat          -- the new key of a rekey in progress (R443)
  old : Option (Nat × Nat)    -- the key of the last phase and its final counter (R443)
  stopped : Option Nat        -- since when the direction has sent nothing (R443)
  kept : List SentFlit        -- the last 256 flits sent, newest first (R441)
  deriving DecidableEq, Repr

/-- Port states (R444). -/
inductive PState where
  | down | up | locked | attesting
  deriving DecidableEq, Repr

/-- A Zonar port (R444). -/
structure Port where
  st : PState
  err : BitVec 32
  locks : BitVec 16
  rx : Dir
  tx : Dir
  hold : Option Int           -- group time until which lines of its plane are held (R299, R442)
  open_ : Bool                -- re-attested, waiting to carry traffic again
  attestFrom : Nat
  sent : Int                  -- the greatest deadline of a request sent on the plane (R299)
  askDue : Option Nat         -- a counter to be asked for once the sending direction goes on (R441, R443)
  resendDue : Option Nat      -- a counter to be sent again once it goes on (R441, R443)
  deriving DecidableEq, Repr

/-- An alarm record (R448). -/
structure Alarm where
  chrono : Nat
  die : Nat
  sensor : Nat
  level : Nat
  deriving DecidableEq, Repr

/-- Boot stages (R449, R450); while the rollback counters advance, those still to advance with their versions. -/
inductive Boot where
  | off | advancing (l : List (Nat × Nat)) | running | recovery
  deriving DecidableEq, Repr

/-- Links, alarms, boot and power (chapter 23). -/
structure Links where
  ports : Table Port
  alarms : Table Alarm        -- by i mod 16
  count : BitVec 32
  events : List (Nat × Nat)   -- recent glitches: die and time (R445)
  level3 : Bool
  revoked : Bool
  boot : Boot
  diePower : Table (BitVec 32)
  dieTemp : Table Int
  stackTemp : Table Int
  pkgPower : Nat
  coolant : Int
  plim : Nat
  samples : List Nat          -- package power of the last millisecond, newest first (R451)
  reqOut : Table Nat          -- requests sent on a plane to a device, by plane × 4096 + device (R298)
  reqIn : Table Nat           -- the number expected next on a plane of a source, by plane × 4096 + source (R298)
  early : List PeerReq        -- requests that came before an earlier one of their source and plane (R298)
  deriving DecidableEq, Repr

/-! ### The device -/

/-- An input from outside and the chronometer time at which it comes. -/
structure Input where
  time : Nat
  ev : Instr
  deriving DecidableEq, Repr

/-- The whole device. `script`, `focus`, `tick` and `nextId` are the model's own (notes/assumptions/1.md). -/
structure State where
  chrono : Nat                -- CHRONO (R413)
  waves : Table Wave
  groups : Table Group
  cores : Table Core
  quads : Table Quad
  mem : MemSys
  cp : Cp
  host : HostSt
  mer : Meridian
  house : House
  links : Links
  outbox : List Out           -- what the device has sent, oldest first
  script : List Input
  focus : Nat
  tick : Nat
  nextId : Nat
  deriving DecidableEq, Repr

/-! ### Reset -/

/-- A core after device reset: 256 KiB of scratchpad, nothing cached, no handle mapped (R186, R268). -/
def Core.init : Core := ⟨none, 0, 0, 0, 0, 0, 4, none, [], [], [], []⟩
/-- A handle entry after device reset (R268). -/
def HandleEntry.init : HandleEntry := ⟨.free, 1, 0, 0, 0, false, false, 0, 0⟩
/-- A bank nothing owns: its elements are zero (R14). -/
def Bank.init : Bank := ⟨.free, 0, false, false, false, []⟩
/-- A quad after device reset: the arbiter's next visit is core 0 (R287). -/
def Quad.init : Quad := ⟨[], [], 0, 0, 0, 0, [], [], [], [], none⟩
/-- A pseudo-channel after reset: no slot yet, no debt (R425, R435). -/
def PChan.init : PChan := ⟨0, none, 0, [], [], none, 0, 0, none, false, 0, 0, [], [], 0, 0, none⟩
/-- A bank of a pseudo-channel with nothing open. -/
def DBank.init : DBank := ⟨[], 0, 0, none, none⟩
/-- A direction without a key. -/
def Dir.init : Dir := ⟨0, 0, 0, false, false, none, none, none, none, []⟩
/-- A port after reset: DOWN (R444). -/
def Port.init : Port := ⟨.down, 0, 0, Dir.init, Dir.init, none, false, 0, 0, none, none⟩
/-- A free reply slot with SEQ 0 (R295). -/
def RSlot.init : RSlot := ⟨none, 0, none, [], 0, none, 0, 0⟩
/-- No registers written yet: every due cycle is past (R37). -/
def Timing.init : Timing := ⟨[], [], 0, 0, 0, []⟩
/-- An SPDM responder with no connection. -/
def Spdm.init : Spdm := ⟨0, none, []⟩
/-- A line no lease or store has touched (R202, R203). -/
def LineSt.init : LineSt := ⟨0, 0⟩

/-- The memory system after reset: zeros, no lease, every granule free (R14, R190, R393). -/
def MemSys.init : MemSys := ⟨[], [], [], [], [], 0, [], [], [], [], [], [], [], [], [], []⟩
/-- The command processor after reset: no queue, launch, context or waypoint; the first LAUNCHID is 1. -/
def Cp.init : Cp := ⟨[], [], [], 1, [], [], [], [], [], [], 0, 0, []⟩
/-- Meridian after reset (R413, R421). -/
def Meridian.init : Meridian :=
  ⟨0, 0, 0, false, 0, 2250, [], .none, 0, [], [], [], [], 0, 2250, 2250, [], [], 0, 0, 0, [], none, 0, none, 0, none, [],
   none, 0, 0, 2250, 0⟩
/-- Housekeeping after reset (R435). -/
def House.init : House := ⟨24, true, 1024, 0, [], 0, 0, 0, false, false, false, 0, 0, none, [], [], [], [], 0⟩
/-- Links after reset (R444, R448, R451); the device has booted (notes/assumptions/3.md). -/
def Links.init : Links := ⟨[], [], 0, [], false, false, .running, [], [], [], 0, 0, 3200, [], [], [], []⟩
/-- Hosts after reset: SINGLE mode, port A the owner, no tenancy (notes/assumptions/3.md). -/
def HostSt.init : HostSt := ⟨0, 0, none, 0, [], [], 0, [], []⟩

/-- The device right after reset: no wave, no launch, memory unwritten, every register at its reset value. -/
def State.reset : State :=
  { chrono := 0, waves := [], groups := [], cores := [], quads := [], mem := MemSys.init, cp := Cp.init,
    host := HostSt.init, mer := Meridian.init, house := House.init, links := Links.init, outbox := [], script := [],
    focus := 0, tick := 0, nextId := 1 }

end Sys2Proof.Machine
end

