-- ==== Sys2Proof/Machine/Access.lean ====
section
/-! DEFINITION. Accessors: lanes and masks, memory in canonical form, and reading and changing one wave, group, core,
quad or other entry of the state's tables. -/

namespace Sys2Proof.Machine

/-! ### Lanes -/

/-- The lanes of a wave (R2: WIDTH is 64). -/
def allLanes : List Nat := List.range 64

/-- The mask of the lanes for which `f` holds. -/
def maskOf (f : Nat → Bool) : Mask :=
  BitVec.ofNat 64 (allLanes.foldr (fun L acc => (if f L then 1 else 0) + 2 * acc) 0)

/-- Lane `L` is in `m`. -/
def inMask (m : Mask) (L : Nat) : Bool := m.getLsbD L

/-- The lanes of `m` in increasing order. -/
def lanesIn (m : Mask) : List Nat := allLanes.filter (inMask m)

/-- All 64 lanes. -/
def fullMask : Mask := BitVec.allOnes 64

/-- The mask of one lane. -/
def laneBit (L : Nat) : Mask := BitVec.twoPow 64 L

/-- Values per lane. -/
def perLane {α : Type} (f : Nat → α) : List α := allLanes.map f

/-- The lanes of `m` take `new`, the others keep `old`. -/
def mergeLanes {α : Type} (d : α) (m : Mask) (old new : List α) : List α :=
  perLane fun L => if inMask m L then new.getD L d else old.getD L d

/-- The lowest lane of a mask, 0 for the empty mask. -/
def lowestLane (m : Mask) : Nat := ((lanesIn m).head?).getD 0

/-- The number of lanes in a mask. -/
def laneCount (m : Mask) : Nat := (lanesIn m).length

/-! ### Memory -/

/-- The byte at `a`; an unlisted byte reads as zero (R14). -/
def Memory.get : Memory → Nat → Byte
  | [], _ => 0
  | (b, x) :: t, a => if b = a then x else Memory.get t a

/-- Write the byte at `a`, keeping the canonical form. -/
def Memory.set : Memory → Nat → Byte → Memory
  | [], a, x => if x = 0 then [] else [(a, x)]
  | (b, y) :: t, a, x =>
    if a < b then (if x = 0 then (b, y) :: t else (a, x) :: (b, y) :: t)
    else if a = b then (if x = 0 then t else (a, x) :: t)
    else (b, y) :: Memory.set t a x

/-- The addresses of `m` all lie above `lo` and rise strictly, and no listed byte is zero. -/
def Memory.wfAbove : Option Nat → Memory → Bool
  | _, [] => true
  | lo, (a, x) :: t => (match lo with | none => true | some l => decide (l < a)) && decide (x ≠ 0) && Memory.wfAbove (some a) t

/-- The canonical form. -/
def Memory.wf (m : Memory) : Bool := Memory.wfAbove none m

/-- The `n` bytes from `a` up. -/
def Memory.read (m : Memory) (a : Nat) : Nat → List Byte
  | 0 => []
  | n + 1 => Memory.get m a :: Memory.read m (a + 1) n

/-- Write bytes from `a` up. -/
def Memory.write (m : Memory) (a : Nat) : List Byte → Memory
  | [] => m
  | x :: t => Memory.write (Memory.set m a x) (a + 1) t

/-- Drop the bytes from `a` to `a + n`: they read as zero again. -/
def Memory.clear (m : Memory) (a n : Nat) : Memory := m.filter fun c => decide (c.1 < a) || decide (a + n ≤ c.1)

/-- The number held by the `n` bytes from `a`, little-endian (R6). -/
def Memory.num (m : Memory) (a n : Nat) : Nat := ofBytes (Memory.read m a n)

/-! ### Keys -/

/-- Waves are keyed by core × 32 + slot. -/
def coreOfWave (k : Nat) : Nat := k / 32
/-- Groups are keyed by core × 16 + slot. -/
def coreOfGroup (g : Nat) : Nat := g / 16
/-- The quad of a core (R1). -/
def quadOfCore (c : Nat) : Nat := c / 4
/-- The die of a core (R1). -/
def dieOfCore (c : Nat) : Nat := c / 128
/-- The die whose HBM stacks hold a physical address: 128 GiB a die (notes/assumptions/8.md). -/
def dieOfPa (pa : Nat) : Nat := pa / 2 ^ 37
/-- The line of a physical address: 128 bytes (R192). -/
def lineOf (pa : Nat) : Nat := pa / 128

/-! ### Tables of the state -/

/-- The core `c`. -/
def State.coreAt (s : State) (c : Nat) : Core := s.cores.getD c Core.init
/-- Change core `c`. -/
def State.modCore (s : State) (c : Nat) (f : Core → Core) : State := { s with cores := s.cores.set c (f (s.coreAt c)) }

/-- The wave under key `k`. -/
def State.waveAt? (s : State) (k : Nat) : Option Wave := s.waves.get? k
/-- Put a wave under key `k`. -/
def State.setWave (s : State) (k : Nat) (w : Wave) : State := { s with waves := s.waves.set k w }
/-- Change the wave under key `k`, if it exists. -/
def State.modWave (s : State) (k : Nat) (f : Wave → Wave) : State :=
  match s.waveAt? k with
  | none => s
  | some w => s.setWave k (f w)

/-- The group under key `g`. -/
def State.groupAt? (s : State) (g : Nat) : Option Group := s.groups.get? g
/-- Change the group under key `g`, if it exists. -/
def State.modGroup (s : State) (g : Nat) (f : Group → Group) : State :=
  match s.groupAt? g with
  | none => s
  | some x => { s with groups := s.groups.set g (f x) }

/-- The quad `q`. -/
def State.quadAt (s : State) (q : Nat) : Quad := s.quads.getD q Quad.init
/-- Change quad `q`. -/
def State.modQuad (s : State) (q : Nat) (f : Quad → Quad) : State := { s with quads := s.quads.set q (f (s.quadAt q)) }

/-- Bank `b` of a quad. -/
def Quad.bank (q : Quad) (b : Nat) : Bank := q.banks.getD b Bank.init
/-- Change bank `b` of a quad. -/
def Quad.modBank (q : Quad) (b : Nat) (f : Bank → Bank) : Quad := { q with banks := q.banks.set b (f (q.bank b)) }

/-- Handle entry `i` of a core. -/
def Core.handle (c : Core) (i : Nat) : HandleEntry := c.handles.getD i HandleEntry.init
/-- Change handle entry `i` of a core. -/
def Core.modHandle (c : Core) (i : Nat) (f : HandleEntry → HandleEntry) : Core :=
  { c with handles := c.handles.set i (f (c.handle i)) }

/-- The context `c`. -/
def State.ctxAt? (s : State) (c : Nat) : Option Ctx := s.cp.ctxs.get? c
/-- Change context `c`, if it exists. -/
def State.modCtx (s : State) (c : Nat) (f : Ctx → Ctx) : State :=
  match s.ctxAt? c with
  | none => s
  | some x => { s with cp := { s.cp with ctxs := s.cp.ctxs.set c (f x) } }

/-- The launch `l`. -/
def State.launchAt? (s : State) (l : Nat) : Option Launch := s.cp.launches.get? l
/-- Change launch `l`, if it exists. -/
def State.modLaunch (s : State) (l : Nat) (f : Launch → Launch) : State :=
  match s.launchAt? l with
  | none => s
  | some x => { s with cp := { s.cp with launches := s.cp.launches.set l (f x) } }

/-- Change the command processor. -/
def State.modCp (s : State) (f : Cp → Cp) : State := { s with cp := f s.cp }
/-- Change the memory system. -/
def State.modMem (s : State) (f : MemSys → MemSys) : State := { s with mem := f s.mem }
/-- Change the Meridian engine. -/
def State.modMer (s : State) (f : Meridian → Meridian) : State := { s with mer := f s.mer }
/-- Change housekeeping. -/
def State.modHouse (s : State) (f : House → House) : State := { s with house := f s.house }
/-- Change the links. -/
def State.modLinks (s : State) (f : Links → Links) : State := { s with links := f s.links }
/-- Change the hosts' state. -/
def State.modHost (s : State) (f : HostSt → HostSt) : State := { s with host := f s.host }

/-- The queue `q` of partition `p`. -/
def State.queueAt? (s : State) (p q : Nat) : Option Queue := s.cp.queues.get? (p * 64 + q)
/-- Change queue `q` of partition `p`, if it exists. -/
def State.modQueue (s : State) (p q : Nat) (f : Queue → Queue) : State :=
  match s.queueAt? p q with
  | none => s
  | some x => { s with cp := { s.cp with queues := s.cp.queues.set (p * 64 + q) (f x) } }

/-- A pseudo-channel. -/
def House.pc (h : House) (p : Nat) : PChan := h.pcs.getD p PChan.init
/-- Change a pseudo-channel. -/
def House.modPc (h : House) (p : Nat) (f : PChan → PChan) : House := { h with pcs := h.pcs.set p (f (h.pc p)) }

/-- A bank of a pseudo-channel. -/
def PChan.bank (x : PChan) (b : Nat) : DBank := x.banks.getD b DBank.init
/-- Change a bank. -/
def PChan.modBank (x : PChan) (b : Nat) (f : DBank → DBank) : PChan := { x with banks := x.banks.set b (f (x.bank b)) }
/-- An access arrives at a bank, where it is pending until its data has moved (R426). -/
def DBank.arrive (k : DBank) : DBank := { k with pending := k.pending + 1 }

/-- A Zonar port. -/
def Links.port (l : Links) (p : Nat) : Port := l.ports.getD p Port.init
/-- Change a Zonar port. -/
def Links.modPort (l : Links) (p : Nat) (f : Port → Port) : Links := { l with ports := l.ports.set p (f (l.port p)) }

/-- The IDE stream on which the device's host accesses for a tenancy leave (R399). -/
def State.ideStream (s : State) (ten port : Nat) : Option Nat :=
  match s.host.tens.get? ten with
  | some t => if t.policy.getLsbD 0 then t.stream.get? port else none
  | none => none

/-- A direction has one more flit behind it; at 2^40 it stops (R440, R443). -/
def Dir.count (d : Dir) (chrono : Nat) : Dir :=
  { d with ctr := d.ctr + 1, stopped := if d.ctr + 1 = 2 ^ 40 then some (d.stopped.getD chrono) else d.stopped }

/-- Send a message to the outside. -/
def State.send (s : State) (o : Out) : State := { s with outbox := s.outbox ++ [o] }

/-- The virtual channel of a flit (R440). -/
def Zonar.vc : Zonar → BitVec 2
  | .request .. => 0
  | .reply .. => 1
  | .meridian _ => 2
  | .replayAsk _ => 2

/-- The destination of a flit (R440); no rule gives the one of a control flit or of a multicast, and `other` is free
(notes/assumptions/26.md). -/
def Zonar.dest (z : Zonar) (other : Nat) : Nat :=
  match z with
  | .request peer _ _ r => (match r.kind with | .mcred _ => other | _ => peer)
  | .reply _ dest _ => dest
  | _ => other

/-- The device answers its hosts (R392, R447, R449). -/
def State.answers (s : State) : Bool := !s.links.level3 && s.links.boot == .running

/-- Take a fresh number for an access or an operation. -/
def State.fresh (s : State) : Nat × State := (s.nextId, { s with nextId := s.nextId + 1 })

/-- The owner byte of a granule (R393). -/
def MemSys.owner (m : MemSys) (g : Nat) : BitVec 8 := m.owners.getD g 0

/-- The home state of a line. -/
def MemSys.line (m : MemSys) (l : Nat) : LineSt := m.lines.getD l LineSt.init

/-! ### Free values (notes/assumptions/4.md) -/

/-- The `i`-th free bit of this step. -/
def State.freeBit (s : State) (i : Nat) : Bool := Config.bit s.tick i
/-- The `i`-th free number of this step. -/
def State.freeNum (s : State) (i : Nat) : Nat := Config.num s.tick i
/-- The `i`-th free byte of this step. -/
def State.freeByte (s : State) (i : Nat) : Byte := Config.byte s.tick i

/-! ### Flits (R440, R441) -/

/-- A port brings what its plane carries: it is UP and does not wait for a replay (R323, R441, R442, R444). -/
def State.brings (s : State) (plane : Nat) : Bool := (s.links.port plane).st == .up && !(s.links.port plane).rx.discarding

/-- The header of the next flit of a direction (R440). -/
def State.header (s : State) (d : Dir) (z : Zonar) : BitVec 64 :=
  z.vc ++ BitVec.ofBool d.phase ++ 0#1 ++ BitVec.ofNat 12 (z.dest (s.freeNum (2 ^ 44))) ++ BitVec.ofNat 12 s.host.device ++
    BitVec.ofNat 16 d.ctr ++ BitVec.ofNat 12 (s.freeNum (2 ^ 44 + 1)) ++ 0#8

/-- The next flit of a direction: its nonce is the session's salt with the counter (R440). -/
def State.flitOf (s : State) (d : Dir) (z : Zonar) : SentFlit := ⟨s.header d z, d.salt ++ BitVec.ofNat 64 d.ctr, d.key, z⟩

/-- A direction has sent a flit, which it keeps among its last 256 (R441). -/
def Dir.sends (d : Dir) (f : SentFlit) (chrono : Nat) : Dir := { d.count chrono with kept := (f :: d.kept).take 256 }

/-- Send a message on a Zonar port: one flit there (notes/assumptions/26.md). -/
def State.sendFlit (s : State) (p : Nat) (z : Zonar) : State :=
  let f := s.flitOf (s.links.port p).tx z
  { s with
    outbox := s.outbox ++ [.flit p f]
    links := s.links.modPort p fun (x : Port) => { x with tx := x.tx.sends f s.chrono } }

/-! ### Special registers of the device -/

/-- Group time, ns: the chronometer plus Δ. While the device is ahead of its group, Δ falls by 1 ns for every 1,000 ns
of chronometer time, until `slew` ns are given back (R412, R413). -/
def State.gtime (s : State) : Int :=
  (s.chrono : Int) + s.mer.delta - (min s.mer.slew ((s.chrono - s.mer.slewFrom) / 1000) : Nat)

end Sys2Proof.Machine
end

