-- ==== Sys2Proof/Machine/Number.lean ====
section
/-! DEFINITION. Number formats and arithmetic (chapter 04): decoding, one rounding of an exact value, the narrow
formats, and the sums of the matrix array. -/

namespace Sys2Proof.Machine

/-- Exception flags of one element: bit 0 NV, 1 DZ, 2 OF, 3 UF, 4 NX, the order of WSTAT[8:4] (R20). -/
abbrev FFlags := BitVec 5

def fNV : FFlags := 1
def fDZ : FFlags := 2
def fOF : FFlags := 4
def fUF : FFlags := 8
def fNX : FFlags := 16

/-- A rounding mode (R96). -/
inductive RMode where
  | rne | rtz | rup | rdn
  deriving DecidableEq, Repr

/-- A binary format: exponent and fraction widths (R93). -/
structure Fmt where
  eb : Nat
  fb : Nat
  deriving DecidableEq, Repr

def fmt64 : Fmt := ⟨11, 52⟩
def fmt32 : Fmt := ⟨8, 23⟩
def fmt16 : Fmt := ⟨5, 10⟩
def fmtBf16 : Fmt := ⟨8, 7⟩
def fmtE5M2 : Fmt := ⟨5, 2⟩
def fmtE4M3 : Fmt := ⟨4, 3⟩

/-- The exponent bias (R93). -/
def Fmt.bias (f : Fmt) : Nat := 2 ^ (f.eb - 1) - 1
/-- The exponent of the smallest normal. -/
def Fmt.emin (f : Fmt) : Int := 1 - (f.bias : Int)
/-- The magnitude code of infinity. -/
def Fmt.infCode (f : Fmt) : Nat := (2 ^ f.eb - 1) * 2 ^ f.fb
/-- The bits of a format. -/
def Fmt.width (f : Fmt) : Nat := 1 + f.eb + f.fb
/-- The sign bit of a format. -/
def Fmt.signBit (f : Fmt) : Nat := 2 ^ (f.eb + f.fb)
/-- The canonical NaN (R94). -/
def Fmt.nan (f : Fmt) : Nat := f.infCode + 2 ^ (f.fb - 1)
/-- Infinity of a sign. -/
def Fmt.inf (f : Fmt) (neg : Bool) : Nat := (if neg then f.signBit else 0) + f.infCode
/-- Zero of a sign. -/
def Fmt.zero (f : Fmt) (neg : Bool) : Nat := if neg then f.signBit else 0
/-- The largest finite value of a sign (R94). -/
def Fmt.maxFin (f : Fmt) (neg : Bool) : Nat := (if neg then f.signBit else 0) + (f.infCode - 1)

/-- A decoded value; a finite one is (−1)^neg × m × 2^e. -/
inductive FV where
  | nan (signalling : Bool) | inf (neg : Bool) | fin (neg : Bool) (m : Nat) (e : Int)
  deriving DecidableEq, Repr

/-- Decode a binary format (R93, R94). -/
def decF (f : Fmt) (x : Nat) : FV :=
  let neg := x / f.signBit % 2 == 1
  let e := x / 2 ^ f.fb % 2 ^ f.eb
  let fr := x % 2 ^ f.fb
  if e = 2 ^ f.eb - 1 then
    (if fr = 0 then .inf neg else .nan (decide (fr < 2 ^ (f.fb - 1))))
  else if e = 0 then .fin neg fr (f.emin - f.fb)
  else .fin neg (2 ^ f.fb + fr) ((e : Int) - f.bias - f.fb)

/-- A subnormal encoding. -/
def isSub (f : Fmt) (x : Nat) : Bool := x / 2 ^ f.fb % 2 ^ f.eb == 0 && x % 2 ^ f.fb != 0

/-- A subnormal as a zero of its sign (R97). -/
def flushIn (f : Fmt) (x : Nat) : Nat := if isSub f x then f.zero (x / f.signBit % 2 == 1) else x

/-- m × 2^(−k) as an integer: the quotient, and how the rest compares: 0 exact, 1 below half, 2 half, 3 above. -/
def cutBits (m k : Nat) : Nat × Nat :=
  let q := m / 2 ^ k
  let r := m % 2 ^ k
  (q, if r = 0 then 0 else if 2 * r < 2 ^ k then 1 else if 2 * r = 2 ^ k then 2 else 3)

/-- Round a cut magnitude of a sign (R96). -/
def roundCut (md : RMode) (neg : Bool) (q c : Nat) : Nat :=
  if c = 0 then q else
    match md with
    | .rne => if c = 3 ∨ (c = 2 ∧ q % 2 = 1) then q + 1 else q
    | .rtz => q
    | .rup => if neg then q else q + 1
    | .rdn => if neg then q + 1 else q

/-- Round m × 2^e to a multiple of 2^p: the multiple, and exactness. -/
def roundAt (md : RMode) (neg : Bool) (m : Nat) (e p : Int) : Nat × Bool :=
  if p ≤ e then (m * 2 ^ (e - p).toNat, true)
  else
    let (q, c) := cutBits m (p - e).toNat
    (roundCut md neg q c, c == 0)

/-- The exponent of the leading bit of m × 2^e, for m ≠ 0. -/
def topExp (m : Nat) (e : Int) : Int := (Nat.log2 m : Int) + e

/-- What a magnitude beyond the format gives in a mode (R96). -/
def overflowCode (f : Fmt) (md : RMode) (neg : Bool) : Nat :=
  match md, neg with
  | .rne, n => f.inf n
  | .rtz, n => f.maxFin n
  | .rup, false => f.inf false
  | .rup, true => f.maxFin true
  | .rdn, true => f.inf true
  | .rdn, false => f.maxFin false

/-- Round the exact value (−1)^neg × m × 2^e, m ≠ 0, once (R12, R96, R100). -/
def roundF (f : Fmt) (md : RMode) (neg : Bool) (m : Nat) (e : Int) : Nat × FFlags :=
  let l := topExp m e
  let p := max (l - f.fb) (f.emin - f.fb)
  let (q, exact) := roundAt md neg m e p
  -- p + fb is the exponent of the binade, at least emin
  let code := (p + f.fb - f.emin).toNat * 2 ^ f.fb + q
  if f.infCode ≤ code then (overflowCode f md neg, fOF ||| fNX)
  else
    let tiny := decide (l < f.emin) &&
      !(decide (l = f.emin - 1) && decide ((roundAt md neg m e (l - f.fb)).1 = 2 ^ (f.fb + 1)))
    ((if neg then f.signBit else 0) + code,
      if exact then 0 else if tiny then fUF ||| fNX else fNX)

/-- Deliver a rounded result under FLUSH (R97). -/
def flushOut (fl : Bool) (f : Fmt) (r : Nat × FFlags) : Nat × FFlags :=
  if fl && isSub f r.1 then (f.zero (r.1 / f.signBit % 2 == 1), r.2 ||| fUF ||| fNX) else r

/-- A signed integer multiple of a power of two. -/
structure Dy where
  z : Int
  e : Int
  deriving DecidableEq, Repr

/-- The exact sum of two. -/
def Dy.add (a b : Dy) : Dy :=
  let e := min a.e b.e
  ⟨a.z * 2 ^ (a.e - e).toNat + b.z * 2 ^ (b.e - e).toNat, e⟩

/-- The exact sum of a list. -/
def Dy.sum (l : List Dy) : Dy := l.foldl Dy.add ⟨0, 0⟩

/-- A finite magnitude with a sign. -/
def dyOf (neg : Bool) (m : Nat) (e : Int) : Dy := ⟨if neg then -(m : Int) else m, e⟩

/-- Round an exact sum; `z` is the sign of a zero result (R96). -/
def roundDy (f : Fmt) (md : RMode) (z : Bool) (d : Dy) : Nat × FFlags :=
  if d.z = 0 then (f.zero z, 0) else roundF f md (decide (d.z < 0)) d.z.natAbs d.e

/-- The sign of an exact zero sum of terms with these signs (R96). -/
def zeroSign (md : RMode) (signs : List Bool) : Bool :=
  if signs.all id then true
  else if signs.all (! ·) then false
  else md == .rdn

/-- A term of a sum: a value or a product of two. -/
inductive Term where
  | nan (signalling : Bool) | invalid | inf (neg : Bool) | fin (neg : Bool) (d : Dy)
  deriving DecidableEq, Repr

/-- A value as a term. -/
def termOf : FV → Term
  | .nan s => .nan s
  | .inf n => .inf n
  | .fin n m e => .fin n (dyOf n m e)

/-- An exact product as a term (R144): infinity times zero is invalid even beside a quiet NaN of another term. -/
def termMul (a b : FV) : Term :=
  match a, b with
  | .nan x, .nan y => .nan (x || y)
  | .nan x, _ => .nan x
  | _, .nan y => .nan y
  | .inf n, .inf k => .inf (n != k)
  | .inf n, .fin k m _ => if m = 0 then .invalid else .inf (n != k)
  | .fin k m _, .inf n => if m = 0 then .invalid else .inf (n != k)
  | .fin n m e, .fin k m' e' => .fin (n != k) (dyOf (n != k) (m * m') (e + e'))

/-- The rounded exact sum of terms with its special values (R144). -/
def sumTerms (f : Fmt) (md : RMode) (ts : List Term) : Nat × FFlags :=
  let snan := ts.any fun t => t == .nan true
  let nan := ts.any fun t => match t with | .nan _ => true | _ => false
  let inval := ts.any (· == .invalid)
  let pinf := ts.any (· == .inf false)
  let ninf := ts.any (· == .inf true)
  if snan || inval || (pinf && ninf) then (f.nan, fNV)
  else if nan then (f.nan, 0)
  else if pinf then (f.inf false, 0)
  else if ninf then (f.inf true, 0)
  else
    let ds := ts.filterMap fun t => match t with | .fin n d => some (n, d) | _ => none
    roundDy f md (zeroSign md (ds.map Prod.fst)) (Dy.sum (ds.map Prod.snd))

/-- minimumNumber or maximumNumber (R99): −0 below +0. -/
def minMaxF (f : Fmt) (mx : Bool) (a b : Nat) : Nat × FFlags :=
  let key : Nat → Int := fun x =>
    if x / f.signBit % 2 = 1 then -1 - ((x % f.signBit : Nat) : Int) else (x % f.signBit : Nat)
  match decF f a, decF f b with
  | .nan s, .nan t => (f.nan, if s || t then fNV else 0)
  | .nan s, _ => (b, if s then fNV else 0)
  | _, .nan t => (a, if t then fNV else 0)
  | _, _ => (if mx then (if key a ≤ key b then b else a) else (if key a ≤ key b then a else b), 0)

/-- An ordering key of a non-NaN value, zeros equal. -/
def ordKey (f : Fmt) (x : Nat) : Int :=
  let m := x % f.signBit
  if x / f.signBit % 2 = 1 then -(m : Int) else m

/-- FCMP's condition and its NV (R84, R145). -/
def cmpF (f : Fmt) (cond : Nat) (a b : Nat) : Bool × FFlags :=
  let nanOf := fun x => match decF f x with | .nan s => (true, s) | _ => (false, false)
  let (na, sa) := nanOf a
  let (nb, sb) := nanOf b
  let un := na || nb
  let order := 2 ≤ cond && cond ≤ 5
  let fl : FFlags := if sa || sb || (un && order) then fNV else 0
  let ka := ordKey f a
  let kb := ordKey f b
  let r := match cond with
    | 0 => !un && decide (ka = kb)
    | 1 => un || decide (ka ≠ kb)
    | 2 => !un && decide (ka < kb)
    | 3 => !un && decide (ka ≤ kb)
    | 4 => !un && decide (kb < ka)
    | 5 => !un && decide (kb ≤ ka)
    | 6 => un
    | _ => !un
  (r, fl)

/-- Round to an integral value in the same format (R146). -/
def frndF (f : Fmt) (md : RMode) (a : Nat) : Nat × FFlags :=
  match decF f a with
  | .nan s => (f.nan, if s then fNV else 0)
  | .inf n => (f.inf n, 0)
  | .fin n m e =>
    if m = 0 then (f.zero n, 0)
    else
      let q := (roundAt md n m e 0).1
      if 0 ≤ e then (a, 0)
      else if q = 0 then (f.zero n, 0)
      else ((roundF f .rne n q 0).1, 0)

/-- FCLASS's mask (R147). -/
def fclassF (f : Fmt) (a : Nat) : Nat :=
  match decF f a with
  | .nan true => 1
  | .nan false => 2
  | .inf n => if n then 4 else 512
  | .fin n m _ =>
    if m = 0 then (if n then 32 else 64)
    else if isSub f a then (if n then 16 else 128)
    else if n then 8 else 256

/-- a × 2^n (R143). -/
def fscaleF (f : Fmt) (md : RMode) (a : Nat) (n : Int) : Nat × FFlags :=
  match decF f a with
  | .nan s => (f.nan, if s then fNV else 0)
  | .inf k => (f.inf k, 0)
  | .fin k m e => if m = 0 then (f.zero k, 0) else
      -- beyond these the result only overflows or vanishes
      let c := max (-5000) (min 5000 n)
      roundF f md k m (e + c)

/-- Convert between formats (R149). -/
def fcvtF (dt st : Fmt) (md : RMode) (a : Nat) : Nat × FFlags :=
  match decF st a with
  | .nan s => (dt.nan, if s then fNV else 0)
  | .inf n => (dt.inf n, 0)
  | .fin n m e => if m = 0 then (dt.zero n, 0) else roundF dt md n m e

/-- The range of an integer type (R91). -/
def intRange (signed : Bool) (w : Nat) : Int × Int :=
  if signed then (-(2 ^ (w - 1) : Nat), (2 ^ (w - 1) : Nat) - 1) else (0, (2 ^ w : Nat) - 1)

/-- Floating point to integer (R150). -/
def ftoiF (f : Fmt) (signed : Bool) (w : Nat) (md : RMode) (a : Nat) : Int × FFlags :=
  let (lo, hi) := intRange signed w
  match decF f a with
  | .nan _ => (0, fNV)
  | .inf n => (if n then lo else hi, fNV)
  | .fin n m e =>
    let (q, exact) := roundAt md n m e 0
    let r : Int := if n then -(q : Int) else q
    if hi < r then (hi, fNV) else if r < lo then (lo, fNV) else (r, if exact then 0 else fNX)

/-- Integer to floating point (R151). -/
def itofF (f : Fmt) (md : RMode) (x : Int) : Nat × FFlags :=
  if x = 0 then (0, 0) else roundF f md (decide (x < 0)) x.natAbs 0

/-- SAT (R101). -/
def satF (f : Fmt) (r : Nat × FFlags) : Nat × FFlags :=
  let one := f.bias * 2 ^ f.fb
  match decF f r.1 with
  | .nan _ => (0, r.2)
  | .inf n => (if n then 0 else one, r.2)
  | .fin n _ _ => (if n then 0 else if one < r.1 then one else r.1, r.2)

/-- The integer square root by binary digits, from bit `k` down. -/
def isqrtLoop : Nat → Nat → Nat → Nat
  | 0, _, r => r
  | k + 1, n, r => isqrtLoop k n (if (r + 2 ^ k) * (r + 2 ^ k) ≤ n then r + 2 ^ k else r)

/-- floor of the square root of `n`. -/
def isqrt (n : Nat) : Nat := isqrtLoop (Nat.log2 n / 2 + 1) n 0

/-- A quotient to at least `k` bits with a sticky last bit: a × 2^s / b as m × 2^(−s−1) (R12). -/
def divBits (a b k : Nat) : Nat × Int :=
  let s := k + Nat.log2 b + 2
  let q := a * 2 ^ s / b
  (2 * q + (if a * 2 ^ s % b = 0 then 0 else 1), -(s : Int) - 1)

/-- FDIV (R148). -/
def fdivF (f : Fmt) (md : RMode) (a b : Nat) : Nat × FFlags :=
  match decF f a, decF f b with
  | .nan s, .nan t => (f.nan, if s || t then fNV else 0)
  | .nan s, _ => (f.nan, if s then fNV else 0)
  | _, .nan t => (f.nan, if t then fNV else 0)
  | .inf _, .inf _ => (f.nan, fNV)
  | .inf n, .fin k _ _ => (f.inf (n != k), 0)
  | .fin n _ _, .inf k => (f.zero (n != k), 0)
  | .fin n m e, .fin k m' e' =>
    if m' = 0 then (if m = 0 then (f.nan, fNV) else (f.inf (n != k), fDZ))
    else if m = 0 then (f.zero (n != k), 0)
    else
      let (q, s) := divBits m m' (f.fb + 4)
      roundF f md (n != k) q (e - e' + s)

/-- The square root of m × 2^e to `k` bits with a sticky last bit. -/
def sqrtBits (m : Nat) (e : Int) (k : Nat) : Nat × Int :=
  let e0 := if e % 2 = 0 then e else e - 1
  let m0 := if e % 2 = 0 then m else 2 * m
  let n := m0 * 2 ^ (2 * k)
  let r := isqrt n
  (2 * r + (if r * r = n then 0 else 1), e0 / 2 - k - 1)

/-- FSQRT (R148). -/
def fsqrtF (f : Fmt) (md : RMode) (a : Nat) : Nat × FFlags :=
  match decF f a with
  | .nan s => (f.nan, if s then fNV else 0)
  | .inf n => if n then (f.nan, fNV) else (f.inf false, 0)
  | .fin n m e =>
    if m = 0 then (f.zero n, 0)
    else if n then (f.nan, fNV)
    else
      let (r, s) := sqrtBits m e (f.fb + 4)
      roundF f md false r s

/-! ### Narrow formats (R102 to R109) -/

/-- A narrow format. -/
inductive NFmt where
  | e4m3 | e5m2 | t8 | t6
  deriving DecidableEq, Repr

/-- The magnitude bits of T8 and T6. -/
def NFmt.mbits : NFmt → Nat
  | .t6 => 5
  | _ => 7

/-- The bits of a code. -/
def NFmt.width : NFmt → Nat
  | .t6 => 6
  | _ => 8

/-- The length of the run of bits equal to `x` from bit `n − 1` of `m` down. -/
def runLen (x : Bool) : Nat → Nat → Nat
  | 0, _ => 0
  | n + 1, m => if m.testBit n == x then runLen x n m + 1 else 0

/-- The value of a tapered magnitude field of `w` bits, m ≠ 0, as a multiple of 2^e (R103, R104). -/
def taper (w m : Nat) : Nat × Int :=
  let x := m.testBit (w - 1)
  let k := runLen x w m
  let r : Int := if x then (k : Int) - 1 else -(k : Int)
  let left := w - k - 1          -- bits after the terminator
  if left = 0 then (1, 2 * r)
  else
    let e := m / 2 ^ (left - 1) % 2
    let n := left - 1
    (2 ^ n + m % 2 ^ n, 2 * r + e - n)

/-- Decode a narrow code with scale σ (R102 to R106). -/
def decN (f : NFmt) (σ : Int) (c : Nat) : FV :=
  let scale : FV → FV := fun v => match v with
    | .fin n m e => .fin n m (e + σ)
    | v => v
  match f with
  | .e5m2 => match decF fmtE5M2 c with
    | .nan _ => .nan false
    | v => scale v
  | .e4m3 =>
    if c % 128 = 127 then .nan false
    else
      let neg := c / 128 % 2 == 1
      let e := c / 8 % 16
      if e = 0 then .fin neg (c % 8) (-9 + σ) else .fin neg (8 + c % 8) ((e : Int) - 10 + σ)
  | f =>
    let w := f.mbits
    let m := c % 2 ^ w
    let neg := c / 2 ^ w % 2 == 1
    if m = 0 then (if neg then .nan false else .fin false 0 0)
    else
      let (k, e) := taper w m
      .fin neg k (e + σ)

/-- The tapered magnitude nearest to m × 2^e, ties to the even field (R107). -/
def taperNear (w m : Nat) (e : Int) : Nat :=
  let dist : Nat → Dy := fun c =>
    let (k, x) := if c = 0 then (0, 0) else taper w c
    let d := Dy.add ⟨m, e⟩ ⟨-(k : Int), x⟩
    ⟨d.z.natAbs, d.e⟩
  let less : Dy → Dy → Bool := fun a b => decide ((Dy.add a ⟨-b.z, b.e⟩).z < 0)
  (List.range (2 ^ w)).foldl (fun best c =>
    if less (dist c) (dist best) then c
    else if !less (dist best) (dist c) && c % 2 = 0 && best % 2 = 1 then c else best) 0

/-- m × 2^e compared with k: greater. -/
def dyGt (m : Nat) (e : Int) (k : Nat) : Bool := decide (0 < (Dy.add ⟨m, e⟩ ⟨-(k : Int), 0⟩).z)

/-- Convert an exact value into a narrow format with scale σ (R107 to R109). -/
def encN (f : NFmt) (inf : Bool) (σ : Int) (v : FV) : Nat × FFlags :=
  let big : Bool → Nat := fun n => match f with
    | .e4m3 => (if n then 128 else 0) + 0x7E
    | .e5m2 => (if n then 128 else 0) + (if inf then 0x7C else 0x7B)
    | .t8 => (if n then 128 else 0) + 0x7F
    | .t6 => (if n then 32 else 0) + 0x1F
  match v with
  | .nan s => (match f with | .e4m3 => 0x7F | .e5m2 => 0x7E | .t8 => 0x80 | .t6 => 0x20, if s then fNV else 0)
  | .inf n => (big n, if inf then 0 else fOF ||| fNX)
  | .fin n m e0 =>
    let e := e0 - σ
    match f with
    | .e4m3 =>
      if m = 0 then (if n then 128 else 0, 0)
      else if dyGt m e 464 then (big n, fOF ||| fNX)
      else
        let l := topExp m e
        let p := max (l - 3) (-9)
        let (q, exact) := roundAt .rne n m e p
        let code := (p + 9).toNat * 8 + q
        let tiny := decide (l < -6) && !(decide (l = -7) && decide ((roundAt .rne n m e (l - 3)).1 = 16))
        ((if n then 128 else 0) + code, if exact then 0 else if tiny then fUF ||| fNX else fNX)
    | .e5m2 =>
      if m = 0 then (if n then 128 else 0, 0)
      else if dyGt m e 61440 || decide ((Dy.add ⟨m, e⟩ ⟨-61440, 0⟩).z = 0) then (big n, fOF ||| fNX)
      else roundF fmtE5M2 .rne n m e
    | f =>
      if m = 0 then (0, 0)
      else
        let w := f.mbits
        let top := if w = 7 then 4096 else 256
        if dyGt m e top then (big n, fOF ||| fNX)
        else
          let c := taperNear w m e
          let (k, x) := if c = 0 then (0, 0) else taper w c
          let exact := decide ((Dy.add ⟨m, e⟩ ⟨-(k : Int), x⟩).z = 0)
          let small := decide (topExp m e < -(if w = 7 then 12 else 8 : Int))
          (if c = 0 then 0 else (if n then 2 ^ w else 0) + c, if exact then 0 else if small then fUF ||| fNX else fNX)

/-! ### The matrix array (R112 to R115) -/

/-- floor(log2 |x|) of a non-zero dyadic. -/
def Dy.top (d : Dy) : Int := topExp d.z.natAbs d.e

/-- Truncate toward zero to a multiple of 2^p. -/
def Dy.trunc (d : Dy) (p : Int) : Dy :=
  if p ≤ d.e then d
  else
    let q := d.z.natAbs / 2 ^ (p - d.e).toNat
    ⟨if d.z < 0 then -(q : Int) else q, p⟩

/-- One segment's value as an FP32 term (R113, R114). -/
def segTerm (window : Bool) (ts : List Term) : Term :=
  let bad := ts.any fun t => match t with | .nan _ => true | .invalid => true | _ => false
  let pinf := ts.any (· == .inf false)
  let ninf := ts.any (· == .inf true)
  if bad || (pinf && ninf) then .nan false
  else if pinf then .inf false
  else if ninf then .inf true
  else
    let ds := ts.filterMap fun t => match t with | .fin _ d => if d.z = 0 then none else some d | _ => none
    let ds := if window then
        match ds with
        | [] => []
        | d :: r =>
          let e := r.foldl (fun a x => max a x.top) d.top
          ds.map (Dy.trunc · (e - 47))
      else ds
    termOf (decF fmt32 (roundDy fmt32 .rne false (Dy.sum ds)).1)

/-- Cut a list into pieces of `n`, `k` of them. -/
def pieces {α : Type} (n : Nat) : Nat → List α → List (List α)
  | 0, _ => []
  | k + 1, l => l.take n :: pieces n k (l.drop n)

/-- One element of a floating-point op: the accumulator and the products of the row pair in order (R113, R114). -/
def mmaElem (window : Bool) (acc : Nat) (ps : List Term) : Nat :=
  let segs := (pieces (if window then 16 else 32) 4 ps).map (segTerm window)
  let bad := segs.any fun t => match t with | .nan _ => true | _ => false
  if bad then fmt32.nan
  else segs.foldl (fun a t => (sumTerms fmt32 .rne [termOf (decF fmt32 a), t]).1) acc

/-- One element of an I8 op (R115). -/
def mmaElemI8 (acc : Word) (ps : List Int) : Word := BitVec.ofInt 32 (acc.toInt + ps.sum)

end Sys2Proof.Machine
end

