-- ==== Sys2Proof/Machine/Flags.lean ====
section
/-! DEFINITION. The status register WSTAT and the fields of FPMODE (R19, R20, R34, R85, R142). -/

namespace Sys2Proof.Machine

/-- WSTAT.STALE, DEADREAD and NOSRC (R20). -/
def statStale : DWord := 1
def statDead : DWord := 2
def statNosrc : DWord := 4

/-- The IEEE flags at their places in WSTAT and FPMODE: NV [4] to NX [8] (R19, R20). -/
def flagBits (f : FFlags) : DWord := BitVec.ofNat 64 (f.toNat * 16)

/-- Set flags of WSTAT; every flag is sticky (R20). -/
def Wave.stat (w : Wave) (b : DWord) : Wave := { w with wstat := w.wstat ||| b }

/-- The trap enables of FPMODE (R19). -/
def Wave.enables (w : Wave) : FFlags := BitVec.ofNat 5 (w.fpmode.toNat / 16)

/-- FPMODE.STRICT (R19). -/
def Wave.strict (w : Wave) : Bool := w.fpmode.getLsbD 9

/-- FPMODE.FLUSH (R19). -/
def Wave.flush (w : Wave) : Bool := w.fpmode.getLsbD 3

/-- A rounding code (R19, R85). -/
def rmodeOf (n : Nat) : RMode :=
  match n with
  | 0 => .rne | 1 => .rtz | 2 => .rup | _ => .rdn

/-- The rounding of MOD3 (R85): code 4 takes FPMODE.RMODE. -/
def Wave.rounding (w : Wave) (mod3 : Nat) : RMode := if mod3 = 4 then rmodeOf (w.fpmode.toNat % 8) else rmodeOf mod3

/-- TRAPADDR of FPEXC (R142): the lowest lane that raised an enabled flag, and the enabled flags raised in any lane. -/
def fpexcAddr (lane : Nat) (f : FFlags) : DWord := BitVec.ofNat 64 (lane * 1024 + f.toNat * 16)

/-- Values 0 to 3 are the rounding modes; the upper fields are single bits (R19). -/
def fpmodeOk (x : DWord) : Bool := decide (x.toNat < 2 ^ 10) && decide (x.toNat % 8 < 4)

end Sys2Proof.Machine
end

