-- ==== Sys2Proof/Machine/Home.lean ====
section
/-! DEFINITION. Home slices: leases, write completion times, visibility, atomics, the LLC and the caches in front of it
(R192 to R207, R218, R219), and what a wave is given when an access is performed (R230 to R236). -/

namespace Sys2Proof.Machine

/-! ### Atomics (R218, R219) -/

/-- A packed operation on the 16-bit halves of two words. -/
def halves (f : Nat → Nat → Nat) (a b : Nat) : Nat :=
  f (a % 65536) (b % 65536) + 65536 * f (a / 65536 % 65536) (b / 65536 % 65536)

/-- The floating-point sum of an atomic: RNE, subnormals kept, no flag (R219). -/
def atomSum (f : Fmt) (a b : Nat) : Nat := (sumTerms f .rne [termOf (decF f a), termOf (decF f b)]).1

/-- The signed reading of a `w`-bit number. -/
def signedOf (w n : Nat) : Int := (BitVec.ofNat w n).toInt

/-- The new value of a location of `w` bits whose old value is `v`, with the operand `x`. A CAS's operand holds the
compare value below the new value; a fault record takes effect only while its VALID is 0 (R365). -/
def atomNew (op : AtomOp) (w v x : Nat) : Nat :=
  match op with
  | .add => (v + x) % 2 ^ w
  | .and => v &&& x
  | .or => v ||| x
  | .xor => v ^^^ x
  | .smin => if signedOf w x < signedOf w v then x else v
  | .smax => if signedOf w v < signedOf w x then x else v
  | .umin => min v x
  | .umax => max v x
  | .exch => x
  | .cas => if v = x % 2 ^ w then x / 2 ^ w else v
  | .fadd .f32 => atomSum fmt32 v x
  | .fadd .f64 => atomSum fmt64 v x
  | .fadd .f16x2 => halves (atomSum fmt16) v x
  | .fadd .bf16x2 => halves (atomSum fmtBf16) v x
  | .fmin => (minMaxF fmt32 false v x).1
  | .fmax => (minMaxF fmt32 true v x).1
  | .record => if v.testBit 10 then v else x

/-- An atomic writes its location (R218, R236): a CAS only where its comparison succeeds. -/
def atomWrites (op : AtomOp) (w v x : Nat) : Bool :=
  match op with
  | .cas => decide (v = x % 2 ^ w)
  | _ => true

/-! ### What an operation of a wave receives -/

/-- The value of a loaded access of `n` bytes, extended to `w` bits (R225). -/
def extendTo (w n : Nat) (sign : Bool) (x : Nat) : Nat :=
  if sign && x / 2 ^ (8 * n - 1) % 2 == 1 then x + 2 ^ w - 2 ^ (8 * n) else x

/-- Whether, and with which value, the `j`-th written register receives bytes at offset `part` of the access. -/
def placeReg (sign : Bool) (part : Nat) (bs : List Byte) (j : Nat) : RegRef → Option DWord
  | .v _ =>
    if part ≤ 4 * j ∧ 4 * j < part + bs.length then
      let b := (bs.drop (4 * j - part)).take 4
      some (BitVec.ofNat 64 (extendTo 32 b.length sign (ofBytes b)))
    else none
  | .s _ =>
    if part ≤ 8 * j ∧ 8 * j < part + bs.length then
      let b := (bs.drop (8 * j - part)).take 8
      some (BitVec.ofNat 64 (extendTo 64 b.length sign (ofBytes b)))
    else none
  | .p _ => some 1

/-- Set lane `L` of a pending write. -/
def LWrite.setLane (x : LWrite) (L : Nat) (v : DWord) : LWrite :=
  { x with vals := perLane fun M => if M = L then v else x.vals.getD M 0 }

/-- Put bytes into a list from an index up. -/
def patchBytes (l : List Byte) (i : Nat) (bs : List Byte) : List Byte := l.take i ++ bs ++ l.drop (i + bs.length)

/-- Change the bytes a CPY will write for lane `L` (R255). -/
def LWork.patch (w : LWork) (L : Nat) (f : List Byte → List Byte) : LWork :=
  match w with
  | .cpy l => .cpy (l.map fun (x : CpyLane) => if x.lane = L then { x with data := f x.data } else x)
  | w => w

/-- Give lane `L` of an operation the bytes `bs` at offset `part`; `all` says that nothing of the lane is outstanding. -/
def LOp.give (o : LOp) (L part : Nat) (bs : List Byte) (all : Bool) : LOp :=
  let sign := match o.work with | .load _ sg _ => sg | _ => false
  { o with
    writes := o.writes.zipIdx.map fun e =>
      match placeReg sign part bs e.2 e.1.reg with
      | some v => e.1.setLane L v
      | none => e.1
    work := o.work.patch L fun l => patchBytes l part bs
    ready := if all then o.ready ||| laneBit L else o.ready }

/-- Give lane `L` of an operation its failure values: 0 in every register, in the residency predicate (R231, R232) and in
every byte a CPY writes (R255). -/
def LOp.giveFailure (o : LOp) (L : Nat) : LOp :=
  { o with
    writes := o.writes.map fun x => x.setLane L 0
    work := o.work.patch L fun l => l.map fun _ => 0
    ready := o.ready ||| laneBit L }

/-- Change the operation `id` of a wave. -/
def Wave.modOp (w : Wave) (id : Nat) (f : LOp → LOp) : Wave :=
  { w with lops := w.lops.map fun o => if o.id = id then f o else o }

/-- The operation `id` of a wave. -/
def Wave.op? (w : Wave) (id : Nat) : Option LOp := w.lops.find? fun o => o.id = id

/-- The PEERST bits of a failure (R305, R306). -/
def Failure.peerBits (f : Failure) : Nat :=
  1 + (match f.code with | 1 => 2 | 2 => 4 | 3 => 16 | 4 => 8 | 5 => 32 | 6 => 128 | 7 => 2 | _ => 0) +
    (if f.host then 64 else 0)

/-- The PEER field of a failure (R304, R306). -/
def Failure.peerField (f : Failure) : Nat := if f.host then 0 else f.peer

/-- Add to a performance counter (R373). -/
def Wave.count (w : Wave) (i n : Nat) : Wave := { w with perf := w.perf.set i (w.perf.getD i 0 + BitVec.ofNat 64 n) }

/-- Record a failure in PEERST (R306). -/
def Wave.notePeer (w : Wave) (f : Failure) : Wave :=
  { w with peerst := BitVec.ofNat 64 (f.peerField * 2 ^ 52 + ((w.peerst.toNat % 256) ||| f.peerBits)) }

/-- The status word of `n` failures of which `f` is the first (R304). -/
def statusWord (n : Nat) (f : Failure) : DWord :=
  BitVec.ofNat 64 (f.code + (if f.host then 2 ^ 16 else 0) + (if f.host then f.port * 2 ^ 17 else 0) +
    f.peerField * 2 ^ 20 + min n 4095 * 2 ^ 32)

/-- Record a failure for the next fabric or system FENCE (R303); the lanes of one request are one failed access (R294,
R304). -/
def Wave.noteFence (w : Wave) (f : Failure) : Wave :=
  { w with fail := ⟨w.fail.n + (if w.fail.last = some f.req then 0 else 1), some (w.fail.first.getD f), some f.req,
      w.fail.bits ||| f.peerBits, f.peerField⟩ }

/-- A store or reduction of the wave has met a line of another tenancy; its next fabric or system FENCE raises PROT (R396;
notes/assumptions/59.md). -/
def Wave.noteProt (w : Wave) (op lane : Nat) (addr : DWord) : Wave :=
  { w with reports := w.reports ++ [⟨.prot, .none, op, none, some lane, 0, addr, none⟩] }

/-! ### The access list -/

/-- The access `id`. -/
def MemSys.acc? (m : MemSys) (id : Nat) : Option Acc := m.accs.find? fun a => a.id = id
/-- Change access `id`. -/
def MemSys.modAcc (m : MemSys) (id : Nat) (f : Acc → Acc) : MemSys :=
  { m with accs := m.accs.map fun a => if a.id = id then f a else a }
/-- Remove access `id`. -/
def MemSys.dropAcc (m : MemSys) (id : Nat) : MemSys := { m with accs := m.accs.filter fun a => a.id ≠ id }

/-- A load. -/
def AKind.isLoad : AKind → Bool
  | .load => true
  | _ => false

/-- The device line an access goes to. -/
def Acc.line? (a : Acc) : Option Nat :=
  match a.tgt with
  | .dev pa => some (lineOf pa)
  | _ => none

/-- The WCT of an access that is not yet visible (R203, R206). -/
def Acc.wct? (a : Acc) : Option Nat :=
  match a.stage with
  | .pending w => some w
  | .returned w => some w
  | _ => none

/-- The access has not reached its point. -/
def Acc.unperformed (a : Acc) : Bool :=
  match a.stage with
  | .travelling => true
  | .needSlot => true
  | _ => false

/-- Two ranges of bytes overlap. -/
def overlap (a n b m : Nat) : Bool := decide (a < b + m) && decide (b < a + n)

/-- Two accesses touch a common byte. -/
def Acc.meets (a b : Acc) : Bool :=
  match a.tgt, b.tgt with
  | .dev p, .dev q => overlap p a.size q b.size
  | .scratch g p, .scratch h q => g == h && overlap p a.size q b.size
  | .host g p, .host h q => g == h && overlap p a.size q b.size
  | _, _ => false

/-- Change the copy `c` of quad `q`. -/
def State.modCopy (s : State) (q c : Nat) (f : Copy → Copy) : State :=
  s.modQuad q fun x => { x with copies := x.copies.map fun y => if y.id = c then f y else y }

/-- Give the owner of an access its bytes, and drop the access. -/
def State.deliver (s : State) (a : Acc) (bs : List Byte) : State :=
  let s := s.modMem fun m => m.dropAcc a.id
  match a.owner with
  | .wave k =>
    let more := s.mem.accs.any fun b => b.owner == a.owner && b.op == a.op && b.lane == a.lane
    s.modWave k fun w => w.modOp a.op fun o => o.give a.lane a.part bs (!more)
  | .tce q c => s.modCopy q c fun y =>
    { y with rowsOpen := y.rowsOpen.set a.lane (patchBytes (y.rowsOpen.getD a.lane []) a.part bs) }
  | .peer id => s.modMem fun m => { m with peers := m.peers.map fun p => if p.key = id then { p with old := p.old ++ [(a.lane, bs)] } else p }
  | .engine => s

/-- The report that a lane of an operation leaves for the instruction that covers its counter or ticket (R231, R303); one of
another tenancy's line names no failure of the fabric (R396). -/
def laneReport (o : LOp) (L : Nat) (c : Cause) (f : Failure) (addr : DWord) : Report :=
  ⟨c, o.ctr, o.id, o.ticket, some L, o.pc, addr, if c = .prot then none else some f⟩

/-- The request an access belongs to among those of its wave: its instruction and its line at the peer, or itself (R294). -/
def Acc.request (a : Acc) : Nat :=
  match a.tgt with
  | .remote p w o => 2 * (((a.op * 2 ^ 16 + p) * 2 ^ 16 + w) * 2 ^ 64 + o / 128) + 1
  | .mcast g w o => 2 * (((a.op * 2 ^ 16 + 2 ^ 15 + g) * 2 ^ 16 + w) * 2 ^ 64 + o / 128) + 1
  | _ => 2 * a.id

/-- An access that a failure of its lane's access `a` ends with it: one of the same lane whose effect is not under way. A row of a
copy waits for the requests it has sent (R295, R296, R310). -/
def Acc.endsWith (a b : Acc) : Bool :=
  b.owner == a.owner && b.op == a.op && b.lane == a.lane && b.wct?.isNone &&
    (b.id == a.id || (match b.owner with | .tce .. => b.slot.isNone | _ => true))

/-- The virtual address of an access, where it was translated through a page. -/
def Acc.vaddr (a : Acc) (pa : Nat) : DWord :=
  BitVec.ofNat 64 (match a.page with | some (va, n) => va + pa % n | none => pa)

/-- A failed access gives its lane the failure values and is reported as R303 says, and the wave's PEERST records it (R306);
`addr` is what an ECC or PROT trap names. `c` is FABRIC, ECC, or PROT for a line of another tenancy (R396;
notes/assumptions/59.md). -/
def State.failAcc (s : State) (a : Acc) (c : Cause) (f : Failure) (addr : DWord) : State :=
  let f := { f with req := a.request }
  let s := s.modMem fun m => { m with accs := m.accs.filter fun b => !a.endsWith b }
  match a.owner with
  | .wave k =>
    s.modWave k fun w =>
      match w.op? a.op with
      | none => if c = .prot then w.noteProt a.op a.lane addr else w.noteFence f
      | some o =>
        let give := fun (w : Wave) => w.modOp a.op fun o => o.giveFailure a.lane
        let report := fun (w : Wave) => { w with reports := w.reports ++ [laneReport o a.lane c f addr] }
        let peer := fun (w : Wave) => if c = .prot then w else w.notePeer f
        match a.kind, o.work with
        | .load, .load _ _ .ldnf => give (peer w)
        | .load, .load _ _ _ => report (give (peer w))
        | .load, .cpy _ => report (give (peer w))
        | _, _ => if c = .prot then report (give w) else (give w).noteFence f
  | .tce q c' =>
    let k := ((s.quadAt q).copies.find? fun y => y.id == c').map (·.wave)
    let s := s.modCopy q c' fun y => { y with err := true, bad := a.lane :: y.bad }
    match k with
    | some k => if c = .prot then s else s.modWave k fun w => w.notePeer f
    | none => s
  | .peer id =>
    let bad : ReplyBody := if c = .prot then .refused else .poison
    s.modMem fun m => { m with peers := m.peers.map fun p => if p.key = id then { p with bad := some bad } else p }
  | .engine => s

/-! ### Lines, leases and the LLC -/

/-- The key of a replica among the LLC lines and the replicas: its die and line (R195). -/
def repKey (die line : Nat) : Nat := (die + 1) * 2 ^ 45 + line

/-- The slice of a line within its die (R193): physical address bits [12:7] with a hash of bits [37:13], so that consecutive
lines spread across all 64 slices (notes/assumptions/8.md). -/
def llcSlice (line : Nat) : Nat := line % 64 ^^^ Config.hash (line / 64 % 2 ^ 25) % 64

/-- The set of an LLC line, by its key: the die, the slice, and one of 1,024 sets by a hash no rule gives (R193, R195;
notes/assumptions/8.md). -/
def llcSet (key : Nat) : Nat :=
  let line := key % 2 ^ 45
  let die := if key < 2 ^ 45 then dieOfPa (line * 128) else key / 2 ^ 45 - 1
  (die * 64 + llcSlice line) * 1024 + Config.hash (2 ^ 60 + line) % 1024

/-- The range whose chain a line takes (R196): the range of lowest index. -/
def rangeOf (m : MemSys) (line : Nat) : Option Resid :=
  m.ranges.find? fun r => decide (r.base ≤ line * 128) && decide (line * 128 < r.base + 4096 * r.pages)

/-- Lines of the LLC in the set of a key. -/
def llcMates (m : MemSys) (key : Nat) : List (Nat × LlcLine) := m.llc.filter fun e => llcSet e.1 == llcSet key

/-- The order of R194 among victims: demoted, stream, normal, keep. -/
def LlcLine.rank (l : LlcLine) : Nat :=
  if l.demoted then 0 else match l.cls with | 1 => 1 | 2 => 3 | _ => 2

/-- The better victim of two (R194): the lower rank, then the less recently used. -/
def betterVictim (x y : Nat × LlcLine) : Nat × LlcLine :=
  if y.2.rank < x.2.rank ∨ (y.2.rank = x.2.rank ∧ y.2.used < x.2.used) then y else x

/-- The class an access leaves a line with: in a set that holds 8 keep lines a keep access gives class 0 (R194). A class 3 access leaves
class 0, at a home on another die and at the replica's own line (DESIGN CHOICE, notes/assumptions/76.md). -/
def llcClass (m : MemSys) (key cls : Nat) : Nat :=
  let keeps := (llcMates m key).filter fun e => e.2.cls == 2
  if cls = 2 ∧ 8 ≤ keeps.length then 0 else if cls = 3 then 0 else cls

/-- The bursts of a line that the HBM delivers as poisoned, a bit each (R430). -/
def MemSys.hbmPoison (m : MemSys) (line : Nat) : Nat :=
  (if m.poison.contains (2 * line) then 1 else 0) + (if m.poison.contains (2 * line + 1) then 2 else 0)

/-- The HBM holds a line with these bursts poisoned (R430). -/
def MemSys.setHbmPoison (m : MemSys) (line p : Nat) : MemSys :=
  { m with poison := (if p.testBit 0 then [2 * line] else []) ++ (if p.testBit 1 then [2 * line + 1] else []) ++
      m.poison.filter fun b => b / 2 != line }

/-- A line leaves the LLC (R193, R195, R430): a dirty one is written back, with its poison; a replica is gone. -/
def MemSys.evict (m : MemSys) (key : Nat) : MemSys :=
  let m' := { m with llc := m.llc.del key, reps := m.reps.del key }
  match m.llc.get? key with
  | some l => if l.dirty then m'.setHbmPoison key l.poison else m'
  | none => m'

/-- An access of class `cls` by tenancy `ten` at the home slice of a line, or to a replica by its key (R193 to R197, R397). A line takes
its tagged bit and its chain where it is filled, and keeps them when its range goes (DESIGN CHOICE, notes/assumptions/76.md). -/
def MemSys.llcTouch (m : MemSys) (key cls ten : Nat) : MemSys :=
  let c := llcClass m key cls
  let m := { m with llcClock := m.llcClock + 1 }
  match m.llc.get? key with
  | some l => { m with llc := m.llc.set key { l with cls := c, demoted := false, used := m.llcClock } }
  | none =>
    let mates := llcMates m key
    let allowed := (List.range 12).filter fun i => (m.ways.getD ten 0xFFF).getLsbD i
    let free := allowed.filter fun i => mates.all fun e => e.2.way != i
    let r := if key < 2 ^ 45 then rangeOf m key else none
    let fill := fun way =>
      (⟨way, c, (r.map (·.chain)).getD 0, r.isSome, false, ten, m.llcClock, false, if m.hbmPoison key = 0 then 0 else 3⟩ : LlcLine)
    match free with
    | i :: _ => { m with llc := m.llc.set key (fill i) }
    | [] =>
      match mates.filter fun e => allowed.contains e.2.way with
      | [] => m
      | e :: es =>
        let v := es.foldl betterVictim e
        let m' := m.evict v.1
        { m' with llc := m'.llc.set key (fill v.2.way) }

/-- Place a replica in a slice of a die, where the tenancy's ways leave it room (R195, R397). -/
def MemSys.fillReplica (m : MemSys) (die line ten : Nat) (x : Leased) : MemSys :=
  let m := m.llcTouch (repKey die line) 0 ten
  if (m.llc.get? (repKey die line)).isSome then { m with reps := m.reps.set (repKey die line) x } else m

/-- Drop the replicas that `f` selects (R195). -/
def MemSys.dropReplicas (m : MemSys) (f : Nat → Leased → Bool) : MemSys :=
  let gone := (m.reps.filter fun e => f e.1 e.2).map (·.1)
  { m with reps := m.reps.filter fun e => !gone.contains e.1, llc := m.llc.filter fun e => !gone.contains e.1 }

/-- The accesses pending at a line's home (R202). -/
def MemSys.pendingAt (m : MemSys) (chrono line : Nat) : List Nat :=
  m.accs.filterMap fun a => if a.line? == some line then a.wct?.filter (fun w => chrono < w) else none

/-- The lease a load takes at time `t` (R202): its expiry, if any is granted. -/
def MemSys.leaseFor (m : MemSys) (t line lease : Nat) : Option Nat :=
  let e := match (m.pendingAt t line).min? with
    | none => t + lease
    | some w => min (t + lease) (w - 1)
  if t < e then some e else none

/-- The unencrypted window of a pseudo-channel, in which nothing is cached (R433, R434): set by HKPW. -/
def inWindow (h : House) (pa : Nat) : Bool := h.pwEn && decide (pa / 2 ^ 21 = h.pwGran)

/-- Which bursts of a line are poisoned, a bit each: an LLC line is poisoned as a whole, and so is one that an access brings in with a
poisoned burst; the window, which no line caches, keeps each burst apart (R430, R434). -/
def MemSys.linePoison (m : MemSys) (h : House) (line : Nat) : Nat :=
  match m.llc.get? line with
  | some l => l.poison
  | none => if inWindow h (line * 128) ∨ m.hbmPoison line = 0 then m.hbmPoison line else 3

/-- An access of `n` bytes meets a poisoned burst of its line, given the poison of the line (R430). -/
def meetsPoison (p pa n : Nat) : Bool :=
  (p.testBit 0 && decide (pa % 128 < 64)) || (p.testBit 1 && decide (64 < pa % 128 + n))

/-- Which bursts of a line the device now finds poisoned (R430). -/
def State.linePoison (s : State) (line : Nat) : Nat := s.mem.linePoison s.house line

/-- A poisoned burst meets the bytes from `pa` to `pa + n` (R430). -/
def State.poisoned (s : State) (pa n : Nat) : Bool :=
  (List.range ((pa % 128 + n + 127) / 128)).any fun i =>
    let a := if i = 0 then pa else (lineOf pa + i) * 128
    meetsPoison (s.linePoison (lineOf pa + i)) a (min (pa + n) ((lineOf pa + i + 1) * 128) - a)

/-- A store by which a core is denied copies of a line: issued, and not both performed and returned (R192). -/
def blocksCopy (core line : Nat) (a : Acc) : Bool :=
  a.core == core && a.line? == some line && !a.kind.isLoad && (match a.owner with | .wave _ => true | _ => false)

/-- The ways of an L1 (R192): one per 32 KiB. -/
def l1Ways (c : Core) : Nat := 16 - 2 * c.split

/-- Install a line in an L1 (R192); a full set gives up a line no rule names (notes/assumptions/8.md). -/
def Core.fillL1 (c : Core) (line : Nat) (x : Leased) (victim : Nat) : Core :=
  let mates := c.l1.filter fun e => e.1 % 256 == line % 256 && e.1 != line
  let l1 := if mates.length < l1Ways c then c.l1
    else match mates[victim % mates.length]? with
      | some v => c.l1.del v.1
      | none => c.l1
  { c with l1 := l1.set line x }

/-- Drop every copy and lease holder of a line at a core. -/
def State.dropL1 (s : State) (core line : Nat) : State := s.modCore core fun c => { c with l1 := c.l1.del line }

/-! ### Visibility -/

/-- Write bytes of a line of device memory: in the LLC, which makes its line dirty, or in the HBM where the line is not held.
A write of the whole line clears its poison (R193, R430). -/
def MemSys.put (m : MemSys) (pa : Nat) (bs : List Byte) (whole : Bool) : MemSys :=
  let m' := { m with bytes := Memory.write m.bytes pa bs }
  match m.llc.get? (lineOf pa) with
  | some l => { m' with llc := m.llc.set (lineOf pa) { l with dirty := true, poison := if whole then 0 else l.poison } }
  | none => if whole then m'.setHbmPoison (lineOf pa) 0 else m'

/-- Note that the word at `pa` is replaced at time `t` (R70): the value it had before the first of the stores of that time. -/
def Group.noteWord (old : Memory) (t : Nat) (g : Group) (w : Nat) : Group :=
  let l := g.code.getD w []
  if (l.getLast?).map (·.1) = some t then g
  else { g with code := g.code.set w (l ++ [(t, BitVec.ofNat 32 (Memory.num old (4 * w) 4))]) }

/-- Change every group, those saved with their contexts included. -/
def State.everyGroup (s : State) (f : Group → Group) : State :=
  { s with
    groups := s.groups.mapVals fun _ g => f g
    cp := { s.cp with ctxs := s.cp.ctxs.mapVals fun _ (c : Ctx) =>
      { c with saves := c.saves.map fun (x : SavedGroup) => { x with group := f x.group } } } }

/-- Bytes of a line change at time `t` (R204): groups may still fetch the words that they replace (R70). -/
def State.putDev (s : State) (pa : Nat) (bs : List Byte) (whole : Bool) (t : Nat) : State :=
  let words := (List.range ((pa % 4 + bs.length + 3) / 4)).map fun i => pa / 4 + i
  (s.everyGroup fun g => words.foldl (Group.noteWord s.mem.bytes t) g).modMem fun m => m.put pa bs whole

/-- Make one due access visible (R204, R206): bytes are written, an atomic computes and its old value returns. -/
def State.makeVisible (s : State) (a : Acc) : State :=
  match a.tgt with
  | .dev pa =>
    let next := fun (s : State) =>
      match a.stage with
      | .pending w => s.modMem fun m => m.modAcc a.id fun b => { b with stage := .performed w }
      | _ => s.modMem fun m => m.dropAcc a.id
    let give := fun (s : State) (old : List Byte) =>
      match a.owner with
      | .wave k => s.modWave k fun w => w.modOp a.op fun o => o.give a.lane 0 old true
      | .peer id => s.modMem fun m => { m with peers := m.peers.map fun p => if p.key = id then { p with old := p.old ++ [(a.lane, old)] } else p }
      | _ => s
    let t := a.wct?.getD s.chrono
    match a.kind with
    | .load => s
    | .store => next (s.putDev pa a.data a.whole t)
    | .atom op =>
      let old := Memory.read s.mem.bytes pa a.size
      let new := atomNew op (8 * a.size) (ofBytes old) (ofBytes a.data)
      next (give (if atomWrites op (8 * a.size) (ofBytes old) (ofBytes a.data) then s.putDev pa (bytesOf a.size new) false t else s) old)
    | .red op | .mcred op =>
      let old := Memory.num s.mem.bytes pa a.size
      next (s.putDev pa (bytesOf a.size (atomNew op (8 * a.size) old (ofBytes a.data))) false t)
  | _ => s

/-- The access becomes visible by `t`. -/
def Acc.due (t : Nat) (a : Acc) : Bool :=
  match a.wct? with
  | some w => decide (w ≤ t)
  | none => false

/-- Make visible every access of a list that is due. -/
def settleList (t : Nat) : List Acc → State → State
  | [], s => s
  | a :: l, s => settleList t l (if a.due t then s.makeVisible a else s)

/-- Every store and atomic whose WCT the chronometer has reached is visible (R204). -/
def State.settle (s : State) : State := settleList s.chrono s.mem.accs s

/-! ### The home slice serves an access (R201 to R206) -/

/-- The time at which a store or atomic that reaches its home now becomes visible (R203, R206); no lease stands in the
placement window (R434). -/
def State.wctFor (s : State) (line : Nat) : Nat :=
  let l := s.mem.line line
  max s.chrono (max (if inWindow s.house (line * 128) then 0 else l.emax + 1) l.wprev)

/-- Where the placement window holds the byte at a physical address: its bank and its spare row (R433). -/
def winPlace (h : House) (pa : Nat) : Nat × Nat := (4 * h.pwBg + pa / 1024 % 4, 64 + pa % 2 ^ 21 / 4096)

/-- An access to the window goes to its controller, and is pending on its bank until its data has moved (R426, R434). -/
def State.winArrive (s : State) (id pa : Nat) (write : Bool) : State :=
  let at_ := winPlace s.house pa
  s.modHouse fun h => { h.modPc h.pwPc fun x => x.modBank at_.1 DBank.arrive with
    pwAccs := h.pwAccs ++ [⟨id, h.pwPc, at_.1, at_.2, write, false⟩] }

/-- The accesses of one instruction to one line that are accepted together (R200, R205). -/
def State.batchOf (s : State) (a : Acc) : List Acc :=
  s.mem.accs.filter fun b => b.owner == a.owner && b.op == a.op && b.line? == a.line? && b.kind == a.kind && b.stage == .travelling

/-- The bytes of a batch fill its line. -/
def fillsLine (l : List Acc) (line : Nat) : Bool :=
  (List.range 128).all fun i => l.any fun a =>
    match a.tgt with
    | .dev pa => decide (pa ≤ line * 128 + i) && decide (line * 128 + i < pa + a.size)
    | _ => false

/-- Accept the stores or atomics of a batch at the home of `line`. -/
def State.acceptBatch (s : State) (a : Acc) (line : Nat) : State :=
  let batch := s.batchOf a
  let w := s.wctFor line
  let whole := a.kind == .store && fillsLine batch line
  let ids := batch.map (·.id)
  let m := s.mem
  let m := { m with
    accs := m.accs.filter (fun (b : Acc) => !ids.contains b.id) ++
      batch.map fun (b : Acc) => { b with stage := .pending w, whole := whole }
    lines := m.lines.set line { m.line line with wprev := w } }
  if inWindow s.house (line * 128) then { s with mem := m }.winArrive a.id (line * 128) true
  else { s with mem := m.llcTouch line a.cls a.ten }

/-- A load of class 3 whose home slice lies on another die uses replicas (R195): no load of another class does, and one in the private
window does like any other (DESIGN CHOICE, notes/assumptions/76.md). -/
def Acc.replicates (a : Acc) (pa : Nat) : Bool :=
  a.cls == 3 && dieOfPa pa != dieOfCore a.core && (match a.owner with | .wave _ => true | .tce _ _ => true | _ => false)

/-- A load of device memory meets poison (R231, R430); PEERST names this device (notes/assumptions/63.md). -/
def State.failPoison (s : State) (a : Acc) (pa : Nat) : State :=
  s.failAcc a .ecc ⟨3, s.host.device, false, 0, 0⟩ (BitVec.ofNat 64 pa)

/-- Serve a load at the home slice: its value, or poison, a lease, and the copies it fills (R192, R195, R202, R204, R430). -/
def State.serveLoad (s : State) (a : Acc) (pa line : Nat) : State :=
  let bs := Memory.read s.mem.bytes pa a.size
  let nolease := inWindow s.house pa
  let l1 := match a.owner with | .wave _ => !(s.mem.accs.any (blocksCopy a.core line)) | _ => false
  let s := if nolease then s else s.modMem fun m => m.llcTouch line a.cls a.ten
  let lost := meetsPoison (s.linePoison line) pa a.size
  let s := match (if (l1 || a.replicates pa) && !nolease then s.mem.leaseFor s.chrono line a.lease else none) with
    | none => s
    | some e =>
      let copy : Leased := ⟨Memory.read s.mem.bytes (line * 128) 128, e, a.launch, s.linePoison line⟩
      let s := s.modMem fun m => { m with lines := m.lines.set line { m.line line with emax := max (m.line line).emax e } }
      let s := if a.replicates pa then s.modMem fun m => m.fillReplica (dieOfCore a.core) line a.ten copy else s
      if l1 then s.modCore a.core fun c => c.fillL1 line copy (s.freeNum (2 ^ 32 + a.id)) else s
  if lost then s.failPoison a pa else s.deliver a bs

/-- A load served by a copy: the copy's bytes of the access. -/
def copyBytes (x : Leased) (pa n : Nat) : List Byte := (x.data.drop (pa % 128)).take n

/-- The replica that may serve a load now (R195). -/
def State.replicaFor (s : State) (a : Acc) (pa line : Nat) : Option Leased :=
  if a.replicates pa then
    (s.mem.reps.get? (repKey (dieOfCore a.core) line)).filter fun x => decide (s.chrono < x.expiry)
  else none

/-- The copy that may serve a load now: the L1's of a wave's core, else its die's replica (R192, R195, R215). -/
def State.copyFor (s : State) (a : Acc) (pa line : Nat) : Option Leased :=
  match a.owner with
  | .wave _ =>
    if s.mem.accs.any (blocksCopy a.core line) then none
    else
      match ((s.coreAt a.core).l1.get? line).filter fun x => decide (s.chrono < x.expiry) with
      | some x => some x
      | none => s.replicaFor a pa line
  | .tce _ _ => s.replicaFor a pa line
  | _ => none

/-- A copy in the core's L1 serves loads (R192). -/
def Core.hitsL1 (c : Core) (t line : Nat) : Bool :=
  match c.l1.get? line with
  | some x => decide (t < x.expiry)
  | none => false

/-- The copy that serves an access is its core's L1's, not a replica (R192, R195). -/
def State.hitsOwnL1 (s : State) (a : Acc) (line : Nat) : Bool :=
  match a.owner with
  | .wave _ => (s.coreAt a.core).hitsL1 s.chrono line
  | _ => false

/-- The source that a peer's accesses come from (R298). -/
def State.sourceOf (s : State) (o : Owner) : Option Nat :=
  match o with
  | .peer id => (s.mem.peers.find? fun p => p.key == id).map fun p => p.req.src
  | _ => none

/-- Accesses of one wave, of one engine, or of one other device: those that their home keeps in order (R205, R220, R298). -/
def State.sameSource (s : State) (a b : Acc) : Bool :=
  a.owner == b.owner || ((s.sourceOf a.owner).isSome && s.sourceOf a.owner == s.sourceOf b.owner)

/-- An access is a read of a CPY, which is not ordered with the accesses of its wave (R215). -/
def State.ofCpy (s : State) (a : Acc) : Bool :=
  match a.owner with
  | .wave k =>
    match (s.waveAt? k).bind fun w => w.op? a.op with
    | some o => (match o.work with | .cpy _ => true | _ => false)
    | none => false
  | _ => false

/-- A load meets a pending store of its own wave or of its own device (R205, R298); a copy's read does not wait for it (R215). -/
def State.awaitsOwn (s : State) (a : Acc) : Bool :=
  !s.ofCpy a && s.mem.accs.any fun b => s.sameSource a b && !b.kind.isLoad && b.wct?.isSome && a.meets b

/-- A load of device memory, which waits for the stores that it must see. A hit in a replica is an access of class 0 to its slice's line and takes a lease of its own in the
L1, no longer than the replica's (R194, R195). -/
def State.loadDev (s : State) (a : Acc) (pa line : Nat) : State :=
  if s.awaitsOwn a then s
  else
    match s.copyFor a pa line with
    | some x =>
      let s := if s.hitsOwnL1 a line then s else s.modMem fun m => m.llcTouch (repKey (dieOfCore a.core) line) 0 a.ten
      let s := match a.owner with
        | .wave _ => s.modCore a.core fun c =>
          if c.hitsL1 s.chrono line then c
          else c.fillL1 line { x with expiry := min x.expiry (s.chrono + a.lease), launch := a.launch } (s.freeNum (2 ^ 32 + a.id))
        | _ => s
      if meetsPoison x.poison pa a.size then s.failPoison a pa else s.deliver a (copyBytes x pa a.size)
    | none => s.serveLoad a pa line

/-! ### The scratchpad (R187, R208, R215 to R217, R252, R256) -/

/-- A store of wave `k`. -/
def Stale.by? (e : Stale) (k : Nat) : Bool := e.by_ == .wave k

/-- A store of a wave. -/
def Stale.isStore (e : Stale) : Bool := match e.by_ with | .wave _ => true | _ => false

/-- A write of a copy or of an ADRAIN that is not yet certain to wave `k` (R215, R252, R289). -/
def Stale.openTo (k : Nat) (e : Stale) : Bool := !e.isStore && !e.all && !e.clear.contains k

/-- A write that the quad's TCE may not see yet for an instruction of wave `k`: a store that no quad fence or OPRDY has ordered,
or a copy's write that the wave has not observed (R216). -/
def Stale.openTce (k : Nat) (e : Stale) : Bool := if e.isStore then !e.tce else e.openTo k

/-- A write that the quad's array may not see yet for an instruction of wave `k`: one that no OPRDY has ordered, but that of an
ADRAIN is seen once the wave has observed it (R217, R289, R313). -/
def Stale.openArr (k : Nat) (e : Stale) : Bool := !e.arr && (e.by_ != .drain || e.openTo k)

/-- The byte at `off` as a reader sees it, given the writes of the partition with each byte's latest first: a write that `under` selects
shows the value beneath it, and the first that it does not select hides all earlier ones. -/
def seeByte (off : Nat) (under : Stale → Bool) : Byte → List Stale → Byte
  | v, [] => v
  | v, e :: l => if e.off ≠ off then seeByte off under v l else if under e then seeByte off under e.old l else v

/-- A reader sees the element `elem` beneath the write `e`: where `f` leaves the write open, by a free bit, one for the whole
element. -/
def State.under (s : State) (g : Nat) (f : Stale → Bool) (elem : Nat) (e : Stale) : Bool :=
  f e && s.freeBit (2 ^ 59 + (g * 2 ^ 40 + e.id) * 2 ^ 24 + elem)

/-- The byte at a partition offset as a reader sees it: each write that `f` selects may still show its old value, and one
choice holds for the whole element `elem` (R216, R217). A byte lost to a storage error reads as any (R431). -/
def State.scratchByte (s : State) (g : Nat) (x : Group) (f : Stale → Bool) (elem off : Nat) : Byte :=
  if x.bad.contains off then s.freeByte (2 ^ 57 + g * 2 ^ 20 + off)
  else seeByte off (s.under g f elem) (Memory.get x.scratch off) x.stale

/-- Bytes of a partition, each an element of its own (R215, R252). -/
def State.scratchBytes (s : State) (g : Nat) (f : Stale → Bool) (off n : Nat) : List Byte :=
  match s.groupAt? g with
  | none => []
  | some x => (List.range n).map fun i => s.scratchByte g x f (8 * (off + i)) (off + i)

/-- Bytes of a partition that are one element. -/
def State.scratchElem (s : State) (g : Nat) (f : Stale → Bool) (off n : Nat) : List Byte :=
  match s.groupAt? g with
  | none => []
  | some x => (List.range n).map fun i => s.scratchByte g x f (8 * off) (off + i)

/-- A write that wave `k` may still read beneath: one that is open to it and whose value it has not read (R208, R215). -/
def Stale.openRead (k : Nat) (e : Stale) : Bool := e.openTo k && !e.seen.contains k

/-- Bytes of a partition as wave `k` reads them (R208, R215, R252, R256). -/
def State.scratchRead (s : State) (k g off n : Nat) : List Byte := s.scratchBytes g (Stale.openRead k) off n

/-- Wave `k` has read the byte at `off`: from the write that it has seen it does not go back (R208). -/
def sawByte (k off : Nat) (under : Stale → Bool) : List Stale → List Stale
  | [] => []
  | e :: l =>
    if e.off ≠ off ∨ under e then e :: sawByte k off under l
    else (if e.openRead k then { e with seen := k :: e.seen } else e) :: l

/-- Wave `k` has read bytes of a partition. -/
def State.scratchSaw (s : State) (k g off n : Nat) : State :=
  s.modGroup g fun x => { x with
    stale := (List.range n).foldl (fun l i => sawByte k (off + i) (s.under g (Stale.openRead k) (8 * (off + i))) l) x.stale }

/-- Bytes of a partition as the TCE reads an index for copy `id` of wave `k`, old or new as a whole: the stores that the wave
issued before it are seen, as after a quad fence (R215, R249). -/
def State.indexRead (s : State) (k g id off n : Nat) : List Byte :=
  s.scratchElem g (fun e => e.openTce k && !(e.by? k && decide (e.id < id))) off n

/-- Put a write of the byte `b` among the writes of its byte, beneath those that `atop` selects at the top: the byte's value after, and
the writes. -/
def putWrite (atop : Stale → Bool) (new : Stale) (b : Byte) : Byte → List Stale → Byte × List Stale
  | cur, [] => (b, [{ new with old := cur }])
  | cur, e :: l =>
    if e.off ≠ new.off then let r := putWrite atop new b cur l; (r.1, e :: r.2)
    else if atop e then let r := putWrite atop new b e.old l; (cur, { e with old := r.1 } :: r.2)
    else (b, { new with old := cur } :: e :: l)

/-- The write `e` meets a write of the instruction `id` of wave `k`, a store of the wave or not, at once, and either value may remain
(R252, R256, R292): a copy or ADRAIN not over when the instruction issued, a store performed since, or a CPY for which the
storing wave has not waited. -/
def Stale.meets (k id : Nat) (store : Bool) (e : Stale) : Bool :=
  e.id != id && !(store && e.isStore) &&
    ((match e.done with | none => true | some n => decide (id < n)) ||
      (store && e.openTo k && e.marks.any fun m => (List.range 4).any fun t => m.1 == 2 ^ 32 + k * 4 + t))

/-- Write one byte for wave `k`: the store of the wave itself, or a write for it by a copy or an ADRAIN. Among the writes that it meets
at once its place is free (R252, R256, R292). -/
def State.scratchPut1 (s : State) (g k id : Nat) (by_ : Writer) (x : Group) (off : Nat) (b : Byte) : Group :=
  let store := by_ == .wave k
  let atop := fun (e : Stale) => e.meets k id store && s.freeBit (2 ^ 58 + (g * 2 ^ 40 + id * 2 ^ 20 + off) * 2 ^ 20 + e.id % 2 ^ 20)
  let new : Stale := ⟨id, if store then some s.nextId else none, by_, off, 0, [], [], [], false, [], false, false⟩
  let r := putWrite atop new b (Memory.get x.scratch off) x.stale
  { x with
    scratch := Memory.set x.scratch off r.1
    bad := x.bad.filter fun n => n != off
    stale := r.2 }

/-- Write bytes to a partition for wave `k`. -/
def State.scratchWrite (s : State) (g k id : Nat) (by_ : Writer) (off : Nat) (bs : List Byte) : State :=
  s.modGroup g fun x => bs.zipIdx.foldl (fun x e => s.scratchPut1 g k id by_ x (off + e.2) e.1) x

/-- Change the writes of a partition that may still show their old values. -/
def State.modStale (s : State) (g : Nat) (f : Stale → Stale) : State :=
  s.modGroup g fun x => { x with stale := x.stale.map f }

/-- The stores of wave `k` to its partition numbered below `before` are visible to the quad's TCE: a quad fence (R210, R216). -/
def State.orderStores (s : State) (g k before : Nat) : State :=
  s.modStale g fun e => if e.by? k && decide (e.id < before) then { e with tce := true } else e

/-- An OPRDY of wave `k` meets the writes that are visible to the wave: its own stores, and what it has observed (R284). -/
def State.oprdyMeets (s : State) (g k : Nat) : State :=
  s.modStale g fun e => if e.by? k || e.clear.contains k || e.all then { e with ordered := k :: e.ordered } else e

/-- The hold of an OPRDY of wave `k` numbered `before` is released: what it met, and the stores issued before it, are visible to
the array and the TCE (R284). -/
def State.oprdyOrders (s : State) (g k before : Nat) : State :=
  s.modStale g fun e =>
    if e.ordered.contains k || (e.by? k && decide (e.id < before)) then { e with tce := true, arr := true, ordered := e.ordered.erase k }
    else e

/-- The mark of a retired CPY of wave `k` and tag `t`, in place of a rendezvous (R215, R256). -/
def cpyMark (k t : Nat) : Nat := 2 ^ 32 + k * 4 + t

/-- The CPYs that wave `k` has waited for are certain to every wave: it fences or arrives (R215). -/
def State.publishCpys (s : State) (g k : Nat) : State :=
  s.modStale g fun e =>
    if e.clear.contains k && e.marks.any (fun m => (List.range 4).any fun t => m.1 == cpyMark k t) then { e with all := true } else e

/-- Add a mark. -/
def Stale.mark (off : Nat) (e : Stale) : Stale := { e with marks := (off, false) :: e.marks.filter fun m => m != (off, false) }

/-- The stores of wave `k` arrive at the object at `off` (R213, R284). -/
def State.markArrival (s : State) (g k off : Nat) : State := s.modStale g fun e => if e.by? k then e.mark off else e

/-- The instruction `id` has credited the object at `off`: a wave that observes the completion of the phase sees its writes
(R215). -/
def State.markCredit (s : State) (g id off : Nat) : State :=
  s.modStale g fun e => if e.id = id && !e.isStore then { e.mark off with done := some (e.done.getD s.nextId) } else e

/-- A phase of the object at `off` is complete: waves may observe what has arrived at it or credited it (R213, R215). -/
def State.endPhase (s : State) (g off : Nat) : State :=
  s.modStale g fun e => { e with marks := e.marks.map fun m => if m.1 = off then (off, true) else m }

/-- The writes that `f` selects are certain to wave `k` (R213, R215). -/
def State.observe (s : State) (g k : Nat) (f : Stale → Bool) : State :=
  s.modStale g fun e => if f e && !e.clear.contains k then { e with clear := k :: e.clear } else e

/-- A completed phase of the object at `off` is the one of the write's arrival or credit. -/
def Stale.ended (off : Nat) (e : Stale) : Bool := e.marks.contains (off, true)

/-- Perform an access of a wave to its group's partition (R187, R208, R218, R236, R237). -/
def State.scratchAcc (s : State) (a : Acc) (g off : Nat) : State :=
  match a.owner with
  | .wave k =>
    let old := s.scratchRead k g off a.size
    let saw := s.scratchSaw k g off a.size
    let put := fun (s : State) (bs : List Byte) => s.scratchWrite g k a.id (.wave k) off bs
    let apply := fun (op : AtomOp) =>
      if atomWrites op (8 * a.size) (ofBytes old) (ofBytes a.data) then
        put saw (bytesOf a.size (atomNew op (8 * a.size) (ofBytes old) (ofBytes a.data)))
      else saw
    match a.kind with
    | .load => saw.deliver a old
    | .store => (put s a.data).modMem fun m => m.dropAcc a.id
    | .atom op => (apply op).deliver a old
    | .red op => (apply op).modMem fun m => m.dropAcc a.id
    | .mcred op => (apply op).modMem fun m => m.dropAcc a.id
  | _ => s.modMem fun m => m.dropAcc a.id

/-- An earlier access of the same wave or device that `a` must follow: an access of an earlier instruction to the same line
(R205, R298), or an overlapping one in the scratchpad or at a host (R208). -/
def State.mustFollow (s : State) (a b : Acc) : Bool :=
  b.unperformed && s.sameSource a b &&
    (match a.line? with
     | some l => b.line? == some l && decide (b.op < a.op)
     | none => decide (b.id < a.id) && a.meets b)

/-- A RDVINIT, the only store of 32 bytes, follows the wave's earlier RDVARR and RDVEXP at its object (R259). -/
def State.initHeld (s : State) (a : Acc) (off : Nat) : Bool :=
  a.size == 32 && (match a.owner with
    | .wave k => (match s.waveAt? k with | some w => w.rdvq.any fun p => p.off == off && decide (p.id < a.op) | none => false)
    | _ => false)

/-- The tag of the line differs from the tenancy of a program's access, or the granule is changing hands (R394, R396, R446). -/
def State.tagMiss (s : State) (a : Acc) (pa : Nat) : Bool :=
  match a.owner with
  | .engine => false
  | _ => s.mem.owner (pa / 2 ^ 21) != BitVec.ofNat 8 (64 + a.ten) || s.mem.moving.contains (pa / 2 ^ 21)

/-- The data of a load of the window has moved (R434). -/
def State.winMoved (s : State) (id : Nat) : Bool := s.house.pwAccs.any fun w => w.acc == id && w.moved

/-- What the window's controller has done for accesses that are over is forgotten. -/
def State.winForget (s : State) : State :=
  s.modHouse fun h => { h with pwAccs := h.pwAccs.filter fun w => !(w.moved && (w.write || (s.mem.acc? w.acc).isNone)) }

/-- A load of the placement window reads the HBM: it goes to the controller, and is served once its data has moved (R434). -/
def State.loadWindow (s : State) (a : Acc) (pa : Nat) : State :=
  if s.winMoved a.id then (s.loadDev a pa (lineOf pa)).winForget
  else if s.awaitsOwn a || s.house.pwAccs.any fun w => w.acc == a.id then s
  else s.winArrive a.id pa false

/-- Bytes of a launch's parameter copy; what lies past its words was never written (R14, R330). -/
def Launch.paramBytes (l : Launch) (off n : Nat) : List Byte :=
  (List.range n).map fun i => BitVec.ofNat 8 ((l.params.getD ((off + i) / 8) 0).toNat / 256 ^ ((off + i) % 8))

/-- An access reaches its point and is performed there (R198). -/
def State.perform (s : State) (id : Nat) : State :=
  match s.mem.acc? id with
  | none => s
  | some a =>
    if a.stage ≠ .travelling || (s.mem.accs.any (s.mustFollow a) && !s.ofCpy a) then s
    else
      match a.tgt with
      | .scratch g off => if s.initHeld a off then s else s.scratchAcc a g off
      | .param l off =>
        match s.launchAt? l with
        | none => s.modMem fun m => m.dropAcc a.id
        | some x => s.deliver a (x.paramBytes off a.size)
      | .dev pa =>
        let s := s.settle
        if s.tagMiss a pa then s.failAcc a .prot ⟨0, 0, false, 0, 0⟩ (a.vaddr pa)
        else if a.kind.isLoad then (if inWindow s.house pa then s.loadWindow a pa else s.loadDev a pa (lineOf pa))
        else s.acceptBatch a (lineOf pa)
      | _ => s

/-! ### Accesses of the device's engines -/

/-- A store or atomic of an engine: accepted at its home now, visible at its WCT, never before `after`; the WCT and the state. One
for a context is numbered `op`, its number plus 1, made for a launch, and translated through a page. -/
def State.engineAcc (s : State) (kind : AKind) (pa : Nat) (bs : List Byte) (after op launch : Nat) (page : Option (Nat × Nat)) :
    Nat × State :=
  let line := lineOf pa
  let w := max after (s.wctFor line)
  let (id, s) := s.fresh
  let whole := kind == .store && pa % 128 == 0 && bs.length == 128
  let a : Acc := ⟨id, .engine, 0, op, 0, 0, kind, .dev pa, bs.length, bs, 0, 0, 0, launch, none, .returned w, none, whole, page⟩
  let s := s.modMem fun m => { m with accs := m.accs ++ [a], lines := m.lines.set line { m.line line with wprev := w } }
  (w, if inWindow s.house pa then s.winArrive id pa true else s)

/-- A store of an engine for no context. -/
def State.engineStore (s : State) (pa : Nat) (bs : List Byte) (after : Nat) : Nat × State :=
  s.engineAcc .store pa bs after 0 0 none

/-- Bytes that an engine or a host stores from `pa` up, line by line; `n` bounds the lines. -/
def State.engineStores (s : State) (pa : Nat) (bs : List Byte) : Nat → State
  | 0 => s
  | n + 1 =>
    if bs = [] then s
    else
      let k := 128 - pa % 128
      State.engineStores (s.engineStore pa (bs.take k) 0).2 (pa + k) (bs.drop k) n

/-- A read of an engine at the home slice (R204). -/
def State.engineLoad (s : State) (pa n : Nat) : Nat := Memory.num s.settle.mem.bytes pa n

/-- The bytes from `a` to `a + n` are zeroed and no copy, lease, pending store or earlier word of code of them remains (R14,
R188, R394). -/
def State.wipe (s : State) (a n : Nat) : State :=
  let hit := fun (l : Nat) => overlap (l * 128) 128 a n
  let s := s.everyGroup fun g => { g with code := g.code.filter fun e => !overlap (4 * e.1) 4 a n }
  { s with
    mem := { s.mem with
      bytes := Memory.clear s.mem.bytes a n
      poison := s.mem.poison.filter fun b => !overlap (b * 64) 64 a n
      llc := s.mem.llc.filter fun e => !hit (e.1 % 2 ^ 45)
      reps := s.mem.reps.filter fun e => !hit (e.1 % 2 ^ 45)
      accs := s.mem.accs.filter fun x => match x.owner, x.tgt with | .engine, .dev pa => !overlap pa x.size a n | _, _ => true }
    cores := s.cores.map fun e => (e.1, { e.2 with l1 := e.2.l1.filter fun x => !hit x.1 }) }

end Sys2Proof.Machine
end

