-- ==== Sys2Proof/Machine/Operands.lean ====
section
/-! DEFINITION. Reading operands at every level and writing results (R17, R24 to R35, R38, R50, R62 to R64), and the
issue cycle of the timing contract (R31, R37). -/

namespace Sys2Proof.Machine

/-! ### Registers with pending class L writes (R38) -/

/-- The number of a register among the 272 of a wave. -/
def RegRef.code : RegRef → Nat
  | .v n => n
  | .s n => 128 + n
  | .p n => 256 + n

/-- The pending write `x` of the operation `o` may be seen by a read of `r` in lane `L`. The predicate of a LDNF is seen only
once its lane has landed, so that a read of its new value never precedes an old value of the destination (R232). -/
def LWrite.visible (x : LWrite) (o : LOp) (r : RegRef) (L : Nat) : Bool :=
  let ties := match x.reg, o.work with | .p _, .load _ _ op => op == .ldnf | _, _ => false
  x.reg == r && inMask x.mask L && inMask o.ready L && inMask o.left L && !ties

/-- A read of a register lane: its value, or that of a class L write that has not landed, either one (R38). -/
def State.seen (s : State) (w : Wave) (r : RegRef) (L : Nat) (base : DWord) : DWord :=
  w.lops.foldl (fun v o => o.writes.foldl (fun v x =>
    if x.visible o r L && s.freeBit (2 ^ 60 + o.id * 2 ^ 16 + r.code * 64 + L) then x.vals.getD L 0 else v) v) base

/-- A 32-bit vector register lane; a dead register reads as zero (R34). -/
def State.readV (s : State) (w : Wave) (n L : Nat) : DWord :=
  if w.dead.contains n then 0 else s.seen w (.v n) L (((w.v.getD n []).getD L 0).zeroExtend 64)

/-- A scalar register; a dead register reads as zero (R34). -/
def State.readS (s : State) (w : Wave) (n : Nat) : DWord :=
  if w.dead.contains (128 + n) then 0 else s.seen w (.s n) 0 (w.s.getD n 0)

/-- A predicate lane; p0 reads as ones (R4). -/
def State.readP (s : State) (w : Wave) (n L : Nat) : Bool :=
  n == 0 || s.seen w (.p n) L (if inMask (w.p.getD n 0) L then 1 else 0) != 0

/-- The lanes of a predicate. -/
def State.predMask (s : State) (w : Wave) (n : Nat) : Mask := maskOf (s.readP w n)

/-! ### Sources -/

/-- One source of an instruction. -/
structure Opnd where
  sel : Src
  rd : Rd
  perm : PermKind
  amt : Nat
  fill : Option (Fin 8)
  kill : Bool

/-- A source without permutation, fill or kill. -/
def opnd (x : Src) (rd : Rd) : Opnd := ⟨x, rd, .none, 0, none, false⟩

/-- A source field of XV. -/
def opndX (x : SrcX) (rd : Rd) : Opnd := ⟨x.sel, rd, x.perm, x.amt.val, x.fill, x.kill⟩

/-- The lane that lane `L` of a permuted operand reads (R62; WIDTH is 64). -/
def permLane (k : PermKind) (amt L : Nat) : Nat :=
  match k with
  | .none => L
  | .rot => (L + amt) % 64
  | .bcast => amt % 64
  | .bfly => L ^^^ (amt % 64)
  | .mirror => L ^^^ (2 ^ amt - 1)
  | .rotw => (L + amt) % 64
  | .bcastg => L / 2 ^ amt * 2 ^ amt

/-- The exact value of an inline constant: sign, numerator and power of two (R50). -/
def constParts (k : Nat) : Bool × Nat × Int :=
  if k < 16 then (false, k, 0) else if k < 24 then (true, k - 15, 0) else (decide (28 ≤ k), 1, (k % 4 : Nat) - (1 : Int))

/-- An inline constant in a binary format (R50). -/
def constFmt (f : Fmt) (k : Nat) : Nat := let c := constParts k; (roundDy f .rne false (dyOf c.1 c.2.1 c.2.2)).1

/-- An inline constant as an integer (R50). -/
def constInt (k : Nat) : Int := if k < 16 then k else 15 - (k : Int)

/-- An inline constant as it is read (R50). -/
def constVal (r : Rd) (k : Nat) : DWord :=
  match r with
  | .i32 => BitVec.ofNat 64 (BitVec.ofInt 32 (constInt k)).toNat
  | .i64 => BitVec.ofInt 64 (constInt k)
  | .i16x2 => let h := (BitVec.ofInt 16 (constInt k)).toNat; BitVec.ofNat 64 (h + 65536 * h)
  | .f32 => BitVec.ofNat 64 (constFmt fmt32 k)
  | .f64 => BitVec.ofNat 64 (constFmt fmt64 k)
  | .f16x2 => let h := constFmt fmt16 k; BitVec.ofNat 64 (h + 65536 * h)
  | .bf16x2 => let h := constFmt fmtBf16 k; BitVec.ofNat 64 (h + 65536 * h)
  | .f16 => BitVec.ofNat 64 (constFmt fmt16 k)
  | .bf16 => BitVec.ofNat 64 (constFmt fmtBf16 k)

/-- A 32-bit read of 64 bits takes bits [31:0] (R17). -/
def narrow (wide : Bool) (x : DWord) : DWord := if wide then x else x &&& 0xFFFFFFFF

/-- A latch or slot lane; an invalid one reads as zero (R34). -/
def Latch.lane (l : Latch) (L : Nat) : DWord := if inMask l.valid L then l.vals.getD L 0 else 0

/-- A slot of the operand cache. -/
def Upper.slot (u : Upper) (j : Nat) : Latch := u.o.getD j ⟨[], 0⟩

/-- A source selector in lane `L`, unpermuted. -/
def State.readSel (s : State) (w : Wave) (lit : Option DWord) (r : Rd) (x : Src) (L : Nat) : DWord :=
  match x with
  | .v n => if r.wide then s.readV w n.val L ||| (s.readV w (n.val + 1) L <<< 32) else s.readV w n.val L
  | .s n => narrow r.wide (s.readS w n.val)
  | .o j => narrow r.wide ((w.up.slot j.val).lane L)
  | .la => narrow r.wide (w.up.la.lane L)
  | .lb => narrow r.wide (w.up.lb.lane L)
  | .ls => narrow r.wide (if w.up.lsValid then w.up.ls else 0)
  | .lane => BitVec.ofNat 64 L
  | .width => 64
  | .const k => constVal r k.val
  | .lit => lit.getD 0

/-- READ: an operand in lane `L`, permuted (R34, R38, R64). A source lane that was never launched reads as zero. -/
def State.readOpnd (s : State) (w : Wave) (lit : Option DWord) (o : Opnd) (L : Nat) : DWord :=
  match o.perm with
  | .none => s.readSel w lit o.rd o.sel L
  | k => let Q := permLane k o.amt L
    if inMask w.launched Q then s.readSel w lit o.rd o.sel Q else 0

/-- A source in a register file is dead (R32). -/
def deadSrc (w : Wave) (o : Opnd) : Bool :=
  match o.sel with
  | .v n => w.dead.contains n.val || (o.rd.wide && w.dead.contains (n.val + 1))
  | .s n => w.dead.contains (128 + n.val)
  | _ => false

/-- An executing lane reads an invalid latch or slot lane (R34). -/
def staleSrc (w : Wave) (exec : Mask) (o : Opnd) : Bool :=
  let bad := fun (valid : Mask) => (lanesIn exec).any fun L =>
    let Q := permLane o.perm o.amt L
    inMask w.launched Q && !inMask valid Q
  match o.sel with
  | .la => bad w.up.la.valid
  | .lb => bad w.up.lb.valid
  | .o j => bad (w.up.slot j.val).valid
  | .ls => exec != 0 && !w.up.lsValid
  | _ => false

/-- What a source does to WSTAT when it is read (R34). A permuted read of a dead register sets DEADREAD even where no
executing lane reads a launched lane: R64 says both that such a lane sets no flag and that a dead register gives the result
of R34 (DEDUCED, notes/assumptions/68.md). -/
def srcStat (w : Wave) (exec : Mask) (o : Opnd) : DWord :=
  (if exec != 0 && deadSrc w o then statDead else 0) ||| (if staleSrc w exec o then statStale else 0)

/-- TRAPADDR of the DEADREAD trap that reading the sources raises under STRICT, if any (R34). -/
def deadRead (w : Wave) (exec : Mask) : List Opnd → Option DWord
  | [] => none
  | o :: t =>
    if exec != 0 && deadSrc w o then some (BitVec.ofNat 64 (srcCode o.sel))
    else if staleSrc w exec o then some (BitVec.ofNat 64 (256 + srcCode o.sel))
    else deadRead w exec t

/-! ### Writing -/

/-- Mark the pending writes of a register that another write meets in the lanes of `m` (R38). -/
def Wave.meet (w : Wave) (r : RegRef) (m : Mask) : Wave :=
  { w with lops := w.lops.map fun o => { o with
      writes := o.writes.map fun x => if x.reg = r then { x with met := x.met ||| (m &&& o.left) } else x } }

/-- The lanes that class A or W writes of a register still in their pipeline at cycle `t` write (R37, R38). -/
def Timing.pending (x : Timing) (code t : Nat) : Mask := if t < x.reg.getD code 0 then x.wr.getD code 0 else 0

/-- Add a class L operation: a class A or W write of one of its registers that is still in its pipeline is a second
outstanding write of its lanes (R38). -/
def Wave.enter (w : Wave) (o : LOp) : Wave :=
  { w with lops := w.lops ++ [{ o with
      writes := o.writes.map fun x => { x with met := x.met ||| (x.mask &&& w.time.pending x.reg.code o.issued) } }] }

/-- Write lanes of a vector register: a dead register comes to life, its other lanes zero (R33). Without a lane nothing is
written. -/
def Wave.putV (w : Wave) (n : Nat) (m : Mask) (vals : List DWord) : Wave :=
  if m = 0 then w else
  let old := if w.dead.contains n then [] else w.v.getD n []
  let w := w.meet (.v n) m
  { w with v := w.v.set n (mergeLanes 0 m old (vals.map fun x => x.truncate 32)), dead := w.dead.filter fun d => d != n }

/-- Write a scalar register. -/
def Wave.putS (w : Wave) (n : Nat) (x : DWord) : Wave :=
  let w := w.meet (.s n) 1
  { w with s := w.s.set n x, dead := w.dead.filter fun d => d != 128 + n }

/-- Write lanes of a predicate; a write to p0 is ignored (R4). -/
def Wave.putP (w : Wave) (n : Nat) (m vals : Mask) : Wave :=
  if n = 0 then w
  else
    let w := w.meet (.p n) m
    { w with p := w.p.set n ((w.p.getD n 0 &&& ~~~m) ||| (vals &&& m)) }

/-- Write lanes of a latch or slot (R28). -/
def Latch.put (l : Latch) (m : Mask) (vals : List DWord) : Latch := ⟨mergeLanes 0 m l.vals vals, l.valid ||| m⟩

/-- Kill a register (R32): dead in every lane. -/
def Wave.killReg (w : Wave) (c : Nat) : Wave := if w.dead.contains c then w else { w with dead := c :: w.dead }

/-- The kill of a source, both registers of a pair (R32). -/
def Wave.killSrc (w : Wave) (o : Opnd) : Wave :=
  if !o.kill then w
  else
    match o.sel with
    | .v n => if o.rd.wide then (w.killReg n.val).killReg (n.val + 1) else w.killReg n.val
    | .s n => w.killReg (128 + n.val)
    | _ => w

/-- The fill of a source: every lane of the slot takes the value read, unpermuted, and is valid (R29). The value read is that of
the source's width, so that a 32-bit read of an s register fills bits [31:0] and zeros above them (DEDUCED,
notes/assumptions/73.md). -/
def State.fillSrc (s : State) (before : Wave) (lit : Option DWord) (w : Wave) (o : Opnd) : Wave :=
  match o.fill with
  | none => w
  | some j =>
    { w with
      up := { w.up with o := w.up.o.set j.val ⟨perLane fun L => s.readSel before lit o.rd o.sel L, fullMask⟩ }
      time := { w.time with o := w.time.o.del j.val } }

/-! ### The timing contract (R31, R36, R37) -/

/-- The pipes an instruction needs. -/
inductive Pipe where
  | none | scalar | scalar64 | vec | f64 | both
  deriving DecidableEq, Repr

/-- What an instruction names: its predicate, its sources and destinations with their number of registers, the further
predicates it reads, and its pipe. -/
structure Plan where
  p : Fin 16
  pn : Bool
  srcs : List (Src × Nat)
  dsts : List (Src × Nat)
  preds : List Nat
  pipe : Pipe

/-- Due cycles of the registers a selector names. -/
def dueOf (t : Timing) (x : Src) (cnt : Nat) : Nat :=
  match x with
  | .v n => ((List.range cnt).map fun i => t.reg.getD (n.val + i) 0).foldl max 0
  | .s n => ((List.range cnt).map fun i => t.reg.getD (128 + n.val + i) 0).foldl max 0
  | .o j => t.o.getD j.val 0
  | .la => t.la
  | .lb => t.lb
  | .ls => t.ls
  | _ => 0

/-- The distinct v registers that sources read. -/
def vregsOf (l : List (Src × Nat)) : List Nat :=
  distinct (l.flatMap fun e => match e.1 with | .v n => (List.range e.2).map fun i => n.val + i | _ => [])

/-- The bank stall of R31: each further distinct register of a bank adds a cycle. -/
def bankStall (regs : List Nat) : Nat :=
  ((List.range 4).map fun b => (regs.filter fun n => n % 4 == b).length - 1).sum

/-- An issue slot: its cycle, its bank stall, its wait for sources and pipes, and whether it takes pipe B. -/
structure Slot where
  t : Nat
  bank : Nat
  ilk : Nat
  pipeB : Bool

/-- The issue cycle T = max(E, D, F) + B (R37). -/
def slotOf (c : Core) (w : Wave) (pl : Plan) : Slot :=
  let e := c.cycle
  let d := max ((pl.srcs.map fun x => dueOf w.time x.1 x.2).foldl max 0)
    (((pl.p.val :: pl.preds).map fun n => w.time.reg.getD (256 + n) 0).foldl max 0)
  let useB := pl.pipe == .f64 && decide (max e (max d c.pipeB) < c.pipeA)
  let f := match pl.pipe with
    | .none => 0
    | .scalar => c.pipeS
    | .scalar64 => c.pipeS
    | .vec => c.pipeA
    | .f64 => if useB then c.pipeB else c.pipeA
    | .both => max c.pipeA c.pipeB
  let b := bankStall (vregsOf pl.srcs)
  ⟨max e (max d f) + b, b, max e (max d f) - e, useB⟩

/-- The timing class of a result (R36). -/
inductive TClass where
  | a | w
  deriving DecidableEq, Repr

/-- When a result reaches the file and the latch (R36, R37). -/
def TClass.file : TClass → Nat
  | .a => 3
  | .w => 4
def TClass.latch : TClass → Nat
  | .a => 0
  | .w => 2

/-- The due cycle of a latch: a class A result is due at once. -/
def latchDue (c : TClass) (t : Nat) : Nat := match c with | .a => 0 | .w => t + c.latch

/-! ### Results of class A and W instructions (R26 to R29, R119, R140) -/

/-- The instruction runs on the scalar pipe (R27): its destination is an s register, or it writes no register, slot or
predicate and reads wave-uniform sources alone. -/
def onScalar (d : Dst) (slot : Option (Fin 8)) (srcs : List Src) : Bool :=
  match d with
  | .s _ => true
  | .v _ => false
  | .null => slot.isNone && srcs.all Src.uniform

/-- Write the latch of a vector pipe (R26, R28). -/
def Wave.putLatch (w : Wave) (exec : Mask) (t : Nat) (c : TClass) (pipeB : Bool) (vals : List DWord) : Wave :=
  if pipeB then { w with up := { w.up with lb := w.up.lb.put exec vals }, time := { w.time with lb := latchDue c t } }
  else { w with up := { w.up with la := w.up.la.put exec vals }, time := { w.time with la := latchDue c t } }

/-- Write an operand cache slot, if one is named (R29). -/
def Wave.putSlot (w : Wave) (exec : Mask) (t : Nat) (c : TClass) (slot : Option (Fin 8)) (vals : List DWord) : Wave :=
  match slot with
  | some j => { w with up := { w.up with o := w.up.o.set j.val ((w.up.slot j.val).put exec vals) },
                       time := { w.time with o := w.time.o.set j.val (latchDue c t) } }
  | none => w

/-- Write the scalar latch (R27). -/
def Wave.putLs (w : Wave) (t : Nat) (c : TClass) (x : DWord) : Wave :=
  { w with up := { w.up with ls := x, lsValid := true }, time := { w.time with ls := latchDue c t } }

/-- The value that an instruction issued at `t` writes to the lanes `m` of a register is due (R37). -/
def Wave.dueAt (w : Wave) (code t due : Nat) (m : Mask) : Wave :=
  { w with time := { w.time with
      reg := w.time.reg.set code due
      wr := w.time.wr.set code (w.time.pending code t ||| m) } }

/-- Write a result: the register, the latch of its pipe and the slot, with their due cycles. `vals` holds 64 bits per
lane; a v destination takes one register or, if `wide`, a pair. On the scalar pipe a slot takes the result in the executing
lanes (R29, R119). -/
def Wave.putResult (w : Wave) (exec : Mask) (t : Nat) (c : TClass) (pipeB scalar : Bool) (d : Dst) (slot : Option (Fin 8))
    (wide : Bool) (vals : List DWord) : Wave :=
  if scalar then
    if exec = 0 then w
    else
      let x := vals.getD (lowestLane exec) 0
      let w := (w.putLs t c x).putSlot exec t c slot (perLane fun _ => x)
      match d with
      | .s n => (w.putS n.val x).dueAt (128 + n.val) t (t + c.file) 1
      | _ => w
  else
    let w := (w.putLatch exec t c pipeB vals).putSlot exec t c slot vals
    match d with
    | .v n =>
      let w := (w.putV n.val exec vals).dueAt n.val t (t + c.file) exec
      if wide then
        (w.putV (n.val + 1) exec (vals.map fun (x : DWord) => (x >>> 32 : DWord))).dueAt (n.val + 1) t (t + c.file) exec
      else w
    | _ => w

/-- Write a predicate result and the latch (R130, R131). -/
def Wave.putPred (w : Wave) (exec : Mask) (t : Nat) (c : TClass) (pipeB : Bool) (pd : Nat) (vals : Mask) : Wave :=
  let w := (w.putP pd exec vals).putLatch exec t c pipeB (perLane fun L => if inMask vals L then (1 : DWord) else 0)
  if pd = 0 then w else w.dueAt (256 + pd) t (match c with | .a => 0 | .w => t + c.latch) exec

/-! ### Class L results (R36, R38, R39) -/

/-- Land an operation's writes in the lanes of `m`: a lane another write has met ends with either value (R38). -/
def State.landWrite (s : State) (o : LOp) (m : Mask) (w : Wave) (x : LWrite) : Wave :=
  let keep := fun L => inMask x.met L && s.freeBit (2 ^ 61 + o.id * 2 ^ 16 + x.reg.code * 64 + L)
  let m := maskOf fun L => inMask m L && inMask x.mask L && !keep L
  match x.reg with
  | .v n => if m = 0 then w else w.putV n m x.vals
  | .s n => if m = 0 then w else w.putS n (x.vals.getD 0 0)
  | .p n => w.putP n m (maskOf fun L => x.vals.getD L 0 != 0)

/-- An operation counted in its counter that has finished: every lane landed and its completion come (R39). -/
def LOp.finished (o : LOp) : Bool := o.left == 0 && o.done

/-- Retire operations in issue order, per counter (R39); the operations that retire come back, oldest first. -/
def retireOps : List LOp → List Ctr → List LOp × List LOp
  | [], _ => ([], [])
  | o :: t, blocked =>
    let free := o.ctr == .none || !blocked.contains o.ctr
    if o.finished && free then
      let r := retireOps t blocked
      (r.1, o :: r.2)
    else
      let r := retireOps t (o.ctr :: blocked)
      (o :: r.1, r.2)

/-- A counter's value: its operations not yet retired (R39, R256). -/
def Wave.counter (w : Wave) (c : Ctr) : Nat := (w.lops.filter fun o => o.ctr == c).length

/-- The largest value of a counter (R39, R256). -/
def Ctr.max : Ctr → Nat
  | .ldc => 63 | .sc => 15 | .xc => 63 | .bc _ => 63 | .none => 2 ^ 64

/-- The load counters of PERFRD at the landing of a load (R373). -/
def perfLand (w : Wave) (o : LOp) (cycle : Nat) : Wave :=
  match o.work with
  | .load _ _ op =>
    if op == .ld || op == .ldnf || op == .sld then
      let lat := BitVec.ofNat 64 (cycle - o.issued)
      let p := w.perf
      let p := p.set 6 (p.getD 6 0 + 1)
      let p := p.set 7 lat
      { w with perf := p.set 8 (p.getD 8 0 + lat) }
    else w
  | _ => w

/-- A reply slot whose reply has been accepted is free once the lanes it answered are written (R295). -/
def Wave.freeLanded (w : Wave) : Wave :=
  { w with slots := w.slots.mapVals fun _ (x : RSlot) =>
      match x.answered with
      | some (id, m) =>
        if w.lops.all fun o => o.id != id || (o.left &&& m) == 0 then { x with busy := none, answered := none } else x
      | none => x }

/-- Retire what can retire. -/
def Wave.retire (w : Wave) (cycle : Nat) : Wave :=
  let r := retireOps w.lops []
  r.2.foldl (fun w o => perfLand w o cycle) { w with lops := r.1 }

/-- Land lanes of the operation `id` whose values are known. Its flags enter WSTAT when its last lane lands, since R141 does
not say when a class L operation sets them (DESIGN CHOICE, notes/assumptions/7.md). -/
def State.landOp (s : State) (k id : Nat) (lanes : Mask) : State :=
  let cycle := (s.coreAt (coreOfWave k)).cycle
  s.modWave k fun w =>
    match w.op? id with
    | none => w
    | some o =>
      let m := lanes &&& o.ready &&& o.left
      let w := w.modOp id fun o => { o with left := o.left &&& ~~~m }
      let w := o.writes.foldl (s.landWrite o m) w
      let here := fun (r : Report) => r.op == id && r.lane.any (inMask m)
      let w := { w with reports := w.reports.filter (fun r => !here r) ++ w.reports.filter here }
      let w := if (o.left &&& ~~~m) = 0 then w.stat (flagBits o.flags) else w
      (w.retire cycle).freeLanded

/-- A class L operation with values known at issue (R36). -/
def mkOp (id : Nat) (c : Ctr) (pc : DWord) (mask : Mask) (writes : List LWrite) (issued : Nat) (flags : FFlags) : LOp :=
  ⟨id, c, pc, .value, mask, mask, mask, writes, true, false, none, issued, flags, none⟩

/-- The cycles up to `t` of the suspension that a wave is in (R25, R373). -/
def Wave.suspLost (w : Wave) (t : Nat) : Nat :=
  match w.susp with
  | some x => if x.kind = .stopped then 0 else t - x.since
  | none => 0

/-- One that touches no memory and waits for no other lane, issued by wave `w`: it lands within 256 cycles (R36). -/
def LOp.promptBy (o : LOp) (w : Wave) : LOp := { o with prompt := some ((w.perf.getD 5 0).toNat + w.suspLost o.issued) }

/-- The operation must have landed by cycle `t`: 256 cycles have passed in which the wave was not suspended (R36). -/
def LOp.overdue (o : LOp) (w : Wave) (t : Nat) : Bool :=
  match o.prompt with
  | none => false
  | some c => o.left != 0 && decide (o.issued + 256 + ((w.perf.getD 5 0).toNat - c + w.suspLost t) < t)

/-- The operations of a wave that must have landed by cycle `t` (R36). -/
def Wave.overdue (w : Wave) (t : Nat) : List Nat := (w.lops.filter fun o => o.overdue w t).map (·.id)

/-- The pending writes of a v group whose lanes hold `vals`, one 32-bit register after another, or of an s register. -/
def groupWrites (d : Dst) (n : Nat) (mask : Mask) (vals : List DWord) : List LWrite :=
  match d with
  | .v r => (List.range n).map fun i => ⟨.v (r.val + i), mask, vals.map fun (x : DWord) => ((x >>> (32 * i)) &&& 0xFFFFFFFF : DWord), 0⟩
  | .s r => [⟨.s r.val, 1, [vals.getD (lowestLane mask) 0], 0⟩]
  | .null => []

end Sys2Proof.Machine
end

