-- ==== Sys2Proof/Machine/Frontier.lean ====
section
/-! DEFINITION. The frontier of a wave: merging, selection and waiting entries (R158 to R161, R165, R170, R172), the
reports of imprecise failures (R262, R307, R360), rendezvous objects (R257 to R262) and cross-lane exchanges
(R174 to R179). -/

namespace Sys2Proof.Machine

/-! ### Entries (R158 to R160) -/

/-- Two entries merge (R159). -/
def Entry.merges (a b : Entry) : Bool := a.pc == b.pc && a.st == b.st

/-- The merged entry (R159); the traps due at either are due at it. -/
def Entry.merge (a b : Entry) : Entry :=
  { a with mask := a.mask ||| b.mask, prio := max a.prio b.prio, starve := max a.starve b.starve, report := a.report ++ b.report }

/-- Add an entry to a list, merging it where R159 says so; an entry without lanes is removed (R161). -/
def addEntry (e : Entry) : List Entry → List Entry
  | [] => if e.mask = 0 then [] else [e]
  | x :: t => if e.mask ≠ 0 ∧ x.merges e then x.merge e :: t else x :: addEntry e t

/-- Merge a list of entries. -/
def mergeEntries (l : List Entry) : List Entry := l.foldl (fun acc e => addEntry e acc) []

/-- Merge the wave's entries; the issuing entry, first while the run is open, stays apart. -/
def Wave.merged (w : Wave) : Wave :=
  match w.run.isOpen, w.frontier with
  | true, e :: t => { w with frontier := e :: mergeEntries t }
  | _, l => { w with frontier := mergeEntries l }

/-- An entry is READY. -/
def Entry.ready (e : Entry) : Bool := e.st == .ready

/-- A parked exchange whose completion has raised a trap, which is to be taken (R179). -/
def Entry.trapping (e : Entry) : Bool := !e.ready && e.report != []

/-- `a` goes before `b` in the selection of R160. -/
def Entry.before (a b : Entry) : Bool :=
  if 64 ≤ a.starve ∨ 64 ≤ b.starve then
    decide (b.starve < a.starve) || (a.starve == b.starve && decide (a.pc.toNat < b.pc.toNat))
  else decide (b.prio < a.prio) || (a.prio == b.prio && decide (a.pc.toNat < b.pc.toNat))

/-- The READY entry the scheduler selects (R160); the trap of an exchange's completion is taken before that (R179;
notes/assumptions/62.md). -/
def selectEntry (l : List Entry) : Option Entry :=
  match l.find? Entry.trapping with
  | some e => some e
  | none =>
    (l.filter Entry.ready).foldl (fun b e => match b with | none => some e | some x => if e.before x then some e else some x) none

/-- Start a run on the selected entry: it comes first with count 0, the other READY entries count up (R160). -/
def startEntries (l : List Entry) : List Entry :=
  match selectEntry l with
  | none => l
  | some e => { e with starve := 0 } ::
      (l.erase e).map fun x => if x.ready then { x with starve := min 127 (x.starve + 1) } else x

/-! ### Reports (R231, R262, R303, R307, R351, R360) -/

/-- The failures of a list. -/
def failuresOf (l : List Report) : List Failure := l.filterMap (·.fail)

/-- The traps that a list of covered reports raises at the instruction at `pc`: one FABRIC for all its failures and one for each
FENCE that has reported to the wave (R307), one ECC, one PROT (R396; notes/assumptions/59.md), and one for each rejection and
stale publication. -/
def trapsOf (pc ret : DWord) (mask : Mask) (newRun : Bool) (l : List Report) : List TrapRec :=
  let mk := fun (c : Cause) (addr : DWord) => (⟨c, true, false, pc, addr, mask, ret, newRun⟩ : TrapRec)
  let fab := l.filter fun r => r.cause == .fabric
  let ecc := l.filter fun r => r.cause == .ecc
  let prot := l.filter fun r => r.cause == .prot
  (match failuresOf fab with
   | [] => []
   | f :: t => [mk .fabric (statusWord (distinct ((f :: t).map fun (x : Failure) => x.req)).length f)]) ++
    ((fab.filter fun r => r.fail.isNone).map fun r => mk .fabric r.addr) ++
    (match ecc with | [] => [] | r :: _ => [mk .ecc r.addr]) ++
    (match prot with | [] => [] | r :: _ => [mk .prot r.addr]) ++
    (l.filter fun r => r.cause == .rdverr || r.cause == .wpstale).map fun r => mk r.cause r.addr

/-- Take the reports for which `p` holds: each is reported once (R360). In handler mode none is due (R362). -/
def Wave.takeReports (w : Wave) (handlerEntry : Bool) (p : Report → Bool) : List Report × Wave :=
  if handlerEntry then ([], w) else (w.reports.filter p, { w with reports := w.reports.filter fun r => !p r })

/-- A rejected rendezvous update (R262). -/
def Report.isRdv (r : Report) : Bool := r.cause == .rdverr

/-- A WAITC covers the reports of counted work that has retired, and rejected updates (R231, R262, R351). -/
def Wave.waitcCovers (w : Wave) (r : Report) : Bool :=
  r.isRdv ||
    (match r.ctr with
     | .ldc => (w.op? r.op).isNone
     | .sc => (w.op? r.op).isNone
     | .xc => (w.op? r.op).isNone
     | _ => false)

/-- A CPYWAIT of tag `t` covers the reports of CPYs of the tag that have retired, and rejected updates (R255, R262). -/
def Wave.cpywaitCovers (w : Wave) (t : Nat) (r : Report) : Bool := r.isRdv || (r.ctr == .bc t && (w.op? r.op).isNone)

/-- The lanes that are late on a ticket: a load with it has not landed there (R172, R308). -/
def Wave.lateOn (w : Wave) (t : Nat) : Mask :=
  w.lops.foldl (fun m o => if o.ticket = some t then m ||| o.left else m) 0

/-- An LWAIT of ticket `t` covers the failed loads of the ticket in the lanes of `m` (R172). -/
def lwaitCovers (t : Nat) (m : Mask) (r : Report) : Bool :=
  r.ticket == some t && (match r.lane with | some L => inMask m L | none => false)

/-- Entries whose wait has ended become READY past the instruction (R161), with the traps due there. -/
def Entry.passed (e : Entry) (traps : List TrapRec) : Entry :=
  { e with st := .ready, pc := e.pc + BitVec.ofNat 64 e.len, report := e.report ++ traps }

/-! ### Rendezvous objects (R257, R258, R261) -/

/-- A rendezvous object's fields; `raw` keeps its reserved bits. -/
structure RdvObj where
  exp : Nat
  pend : Nat
  bytes : Int
  phase : Bool
  err : Bool
  flags : FFlags
  cwct : Nat
  raw : Nat

/-- The object held by 32 bytes (R257). -/
def rdvOf (n : Nat) : RdvObj :=
  ⟨bits n 15 0, bits n 31 16, signedOf 32 (bits n 63 32), n.testBit 64, n.testBit 65, BitVec.ofNat 5 (bits n 71 67),
    bits n 191 128, n⟩

/-- The 32 bytes of an object (R257). -/
def RdvObj.num (o : RdvObj) : Nat :=
  o.exp + o.pend * 2 ^ 16 + (BitVec.ofInt 32 o.bytes).toNat * 2 ^ 32 + (if o.phase then 2 ^ 64 else 0) +
    (if o.err then 2 ^ 65 else 0) + o.flags.toNat * 2 ^ 67 + o.cwct * 2 ^ 128 +
    bits o.raw 66 66 * 2 ^ 66 + bits o.raw 127 72 * 2 ^ 72 + bits o.raw 255 192 * 2 ^ 192

/-- Reserved bits not all zero, or PEND above EXP (R257). -/
def RdvObj.malformed (o : RdvObj) : Bool :=
  bits o.raw 66 66 != 0 || bits o.raw 127 72 != 0 || bits o.raw 255 192 != 0 || decide (o.exp < o.pend)

/-- The status word (R261). -/
def RdvObj.status (o : RdvObj) : DWord :=
  BitVec.ofNat 64 ((BitVec.ofInt 32 o.bytes).toNat * 2 ^ 32 + o.pend * 2 ^ 16 + bits o.num 71 64)

/-- The test that ends a phase (R258), and whether it did. -/
def RdvObj.phaseTest (o : RdvObj) : RdvObj × Bool :=
  if o.pend = 0 ∧ o.bytes = 0 then ({ o with phase := !o.phase, pend := o.exp }, true) else (o, false)

/-- A byte count in the .S32 range. -/
def inS32 (z : Int) : Bool := decide (-(2 ^ 31) ≤ z) && decide (z < 2 ^ 31)

/-- Apply an update of a wave (R258, R260): the object after, whether a phase ended, and whether it was rejected. -/
def RdvObj.wave (o : RdvObj) (u : RdvUpd) (wct : Nat) : RdvObj × Bool × Bool :=
  match u with
  | .arrive n =>
    if o.pend < n then ({ o with err := true }, false, true)
    else
      let r := RdvObj.phaseTest { o with pend := o.pend - n, cwct := max o.cwct wct }
      (r.1, r.2, false)
  | .expect n =>
    if inS32 (o.bytes + n) then
      let r := RdvObj.phaseTest { o with bytes := o.bytes + n }
      (r.1, r.2, false)
    else ({ o with err := true }, false, true)

/-- Apply the credit of an engine or of the array (R258): one arrival and −bytes. -/
def RdvObj.credit (o : RdvObj) (bytes : Nat) (err : Bool) (flags : FFlags) (wct : Nat) : RdvObj × Bool :=
  let fits := inS32 (o.bytes - bytes)
  RdvObj.phaseTest { o with
    pend := o.pend - 1
    bytes := if fits then o.bytes - bytes else o.bytes
    err := o.err || err || decide (o.pend = 0) || !fits
    flags := o.flags ||| flags
    cwct := max o.cwct wct }

/-- The object at a partition offset. -/
def Group.rdv (g : Group) (off : Nat) : RdvObj := rdvOf (Memory.num g.scratch off 32)

/-- Adopt a carried WCT (R213). -/
def Wave.adopt (w : Wave) (wct : Nat) : Wave := { w with mwct := BitVec.ofNat 64 (max w.mwct.toNat wct) }

/-- Write a status to an s register, if one is named. -/
def Wave.putStatus (w : Wave) (sd : Option (Fin 64)) (x : DWord) : Wave :=
  match sd with
  | some n => w.putS n.val x
  | none => w

/-- The traps of a RDVWAIT or PWAIT that completes (R251, R262): the group's ECC, rejected updates, and RDVERR where the
status is null and ERR is set. -/
def rdvTraps (w : Wave) (handlerEntry : Bool) (pc ret : DWord) (mask : Mask) (ecc err : Bool) (rdv : DWord) : List TrapRec × Wave :=
  let r := w.takeReports handlerEntry Report.isRdv
  let precise := if err then [(⟨.rdverr, false, false, pc, rdv, mask, ret, true⟩ : TrapRec)] else []
  let e := if ecc && !handlerEntry then [(⟨.ecc, true, false, pc, 0, mask, ret, true⟩ : TrapRec)] else []
  (precise ++ e ++ trapsOf pc ret mask true r.1, r.2)

/-- The generic address of a partition offset (R184). -/
def scratchAddr (off : Nat) : DWord := BitVec.ofNat 64 (0xFE00000000000000 + off)

/-- A waiting RDVWAIT or PWAIT completes with the object `o` (R260): adoption, status and traps; `ecc` says that it reports
the group's error (R290). -/
def Wave.completeRdv (w : Wave) (held ecc : Bool) (o : RdvObj) (off : Nat) (sd : Option (Fin 64)) (e : Entry) : Wave × Entry :=
  let w := (w.adopt o.cwct).putStatus sd o.status
  let handlerEntry := w.handler.isSome && !held
  let r := rdvTraps w handlerEntry e.pc (e.pc + BitVec.ofNat 64 e.len) e.mask ecc (sd.isNone && o.err) (scratchAddr off)
  (r.2, e.passed r.1)

/-- Apply `f` to every entry of a wave, held entries included; each may change the wave. -/
def Wave.eachEntry (w : Wave) (f : Bool → Wave → Entry → Wave × List Entry) : Wave :=
  let go := fun (held : Bool) (w : Wave) (l : List Entry) =>
    l.foldl (fun (acc : Wave × List Entry) e => let r := f held acc.1 e; (r.1, acc.2 ++ r.2)) (w, [])
  let a := go false w w.frontier
  match w.handler with
  | none => { a.1 with frontier := a.2 }.merged
  | some h =>
    let b := go true a.1 h.held
    { b.1 with frontier := a.2, handler := some { h with held := mergeEntries b.2 } }.merged

/-- The waves of a group. -/
def State.wavesOf (s : State) (g : Nat) : List Nat :=
  (s.waves.filter fun e => e.2.group == g).map (·.1)

/-- Entries of a wave, those held behind a handler included. -/
def Wave.allEntries (w : Wave) : List Entry := w.frontier ++ (match w.handler with | some h => h.held | none => [])

/-- The entries of a wave that may report the group's error: those outside handler mode (R290, R362). -/
def Wave.reporters (w : Wave) : List Entry :=
  (if w.handler.isSome then [] else w.frontier) ++ (match w.handler with | some h => h.held | none => [])

/-- The step at which the AWAIT or RDVWAIT of a waiting entry issued. -/
def Entry.waitedAt (e : Entry) : Nat :=
  match e.st with
  | .wait (.rdv _ _ _ t) => t
  | .wait (.bank _ _ _ t) => t
  | _ => 0

/-- Of the entries that `f` selects in the waves of group `g`, the one that issued its wait first reports the group's error: its wave and
its lanes (R290). -/
def State.reporter (s : State) (g : Nat) (f : Entry → Bool) : Option (Nat × Mask) :=
  let l := s.waves.flatMap fun x => if x.2.group = g then (x.2.reporters.filter f).map fun e => (e.waitedAt, x.1, e.mask) else []
  match (l.map (·.1)).min? with
  | none => none
  | some t => (l.find? fun x => x.1 == t).map (·.2)

/-- The lanes of wave `k` that report the group's error among the entries that `f` selects. -/
def State.reports (s : State) (g k : Nat) (f : Entry → Bool) : Option Mask :=
  ((s.reporter g f).filter fun x => x.1 == k).map (·.2)

/-- The group error flag (R290). -/
def State.groupErr (s : State) (g : Nat) : Bool := ((s.groupAt? g).map (·.err)).getD false

/-- The group's error flag is cleared once an ECC has reported it (R290). -/
def State.clearErr (s : State) (g : Nat) (b : Bool) : State := if b then s.modGroup g fun x => { x with err := false } else s

/-- Complete the entries of wave `k` that `f` selects, which wait on the object at `off`: the wave observes what the phase
brings (R213, R215), and the first of the group's to have issued reports its error (R290). -/
def State.completeWaits (s : State) (g off k : Nat) (f : Entry → Bool)
    (done : Bool → Bool → Wave → Entry → Wave × List Entry) : State :=
  match s.waveAt? k with
  | none => s
  | some w =>
    let rep := if s.groupErr g then s.reports g k f else none
    let s := if w.allEntries.any f then s.observe g k (Stale.ended off) else s
    (s.setWave k (w.eachEntry fun held w e =>
      if f e then done held (rep == some e.mask) w e else (w, [e]))).clearErr g rep.isSome

/-- An entry waits in a RDVWAIT on the object at `off`. -/
def Entry.waitsRdv (off : Nat) (e : Entry) : Bool :=
  match e.st with
  | .wait (.rdv x _ _ _) => x == off
  | _ => false

/-- The status register of a waiting RDVWAIT or PWAIT. -/
def Entry.statusReg (e : Entry) : Option (Fin 64) :=
  match e.st with
  | .wait (.rdv _ _ sd _) => sd
  | .wait (.promise _ _ sd _) => sd
  | _ => none

/-- Wake the entries that wait on an object whose phase has ended (R258). -/
def State.wakeRdv (s : State) (g off : Nat) : State :=
  match s.groupAt? g with
  | none => s
  | some grp =>
    (s.wavesOf g).foldl (fun s k => s.completeWaits g off k (Entry.waitsRdv off) fun held ecc w e =>
      let r := w.completeRdv held ecc (grp.rdv off) off e.statusReg e
      (r.1, [r.2])) s

/-- Write an object back and wake its waiters if its phase ended. -/
def State.putRdv (s : State) (g off : Nat) (o : RdvObj) (ended : Bool) : State :=
  let s := s.modGroup g fun x => { x with scratch := Memory.write x.scratch off (bytesOf 32 o.num) }
  if ended then (s.endPhase g off).wakeRdv g off else s

/-- Apply a credit to an object (R258). -/
def State.creditRdv (s : State) (g off bytes : Nat) (err : Bool) (flags : FFlags) (wct : Nat) : State :=
  match s.groupAt? g with
  | none => s
  | some grp => let r := (grp.rdv off).credit bytes err flags wct; s.putRdv g off r.1 r.2

/-- A RDVINIT of wave `k` on the object, issued before `id`, has not been performed: the store of its 32 bytes. -/
def State.initPending (s : State) (k g off id : Nat) : Bool :=
  s.mem.accs.any fun a => a.owner == .wave k && a.tgt == .scratch g off && a.size == 32 && decide (a.op < id)

/-- An update of an instruction numbered `id` of wave `k` must wait for the wave's earlier updates of the object (R259). -/
def State.creditHeld (s : State) (k g off id : Nat) : Bool :=
  (match s.waveAt? k with
   | none => false
   | some w => w.rdvq.any fun p => p.off == off && decide (p.id < id)) || s.initPending k g off id

/-- A credit of an instruction numbered `id` of wave `k` waits for the wave's earlier updates of the object (R259); for a RDVEXP
alone by a free bit, since R320 lets a credit come before an earlier RDVEXP (DEDUCED, notes/assumptions/70.md). -/
def State.creditWaits (s : State) (k g off id : Nat) : Bool :=
  s.creditHeld k g off id &&
    ((match s.waveAt? k with
      | none => false
      | some w => w.rdvq.any fun p => p.off == off && decide (p.id < id) && (match p.upd with | .arrive _ => true | .expect _ => false)) ||
      s.initPending k g off id || s.freeBit (2 ^ 56 + id))

/-- Apply the credit of an array instruction to its object (R258, R281, R288). -/
def State.applyCredit (s : State) (g : Nat) (c : Credit) : State :=
  (s.markCredit g c.id c.off).creditRdv g c.off c.bytes c.err c.flags 0

/-- The credit of a completed array instruction reaches its object, or is held there (R259). -/
def State.giveCredit (s : State) (g : Nat) (c : Credit) : State :=
  if s.creditWaits c.wave g c.off c.id then s.modGroup g fun x => { x with credits := x.credits ++ [c] } else s.applyCredit g c

/-- The held credits of a group that no earlier update holds any more are applied (R259). -/
def State.flushCredits (s : State) (g : Nat) : State :=
  match s.groupAt? g with
  | none => s
  | some x => x.credits.foldl (fun s c =>
      if s.creditWaits c.wave g c.off c.id then s
      else (s.modGroup g fun y => { y with credits := y.credits.erase c }).applyCredit g c) s

/-! ### Cross-lane exchanges (R174 to R178) -/

/-- What a cross-lane instruction does: its operation, sub-group width, type, reduction or vote, and destination. -/
structure XSpec where
  op : XOp ⊕ Fin 3            -- a cross-lane operation, or BALLOT, VOTE, ELECT
  ws : Nat
  ty : ITy
  sub : Nat
  d : Dst
  pd : Nat

/-- The sub-group width of MOD3 (R87). -/
def wsOf (mod3 : Nat) : Nat :=
  match mod3 with
  | 1 => 8 | 2 => 16 | 3 => 32 | _ => 64

/-- BALLOT, VOTE and ELECT as codes of `XSpec.op`. -/
def xBallot : XOp ⊕ Fin 3 := .inr 0
def xVote : XOp ⊕ Fin 3 := .inr 1
def xElect : XOp ⊕ Fin 3 := .inr 2

/-- The first lane of a lane's sub-group (R175). -/
def subBase (ws L : Nat) : Nat := L / ws * ws

/-- The identity of a reduction (R178). -/
def redIdentity (sub : Nat) (ty : ITy) : Nat :=
  let w := ty.bits
  match sub with
  | 1 => if ty.signed then 2 ^ (w - 1) - 1 else 2 ^ w - 1
  | 2 => if ty.signed then 2 ^ (w - 1) else 0
  | 3 => 2 ^ w - 1
  | 6 => 2 ^ 31
  | _ => 0

/-- One combination of a reduction, with the flags of an F32 add (R178). -/
def redStep (sub : Nat) (ty : ITy) (fl : Bool) (a b : Nat × FFlags) : Nat × FFlags :=
  let w := ty.bits
  let less := fun (x y : Nat) => if ty.signed then decide (signedOf w x < signedOf w y) else decide (x < y)
  match sub with
  | 0 => ((a.1 + b.1) % 2 ^ w, 0)
  | 1 => (if less b.1 a.1 then b.1 else a.1, 0)
  | 2 => (if less a.1 b.1 then b.1 else a.1, 0)
  | 3 => (a.1 &&& b.1, 0)
  | 4 => (a.1 ||| b.1, 0)
  | 5 => (a.1 ^^^ b.1, 0)
  | _ =>
    let x := if fl then flushIn fmt32 a.1 else a.1
    let y := if fl then flushIn fmt32 b.1 else b.1
    let r := flushOut fl fmt32 (sumTerms fmt32 .rne [termOf (decF fmt32 x), termOf (decF fmt32 y)])
    (r.1, a.2 ||| b.2 ||| r.2)

/-- The steps of XRED: at step i a lane combines with lane L XOR 2^i (R178). -/
def redButterfly (sub : Nat) (ty : ITy) (fl : Bool) : Nat → Nat → List (Nat × FFlags) → List (Nat × FFlags)
  | 0, _, v => v
  | n + 1, i, v => redButterfly sub ty fl n (i + 1)
      (perLane fun L => redStep sub ty fl (v.getD L (0, 0)) (v.getD (L ^^^ 2 ^ i) (0, 0)))

/-- The steps of XSCAN: at step i a lane takes lane L − 2^i of its sub-group as left operand (R178). -/
def redPrefix (sub ws : Nat) (ty : ITy) (fl : Bool) : Nat → Nat → List (Nat × FFlags) → List (Nat × FFlags)
  | 0, _, v => v
  | n + 1, i, v => redPrefix sub ws ty fl n (i + 1) (perLane fun L =>
      if 2 ^ i ≤ L - subBase ws L then redStep sub ty fl (v.getD (L - 2 ^ i) (0, 0)) (v.getD L (0, 0)) else v.getD L (0, 0))

/-- What an exchange gives: a value per receiving lane, the flags per lane, and the lanes that read outside M. -/
structure XResult where
  vals : List DWord
  flags : List FFlags
  nosrc : Bool

/-- The result of an exchange (R176, R177): `m` the members, `arrived` those that supplied operands, `recv` the lanes
that receive. -/
def exchange (x : XSpec) (m arrived recv : Mask) (a b : List DWord) (pr : Mask) (fl : Bool) : XResult :=
  let ws := x.ws
  let got := fun Q => if inMask arrived Q then a.getD Q 0 else (0 : DWord)
  let prOf := fun Q => inMask arrived Q && inMask pr Q
  let gather := fun (q : Nat → Nat) =>
    (⟨perLane fun L => if inMask m (q L) then got (q L) else a.getD L 0, [],
      (lanesIn recv).any fun L => !inMask m (q L)⟩ : XResult)
  let bLow := fun L => (b.getD L 0).toNat % 2 ^ 32
  let contrib := perLane fun L => (if inMask m L then (got L).toNat else redIdentity x.sub x.ty, (0 : FFlags))
  let ofRed := fun (v : List (Nat × FFlags)) =>
    (⟨v.map fun e => BitVec.ofNat 64 e.1, v.map (·.2), false⟩ : XResult)
  let mates := fun L => allLanes.filter fun Q => subBase ws Q == subBase ws L && inMask m Q
  match x.op with
  | .inl .xshf => gather fun L => subBase ws L + bLow L % ws
  | .inl .xrot => gather fun L =>
      subBase ws L + (L - subBase ws L + (b.getD L 0).toNat % 64 * ws / 64) % ws
  | .inl .xbfly => gather fun L => L ^^^ (bLow L % ws)
  | .inl .xbcast => gather fun L => subBase ws L + bLow L % ws
  | .inl .xred => ofRed (redButterfly x.sub x.ty fl (Nat.log2 ws) 0 contrib)
  | .inl .xscan => ofRed (redPrefix x.sub ws x.ty fl (Nat.log2 ws) 0 contrib)
  | .inl .match => ⟨perLane fun L => maskOf fun Q => (mates L).contains Q && got Q == a.getD L 0, [], false⟩
  | .inr 0 => ⟨[maskOf fun Q => inMask m Q && prOf Q], [], false⟩
  | .inr 1 => ⟨perLane fun L =>
      let ps := (mates L).map prOf
      let r := match x.sub with
        | 0 => ps.any id
        | 1 => ps.all id
        | _ => ps.all id || !ps.any id
      if r then 1 else 0, [], false⟩
  | .inr _ => ⟨perLane fun L => if ((mates L).filter (inMask recv)).head? == some L then 1 else 0, [], false⟩

/-- The own-value result of an executing lane outside M (R177). -/
def ownResult (x : XSpec) (a : List DWord) (pr : Mask) : List DWord :=
  match x.op with
  | .inl .match => perLane fun L => laneBit L
  | .inl _ => a
  | .inr 1 => perLane fun L => if x.sub < 2 then (if inMask pr L then 1 else 0) else 1
  | .inr _ => perLane fun _ => 1

/-- The registers and predicates an exchange writes in the lanes of `m` (R177). -/
def XSpec.writes (x : XSpec) (m : Mask) (vals : List DWord) : List LWrite :=
  match x.op with
  | .inl .match => groupWrites x.d 2 m vals
  | .inl _ => groupWrites x.d (if x.ty.wide then 2 else 1) m vals
  | .inr 0 => match x.d with | .s n => [⟨.s n.val, 1, [vals.getD 0 0], 0⟩] | _ => []
  | .inr _ => [⟨.p x.pd, m, vals, 0⟩]

/-- Write registers at once. -/
def Wave.putWrites (w : Wave) (l : List LWrite) : Wave :=
  l.foldl (fun w x => match x.reg with
    | .v n => w.putV n x.mask x.vals
    | .s n => w.putS n (x.vals.getD 0 0)
    | .p n => w.putP n x.mask (maskOf fun L => x.vals.getD L 0 != 0)) w

/-- The width, type and destination of a cross-lane instruction. -/
def xspecOf : Instr → Option XSpec
  | .xshfBv f => some ⟨.inl .xshf, 64, .s32, 0, f.d, 0⟩
  | .xrotBv f => some ⟨.inl .xrot, 64, .s32, 0, f.d, 0⟩
  | .xbflyBv f => some ⟨.inl .xbfly, 64, .s32, 0, f.d, 0⟩
  | .xbcastBv f => some ⟨.inl .xbcast, 64, .s32, 0, f.d, 0⟩
  | .xredBv f => some ⟨.inl .xred, 64, .s32, 0, f.d, 0⟩
  | .xscanBv f => some ⟨.inl .xscan, 64, .s32, 0, f.d, 0⟩
  | .matchBv f => some ⟨.inl .match, 64, .s32, 0, f.d, 0⟩
  | .ballotBv f => some ⟨xBallot, 64, .s32, 0, f.d, 0⟩
  | .voteBv f => some ⟨xVote, 64, .s32, 0, .null, f.pd.val⟩
  | .electBv f => some ⟨xElect, 64, .s32, 0, .null, f.pd.val⟩
  | .xshfXv f => some ⟨.inl .xshf, wsOf f.mod3.val, (ityOf f.func6).getD .s32, 0, f.d, 0⟩
  | .xrotXv f => some ⟨.inl .xrot, wsOf f.mod3.val, (ityOf f.func6).getD .s32, 0, f.d, 0⟩
  | .xbflyXv f => some ⟨.inl .xbfly, wsOf f.mod3.val, (ityOf f.func6).getD .s32, 0, f.d, 0⟩
  | .xbcastXv f => some ⟨.inl .xbcast, wsOf f.mod3.val, (ityOf f.func6).getD .s32, 0, f.d, 0⟩
  | .xredXv f => some ⟨.inl .xred, wsOf f.mod3.val, (ityOf f.func6).getD .s32, f.func6.val / 8, f.d, 0⟩
  | .xscanXv f => some ⟨.inl .xscan, wsOf f.mod3.val, (ityOf f.func6).getD .s32, f.func6.val / 8, f.d, 0⟩
  | .matchXv f => some ⟨.inl .match, wsOf f.mod3.val, (ityOf f.func6).getD .s32, 0, f.d, 0⟩
  | .ballotXv f => some ⟨xBallot, 64, .s32, 0, f.d, 0⟩
  | .voteXv f => some ⟨xVote, wsOf f.mod3.val, .s32, f.func6.val % 8, .null, f.pd.val⟩
  | .electXv f => some ⟨xElect, wsOf f.mod3.val, .s32, 0, .null, f.pd.val⟩
  | _ => none

/-- The enabled flags of a result over the lanes of `m`, and the lowest lane with one (R141, R142). -/
def enabledFlags (en : FFlags) (m : Mask) (flags : List FFlags) : FFlags × Nat :=
  let ls := (lanesIn m).filter fun L => flags.getD L 0 &&& en != 0
  (ls.foldl (fun f L => f ||| (flags.getD L 0 &&& en)) 0, ls.headD 0)

/-- Every flag of a result over the lanes of `m`. -/
def allFlags (m : Mask) (flags : List FFlags) : FFlags := (lanesIn m).foldl (fun f L => f ||| flags.getD L 0) 0

/-- Every member has arrived, exited or was never launched (R176, R179). -/
def Exch.complete (x : Exch) (w : Wave) : Bool := (x.m &&& ~~~x.arrived &&& ~~~w.exited &&& w.launched) == 0

/-- Complete a masked exchange (R179): results, flags and NOSRC, and the parked entry READY; an enabled flag raises FPEXC, and
the entry stays parked with its record until TRET retries the completion. Lanes that have exited in the handler receive
nothing. -/
def Wave.completeExch (w : Wave) (x : Exch) (sp : XSpec) (e : Entry) : Wave × Entry :=
  let recv := x.recv &&& ~~~w.exited
  let r := exchange sp x.m x.arrived recv x.a x.b x.pr w.flush
  let en := enabledFlags w.enables recv r.flags
  if en.1 ≠ 0 then
    (w, { e with report := [⟨.fpexc, false, false, e.pc, fpexcAddr en.2 en.1, e.mask, e.pc, true⟩] })
  else
    let w := (w.putWrites (sp.writes recv r.vals)).stat (flagBits (allFlags recv r.flags))
    let w := if r.nosrc then w.stat statNosrc else w
    ({ w with exch := w.exch.filter fun y => !(y.pc == x.pc && y.m == x.m) }, e.passed [])

/-! ### Waits that end (R161, R165, R170, R172, R256, R288) -/

/-- Every lane of a join register's record has arrived or exited, or the record is gone (R164, R165). -/
def Wave.joined (w : Wave) (j : Nat) : Bool :=
  match w.j.get? j with
  | none => true
  | some r => (r.mask &&& ~~~r.arrived &&& ~~~w.exited) == 0

/-- No array instruction of the group issued before `op` on the bank is left (R288). -/
def State.bankDone (s : State) (g b op : Nat) : Bool :=
  ((s.quadAt (quadOfCore (coreOfGroup g))).ops.any fun o => o.group == g && o.bank == b && decide (o.id < op)) == false

/-- An AWAIT of a group on whose bank nothing earlier is left (R288). -/
def State.awaitDone (s : State) (g : Nat) (e : Entry) : Bool :=
  match e.st with
  | .wait (.bank b op _ _) => s.bankDone g b op
  | _ => false

/-- The lanes of wave `k` of group `g` whose AWAIT completes now and reports the group's error (R290). -/
def State.awaitReporter (s : State) (g k : Nat) : Option Mask :=
  if s.groupErr g then s.reports g k (s.awaitDone g) else none

/-- Traps of an AWAIT that completes (R290). -/
def eccTraps (err : Bool) (e : Entry) : List TrapRec :=
  if err then [⟨.ecc, true, false, e.pc, 0, e.mask, e.pc + BitVec.ofNat 64 e.len, true⟩] else []

/-- What becomes of a waiting entry of wave `k` whose condition may hold now. -/
def State.wakeEntry (s : State) (k : Nat) (held : Bool) (w : Wave) (e : Entry) : Wave × List Entry :=
  let ret := e.pc + BitVec.ofNat 64 e.len
  let inHandler := w.handler.isSome && !held
  match e.st with
  | .wait (.join j) => if w.joined j then ({ w with j := w.j.del j }, [e.passed []]) else (w, [e])
  | .wait (.counts l c x) =>
    if w.counter .ldc ≤ l ∧ w.counter .sc ≤ c ∧ w.counter .xc ≤ x then
      let r := w.takeReports inHandler w.waitcCovers
      (r.2, [e.passed (trapsOf e.pc ret e.mask true r.1)])
    else (w, [e])
  | .wait (.copies t n) =>
    if w.counter (.bc t) ≤ n then
      let r := w.takeReports inHandler (w.cpywaitCovers t)
      (r.2, [e.passed (trapsOf e.pc ret e.mask true r.1)])
    else (w, [e])
  | .wait (.ticket t _ _) =>
    if w.lateOn t &&& e.mask = 0 then
      let r := w.takeReports inHandler (lwaitCovers t e.mask)
      (r.2, [e.passed (trapsOf e.pc ret e.mask true r.1)])
    else (w, [e])
  | .wait (.bank b op sd _) =>
    if s.bankDone w.group b op then
      let bank := (s.quadAt (quadOfCore (coreOfGroup w.group))).bank b
      (w.putStatus sd (if bank.poison then 1 else 0), [e.passed (eccTraps (s.awaitReporter w.group k == some e.mask) e)])
    else (w, [e])
  | .wait (.exch pc m) =>
    match w.exch.find? fun x => x.pc == pc && x.m == m with
    | none => (w, [e.passed []])
    | some x =>
      if x.complete w && e.report == [] then
        match xspecOf x.instr with
        | some sp => let r := w.completeExch x sp e; (r.1, [r.2])
        | none => (w, [e])
      else (w, [e])
  | _ => (w, [e])

/-- A CPYWAIT of wave `k` that completes now observes the CPYs of its tag that have retired (R215, R256). -/
def State.observeCpys (s : State) (k : Nat) : State :=
  match s.waveAt? k with
  | none => s
  | some w =>
    w.allEntries.foldl (fun s e =>
      match e.st with
      | .wait (.copies t n) =>
        if w.counter (.bc t) ≤ n then
          s.observe w.group k fun x => x.marks.any (fun m => m.1 == cpyMark k t) && (w.op? x.id).isNone
        else s
      | _ => s) s

/-- End the waits of a wave whose conditions hold. -/
def State.wakeWave (s : State) (k : Nat) : State :=
  match s.waveAt? k with
  | none => s
  | some w =>
    ((s.observeCpys k).setWave k (w.eachEntry (s.wakeEntry k))).clearErr w.group (s.awaitReporter w.group k).isSome

/-- End the waits of every wave of a group. -/
def State.wakeGroup (s : State) (g : Nat) : State := (s.wavesOf g).foldl (fun s k => s.wakeWave k) s

end Sys2Proof.Machine
end

