-- ==== Sys2Proof/Machine/Ceiling.lean ====
section
/-! DEFINITION. The group ceiling and what is pending in the Meridian engine (R404 to R406, R410, R413, R416, R422). Times are
group time in ns. -/

namespace Sys2Proof.Machine

/-! ### Ceilings and pending changes (R405, R406, R410) -/

/-- The lead of an announcement (R406): 100 µs. -/
def lead : Nat := 100000

/-- The own limit L (R406). -/
def Meridian.ownLimit (m : Meridian) : Nat := min m.limit m.power

/-- The device is a member (R404). -/
def Meridian.isMember (m : Meridian) : Bool := m.st == .member || m.st == .leaving

/-- The group ceiling G (R405). -/
def Meridian.ceiling (m : Meridian) : Nat :=
  match (m.members.map fun e => e.2.1).min? with
  | none => m.ownLimit
  | some c => max 1000 (min 2250 c)

/-- The clock the device runs at group time `t` (R406, R412, R416, R420). During its own drop it follows G where another member's
announcement takes that lower still (R405; notes/assumptions/65.md). -/
def Meridian.clockAt (m : Meridian) (t : Nat) : Nat :=
  if m.isMember then (if t < m.dropEnd then min m.clock m.ceiling else m.ceiling)
  else
    match m.st, m.view with
    | .joining, (_, h) :: _ => min m.ownLimit h.ceiling.toNat
    | _, _ => m.ownLimit

/-- Change the breach record of the open breach, and close it at `t` (R422). -/
def Meridian.closeBreach (m : Meridian) (t : Nat) : Meridian :=
  match m.openBr with
  | none => m
  | some i =>
    let b := m.brlog.getD i ⟨0, 0, 0, 0, 0, 0, 0⟩
    { m with openBr := none, brlog := m.brlog.set i { b with end_ := t, cafter := m.clockAt t } }

/-- Log a breach (R421, R422); an EMERGENCY breach is open, with `end_` 0, until its DROP takes effect (R416). -/
def Meridian.breach (m : Meridian) (kind subject start end_ before after : Nat) : Meridian :=
  let i := m.brcount.toNat % 64
  { m with
    brcount := m.brcount + 1
    brlog := m.brlog.set i ⟨subject, after, before, kind, m.mnum, end_, start⟩
    openBr := if kind = 1 then some i else m.openBr }

/-- Apply one membership change (R410, R412, R414, R417): `self` is the own device number. -/
def Meridian.applyChange (self : Nat) (m : Meridian) (c : MChange) : Meridian :=
  if c.join then
    let m := { m with members := m.members.set c.subject (c.ceiling, c.sent), mnum := m.mnum + 1 }
    if c.subject = self ∧ m.st = .joining then { m with st := .member, own := c.ceiling, nextBeat := c.effective } else m
  else if (m.members.get? c.subject).isNone then m
  else
    let m := { m with
      members := m.members.del c.subject
      anns := m.anns.filter fun a => a.sender != c.subject
      changes := m.changes.filter fun d => d.join || d.subject != c.subject
      mnum := m.mnum + 1 }
    if c.subject = self then
      { m with st := .none, en := false, members := [], anns := [], changes := [], epochFrom := none }
    else m

/-- Apply one announcement: the message with the greatest SENT stands (R405). -/
def Meridian.applyAnn (self : Nat) (m : Meridian) (a : Announce) : Meridian :=
  match m.members.get? a.sender with
  | none => m
  | some (_, sent) =>
    if a.sent < sent then m
    else { m with members := m.members.set a.sender (a.ceiling, a.sent), own := if a.sender = self then a.ceiling else m.own }

/-- Insert a change by device number (R410). -/
def insertChange (c : MChange) : List MChange → List MChange
  | [] => [c]
  | d :: t => if c.subject ≤ d.subject then c :: d :: t else d :: insertChange c t

/-- The membership number, which was `n`, has held since group time `e` (R410, R422). -/
def Meridian.numbered (m : Meridian) (n : BitVec 32) (e : Nat) : Meridian :=
  if m.mnum = n then m else { m with mnums := (e, m.mnum) :: m.mnums }

/-- The membership number at group time `t` (R422). -/
def Meridian.numberAt (m : Meridian) (t : Nat) : BitVec 32 := ((m.mnums.find? fun e => decide (e.1 ≤ t)).map (·.2)).getD 0

/-- Apply everything pending with the effective time `e`: membership before ceilings (R410). -/
def Meridian.applyTime (self : Nat) (m : Meridian) (e : Nat) : Meridian :=
  let cs := (m.changes.filter fun c => c.effective == e).foldr insertChange []
  let n := m.mnum
  let m := { m with changes := m.changes.filter fun c => c.effective != e }
  let m := (cs.foldl (Meridian.applyChange self) m).numbered n e
  let as_ := m.anns.filter fun a => a.effective == e
  as_.foldl (Meridian.applyAnn self) { m with anns := m.anns.filter fun a => a.effective != e }

/-- Pending changes apply: the device is a member, or its own JOIN is on its way (R412). -/
def Meridian.follows (self : Nat) (m : Meridian) : Bool :=
  m.isMember || (m.st == .joining && m.changes.any fun c => c.join && c.subject == self && c.by_ == self)

/-- The effective times of what is pending. -/
def Meridian.times (m : Meridian) : List Nat := m.changes.map (·.effective) ++ m.anns.map (·.effective)

/-- Apply what is due by `t`, in the order of effective times; the fuel bounds their number. -/
def Meridian.applyDue (self t : Nat) : Nat → Meridian → Meridian
  | 0, m => m
  | k + 1, m =>
    if !m.follows self then m
    else
      match (m.times.filter fun e => decide (e ≤ t)).min? with
      | none => m
      | some e => Meridian.applyDue self t k (m.applyTime self e)

/-- The engine as it stands at group time `t`: what is due has taken effect, and the breach of an own drop closes at the DROP's
EFFECTIVE (R405, R416). -/
def Meridian.settle (self t : Nat) (m : Meridian) : Meridian :=
  let n := m.times.length + 1
  let m := if m.openBr.isSome ∧ m.dropEnd ≤ t then (m.applyDue self m.dropEnd n).closeBreach m.dropEnd else m
  m.applyDue self t n

/-- Group time as a number. -/
def State.gt (s : State) : Nat := s.gtime.toNat

/-- The engine as it stands now. -/
def State.merNow (s : State) : Meridian := s.mer.settle s.host.device s.gt

/-- The engine brought up to date. -/
def State.merSettle (s : State) : State := { s with mer := s.merNow }

/-- Δ stays as it stands: a slew under way ends (R413). -/
def State.keepDelta (s : State) : State :=
  s.modMer fun m =>
    { m with delta := m.delta - (min m.slew ((s.chrono - m.slewFrom) / 1000) : Nat), slew := 0, slewFrom := s.chrono }

end Sys2Proof.Machine
end

