-- ==== Sys2Proof/Machine/Trans.lean ====
section
/-! DEFINITION. Translation of the global window (R376 to R379), page ownership (R378, R393) and the page-request ring
(R366, R367). -/

namespace Sys2Proof.Machine

/-! ### Context descriptors (R358) -/

/-- A field of a 512-bit descriptor. -/
def field512 (d : BitVec 512) (hi lo : Nat) : Nat := bits d.toNat hi lo

def Ctx.ptroot (c : Ctx) : Nat := field512 c.desc 511 448
def Ctx.handler (c : Ctx) : Nat := field512 c.desc 447 384
def Ctx.faultrec (c : Ctx) : Nat := field512 c.desc 383 320
def Ctx.trbase (c : Ctx) : Nat := field512 c.desc 319 256
def Ctx.trpages (c : Ctx) : Nat := field512 c.desc 243 232
def Ctx.weight (c : Ctx) : Nat := field512 c.desc 204 197
def Ctx.cls (c : Ctx) : Nat := field512 c.desc 196 195
def Ctx.ten (c : Ctx) : Nat := field512 c.desc 194 191
def Ctx.savebase (c : Ctx) : Nat := field512 c.desc 127 64
def Ctx.prqbase (c : Ctx) : Nat := field512 c.desc 63 0

/-! ### Page-table entries (R377) -/

def pteV (p : DWord) : Bool := p.getLsbD 0
def pteLeaf (p : DWord) : Bool := p.getLsbD 1
def pteR (p : DWord) : Bool := p.getLsbD 2
def pteW (p : DWord) : Bool := p.getLsbD 3
def pteX (p : DWord) : Bool := p.getLsbD 4
def pteA (p : DWord) : Bool := p.getLsbD 5
def pteTgt (p : DWord) : Nat := bits p.toNat 7 6
def pteC64 (p : DWord) : Bool := p.getLsbD 8
def pteMc (p : DWord) : Bool := p.getLsbD 9
/-- The physical or bus address of an entry. -/
def ptePa (p : DWord) : Nat := bits p.toNat 51 12 * 4096

/-- The bytes of a leaf at a level: a level-0 leaf is a page of 4 KiB, or 64 KiB with C64K. -/
def leafSize (level : Nat) (p : DWord) : Nat :=
  match level with
  | 0 => if pteC64 p then 65536 else 4096
  | n => 2 ^ (12 + 9 * n)

/-- The rules of R377 for an entry at a level. -/
def pteOk (level : Nat) (p : DWord) : Bool :=
  if pteLeaf p then
    let sz := 2 ^ (12 + 9 * level)
    decide (level ≤ 2) && bits p.toNat 11 10 == 0 &&
      (if pteTgt p = 3 then decide (bits p.toNat 63 36 * 4096 % sz = 0)
       else !pteMc p && bits p.toNat 63 52 == 0 && decide (ptePa p % sz = 0))
  else decide (0 < level) && bits p.toNat 11 2 == 0 && bits p.toNat 63 52 == 0

/-- Where a leaf sends a virtual address. -/
def leafTarget (p : DWord) (size va : Nat) : Target :=
  let at_ := fun base => base / size * size + va % size
  match pteTgt p with
  | 0 => .dev (at_ (ptePa p))
  | 1 => .host 0 (at_ (ptePa p))
  | 2 => .host 1 (at_ (ptePa p))
  | _ =>
    let off := at_ (bits p.toNat 63 36 * 4096)
    if pteMc p then .mcast (bits p.toNat 23 12) (bits p.toNat 35 24) off
    else .remote (bits p.toNat 23 12) (bits p.toNat 35 24) off

/-! ### Ownership (R378, R393, R394) -/

/-- Tenancy `ten` owns the granule of a physical address, and no command is moving it. -/
def MemSys.owns (m : MemSys) (ten pa : Nat) : Bool :=
  m.owner (pa / 2 ^ 21) == BitVec.ofNat 8 (64 + ten) && !m.moving.contains (pa / 2 ^ 21)

/-! ### The walk (R376, R378) -/

/-- How a walk ends: at a leaf, at an invalid entry, or at one that breaks a rule. -/
inductive WalkRes where
  | leaf (p : DWord) (size : Nat) | invalid | broken
  deriving DecidableEq, Repr

/-- The index of a virtual address at a level. -/
def vaIndex (level va : Nat) : Nat := va / 2 ^ (12 + 9 * level) % 512

/-- The cached translation of an address. -/
def tlbFind (l : List TlbEntry) (ctx va : Nat) : Option TlbEntry :=
  l.find? fun e => e.ctx == ctx && decide (e.va ≤ va) && decide (va < e.va + e.size)

/-- The cached non-leaf entry of a level. -/
def walkerFind (l : List TlbEntry) (ctx va level : Nat) : Option DWord :=
  (l.find? fun e => e.ctx == ctx && e.size == 2 ^ (12 + 9 * level) && decide (e.va ≤ va) && decide (va < e.va + e.size)).map (·.pte)

/-- The level-0 entry that translates an address whose own entry is `p` at `a`: of the 16 aligned entries, any valid one with C64K
set, or `p` where none has it (R377). -/
def entry64 (m : MemSys) (a pick : Nat) (p : DWord) : DWord :=
  let l := ((List.range 16).map fun i => BitVec.ofNat 64 (Memory.num m.bytes (a / 128 * 128 + 8 * i) 8)).filter fun e =>
    pteV e && pteC64 e
  l.getD (pick % l.length) p

/-- Walk the levels from a table at `base`; the non-leaf entries met come back for the walker cache. `pick` chooses among the
entries of a 64 KiB page. -/
def walkFrom (m : MemSys) (cache : List TlbEntry) (ten ctx va pick : Nat) :
    List Nat → Nat → List TlbEntry → WalkRes × List TlbEntry
  | [], _, seen => (.broken, seen)
  | lv :: rest, base, seen =>
    let a := base + 8 * vaIndex lv va
    let own := match walkerFind cache ctx va lv with
      | some p => p
      | none => BitVec.ofNat 64 (Memory.num m.bytes a 8)
    let p := if lv == 0 then entry64 m a pick own else own
    if !m.owns ten a then (.broken, seen)
    else if !pteV p then (.invalid, seen)
    else if !pteOk lv p then (.broken, seen)
    else if pteLeaf p then (.leaf p (leafSize lv p), seen)
    else
      let sz := 2 ^ (12 + 9 * lv)
      walkFrom m cache ten ctx va pick rest (ptePa p) (⟨ctx, va / sz * sz, sz, p⟩ :: seen)

/-- Add an entry to a translation cache of `cap` entries; a full one gives up an entry no rule names. -/
def tlbPut (cap victim : Nat) (e : TlbEntry) (l : List TlbEntry) : List TlbEntry :=
  let l := l.filter fun x => !(x.ctx == e.ctx && x.va == e.va && x.size == e.size)
  if l.length < cap then e :: l else e :: l.eraseIdx (victim % l.length)

/-- What an access needs of its page (R378). -/
inductive Want where
  | load | store | atomic | mcred | fetch
  deriving DecidableEq, Repr

/-- The leaf gives the permission. -/
def pteAllows (p : DWord) : Want → Bool
  | .load => pteR p
  | .store => pteW p
  | .atomic => pteR p && pteW p && pteA p
  | .mcred => pteR p && pteW p && pteA p
  | .fetch => pteX p

/-- The result of a translation: where the access goes, no valid translation, or a protection failure. -/
inductive Xl where
  | to (t : Target) | invalid | prot
  deriving DecidableEq, Repr

/-- The protection check of a leaf (R378). -/
def checkLeaf (m : MemSys) (ten : Nat) (p : DWord) (size va : Nat) (w : Want) : Xl :=
  let t := leafTarget p size va
  let mcOk := match t, w with
    | .mcast .., .mcred => true
    | .mcast .., _ => false
    | _, .mcred => false
    | _, _ => true
  let own := match t with | .dev pa => m.owns ten pa | _ => true
  if own && mcOk && pteAllows p w then .to t else .prot

/-- The choice among the entries of a 64 KiB page in this step (R377). -/
def State.pick64 (s : State) (va : Nat) : Nat := s.freeNum (2 ^ 62 + va / 65536)

/-- Read the tables as they stand at their home slices, through no cache (R376). -/
def State.walkNow (s : State) (c : Ctx) (ctx va : Nat) : WalkRes × List TlbEntry :=
  walkFrom s.settle.mem [] c.ten ctx va (s.pick64 va) [4, 3, 2, 1, 0] c.ptroot []

/-- Translate through the tables alone, as the command processor does (R330, R367). -/
def State.translateCp (s : State) (ctx va : Nat) (w : Want) : Xl :=
  match s.ctxAt? ctx with
  | none => .prot
  | some c =>
    if 2 ^ 57 ≤ va then .prot
    else
      match (s.walkNow c ctx va).1 with
      | .invalid => .invalid
      | .broken => .prot
      | .leaf p size => checkLeaf s.mem c.ten p size va w

/-- The page through which the command processor reaches an address: its base and size. -/
def State.pageCp (s : State) (c : Ctx) (ctx va : Nat) : Option (Nat × Nat) :=
  match (s.walkNow c ctx va).1 with
  | .leaf _ size => some (va / size * size, size)
  | _ => none

/-- The page through which an engine reaches an address for a context. -/
def State.pageAt (s : State) (ctx va : Nat) : Option (Nat × Nat) := (s.ctxAt? ctx).bind fun c => s.pageCp c ctx va

/-- Find or make the leaf of an address for a requester on `die` whose own TLB is `l1` of `cap` entries (R379): the leaf,
the TLB after, and the state with the die's caches. -/
def State.leafFor (s : State) (c : Ctx) (ctx va die cap : Nat) (l1 : List TlbEntry) : WalkRes × List TlbEntry × State :=
  match tlbFind l1 ctx va with
  | some e => (.leaf e.pte e.size, l1, s)
  | none =>
    match tlbFind (s.mem.llTlb.getD die []) ctx va with
    | some e => (.leaf e.pte e.size, tlbPut cap (s.freeNum (2 ^ 33 + va / 4096)) e l1, s)
    | none =>
      let s := s.settle
      let r := walkFrom s.mem (s.mem.walker.getD die []) c.ten ctx va (s.pick64 va) [4, 3, 2, 1, 0] c.ptroot []
      let seen := r.2.foldl (fun l e => tlbPut 1024 (s.freeNum (2 ^ 34 + e.va / 4096)) e l) (s.mem.walker.getD die [])
      let s := s.modMem fun m => { m with walker := m.walker.set die seen }
      match r.1 with
      | .leaf p size =>
        let e : TlbEntry := ⟨ctx, va / size * size, size, p⟩
        let ll := tlbPut 8192 (s.freeNum (2 ^ 35 + va / 4096)) e (s.mem.llTlb.getD die [])
        (.leaf p size, tlbPut cap (s.freeNum (2 ^ 33 + va / 4096)) e l1,
          s.modMem fun m => { m with llTlb := m.llTlb.set die ll })
      | x => (x, l1, s)

/-- Translate an access of a core, through its TLBs (R376 to R379). -/
def State.translateCore (s : State) (core ctx va : Nat) (w : Want) : Xl × State :=
  match s.ctxAt? ctx with
  | none => (.prot, s)
  | some c =>
    let r := s.leafFor c ctx va (dieOfCore core) 64 (s.coreAt core).tlb
    let s := r.2.2.modCore core fun x => { x with tlb := r.2.1 }
    match r.1 with
    | .invalid => (.invalid, s)
    | .broken => (.prot, s)
    | .leaf p size => (checkLeaf s.mem c.ten p size va w, s)

/-- Translate an access of a quad's TCE, through its TLB of 32 entries (R379). -/
def State.translateTce (s : State) (q ctx va : Nat) (w : Want) : Xl × State :=
  match s.ctxAt? ctx with
  | none => (.prot, s)
  | some c =>
    if 2 ^ 57 ≤ va then (.prot, s)
    else
      let r := s.leafFor c ctx va (q / 32) 32 (s.quadAt q).tlb
      let s := r.2.2.modQuad q fun x => { x with tlb := r.2.1 }
      match r.1 with
      | .invalid => (.invalid, s)
      | .broken => (.prot, s)
      | .leaf p size => (checkLeaf s.mem c.ten p size va w, s)

/-- The page of an address that has just been translated: its base and size. -/
def pageIn (l : List TlbEntry) (ctx va : Nat) : Option (Nat × Nat) := (tlbFind l ctx va).map fun e => (e.va, e.size)

/-- Drop the cached translations that `p` covers from every TLB and walker cache (R380). -/
def State.dropTlb (s : State) (p : TlbEntry → Bool) : State :=
  let f := fun (l : List TlbEntry) => l.filter fun e => !p e
  { s with
    cores := s.cores.map fun e => (e.1, { e.2 with tlb := f e.2.tlb })
    quads := s.quads.map fun e => (e.1, { e.2 with tlb := f e.2.tlb })
    mem := { s.mem with llTlb := s.mem.llTlb.map fun e => (e.1, f e.2), walker := s.mem.walker.map fun e => (e.1, f e.2) } }

/-! ### The page-request ring (R367) -/

/-- Memory as its home slices will hold it once everything accepted is visible. -/
def State.latest (s : State) (pa n : Nat) : Nat :=
  Memory.num (settleList (s.chrono + 2 ^ 20) s.mem.accs s).mem.bytes pa n

/-- What a post comes to. -/
inductive Post where
  | posted (seq : BitVec 32) | waits | denied
  deriving DecidableEq, Repr

/-- The physical address of the ring's byte at `off`, if the ring can be written there (R367). -/
def State.ringPa (s : State) (ctx : Nat) (c : Ctx) (off : Nat) : Option Nat :=
  match s.translateCp ctx (c.prqbase + off) .store with
  | .to (.dev pa) => some pa
  | _ => none

/-- The bits of a ring entry. -/
def ringEntry (seq : BitVec 32) (launch vpn kind : Nat) (merged : Bool) : Nat :=
  1 + (if merged then 2 else 0) + kind * 4 + vpn * 2 ^ 12 + launch % 2 ^ 32 * 2 ^ 64 + seq.toNat * 2 ^ 96

/-- The port whose MSI-X vectors serve a partition (R392). -/
def State.portOfPart (s : State) (part : Nat) : Nat := if s.host.mode.val = 0 then s.host.owner else part

/-- The partition of a context: its tenancy's (R400). -/
def State.partOfCtx (s : State) (c : Ctx) : Nat := ((s.host.tens.get? c.ten).map (·.part)).getD 0

/-- Post a page request of a context, or merge it (R367): nothing is written where the header or the entry meets an uncorrectable
error. -/
def State.postPage (s : State) (ctx vpn kind launch : Nat) : Post × State :=
  match s.ctxAt? ctx with
  | none => (.denied, s)
  | some c =>
    if c.prqbase = 0 then (.denied, s)
    else
      match s.ringPa ctx c 0, s.ringPa ctx c 4096 with
      | some hd, some en =>
        let put := fun (s : State) (pa n x after off : Nat) =>
          s.engineAcc .store pa (bytesOf n x) after (ctx + 1) 0 (s.pageCp c ctx (c.prqbase + off))
        let posts := (BitVec.ofNat 32 (s.latest (hd + 16) 4 + 1)).toNat
        let wr := BitVec.ofNat 32 (s.latest hd 4)
        let rd := BitVec.ofNat 32 (s.latest (hd + 8) 4)
        let old := c.prq.find? fun r => r.vpn == vpn && decide (r.kind < 3)
        let i := ((old.map (·.index)).getD wr.toNat) % 256
        if s.poisoned hd 24 then (.denied, s)
        else if old.isNone ∧ (wr - rd).toNat = 256 then (.waits, s)
        else if s.poisoned (en + 16 * i) 16 then (.denied, s)
        else
          match old with
          | some r =>
            let s := (put s (en + 16 * i) 16 (ringEntry r.seq r.launch r.vpn r.kind true) 0 4096).2
            (.posted r.seq, (put s (hd + 16) 8 posts 0 0).2)
          | none =>
            let (w1, s) := put s (en + 16 * i) 16 (ringEntry c.prqSeq launch vpn kind false) 0 4096
            let (w2, s) := put s (hd + 16) 8 posts w1 0
            let (_, s) := put s hd 8 (wr + 1).toNat w2 0
            let s := s.modCtx ctx fun c => { c with
              prqSeq := c.prqSeq + 1
              prq := if kind = 3 then c.prq else c.prq ++ [⟨c.prqSeq, vpn, kind, launch, wr.toNat⟩] }
            (.posted c.prqSeq, s.send (.msix (s.portOfPart (s.partOfCtx c)) 1))
      | _, _ => (.denied, s)

end Sys2Proof.Machine
end

