-- ==== Sys2Proof/Machine/Slots.lean ====
section
/-! DEFINITION. Reply slots, planes and the requests that leave the device (R222, R294 to R300). -/

namespace Sys2Proof.Machine

/-! ### Planes (R298, R299, R442) -/

/-- A port that carries the traffic of its plane, or for which its lines are held. -/
def Port.takes (p : Port) : Bool := p.st == .up || p.hold.isSome

/-- The plane of a line, from its hash, and whether its requests are held: the first port from the hash on that carries
traffic or for which lines are held (notes/assumptions/8.md). -/
def Links.plane (l : Links) (h : Nat) : Option (Nat × Bool) :=
  (((List.range 72).map fun i => (h + i) % 72).find? fun p => (l.port p).takes).map fun p =>
    (p, (l.port p).hold.isSome || (l.port p).st != .up || (l.port p).tx.stopped.isSome)

/-- The hash of a remote line: the peer or multicast group, the window and the line within it. -/
def remoteHash (peer win off : Nat) : Nat := Config.hash (peer * 2 ^ 80 + win * 2 ^ 64 + off / 128)

/-! ### Requests (R294) -/

/-- The device is a Meridian member now (R404). -/
def State.isMember (s : State) : Bool := s.merNow.isMember

/-- Two accesses belong to one request: the lanes of one instruction in one line of a peer, or one host access. -/
def sameRequest (a b : Acc) : Bool :=
  b.owner == a.owner && b.op == a.op &&
    (match a.tgt, b.tgt with
     | .remote p w o, .remote q x r => p == q && w == x && o / 128 == r / 128 && a.kind == b.kind
     | .mcast p w o, .mcast q x r => p == q && w == x && o / 128 == r / 128
     | _, _ => a.id == b.id)

/-- The number under which a request carries an access: its lane, or its lane or row and the part of it (R294). -/
def Acc.name (a : Acc) : Nat := a.lane + 2 ^ 16 * a.part

/-- What a request asks of its peer. -/
def AKind.peer : AKind → PeerKind
  | .load => .load
  | .store => .store
  | .atom op => .atom op
  | .red op => .atom op
  | .mcred op => .mcred op

/-- The holder of an owner's reply slots: a wave with 8, or a TCE with 64 (R295, R296); the command processor has its own
(notes/assumptions/67.md). -/
def Owner.holder : Owner → Option (Bool × Nat × Nat)
  | .wave k => some (false, k, 8)
  | .tce q _ => some (true, q, 64)
  | .engine => some (true, 128, 4096)
  | .peer _ => none

/-- A reply slot. -/
def State.rslot (s : State) (r : SlotRef) : RSlot :=
  if r.tce then (s.quadAt r.owner).slots.getD r.slot RSlot.init
  else ((s.waveAt? r.owner).map fun w => w.slots.getD r.slot RSlot.init).getD RSlot.init

/-- Change a reply slot. -/
def State.setSlot (s : State) (r : SlotRef) (x : RSlot) : State :=
  if r.tce then s.modQuad r.owner fun q => { q with slots := q.slots.set r.slot x }
  else s.modWave r.owner fun w => { w with slots := w.slots.set r.slot x }

/-- The accesses that hold a slot. -/
def State.slotAccs (s : State) (r : SlotRef) : List Acc :=
  s.mem.accs.filter fun a => a.slot == some r.slot &&
    (match a.owner.holder with | some h => h.1 == r.tce && h.2.1 == r.owner | none => false)

/-- The context of an access's owner; an engine's access names its own. -/
def State.ctxOf (s : State) (a : Acc) : Option Ctx :=
  match a.owner with
  | .wave k => (s.waveAt? k).bind fun w => s.ctxAt? w.ctx
  | .tce q c => ((s.quadAt q).copies.find? fun y => y.id == c).bind fun y => s.ctxAt? y.ctx
  | .engine => s.ctxAt? (a.op - 1)
  | .peer _ => none

/-- The completion timeout of a context in ns (R300, R359). -/
def Ctx.timeout (c : Ctx) : Nat := c.cto.toNat * 1000

/-- The policy record of a tenancy (R398). -/
def State.policy (s : State) (ten : Nat) : DWord := ((s.host.tens.get? ten).map (·.policy)).getD 0

/-- The request that carries the lanes of `g` (R191, R294). -/
def State.peerReq (s : State) (a : Acc) (g : List Acc) (win : Nat) (deadline : Int) : PeerReq :=
  { id := a.id, src := s.host.device, plane := 0, pseq := 0, ftid := BitVec.ofNat 32 ((s.policy a.ten).toNat / 2 ^ 32), win := win, cls := a.cls,
    kind := a.kind.peer, deadline := deadline,
    lanes := g.map fun x => ⟨x.name, match x.tgt with | .remote _ _ o => o | .mcast _ _ o => o | _ => 0, x.size, x.data⟩ }

/-- Set the stage of the accesses of `g`. -/
def State.setStage (s : State) (g : List Acc) (st : Stage) : State :=
  let ids := g.map (·.id)
  s.modMem fun m => { m with accs := m.accs.map fun b => if ids.contains b.id then { b with stage := st } else b }

/-- A request leaves on plane `p`, numbered in the order of this device's requests to its peer there; the switches reduce an MCRED
and number nothing (R298, R309). -/
def State.sendOn (s : State) (p peer : Nat) (slot : SlotRef) (seq : BitVec 8) (r : PeerReq) : State :=
  let key := p * 4096 + peer
  let n := s.links.reqOut.getD key 0
  let mcred := match r.kind with | .mcred _ => true | _ => false
  let s := s.modLinks fun l =>
    { l.modPort p fun (x : Port) => { x with sent := max x.sent r.deadline } with
      reqOut := if mcred then l.reqOut else l.reqOut.set key (n + 1) }
  s.sendFlit p (.request peer slot seq { r with plane := p, pseq := if mcred then 0 else n })

/-- The request of the accesses `g`, which hold the slot `r`, leaves the device, unless its plane is held (R298, R299). A wave
counts the remote requests it sends (R373). -/
def State.sendRequest (s : State) (g : List Acc) (r : SlotRef) : State :=
  match g with
  | [] => s
  | a :: _ =>
    let x := s.rslot r
    let far := fun (peer win off : Nat) =>
      match s.links.plane (remoteHash peer win off) with
      | some (p, false) =>
        let s := if r.tce then s else s.modWave r.owner fun w => w.count 9 1
        (s.setStage g .travelling).sendOn p peer r x.seq (s.peerReq a g win x.gdeadline)
      | _ => s.setStage g .queued
    match a.tgt with
    | .remote p w o => far p w o
    | .mcast p w o => far p w o
    | .host port addr =>
      let s := s.setStage g .travelling
      match a.kind with
      | .atom op => s.send (.hostAtom port (s.ideStream a.ten port) addr a.size a.id op a.data)
      | .red op => s.send (.hostAtom port (s.ideStream a.ten port) addr a.size a.id op a.data)
      | _ => s.send (.hostRead port (s.ideStream a.ten port) addr a.size a.id)
    | _ => s

/-- The peer a failure names: the device, or the member of a multicast group that has not applied the value, a free one of the members
that the switches' lists give the group (R189, R304, R309; notes/assumptions/48.md). -/
def State.failPeer (s : State) (a : Acc) : Nat :=
  match a.tgt with
  | .remote p _ _ => p
  | .mcast g _ _ => Config.member g (s.freeNum (2 ^ 37 + a.slot.getD 0)) % 4096
  | _ => 0

/-- A failure of an access with a code (R304, R305). -/
def State.failureOf (s : State) (a : Acc) (code : Nat) : Failure :=
  match a.tgt with
  | .host port _ => ⟨code, 0, true, port, 0⟩
  | _ => ⟨code, s.failPeer a, false, 0, 0⟩

/-- Every access of a request fails with a code (R303). -/
def State.failAll (s : State) (g : List Acc) (code : Nat) : State :=
  g.foldl (fun s a => s.failAcc a .fabric (s.failureOf a code) 0) s

/-- The lowest free slot of a holder. -/
def State.freeSlot (s : State) (tce : Bool) (owner n : Nat) : Option Nat :=
  (List.range n).find? fun j => (s.rslot ⟨tce, owner, j⟩).busy.isNone

/-- An earlier read or atomic of the same owner at the bytes of a host write. -/
def State.hostBlocked (s : State) (a : Acc) : Bool :=
  s.mem.accs.any fun b => b.owner == a.owner && decide (b.id < a.id) && b.kind != .store && a.meets b

/-- A read or atomic of a wave at the bytes of an earlier host write of the wave that has not left (R208). -/
def State.hostFollows (s : State) (a : Acc) : Bool :=
  (match a.owner with | .wave _ => true | _ => false) &&
    s.mem.accs.any fun b => b.owner == a.owner && decide (b.id < a.id) && b.kind == .store && b.stage == .travelling && a.meets b

/-- Requests of an owner take free slots in order and leave (R295, R300); `n` bounds how many are tried. -/
def State.takeSlots (s : State) (o : Owner) : Nat → State
  | 0 => s
  | n + 1 =>
    match o.holder with
    | none => s
    | some (tce, owner, count) =>
      match s.mem.accs.find? fun a => a.owner == o && a.stage == .needSlot && !s.hostFollows a with
      | none => s
      | some a =>
        let g := s.mem.accs.filter fun b => b.stage == .needSlot && sameRequest a b
        let host := match a.tgt with | .host .. => true | _ => false
        if !host && !s.isMember then State.takeSlots (s.failAll g 6) o n
        else
          match s.freeSlot tce owner count with
          | none => s
          | some j =>
            let r : SlotRef := ⟨tce, owner, j⟩
            let t := ((s.ctxOf a).map Ctx.timeout).getD 0
            let x := s.rslot r
            let peer := match a.tgt with | .remote p _ _ => some p | _ => none
            let s := { s with nextId := s.nextId + 1 }.setSlot r
              ⟨some a.id, x.seq + 1, peer, [], s.nextId, none, s.chrono + t, s.gtime + t⟩
            let ids := g.map (·.id)
            let s := s.modMem fun m =>
              { m with accs := m.accs.map fun b => if ids.contains b.id then { b with slot := some j, stage := .queued } else b }
            State.takeSlots (s.sendRequest (s.slotAccs r) r) o n

/-- An owner's requests that still need a slot. -/
def State.needsSlots (s : State) (o : Owner) : Bool := s.mem.accs.any fun a => a.owner == o && a.stage == .needSlot

/-- A slot becomes free (R295). -/
def State.freeReply (s : State) (r : SlotRef) : State := s.setSlot r { s.rslot r with busy := none }

/-- An access of the command processor for context `ctx` to a host or a peer, made for a launch (R332, R365). -/
def State.engineFar (s : State) (kind : AKind) (tgt : Target) (bs : List Byte) (ctx launch : Nat) (page : Option (Nat × Nat)) :
    State :=
  let (id, s) := s.fresh
  let ten := ((s.ctxAt? ctx).map Ctx.ten).getD 0
  let a : Acc := ⟨id, .engine, 0, ctx + 1, 0, 0, kind, tgt, bs.length, bs, 0, 0, ten, launch, none, .needSlot, none, false, page⟩
  (s.modMem fun m => { m with accs := m.accs ++ [a] }).takeSlots .engine 1

/-! ### Host memory (R222) -/

/-- The posted writes of an owner that can leave do so (R208, R222). -/
def State.pushHost (s : State) (o : Owner) : State :=
  s.mem.accs.foldl (fun s a =>
    match a.tgt with
    | .host port addr =>
      if a.owner == o && a.kind == .store && a.stage == .travelling && !s.hostBlocked a then
        (s.setStage [a] .posted).send (.hostWrite port (s.ideStream a.ten port) addr a.data)
      else s
    | _ => s) s

/-- A posted write of an owner at a port that no completion-carrying read follows. -/
def unflushed (o : Owner) (port : Nat) (a : Acc) : Bool :=
  a.owner == o && a.kind == .store && a.stage == .posted && (match a.tgt with | .host p _ => p == port | _ => false)

/-- A completion-carrying read follows the posted writes of an owner on each port that carried one (R222). -/
def State.flushHost (s : State) (o : Owner) : State :=
  [0, 1].foldl (fun s port =>
    match (s.mem.accs.filter (unflushed o port)).getLast? with
    | none => s
    | some a =>
      (s.setStage (s.mem.accs.filter (unflushed o port)) .flushing).send (.hostRead port (s.ideStream a.ten port) 0 0 a.id)) s

end Sys2Proof.Machine
end

