-- ==== Sys2Proof/Machine/Ops.lean ====
section
/-! DEFINITION. The shared operations of every instruction: taking a trap and returning from it (R360 to R366), halting a
launch (R365, R369), runs (R21 to R25), issuing an instruction with its checks in order (R78), the fetch path (R70), and
the checks of a wave's memory accesses (R184, R185, R188, R228). -/

namespace Sys2Proof.Machine

/-! ### Trap records -/

/-- The code of a trap (R360). -/
def Cause.code : Cause → Nat
  | .illegal => 0x01 | .runlen => 0x02 | .priv => 0x03 | .misalign => 0x04 | .aperture => 0x05 | .xlate => 0x06
  | .prot => 0x07 | .handle => 0x08 | .accown => 0x09 | .promise => 0x0A | .rdverr => 0x0B | .wpstale => 0x0C
  | .fabric => 0x0D | .ecc => 0x0E | .fpexc => 0x0F | .deadread => 0x10 | .syscall => 0x11 | .brkpt => 0x12

/-- TRAPCAUSE (R361). -/
def TrapRec.causeWord (r : TrapRec) : DWord :=
  BitVec.ofNat 64 (r.cause.code + (if r.fetch then 256 else 0) + (if r.imprecise then 512 else 0))

/-- A run that is not open. -/
def RunSt.closed : RunSt := ⟨false, 0, 0⟩

/-! ### Ending lanes and runs -/

/-- Every lane of a wave ends (R169, R369). -/
def Wave.ended (w : Wave) : Wave :=
  { w with frontier := [], exited := w.launched, handler := none, exch := [], j := [], susp := none, trapWait := none,
           up := Upper.none, run := RunSt.closed, halting := false }

/-- The core stops running a wave: it is the wave that ran last (R23). -/
def State.leaveCore (s : State) (k : Nat) : State :=
  s.modCore (coreOfWave k) fun c => if c.run = some k then { c with run := none, last := k % 32 } else c

/-- End every lane of wave `k`, at once. -/
def State.endLanes (s : State) (k : Nat) : State := (s.leaveCore k).modWave k Wave.ended

/-- The run of wave `k` ends (R21, R24): the upper levels become invalid, entries merge, a halted wave ends. -/
def State.endRun (s : State) (k : Nat) : State :=
  let s := s.leaveCore k
  match s.waveAt? k with
  | none => s
  | some w =>
    if w.halting then s.endLanes k
    else (s.setWave k ({ w with run := RunSt.closed, up := Upper.none }.merged)).wakeWave k

/-! ### Halting a launch (R363, R365, R369) -/

/-- The fault record of a halting wave (R365). -/
def faultRecord (k : Nat) (w : Wave) (kind detail : Nat) : Nat :=
  w.trapcause.toNat % 1024 + 1024 + kind * 2 ^ 320 + w.waveid * 2 ^ 322 + coreOfWave k * 2 ^ 326 + detail * 2 ^ 336 +
    w.launch % 2 ^ 32 * 2 ^ 352 + w.trappc.toNat * 2 ^ 384 + w.trapaddr.toNat * 2 ^ 448

/-- Write the fault record by an atomic that takes effect only while VALID is 0, if the place can be written (R365). -/
def State.writeFault (s : State) (k : Nat) (w : Wave) (kind detail : Nat) : State :=
  match s.ctxAt? w.ctx with
  | none => s
  | some c =>
    if c.faultrec = 0 then s
    else
      let bs := bytesOf 64 (faultRecord k w kind detail)
      let page := s.pageCp c w.ctx c.faultrec
      match s.translateCp w.ctx c.faultrec .atomic with
      | .to (.dev pa) =>
        if s.poisoned pa 64 then s else (s.engineAcc (.red .record) pa bs 0 (w.ctx + 1) w.launch page).2
      | .to t => s.engineFar (.red .record) t bs w.ctx w.launch page
      | _ => s

/-- A wave that issues now: its run is open and nothing suspends it. -/
def State.issuing (s : State) (k : Nat) (w : Wave) : Bool :=
  w.run.isOpen && w.susp.isNone && w.trapWait.isNone && (s.coreAt (coreOfWave k)).run == some k

/-- The waves of a launch end in the groups saved with a context: they stand at run boundaries. -/
def Ctx.endSaved (c : Ctx) (launch : Nat) : Ctx :=
  { c with saves := c.saves.map fun (g : SavedGroup) =>
      if g.group.launch = launch then { g with waves := g.waves.map fun (e : Nat × Wave) => (e.1, e.2.ended) } else g }

/-- Halt every wave of a launch (R369): one that is issuing at its next run boundary, the others, saved ones included, at once; no
further group is dispatched, and the launch has the fault `code`. -/
def State.haltWaves (s : State) (launch code : Nat) : State :=
  let s := s.modLaunch launch fun l => { l with fault := some (l.fault.getD code) }
  let s := s.modCp fun c => { c with ctxs := c.ctxs.mapVals fun _ x => x.endSaved launch }
  (s.waves.filter fun e => e.2.launch == launch).foldl (fun s e =>
    if s.issuing e.1 e.2 then s.modWave e.1 fun w => { w with halting := true } else s.endLanes e.1) s

/-- Halt the launch of wave `k` (R363, R369): the record, the wave itself at once, and every other wave. -/
def State.haltLaunch (s : State) (k kind detail : Nat) : State :=
  match s.waveAt? k with
  | none => s
  | some w => ((s.writeFault k w kind detail).endLanes k).haltWaves w.launch 6

/-! ### Taking a trap (R362, R363) -/

/-- Step 1 of R362: the trap registers. -/
def Wave.trapRegs (w : Wave) (r : TrapRec) : Wave :=
  { w with
    trapcause := r.causeWord
    trappc := r.pc
    trapaddr := r.addr
    trapmask := r.mask
    retpc := r.ret
    traprun := BitVec.ofNat 64 (w.run.slots + (if r.newRun then 32 else 0)) }

/-- The exchange an entry is parked on, and the length of its instruction (R179). -/
def Entry.parkedOn (e : Entry) : Option (DWord × Mask × Nat) :=
  match e.st with
  | .wait (.exch pc m) => some (pc, m, e.len)
  | _ => none

/-- Steps 2 to 4 of R362: the upper levels and the slot count are saved, the other entries held, and a new run starts at
the handler with the lanes of the trapping entry. -/
def Wave.enterHandler (w : Wave) (addr : DWord) : Wave :=
  match w.frontier with
  | [] => w
  | e :: rest =>
    { w with
      handler := some ⟨w.up, w.run.slots, rest, e.prio, e.starve, e.mask, e.report, e.parkedOn⟩
      frontier := [⟨addr, e.mask, e.prio, 0, .ready, 0, []⟩]
      up := Upper.none
      run := ⟨true, 0, 0⟩
      susp := none
      trapWait := none }

/-- Wave `k`, whose issuing entry stands first, takes a trap (R362). In handler mode it is a double trap, and without a
handler it halts the launch (R363). -/
def State.takeTrap (s : State) (k : Nat) (r : TrapRec) : State :=
  match s.waveAt? k with
  | none => s
  | some w =>
    let h := ((s.ctxAt? w.ctx).map Ctx.handler).getD 0
    let lost := w.suspLost (s.coreAt (coreOfWave k)).cycle
    let w1 := ((w.trapRegs r).count 10 1).count 5 lost
    if w.handler.isSome then (s.setWave k w1).haltLaunch k 1 0xFFFF
    else if h = 0 then (s.setWave k w1).haltLaunch k 0 0
    else
      (s.setWave k ((w1.count 2 1).enterHandler (BitVec.ofNat 64 h))).modCore (coreOfWave k) fun c => { c with run := some k }

/-- A run that a handler had interrupted goes on (R364): TRET has ended the handler's run, so a halted wave ends here (R21,
R369), one whose context is being pre-empted stops here with its levels saved (R381), and waits that an exit in the handler
has completed end (R166). -/
def State.resumeRun (s : State) (k : Nat) : State :=
  match s.waveAt? k with
  | none => s
  | some w =>
    if w.halting then s.endLanes k
    else if (s.ctxAt? w.ctx).map (·.st) = some .stopping then
      ((s.modWave k fun w => { w with
        susp := some ⟨.stopped, (s.coreAt (coreOfWave k)).cycle, some (w.up, w.run.slots)⟩ }).leaveCore k).wakeWave k
    else s.wakeWave k

/-- The entry of the lanes `m` that return from a handler (R364): at RETPC, or parked on the exchange whose completion raised
the trap, which is then retried (R179). -/
def Wave.resumed (w : Wave) (h : Handler) (m : Mask) : Entry :=
  match h.parked with
  | some (pc, x, n) =>
    if w.retpc = pc then ⟨pc, m, h.prio, h.starve, .wait (.exch pc x), n, h.report⟩
    else ⟨w.retpc, m, h.prio, h.starve, .ready, 0, h.report⟩
  | none => ⟨w.retpc, m, h.prio, h.starve, .ready, 0, h.report⟩

/-- Lanes that do not go back to the exchange they were parked on give up its record (notes/assumptions/62.md). -/
def Wave.forsake (w : Wave) (h : Handler) (m : Mask) : Wave :=
  match h.parked with
  | some (pc, x, _) =>
    if w.retpc = pc ∧ m ≠ 0 then w else { w with exch := w.exch.filter fun y => !(y.pc == pc && y.m == x) }
  | none => w

/-- The handler of wave `k` ends (R364): the saved state returns, held entries are released, and the lanes of `m`, those
that issued a TRET, go on at RETPC as one entry, in the interrupted run unless TRAPRUN.NEWRUN is 1. -/
def State.leaveHandler (s : State) (k : Nat) (m : Mask) : State :=
  match s.waveAt? k with
  | none => s
  | some w =>
    match w.handler with
    | none => s
    | some h =>
      let w := w.forsake h m
      if m = 0 then ((s.setWave k { w with handler := none, frontier := h.held, up := Upper.none, run := RunSt.closed }).leaveCore k).endRun k
      else
        let e := w.resumed h m
        if w.traprun.getLsbD 5 then
          (s.setWave k { w with handler := none, frontier := e :: h.held, up := Upper.none, run := RunSt.closed }).endRun k
        else
          ((s.setWave k { w with handler := none, frontier := e :: h.held, up := h.up, run := ⟨true, h.slots, 0⟩ }).modCore
            (coreOfWave k) fun c => { c with run := some k }).resumeRun k

/-- The lanes of the handler that have issued a TRET, and those that still run (R364). -/
def Wave.tretLanes (w : Wave) : Mask :=
  w.frontier.foldl (fun m e => if e.st = .wait .tret then m ||| e.mask else m) 0
def Wave.liveHandler (w : Wave) : Mask :=
  w.frontier.foldl (fun m e => if e.st = .wait .tret then m else m ||| e.mask) 0

/-! ### What an instruction names (R16) and its predicate (R11) -/

/-- A wave's instruction as it issues. -/
structure Iss where
  k : Nat
  w : Wave
  e : Entry
  exec : Mask
  len : Nat
  rb : Bool
  slot : Slot

/-- How the issuing entry goes on (R161). -/
inductive After where
  | seq                       -- the PC advances; the run goes on unless RB is set
  | stop                      -- the PC advances and the run ends
  | split (es : List Entry)   -- the entry becomes these entries and the run ends
  | leave (es : List Entry)   -- as `split`; a handler without live lanes ends (R364)

/-- What issuing an instruction comes to. -/
inductive Res where
  | ok (s : State) (a : After)
  | trap (c : Cause) (addr : DWord)                                      -- precise, no effect (R360)
  | trapNext (s : State) (c : Cause) (addr : DWord) (newRun : Bool)      -- precise, RETPC the next instruction
  | hold (s : State)                                                     -- suspended (R25)
  | part (s : State) (pages : List Nat)                                  -- suspended with requests or posts left (R233, R295)
  | again (s : State)                                                    -- not issued: a trap it reports is due (R360)
  | page (s : State) (vpn kind : Nat) (addr : DWord)                     -- replayed XLATE (R366)

/-- RB of an instruction (R21). -/
def bodyRb : Body → Bool
  | .bv f => f.rb | .bv1 f => f.rb | .ballot f => f.rb | .vote f => f.rb | .elect f => f.rb | .bb f => f.rb
  | .bm f => f.rb | .hint f => f.rb | .bs rb _ => rb | .xv f => f.rb | .cmp f => f.rb | .pset f => f.rb
  | .pmov f => f.rb | .pred f => f.rb | .xm f => f.rb | .xt f => f.rb | .pair f => f.rb
def rbOf (i : Instr) : Bool := match bodyOf i with | some (_, b) => bodyRb b | none => false

/-- The registers an instruction names exist (R16); otherwise the selector that does not. -/
def regBad (w : Wave) : List (Src × Nat) → Option DWord
  | [] => none
  | (x, n) :: t =>
    let bad := match x with
      | .v r => decide (min w.nv 128 < r.val + n)
      | .s r => decide (min w.ns 64 < r.val + n)
      | _ => false
    if bad then some (BitVec.ofNat 64 (srcCode x)) else regBad w t

/-- A register selector as the instruction's form writes it: compact selectors of s registers begin at 64 (R46, R47). -/
def selValue (i : Instr) (x : DWord) : DWord :=
  match bodyOf i with
  | some (_, b) => if b.compact && decide (128 ≤ x.toNat) then x - 64 else x
  | none => x

/-- A destination as a selector. -/
def dstSel : Dst → Src
  | .v n => .v n
  | .s n => .s n
  | .null => .width

/-- Privileged instructions (R78): TLBINV, HALTW, and MOVS or MOVSW of an index from 0x80. -/
def privileged : Instr → Bool
  | .tlbinvXt _ => true
  | .haltwXt _ => true
  | .movsXt f => decide (0x80 ≤ f.e8.toNat)
  | .movswXt f => decide (0x80 ≤ f.e8.toNat)
  | _ => false

/-! ### Traps at issue -/

/-- A trap due at the entry before it issues anything: one of an instruction that waited there (R360). -/
def Wave.dueTrap (w : Wave) (e : Entry) : Option TrapRec :=
  if w.handler.isSome && e.report.all (fun r => r.imprecise) then none else e.report.head?

/-- The trap taken by `dueTrap` is consumed. -/
def Wave.dropDue (w : Wave) (e : Entry) : Wave :=
  { w with frontier := { e with report := e.report.tail } :: w.frontier.tail }

/-- A failure a completed FENCE has left (R307), or a PROT that it reports (R396; notes/assumptions/59.md). -/
def isFence (r : Report) : Bool := r.ctr == .none && r.lane.isNone && (r.cause == .fabric || r.cause == .prot)

/-- The trap of a completed FENCE, taken at the wave's next issue (R307), with the wave after its report. -/
def Wave.fenceDue (w : Wave) (e : Entry) : Option (TrapRec × Wave) :=
  if w.handler.isSome then none
  else (w.reports.find? isFence).map fun r =>
    (⟨r.cause, true, false, r.pc, r.addr, e.mask, e.pc, false⟩, { w with reports := w.reports.erase r })

/-- The lanes of `m` are the wave's last lanes (R169). -/
def Wave.lastLanes (w : Wave) (m : Mask) : Bool := (w.launched &&& ~~~w.exited &&& ~~~m) == 0

/-- An EXIT of the wave's last lanes reports a FENCE's failure itself (R307, R360). -/
def exitsLast (i : Instr) (w : Wave) (exec : Mask) : Bool :=
  match i with
  | .exitBs _ => w.lastLanes exec
  | .exitXt _ => w.lastLanes exec
  | _ => false

/-- The core's issuing wave: the one whose run is open on the core in focus. -/
def State.issuer (s : State) : Option (Nat × Wave × Entry) :=
  match (s.coreAt s.focus).run with
  | none => none
  | some k =>
    match s.waveAt? k with
    | none => none
    | some w => match w.frontier with
      | [] => none
      | e :: _ => some (k, w, e)

/-- A precise trap of the instruction at the issuing entry (R360). -/
def precise (c : Cause) (addr : DWord) (e : Entry) (mask : Mask) (newRun : Bool) : TrapRec :=
  ⟨c, false, false, e.pc, addr, mask, e.pc, newRun⟩

/-- A TRAPADDR that no rule gives. -/
def State.anyAddr (s : State) : DWord := BitVec.ofNat 64 (s.freeNum (2 ^ 36))

/-- An access waits in a trap wait for its page (R366); a request that cannot be posted is answered as DENY (R367). -/
def State.pageWait (s : State) (k vpn kind : Nat) (fetch : Bool) (addr : DWord) (mask : Mask) : State :=
  match s.waveAt? k with
  | none => s
  | some w =>
    let since := (s.coreAt (coreOfWave k)).cycle
    let r := s.postPage w.ctx vpn kind w.launch
    let waits := fun (seq : Option (BitVec 32)) (w : Wave) =>
      { w.count 5 (w.suspLost since) with susp := none, trapWait := some ⟨vpn, kind, fetch, addr, mask, seq, none, since, none⟩ }
    match r.1 with
    | .posted q => r.2.modWave k (waits (some q))
    | .waits => (r.2.modWave k (waits none)).modCtx w.ctx fun c => { c with prqPend := c.prqPend ++ [(vpn, kind, w.launch)] }
    | .denied =>
      match w.frontier with
      | [] => r.2
      | e :: _ => r.2.takeTrap k ⟨.xlate, false, fetch, e.pc, addr, mask, e.pc, false⟩

/-- An instruction is held at issue (R25). -/
def State.suspend (s : State) (k : Nat) (kind : SuspKind) : State :=
  s.modWave k fun w =>
    { w with susp := some ⟨kind, match w.susp with | some x => x.since | none => (s.coreAt (coreOfWave k)).cycle, none⟩ }

/-- The issue slot is taken: counters of R373, the slot count, the next issue cycle and the pipe an F64
operation holds (R22, R37). -/
def State.takeSlot (s : State) (u : Iss) (pipe : Pipe) : State :=
  let s := s.modWave u.k fun w =>
    let w := (((w.count 1 1).count 3 u.slot.bank).count 4 u.slot.ilk)
    let w := match w.susp with
      | some x => w.count 5 (u.slot.t - x.since)
      | none => w
    { w with run := { w.run with slots := w.run.slots + 1, prev := u.slot.t }, susp := none }
  s.modCore (coreOfWave u.k) fun c =>
    let c := { c with cycle := u.slot.t + 1 }
    match pipe with
    | .f64 => if u.slot.pipeB then { c with pipeB := u.slot.t + 4 } else { c with pipeA := u.slot.t + 4 }
    | .scalar64 => { c with pipeS := u.slot.t + 4 }
    | _ => c

/-- Advance the issuing entry past the instruction. -/
def Wave.advance (w : Wave) (len : Nat) : Wave :=
  match w.frontier with
  | [] => w
  | e :: t => { w with frontier := { e with pc := e.pc + BitVec.ofNat 64 len } :: t }

/-- The frontier after an instruction (R161). -/
def State.after (s : State) (u : Iss) (a : After) : State :=
  match a with
  | .seq =>
    let s := s.modWave u.k fun w => w.advance u.len
    if u.rb then s.endRun u.k else s
  | .stop => (s.modWave u.k fun w => w.advance u.len).endRun u.k
  | .split es => (s.modWave u.k fun w => { w with frontier := es ++ w.frontier.tail }).endRun u.k
  | .leave es =>
    let s := s.modWave u.k fun w => { w with frontier := es ++ w.frontier.tail }
    match s.waveAt? u.k with
    | none => s
    | some w => if w.handler.isSome && w.liveHandler == 0 then s.leaveHandler u.k w.tretLanes else s.endRun u.k

/-- The lanes of an entry that execute (R11). -/
def State.execMask (s : State) (w : Wave) (e : Entry) (p : Fin 16) (pn : Bool) : Mask :=
  e.mask &&& maskOf fun L => s.readP w p.val L != pn

/-- What issuing comes to. -/
def settleRes (k : Nat) (e : Entry) (u : Iss) (pipe : Pipe) (s : State) : Res → State
  | .ok s a => (s.takeSlot u pipe).after u a
  | .trap c addr => s.takeTrap k (precise c addr e u.exec false)
  | .trapNext s c addr nr =>
    (s.takeSlot u pipe).takeTrap k ⟨c, false, false, e.pc, addr, u.exec, e.pc + BitVec.ofNat 64 u.len, nr || u.rb⟩
  | .hold s => s.suspend k .retry
  | .part s pages => (s.takeSlot u pipe).suspend k (.rest u.len u.rb pages)
  | .again s => s
  | .page s vpn kind addr => s.pageWait k vpn kind false addr u.exec

/-- Issue an instruction of the wave in focus, with the checks of R78 in their order. -/
def issueAt (i : Instr) (pl : Plan) (body : Iss → State → Res) (k : Nat) (w : Wave) (e : Entry) (s : State) : State :=
  match w.dueTrap e with
  | some r => (s.setWave k (w.dropDue e)).takeTrap k r
  | none =>
    let exec := s.execMask w e pl.p pl.pn
    match (if exitsLast i w exec then none else w.fenceDue e) with
    | some (r, w) => (s.setWave k w).takeTrap k r
    | none =>
      if 24 ≤ w.run.slots then s.takeTrap k (precise .runlen s.anyAddr e exec true)
      else
        match bad i with
        | some v => s.takeTrap k (precise .illegal (v.zeroExtend 64) e exec false)
        | none =>
          if privileged i && w.handler.isNone then s.takeTrap k (precise .priv s.anyAddr e exec false)
          else
            match regBad w (pl.srcs ++ pl.dsts) with
            | some v => s.takeTrap k (precise .illegal (selValue i v) e exec false)
            | none =>
              let u : Iss := ⟨k, w, e, exec, byteLen i, rbOf i, slotOf (s.coreAt (coreOfWave k)) w pl⟩
              settleRes k e u pl.pipe s (body u s)

/-- The class L operations of a core's waves, each with its wave, that must have landed by cycle `t` (R36). -/
def State.overdue (s : State) (core t : Nat) : List (Nat × Nat) :=
  s.waves.flatMap fun e => if coreOfWave e.1 = core then (e.2.overdue t).map fun id => (e.1, id) else []

/-- Before a core issues at cycle `t`, what must have landed by then lands (R36). -/
def State.landOverdue (s : State) (core t : Nat) : State :=
  let l := s.overdue core t
  (distinct (l.map (·.1))).foldl (fun s k => s.wakeWave k) (l.foldl (fun s x => s.landOp x.1 x.2 fullMask) s)

/-- Issue an instruction of the wave whose run is open on the core in focus. -/
def issue (i : Instr) (pl : Plan) (body : Iss → State → Res) (s : State) : Host.Outcome State Fault Refusal :=
  match s.issuer with
  | none => .fault .noIssuer
  | some (k, w, e) =>
    let t := (slotOf (s.coreAt (coreOfWave k)) w pl).t
    if s.overdue (coreOfWave k) t = [] then .next (issueAt i pl body k w e s)
    else
      let s := s.landOverdue (coreOfWave k) t
      match s.issuer with
      | none => .next s
      | some (k, w, e) => .next (issueAt i pl body k w e s)

/-- The plan of a class L instruction without predicate and operands. -/
def plainPlan : Plan := ⟨0, false, [], [], [], .none⟩

/-- The plan of a class A instruction without operands, which runs on the scalar pipe (R27, R37). -/
def scalarPlan : Plan := ⟨0, false, [], [], [], .scalar⟩

/-- The pipe of a class A instruction that reads one operand and writes no register (R27). -/
def readPipe (x : Src) : Pipe := if x.uniform then .scalar else .vec

/-! ### Fetch (R69, R70) -/

/-- A code word of wave `w`: as it stands, or as it stood before a store since the group's dispatch, one of them for each word
and fetch (R70). -/
def State.codeWord (s : State) (w : Wave) (pa : Nat) : Nat :=
  let now := Memory.num s.mem.bytes pa 4
  match (s.groupAt? w.group).bind fun g => g.code.get? (pa / 4) with
  | none => now
  | some olds => ((olds.map fun x => x.2.toNat)[s.freeNum (2 ^ 62 + pa / 4) % (olds.length + 1)]?).getD now

/-- What a fetch comes to. -/
inductive Fetched where
  | word (n : Nat) (s : State) | fault (c : Cause) (vpn : Nat) (addr : DWord) (s : State)

/-- Fetch the word at `pc` (R69, R70, R378). -/
def State.fetchWord (s : State) (core : Nat) (w : Wave) (pc : Nat) : Fetched :=
  if 2 ^ 57 ≤ pc then .fault .prot (pc / 4096) (BitVec.ofNat 64 pc) s
  else
    let r := s.translateCore core w.ctx pc .fetch
    match r.1 with
    | .invalid => .fault .xlate (pc / 4096) (BitVec.ofNat 64 pc) r.2
    | .prot => .fault .prot (pc / 4096) (BitVec.ofNat 64 pc) r.2
    | .to (.dev pa) => .word (r.2.codeWord w pa) r.2
    | .to _ => .word (ofBytes ((List.range 4).map fun i => r.2.freeByte (2 ^ 62 + pc + i))) r.2

/-- Fetch `n` further words from `pc`; the number they make. -/
def State.fetchWords (s : State) (core : Nat) (w : Wave) : Nat → Nat → Fetched
  | 0, _ => .word 0 s
  | n + 1, pc =>
    match s.fetchWord core w pc with
    | .fault c v a s => .fault c v a s
    | .word x s =>
      match State.fetchWords s core w n (pc + 4) with
      | .fault c v a s => .fault c v a s
      | .word y s => .word (x + 2 ^ 32 * y) s

/-- Fetch the instruction at `pc`: word 0 decides the length (R41). -/
def State.fetch (s : State) (core : Nat) (w : Wave) (pc : Nat) : Fetched :=
  match s.fetchWord core w pc with
  | .fault c v a s => .fault c v a s
  | .word x s =>
    match s.fetchWords core w (lenBytes (x % 4) / 4 - 1) (pc + 4) with
    | .fault c v a s => .fault c v a s
    | .word y s => .word (x + 2 ^ 32 * y) s

/-- A fetch fault of wave `k` (R361, R366). -/
def State.fetchFault (s : State) (k : Nat) (e : Entry) (c : Cause) (vpn : Nat) (addr : DWord) : State :=
  if c = .xlate then s.pageWait k vpn 2 true addr e.mask
  else s.takeTrap k ⟨c, false, true, e.pc, addr, e.mask, e.pc, false⟩

/-! ### Memory accesses of a wave (R184, R185, R188, R228) -/

/-- Private bytes per lane, the private region and the slice of a wave (R188, R330). -/
def Launch.pb (l : Launch) : Nat := field512 l.desc 127 118 * 16
def Launch.privva (l : Launch) : Nat := field512 l.desc 255 192

/-- The offset in a wave's slice of a private byte (R188). -/
def sliceOffset (x L : Nat) : Nat := (x / 4 * 64 + L) * 4 + x % 4

/-- The parts of one lane's access: offset, size and target of each, and the page it was translated
through. -/
abbrev Parts := List (Nat × Nat × Target × Option (Nat × Nat))

/-- The check of one lane's access (R185). -/
inductive LaneRes where
  | go (p : Parts) | trap (c : Cause) | page (vpn : Nat)

/-- Translate the 4-byte units of a private access (R188). -/
def State.privParts (s : State) (core ctx : Nat) (w : Want) (L base x size : Nat) : List Nat → State × LaneRes
  | [] => (s, .go [])
  | i :: t =>
    let va := base + sliceOffset (x + 4 * i) L
    let r := s.translateCore core ctx va w
    match r.1 with
    | .invalid => (r.2, .page (va / 4096))
    | .prot => (r.2, .trap .prot)
    | .to tgt =>
      let rest := State.privParts r.2 core ctx w L base x size t
      match rest.2 with
      | .go p => (rest.1, .go ((4 * i, min 4 size, tgt, pageIn (r.2.coreAt core).tlb ctx va) :: p))
      | e => (rest.1, e)

/-- PARAMBASE of a launch (R18): a page that no rule names (notes/assumptions/21.md). -/
def paramBase (lid : Nat) : DWord := BitVec.ofNat 64 (Config.param lid % 2 ^ 45 * 4096)

/-- The address lies in the page of a launch's parameter copy (R330; notes/assumptions/21.md). -/
def inPage (base : DWord) (va size : Nat) : Bool := decide (base.toNat ≤ va) && decide (va + size ≤ base.toNat + 4096)

/-- The address lies in the parameter copy of the wave's launch. -/
def inParams (w : Wave) (va size : Nat) : Bool := inPage w.parambase va size

/-- The check of a global address (R330, R376 to R378): `size` bytes of a launch's parameter copy, or a translated page. -/
def State.globalAccess (s : State) (u : Iss) (want : Want) (size va : Nat) : State × LaneRes :=
  let w := u.w
  if inParams w va size then
    (s, if want = .load then .go [(0, size, .param w.launch (va - w.parambase.toNat), none)] else .trap .prot)
  else
    let r := s.translateCore (coreOfWave u.k) w.ctx va want
    match r.1 with
    | .invalid => (r.2, .page (va / 4096))
    | .prot => (r.2, .trap .prot)
    | .to t => (r.2, .go [(0, size, t, pageIn (r.2.coreAt (coreOfWave u.k)).tlb w.ctx va)])

/-- The checks of one lane's access in the order of R185; `priv` says that the private window is accepted (R188). -/
def State.laneAccess (s : State) (u : Iss) (want : Want) (priv : Bool) (size L va : Nat) : State × LaneRes :=
  let w := u.w
  let core := coreOfWave u.k
  if va % size ≠ 0 then (s, .trap .misalign)
  else if va < 2 ^ 57 then s.globalAccess u want size va
  else if 0xFF00000000000000 ≤ va then
    let x := va - 0xFF00000000000000
    match s.launchAt? w.launch with
    | none => (s, .trap .aperture)
    | some l =>
      if !priv || decide (l.pb < x + size) then (s, .trap .aperture)
      else s.privParts core w.ctx want L (l.privva + w.priv * l.pb * 64) x size (List.range ((size + 3) / 4))
  else if 0xFE00000000000000 ≤ va then
    let off := va - 0xFE00000000000000
    match s.groupAt? w.group with
    | none => (s, .trap .aperture)
    | some g => if g.size < off + size then (s, .trap .aperture) else (s, .go [(0, size, .scratch w.group off, none)])
  else (s, .trap .aperture)

/-- The checks of every executing lane, the lowest first; the lowest failing lane decides. `ok` says which targets the
instruction accepts. With `soft` a lane that fails translation or protection has no parts instead (R232). -/
def State.checkLanes (s : State) (u : Iss) (want : Want) (priv soft : Bool) (ok : Target → Bool) (size : Nat) :
    List (Nat × Nat) → State × Except (LaneRes × Nat) (List (Nat × Option Parts))
  | [] => (s, .ok [])
  | (L, va) :: t =>
    let r := s.laneAccess u want priv size L va
    let here : Except LaneRes (Option Parts) := match r.2 with
      | .go p => if p.all fun x => ok x.2.2.1 then .ok (some p) else .error (.trap .prot)
      | .trap .prot => if soft then .ok none else .error (.trap .prot)
      | .page v => if soft then .ok none else .error (.page v)
      | x => .error x
    match here with
    | .error x => (r.1, .error (x, va))
    | .ok p =>
      let rest := State.checkLanes r.1 u want priv soft ok size t
      match rest.2 with
      | .ok l => (rest.1, .ok ((L, p) :: l))
      | .error e => (rest.1, .error e)

/-- Later accesses of the wave are held: an acquire has not landed, or a FENCE has not completed (R209, R210). -/
def Wave.heldLater (w : Wave) : Bool :=
  w.lops.any fun o => (o.acquire && o.left != 0) || (match o.work with | .fence _ _ => !o.done | _ => false)

/-- An access of wave `k` that an instruction numbered below `before` made. -/
def Acc.earlierOf (k before : Nat) (a : Acc) : Bool := a.owner == .wave k && decide (a.op < before)

/-- A load (R210, R229, R232). -/
def LOp.isLoad (o : LOp) : Bool :=
  match o.work with
  | .load _ _ op => op == .ld || op == .ldnf || op == .sld
  | _ => false

/-- The conditions of a fence of a scope, over the wave's work numbered below `before` (R210). -/
def State.fenceHolds (s : State) (k : Nat) (w : Wave) (scope : Scope) (before : Nat) : Bool :=
  let accs := s.mem.accs.filter (Acc.earlierOf k before)
  let group := accs.all (fun a => match a.tgt with | .scratch .. => false | _ => true) &&
    w.lops.all fun o => !(decide (o.id < before) && o.isLoad && o.left != 0)
  let device := accs.all (fun a => a.kind.isLoad || (match a.tgt, a.stage with | .dev _, .returned _ => true | .dev _, _ => false | _, _ => true)) &&
    decide (w.mwct.toNat ≤ s.chrono)
  let fabric := accs.all fun a => match a.tgt with | .remote .. => a.kind.isLoad | .mcast .. => false | _ => true
  let system := accs.all fun a => match a.tgt with | .host .. => a.kind.isLoad | _ => true
  match scope with
  | .group => group
  | .quad => group
  | .device => group && device
  | .fabric => group && device && fabric
  | .system => group && device && fabric && system

end Sys2Proof.Machine
end

