-- ==== Sys2Proof/Machine/Special.lean ====
section
/-! DEFINITION. The special functions of R110: a value the part fixes, held inside the bound of R110 around a
reference that is exact to far below an ulp (notes/assumptions/5.md), with the special values of R148. -/

namespace Sys2Proof.Machine

/-- 2π × 2^256, truncated. -/
def twoPi256 : Nat := 0x6487ed5110b4611a62633145c06e0e68948127044533e63a0105df531d89cd912
/-- 2^640 / 2π, truncated. -/
def invTwoPi640 : Nat :=
  0x28be60db9391054a7f09d5f47d4d377036d8a5664f10e4107f9458eaf7aef1586dc91b8e909374b801924bba827464873f877ac72c4a69cfba208d7d4baed1213a671c09ad17df904e64758e60d4ce7d
/-- ln 2 × 2^256, truncated. -/
def ln2x256 : Nat := 0xb17217f7d1cf79abc9e3b39803f2f6af40f343267298b62d8a0d175b8baafa2b

/-- m × 2^e as a multiple of 2^(−256), truncated toward zero. -/
def fix256 (m : Nat) (e : Int) : Nat :=
  if 0 ≤ e + 256 then m * 2 ^ (e + 256).toNat else m / 2 ^ (-(e + 256)).toNat

/-- The sum of a Taylor series in 256-bit fixed point: term, next index, terms left; each term is the last times
`x2` over (i + 1)(i + step). -/
def taylor (x2 : Int) (step : Nat) : Nat → Int → Nat → Int
  | 0, _, _ => 0
  | k + 1, t, i =>
    let d := if step = 1 then i + 1 else (i + 1) * (i + 2)
    t + taylor x2 step k (t * x2 / 2 ^ 256 / d) (i + step)

/-- The angle (−1)^neg × m × 2^e reduced to [−π, π), in 256-bit fixed point. -/
def reduce (neg : Bool) (m : Nat) (e : Int) : Int :=
  let t := if 0 ≤ e then m * 2 ^ e.toNat * invTwoPi640 else m * invTwoPi640 / 2 ^ (-e).toNat
  let fr : Int := (t % 2 ^ 640 / 2 ^ 384 : Nat)
  let fr := if 2 ^ 255 ≤ fr then fr - 2 ^ 256 else fr
  let x := fr * twoPi256 / 2 ^ 256
  if neg then -x else x

/-- The sine of a reduced angle. -/
def sinFix (x : Int) : Int := taylor (-(x * x / 2 ^ 256)) 2 60 x 1
/-- The cosine of a reduced angle. -/
def cosFix (x : Int) : Int := taylor (-(x * x / 2 ^ 256)) 2 60 (2 ^ 256) 0

/-- 2^a for a multiple `a` of 2^(−256). -/
def exp2Fix (a : Int) : Dy :=
  let n := a / 2 ^ 256
  let f := a % 2 ^ 256
  ⟨taylor (f * ln2x256 / 2 ^ 256) 1 60 (2 ^ 256) 0, n - 256⟩

/-- The binary digits of log2 x, x in [1, 2) in 256-bit fixed point: `k` of them. -/
def log2Digits : Nat → Nat → Nat → Nat
  | 0, _, acc => acc
  | k + 1, x, acc =>
    let y := x * x / 2 ^ 256
    if 2 ^ 257 ≤ y then log2Digits k (y / 2) (2 * acc + 1) else log2Digits k y (2 * acc)

/-- The greatest magnitude below 1 in 256-bit fixed point: a sine or cosine of an argument other than 0, and a hyperbolic
tangent, never reaches 1. -/
def belowOne (x : Int) : Int := max (-(2 ^ 256 - 1)) (min x (2 ^ 256 - 1))

/-- tanh a for |a| below 2^(−40): a (1 − a² / 3), always nearer to 0 than a. -/
def tanhTiny (neg : Bool) (m : Nat) (e : Int) : Dy :=
  let sq := if 0 ≤ 2 * e + 400 then m * m * 2 ^ (2 * e + 400).toNat else m * m / 2 ^ (-(2 * e + 400)).toNat
  dyOf neg (m * (2 ^ 400 - max 1 (sq / 3))) (e - 400)

/-- A function of R110. Where the exact value is no value of the format, the reference stands on the same side of every power
of two. -/
def sfnRef (op : SOp) (neg : Bool) (m : Nat) (e : Int) : Dy :=
  match op with
  | .frcp =>
    let (q, s) := divBits 1 m 200
    dyOf neg q (s - e)
  | .frsq =>
    let e0 := if e % 2 = 0 then e else e - 1
    let m0 := if e % 2 = 0 then m else 2 * m
    let k := 200 + Nat.log2 m0
    ⟨isqrt (2 ^ (2 * k) / m0), -(k : Int) - e0 / 2⟩
  | .fexp2 =>
    let a : Int := if m = 0 then 0 else if topExp m e < 13 then max 1 (fix256 m e) else 2 ^ 269
    exp2Fix (if neg then -a else a)
  | .flog2 =>
    let l := Nat.log2 m
    let x := if l ≤ 256 then m * 2 ^ (256 - l) else m / 2 ^ (l - 256)
    ⟨((l : Int) + e) * 2 ^ 160 + log2Digits 160 x 0, -160⟩
  | .fsin => ⟨belowOne (sinFix (reduce neg m e)), -256⟩
  | .fcos => ⟨belowOne (cosFix (reduce neg m e)), -256⟩
  | .ftanh =>
    if topExp m e < -40 then tanhTiny neg m e
    else if 6 ≤ topExp m e then dyOf neg (2 ^ 180 - 1) (-180)
    else
      let y := exp2Fix ((2 * fix256 m e * 2 ^ 256 / ln2x256 : Nat) : Int)
      let t : Int := y.z * 2 ^ (y.e + 256).toNat
      let r := (t - 2 ^ 256) * 2 ^ 256 / (t + 2 ^ 256)
      ⟨if neg then -r else r, -256⟩
  | _ => ⟨0, 0⟩

/-- The exponent of an ulp at an exact value: the distance of the two values of the format that bracket it, of the wider pair
where it is itself one (R110). -/
def ulpExp (f : Fmt) (r : Dy) : Int := if r.z = 0 then f.emin - f.fb else max (r.top - f.fb) (f.emin - f.fb)

/-- The bound of R110 around the reference of `op` at m × 2^e: none where no error bound is stated. -/
def sfnBound (op : SOp) (f : Fmt) (m : Nat) (e : Int) (r : Dy) : Option Dy :=
  let half := f.width = 16
  let u : Nat → Dy := fun k => ⟨k, ulpExp f r⟩
  let big : Dy → Dy → Dy := fun a b => if (Dy.add a ⟨-b.z, b.e⟩).z < 0 then b else a
  let abs : Dy := ⟨1, if half then -10 else if f.width = 32 then -22 else -50⟩
  let le : Int → Bool := fun k => decide ((Dy.add ⟨m, e⟩ ⟨-1, k⟩).z ≤ 0)
  match op with
  | .frcp => some (u 1)
  | .frsq => some (u 1)
  | .fexp2 => some (u (if half then 1 else 2))
  | .flog2 =>
    if half then some (big (u 1) abs)
    else if le 1 && !(decide ((Dy.add ⟨m, e⟩ ⟨-1, -1⟩).z < 0)) then some abs
    else some (u 2)
  | .ftanh => some (u (if half then 1 else 2))
  | _ =>
    if half then some (big (u 1) abs)
    else if le (if f.width = 32 then 15 else 30) then some (big (u 2) abs)
    else none

/-- May the part deliver the finite code `c` for the reference `r` (R110)? Every code inside the bound may, and one within
2^(−40) ulp outside it, where the reference does not decide (DESIGN CHOICE, notes/assumptions/5.md). A sine or cosine for which
no bound is stated stays in [−1, 1]. -/
def sfnOk (op : SOp) (f : Fmt) (m : Nat) (e : Int) (r : Dy) (c : Nat) : Bool :=
  match decF f c with
  | .fin n cm ce =>
    let d := dyOf n cm ce
    match sfnBound op f m e r with
    | none => decide ((Dy.add ⟨cm, ce⟩ ⟨-1, 0⟩).z ≤ 0)
    | some b =>
      let diff := Dy.add d ⟨-r.z, r.e⟩
      let slack : Dy := ⟨-1, ulpExp f r - 40⟩
      decide ((Dy.add ⟨diff.z.natAbs, diff.e⟩ (Dy.add ⟨-b.z, b.e⟩ slack)).z ≤ 0)
  | _ => false

/-- The rounded reference, held at the largest finite value (R110). -/
def sfnNear (f : Fmt) (r : Dy) : Nat :=
  let (c, _) := roundDy f .rne false r
  if c % f.signBit = f.infCode then f.maxFin (decide (r.z < 0)) else c

/-- A finite operand's result, the part's own where R110 lets it be (R111). -/
def sfnFinite (op : SOp) (f : Fmt) (fl : Bool) (x : Nat) (neg : Bool) (m : Nat) (e : Int) : Nat :=
  let r := sfnRef op neg m e
  let c := Config.special op.opc f.fb fl x % 2 ^ f.width
  if sfnOk op f m e r c then c else sfnNear f r

/-- A class L function of one source (R148), its operand after negation and flushing. -/
def sfnF (op : SOp) (f : Fmt) (fl : Bool) (md : RMode) (x : Nat) : Nat × FFlags :=
  let out : Nat → Nat × FFlags := fun c => (if fl then flushIn f c else c, 0)
  match decF f x with
  | .nan s => (f.nan, if s then fNV else 0)
  | v =>
    match op with
    | .fsqrt => flushOut fl f (fsqrtF f md x)
    | .frcp => match v with
      | .inf n => (f.zero n, 0)
      | .fin n m e =>
        if m = 0 then (f.inf n, fDZ)
        else
          let (mm, me) := match decF f (f.maxFin false) with | .fin _ a b => (a, b) | _ => (1, 0)
          if decide ((Dy.add ⟨m * mm, e + me⟩ ⟨-1, 0⟩).z < 0) then (f.inf n, fOF)
          else out (sfnFinite .frcp f fl x n m e)
      | _ => (f.nan, 0)
    | .frsq => match v with
      | .inf n => if n then (f.nan, fNV) else (0, 0)
      | .fin n m e =>
        if m = 0 then (f.inf n, fDZ) else if n then (f.nan, fNV) else out (sfnFinite .frsq f fl x n m e)
      | _ => (f.nan, 0)
    | .fexp2 => match v with
      | .inf n => (if n then 0 else f.inf false, 0)
      | .fin n m e =>
        if !n && decide (0 ≤ (Dy.add ⟨m, e⟩ ⟨-((f.bias : Int) + 1), 0⟩).z) then (f.inf false, fOF)
        else out (sfnFinite .fexp2 f fl x n m e)
      | _ => (f.nan, 0)
    | .flog2 => match v with
      | .inf n => if n then (f.nan, fNV) else (f.inf false, 0)
      | .fin n m e =>
        if m = 0 then (f.inf true, fDZ)
        else if n then (f.nan, fNV)
        else if x = f.bias * 2 ^ f.fb then (0, 0)
        else out (sfnFinite .flog2 f fl x n m e)
      | _ => (f.nan, 0)
    | .ftanh => match v with
      | .inf n => ((if n then f.signBit else 0) + f.bias * 2 ^ f.fb, 0)
      | .fin n m e => if m = 0 then (f.zero n, 0) else out (sfnFinite .ftanh f fl x n m e)
      | _ => (f.nan, 0)
    | .fsin => match v with
      | .inf _ => (f.nan, fNV)
      | .fin n m e => if m = 0 then (f.zero n, 0) else out (sfnFinite .fsin f fl x n m e)
      | _ => (f.nan, 0)
    | .fcos => match v with
      | .inf _ => (f.nan, fNV)
      | .fin n m e => if m = 0 then (f.bias * 2 ^ f.fb, 0) else out (sfnFinite .fcos f fl x n m e)
      | _ => (f.nan, 0)
    | .fdiv => (f.nan, 0)

end Sys2Proof.Machine
end

