-- ==== Sys2Proof/Machine/Alu.lean ====
section
/-! DEFINITION. The common effect of the class A and W instructions (R26 to R34, R119, R121, R140 to R142): what they read,
where their result goes, and what stops them; and of the two operations of a pair (R67). -/

namespace Sys2Proof.Machine

/-- A class A or W operation: its literal, sources in field order, destination, slot, result width, class, whether it is an
F64 operation, and the result of one lane with its flags. -/
structure Alu where
  lit : Option DWord
  srcs : List Opnd
  d : Dst
  slot : Option (Fin 8)
  wide : Bool
  vcls : TClass               -- its class on a vector pipe
  scls : TClass               -- its class on the scalar pipe
  f64 : Bool
  paired : Bool               -- it is an operation of a PAIR
  f : List DWord → DWord × FFlags

/-- Registers a source names. -/
def Opnd.named (o : Opnd) : Src × Nat := (o.sel, if o.rd.wide then match o.sel with | .v _ => 2 | _ => 1 else 1)

/-- Registers a destination names. -/
def dstNamed (d : Dst) (wide : Bool) : List (Src × Nat) :=
  match d with
  | .v n => [(.v n, if wide then 2 else 1)]
  | .s n => [(.s n, 1)]
  | .null => []

/-- The operation runs on the scalar pipe (R27). -/
def Alu.scalar (a : Alu) : Bool := !a.paired && onScalar a.d a.slot (a.srcs.map (·.sel))

/-- The pipe it needs (R26, R37). -/
def Alu.pipe (a : Alu) : Pipe :=
  if a.scalar then (if a.f64 then .scalar64 else .scalar) else if a.f64 then .f64 else .vec

/-- Its timing class. -/
def Alu.cls (a : Alu) : TClass := if a.scalar then a.scls else a.vcls

/-- Its plan, under a predicate. -/
def Alu.plan (a : Alu) (p : Fin 16) (pn : Bool) : Plan :=
  ⟨p, pn, a.srcs.map Opnd.named, dstNamed a.d a.wide, [], a.pipe⟩

/-- The results of the executing lanes, with their flags. -/
def Alu.results (a : Alu) (s : State) (w : Wave) (exec : Mask) : List (DWord × FFlags) :=
  perLane fun L => if inMask exec L then a.f (a.srcs.map fun o => s.readOpnd w a.lit o L) else (0, 0)

/-- TRAPADDR of the DEADREAD trap of the operation's sources (R34), if one is raised. -/
def Alu.deadread (a : Alu) (w : Wave) (exec : Mask) : Option DWord := if w.strict then deadRead w exec a.srcs else none

/-- The enabled flags that the operation raises, and the lowest lane that raises one (R141, R142). -/
def Alu.raises (a : Alu) (s : State) (w : Wave) (exec : Mask) : FFlags × Nat :=
  enabledFlags w.enables exec ((a.results s w exec).map (·.2))

/-- The DEADREAD trap of the operation's sources, or the FPEXC trap of its flags, if one is raised (R34, R141, R142). -/
def Alu.stops (a : Alu) (s : State) (w : Wave) (exec : Mask) : Option (Cause × DWord) :=
  match a.deadread w exec with
  | some x => some (.deadread, x)
  | none =>
    let en := a.raises s w exec
    if en.1 ≠ 0 then some (.fpexc, fpexcAddr (if a.scalar then 0 else en.2) en.1) else none

/-- Fills, kills and the flags of reading (R29, R32, R34): `before` is the wave as it was read. -/
def readEffects (s : State) (before : Wave) (exec : Mask) (lit : Option DWord) (srcs : List Opnd) (w : Wave) : Wave :=
  let w := srcs.foldl (s.fillSrc before lit) w
  let w := srcs.foldl Wave.killSrc w
  w.stat (srcs.foldl (fun m o => m ||| srcStat before exec o) 0)

/-- The operation's writes on the wave `w`, whose operands were read from `before` (R119, R140, R141). -/
def Alu.write (a : Alu) (s : State) (before : Wave) (exec : Mask) (t : Nat) (pipeB : Bool) (w : Wave) : Wave :=
  let r := a.results s before exec
  (w.stat (flagBits (allFlags exec (r.map (·.2))))).putResult exec t a.cls pipeB a.scalar a.d a.slot a.wide (r.map (·.1))

/-- The effect of one operation as it issues (R121, R141). -/
def Alu.body (a : Alu) (u : Iss) (s : State) : Res :=
  match a.stops s u.w u.exec with
  | some x => .trap x.1 x.2
  | none =>
    .ok (s.setWave u.k (a.write s u.w u.exec u.slot.t u.slot.pipeB (readEffects s u.w u.exec a.lit a.srcs u.w))) .seq

/-- Issue one operation. -/
def runAlu (i : Instr) (p : Fin 16) (pn : Bool) (a : Alu) (s : State) : Host.Outcome State Fault Refusal :=
  issue i (a.plan p pn) a.body s

/-- A comparison or a predicate operation (R130): its literal, register sources, predicate sources, destination, classes,
and the truth value of one lane, given its register operands and its predicate operands. -/
structure Pred where
  lit : Option DWord
  srcs : List Opnd
  preds : List Nat
  pd : Nat
  cls : TClass
  f64 : Bool
  f : Nat → List DWord → List Bool → Bool × FFlags

/-- Its plan, under a predicate. -/
def Pred.plan (a : Pred) (p : Fin 16) (pn : Bool) : Plan :=
  ⟨p, pn, a.srcs.map Opnd.named, [], a.preds, if a.f64 then .f64 else .vec⟩

/-- The results of the executing lanes, with their flags. -/
def Pred.results (a : Pred) (s : State) (w : Wave) (exec : Mask) : List (Bool × FFlags) :=
  perLane fun L =>
    if inMask exec L then a.f L (a.srcs.map fun o => s.readOpnd w a.lit o L) (a.preds.map fun n => s.readP w n L)
    else (false, 0)

/-- The effect of a predicate operation as it issues (R130 to R134, R141, R145). -/
def Pred.body (a : Pred) (u : Iss) (s : State) : Res :=
  match (if u.w.strict then deadRead u.w u.exec a.srcs else none) with
  | some x => .trap .deadread x
  | none =>
    let r := a.results s u.w u.exec
    let en := enabledFlags u.w.enables u.exec (r.map (·.2))
    if en.1 ≠ 0 then .trap .fpexc (fpexcAddr en.2 en.1)
    else
      let w := (readEffects s u.w u.exec a.lit a.srcs u.w).stat (flagBits (allFlags u.exec (r.map (·.2))))
      .ok (s.setWave u.k (w.putPred u.exec u.slot.t a.cls u.slot.pipeB a.pd
        (maskOf fun L => (r.getD L (false, 0)).1))) .seq

/-- Issue a predicate operation. -/
def runPred (i : Instr) (p : Fin 16) (pn : Bool) (a : Pred) (s : State) : Host.Outcome State Fault Refusal :=
  issue i (a.plan p pn) a.body s

/-! ### Pairs (R65 to R68) -/

/-- The lanes in which an operation of a pair executes (R11, R67). -/
def halfExec (s : State) (u : Iss) (p : Fin 16) (pn : Bool) : Mask := s.execMask u.w u.e p pn

/-- What stops a pair: a DEADREAD of either operation, A's first; else an FPEXC with the enabled flags of both and the lowest
lane that raised one (R34, R142, R155). -/
def pairStops (a b : Alu) (s : State) (w : Wave) (xa xb : Mask) : Option (Cause × DWord) :=
  match (a.deadread w xa).orElse fun _ => b.deadread w xb with
  | some x => some (.deadread, x)
  | none =>
    let ea := a.raises s w xa
    let eb := b.raises s w xb
    if ea.1 = 0 ∧ eb.1 = 0 then none
    else
      let lane := if ea.1 = 0 then eb.2 else if eb.1 = 0 then ea.2 else min ea.2 eb.2
      some (.fpexc, fpexcAddr lane (ea.1 ||| eb.1))

/-- The effect of a pair: both operations read before either writes, A on pipe A and B on pipe B (R67). -/
def pairBody (a b : Alu) (pb : Fin 16) (pbn : Bool) (u : Iss) (s : State) : Res :=
  let eb := halfExec s u pb pbn
  match pairStops a b s u.w u.exec eb with
  | some x => .trap x.1 x.2
  | none =>
    let w := readEffects s u.w u.exec none a.srcs u.w
    let w := readEffects s u.w eb none b.srcs w
    let w := a.write s u.w u.exec u.slot.t false w
    .ok (s.setWave u.k (b.write s u.w eb u.slot.t true w)) .seq

/-- Issue a pair. -/
def runPair (i : Instr) (a b : Alu) (pa pb : Fin 16) (pan pbn : Bool) (s : State) : Host.Outcome State Fault Refusal :=
  issue i ⟨pa, pan, (a.srcs ++ b.srcs).map Opnd.named, dstNamed a.d a.wide ++ dstNamed b.d b.wide, [pb.val], .both⟩
    (pairBody a b pb pbn) s

/-! ### Operands of the forms -/

/-- Operands of BV: the third source is the destination (R53). -/
def bvSrcs (sh : Shape) (f : Bv) : List Opnd :=
  (sh.a.toList.map (opnd f.a)) ++ (sh.b.toList.map (opnd f.b)) ++
    (match sh.c, dstSrc f.d with | some r, some x => [opnd x r] | _, _ => [])

/-- Operands of BV with one source field. -/
def bv1Srcs (sh : Shape) (f : Bv1) : List Opnd := sh.a.toList.map (opnd f.a)

/-- Operands of XV. -/
def xvSrcs (sh : Shape) (f : Xv) : List Opnd :=
  (sh.a.toList.map (opndX f.a)) ++ (sh.b.toList.map (opndX f.b)) ++ (sh.c.toList.map (opndX f.c))

/-- Operands of one operation of a PAIR. -/
def halfSrcs (sh : Shape) (h : PairHalf) : List Opnd :=
  (sh.a.toList.map fun r => { opnd h.a r with kill := h.ak }) ++ (sh.b.toList.map fun r => { opnd h.b r with kill := h.bk }) ++
    (match sh.c, dstSrc h.d with | some r, some x => [opnd x r] | _, _ => [])

end Sys2Proof.Machine
end

