-- ==== Sys2Proof/Machine/IntOps.lean ====
section
/-! DEFINITION. Integer and logic instructions (chapter 05). -/

namespace Sys2Proof

open Machine

/-! ### Values (R91, R92, R118 to R129) -/

/-- An operand as its type reads it (R118). -/
def ITy.val (t : ITy) (x : DWord) : Int :=
  if t.signed then signedOf t.bits x.toNat else ((x.toNat % 2 ^ t.bits : Nat) : Int)

/-- A `w`-bit result in 64 bits: sign-extended under TYPE 0, zero-extended otherwise (R119). -/
def ITy.extend (t : ITy) (r : Nat) : DWord :=
  if t = .s32 then BitVec.ofInt 64 (signedOf 32 r) else BitVec.ofNat 64 (r % 2 ^ t.bits)

/-- The exact result wrapped or clamped (R91, R92, R121). -/
def ITy.fit (t : ITy) (sat : Bool) (z : Int) : DWord :=
  let rg := intRange t.signed t.bits
  t.extend (BitVec.ofInt t.bits (if sat then max rg.1 (min rg.2 z) else z)).toNat

/-- One half of IADD2 (R92). -/
def addHalf (signed sat : Bool) (a b : Nat) : Nat :=
  let v := fun x => if signed then signedOf 16 x else ((x % 65536 : Nat) : Int)
  let rg := intRange signed 16
  let z := v a + v b
  (BitVec.ofInt 16 (if sat then max rg.1 (min rg.2 z) else z)).toNat

/-- Number of one bits below bit `n`. -/
def popBits : Nat → Nat → Nat
  | 0, _ => 0
  | n + 1, x => x % 2 + popBits n (x / 2)

/-- Zero bits above the highest one bit (R120). -/
def clzBits (w x : Nat) : Nat := if x = 0 then w else w - 1 - Nat.log2 x

/-- Zero bits below the lowest one bit (R120). -/
def ctzBits : Nat → Nat → Nat
  | 0, _ => 0
  | n + 1, x => if x % 2 = 1 then 0 else 1 + ctzBits n (x / 2)

/-- The bits in the reverse order (R120). -/
def brevBits : Nat → Nat → Nat
  | 0, _ => 0
  | n + 1, x => (x % 2) * 2 ^ n + brevBits n (x / 2)

/-- A byte of a number. -/
def byteAt (x i : Nat) : Nat := x / 256 ^ i % 256

/-- IDOT4's exact sum (R124). -/
def dot4 (signed : Bool) (a b : Nat) (c : Int) : Int :=
  let v := fun x => if signed then signedOf 8 x else ((x : Nat) : Int)
  ((List.range 4).map fun i => v (byteAt a i) * v (byteAt b i)).sum + c

/-- A truth table's bit for three bits (R125, R133). -/
def ttBit (tt : Nat) (a b c : Bool) : Bool := tt.testBit (7 - (4 * a.toNat + 2 * b.toNat + c.toNat))

/-- LOP3 over `w` bits (R125). -/
def lop3Bits (tt w a b c : Nat) : Nat :=
  (List.range w).foldr (fun i acc => (ttBit tt (a.testBit i) (b.testBit i) (c.testBit i)).toNat * 2 ^ i + acc) 0

/-- BFE (R127). -/
def bfeVal (t : ITy) (a b : Nat) : Nat :=
  let pos := b % 256
  let len := b / 256 % 256
  let w := t.bits
  if len = 0 ∨ w ≤ pos then 0
  else
    let n := min (pos + len) w - pos
    let x := a / 2 ^ pos % 2 ^ n
    if t.signed then (BitVec.ofInt w (signedOf n x)).toNat else x

/-- BFI (R127). -/
def bfiVal (w a b c : Nat) : Nat :=
  let pos := b % 256
  let len := b / 256 % 256
  if len = 0 ∨ w ≤ pos then c
  else
    let n := min (pos + len) w - pos
    c % 2 ^ pos + a % 2 ^ n * 2 ^ pos + c / 2 ^ (pos + n) * 2 ^ (pos + n)

/-- PRMT (R128). -/
def prmtVal (a b c : Nat) : Nat :=
  let pool := a % 2 ^ 32 + b % 2 ^ 32 * 2 ^ 32
  let one := fun (j : Nat) =>
    let x := byteAt pool (c / 2 ^ (3 * j) % 8)
    if c.testBit (12 + j) then 0 else if c.testBit (16 + j) then (if 128 ≤ x then 255 else 0) else x
  one 0 + one 1 * 2 ^ 8 + one 2 * 2 ^ 16 + one 3 * 2 ^ 24

/-- An integer operation on the operands `x` of one lane (R120 to R129): the 64-bit result. -/
def IOp.calc (op : IOp) (t : ITy) (sat : Bool) (x : List DWord) : DWord :=
  let a := x.getD 0 0
  let b := x.getD 1 0
  let c := x.getD 2 0
  let w := t.bits
  let va := t.val a
  let vb := t.val b
  let vc := t.val c
  let na := a.toNat % 2 ^ w
  let nb := b.toNat % 2 ^ w
  let nc := c.toNat % 2 ^ w
  let n := b.toNat % 2 ^ 32
  let raw := fun (r : Nat) => t.extend (r % 2 ^ w)
  match op with
  | .iadd => t.fit sat (va + vb)
  | .isub => t.fit sat (va - vb)
  | .iaddc => BitVec.ofNat 64 (a.toNat % 2 ^ 32 + n + c.toNat % 2)
  | .imul => t.fit sat (va * vb)
  | .imulh => t.fit sat (va * vb / 2 ^ w)
  | .imad => t.fit sat (va * vb + vc)
  | .imin => t.fit sat (min va vb)
  | .imax => t.fit sat (max va vb)
  | .iabs => t.fit sat (if va < 0 then -va else va)
  | .idot4 => t.fit sat (dot4 t.signed na nb vc)
  | .and => raw (na &&& nb)
  | .or => raw (na ||| nb)
  | .xor => raw (na ^^^ nb)
  | .andn => raw (na &&& (2 ^ w - 1 - nb))
  | .shl => raw (if n < w then na * 2 ^ n else 0)
  | .shr => raw (if n < w then na / 2 ^ n else 0)
  | .sar => let s := signedOf w na
    raw (BitVec.ofInt w (if n < w then s / 2 ^ n else if s < 0 then -1 else 0)).toNat
  | .rotl => let k := n % w
    raw (na * 2 ^ k + na / 2 ^ (w - k))
  | .fshr => raw ((nc * 2 ^ w + na) / 2 ^ (min n w))
  | .bfe => raw (bfeVal t na n)
  | .bfi => raw (bfiVal w na n nc)
  | .popc => raw (popBits w na)
  | .clz => raw (clzBits w na)
  | .ctz => raw (ctzBits w na)
  | .brev => raw (brevBits w na)
  | .prmt => raw (prmtVal na nb nc)
  | .sel => raw (if nc ≠ 0 then na else nb)
  | .mov => raw na
  | .lea =>
    let e := if t.signed then signedOf 32 n else ((n : Nat) : Int)
    raw (BitVec.ofInt w (va + e * 2 ^ (c.toNat % 8))).toNat
  | .iadd3 => t.fit sat (va + vb + vc)
  | .isad => t.fit sat ((if va - vb < 0 then vb - va else va - vb) + vc)
  | .iadd2 => raw (addHalf t.signed sat (na % 65536) (nb % 65536) + addHalf t.signed sat (na / 65536) (nb / 65536) * 65536)

/-! ### Forms -/

/-- IMULH and IDOT4 are class W on every pipe (R36). -/
def IOp.alwaysW : IOp → Bool
  | .imulh => true
  | .idot4 => true
  | _ => false

/-- A multiply (R36, R121). -/
def IOp.isMul : IOp → Bool
  | .imul => true
  | .imad => true
  | _ => false

/-- The class on a vector pipe: W for a 64-bit type (R80, R121). -/
def IOp.vcls (op : IOp) (t : ITy) : TClass := if op.alwaysW || t.wide then .w else .a
/-- The class on the scalar pipe (R36, R121). -/
def IOp.scls (op : IOp) (t : ITy) : TClass := if op.alwaysW || (op.isMul && t.wide) then .w else .a

/-- The operation with given sources. -/
def IOp.alu (op : IOp) (t : ITy) (sat paired : Bool) (lit : Option DWord) (srcs : List Opnd) (d : Dst)
    (slot : Option (Fin 8)) : Alu :=
  ⟨lit, srcs, d, slot, (op.shape t).wide, op.vcls t, op.scls t, false, paired, fun x => (op.calc t sat x, 0)⟩

end Sys2Proof

namespace Sys2Proof.Machine

/-- The base variant in BV: TYPE 0, no SAT (R81). -/
def intBv (op : IOp) (f : Bv) : Alu := op.alu .s32 false false f.lit (bvSrcs (op.shape .s32) f) f.d none

/-- The base variant in BV with one source. -/
def intBv1 (op : IOp) (f : Bv1) : Alu := op.alu .s32 false false none (bv1Srcs (op.shape .s32) f) f.d none

/-- The XV variants (R81). -/
def intXv (op : IOp) (f : Xv) : Alu :=
  let t := (ityOf f.func6).getD .s32
  op.alu t (satOf f.func6) false f.lit (xvSrcs (op.shape t) f) f.d f.slot

/-- Issue a base variant. -/
def runIntBv (op : IOp) (i : Instr) (f : Bv) : State → Host.Outcome State Fault Refusal := runAlu i 0 false (intBv op f)

/-- Issue a base variant with one source. -/
def runIntBv1 (op : IOp) (i : Instr) (f : Bv1) : State → Host.Outcome State Fault Refusal := runAlu i 0 false (intBv1 op f)

/-- Issue an XV variant. -/
def runIntXv (op : IOp) (i : Instr) (f : Xv) : State → Host.Outcome State Fault Refusal := runAlu i f.p f.pn (intXv op f)

/-! ### Instructions -/

/-- IADD in BV (R120). -/
def execIaddBv (f : Bv) (s : State) : Host.Outcome State Fault Refusal := runIntBv .iadd (.iaddBv f) f s

/-- IADD in XV (R120). -/
def execIaddXv (f : Xv) (s : State) : Host.Outcome State Fault Refusal := runIntXv .iadd (.iaddXv f) f s

/-- ISUB in BV (R120). -/
def execIsubBv (f : Bv) (s : State) : Host.Outcome State Fault Refusal := runIntBv .isub (.isubBv f) f s

/-- ISUB in XV (R120). -/
def execIsubXv (f : Xv) (s : State) : Host.Outcome State Fault Refusal := runIntXv .isub (.isubXv f) f s

/-- IADDC in BV (R123). -/
def execIaddcBv (f : Bv) (s : State) : Host.Outcome State Fault Refusal := runIntBv .iaddc (.iaddcBv f) f s

/-- IADDC in XV (R123). -/
def execIaddcXv (f : Xv) (s : State) : Host.Outcome State Fault Refusal := runIntXv .iaddc (.iaddcXv f) f s

/-- IMUL in BV (R120). -/
def execImulBv (f : Bv) (s : State) : Host.Outcome State Fault Refusal := runIntBv .imul (.imulBv f) f s

/-- IMUL in XV (R120). -/
def execImulXv (f : Xv) (s : State) : Host.Outcome State Fault Refusal := runIntXv .imul (.imulXv f) f s

/-- IMULH in BV (R120). -/
def execImulhBv (f : Bv) (s : State) : Host.Outcome State Fault Refusal := runIntBv .imulh (.imulhBv f) f s

/-- IMULH in XV (R120). -/
def execImulhXv (f : Xv) (s : State) : Host.Outcome State Fault Refusal := runIntXv .imulh (.imulhXv f) f s

/-- IMAD in BV (R120). -/
def execImadBv (f : Bv) (s : State) : Host.Outcome State Fault Refusal := runIntBv .imad (.imadBv f) f s

/-- IMAD in XV (R120). -/
def execImadXv (f : Xv) (s : State) : Host.Outcome State Fault Refusal := runIntXv .imad (.imadXv f) f s

/-- IMIN in BV (R120). -/
def execIminBv (f : Bv) (s : State) : Host.Outcome State Fault Refusal := runIntBv .imin (.iminBv f) f s

/-- IMIN in XV (R120). -/
def execIminXv (f : Xv) (s : State) : Host.Outcome State Fault Refusal := runIntXv .imin (.iminXv f) f s

/-- IMAX in BV (R120). -/
def execImaxBv (f : Bv) (s : State) : Host.Outcome State Fault Refusal := runIntBv .imax (.imaxBv f) f s

/-- IMAX in XV (R120). -/
def execImaxXv (f : Xv) (s : State) : Host.Outcome State Fault Refusal := runIntXv .imax (.imaxXv f) f s

/-- IABS in BV (R120). -/
def execIabsBv (f : Bv1) (s : State) : Host.Outcome State Fault Refusal := runIntBv1 .iabs (.iabsBv f) f s

/-- IABS in XV (R120). -/
def execIabsXv (f : Xv) (s : State) : Host.Outcome State Fault Refusal := runIntXv .iabs (.iabsXv f) f s

/-- IDOT4 in BV (R124). -/
def execIdot4Bv (f : Bv) (s : State) : Host.Outcome State Fault Refusal := runIntBv .idot4 (.idot4Bv f) f s

/-- IDOT4 in XV (R124). -/
def execIdot4Xv (f : Xv) (s : State) : Host.Outcome State Fault Refusal := runIntXv .idot4 (.idot4Xv f) f s

/-- AND in BV (R120). -/
def execAndBv (f : Bv) (s : State) : Host.Outcome State Fault Refusal := runIntBv .and (.andBv f) f s

/-- AND in XV (R120). -/
def execAndXv (f : Xv) (s : State) : Host.Outcome State Fault Refusal := runIntXv .and (.andXv f) f s

/-- OR in BV (R120). -/
def execOrBv (f : Bv) (s : State) : Host.Outcome State Fault Refusal := runIntBv .or (.orBv f) f s

/-- OR in XV (R120). -/
def execOrXv (f : Xv) (s : State) : Host.Outcome State Fault Refusal := runIntXv .or (.orXv f) f s

/-- XOR in BV (R120). -/
def execXorBv (f : Bv) (s : State) : Host.Outcome State Fault Refusal := runIntBv .xor (.xorBv f) f s

/-- XOR in XV (R120). -/
def execXorXv (f : Xv) (s : State) : Host.Outcome State Fault Refusal := runIntXv .xor (.xorXv f) f s

/-- ANDN in BV (R120). -/
def execAndnBv (f : Bv) (s : State) : Host.Outcome State Fault Refusal := runIntBv .andn (.andnBv f) f s

/-- ANDN in XV (R120). -/
def execAndnXv (f : Xv) (s : State) : Host.Outcome State Fault Refusal := runIntXv .andn (.andnXv f) f s

/-- SHL in BV (R126). -/
def execShlBv (f : Bv) (s : State) : Host.Outcome State Fault Refusal := runIntBv .shl (.shlBv f) f s

/-- SHL in XV (R126). -/
def execShlXv (f : Xv) (s : State) : Host.Outcome State Fault Refusal := runIntXv .shl (.shlXv f) f s

/-- SHR in BV (R126). -/
def execShrBv (f : Bv) (s : State) : Host.Outcome State Fault Refusal := runIntBv .shr (.shrBv f) f s

/-- SHR in XV (R126). -/
def execShrXv (f : Xv) (s : State) : Host.Outcome State Fault Refusal := runIntXv .shr (.shrXv f) f s

/-- SAR in BV (R126). -/
def execSarBv (f : Bv) (s : State) : Host.Outcome State Fault Refusal := runIntBv .sar (.sarBv f) f s

/-- SAR in XV (R126). -/
def execSarXv (f : Xv) (s : State) : Host.Outcome State Fault Refusal := runIntXv .sar (.sarXv f) f s

/-- ROTL in BV (R126). -/
def execRotlBv (f : Bv) (s : State) : Host.Outcome State Fault Refusal := runIntBv .rotl (.rotlBv f) f s

/-- ROTL in XV (R126). -/
def execRotlXv (f : Xv) (s : State) : Host.Outcome State Fault Refusal := runIntXv .rotl (.rotlXv f) f s

/-- FSHR in BV (R126). -/
def execFshrBv (f : Bv) (s : State) : Host.Outcome State Fault Refusal := runIntBv .fshr (.fshrBv f) f s

/-- FSHR in XV (R126). -/
def execFshrXv (f : Xv) (s : State) : Host.Outcome State Fault Refusal := runIntXv .fshr (.fshrXv f) f s

/-- BFE in BV (R127). -/
def execBfeBv (f : Bv) (s : State) : Host.Outcome State Fault Refusal := runIntBv .bfe (.bfeBv f) f s

/-- BFE in XV (R127). -/
def execBfeXv (f : Xv) (s : State) : Host.Outcome State Fault Refusal := runIntXv .bfe (.bfeXv f) f s

/-- BFI in BV (R127). -/
def execBfiBv (f : Bv) (s : State) : Host.Outcome State Fault Refusal := runIntBv .bfi (.bfiBv f) f s

/-- BFI in XV (R127). -/
def execBfiXv (f : Xv) (s : State) : Host.Outcome State Fault Refusal := runIntXv .bfi (.bfiXv f) f s

/-- POPC in BV (R120). -/
def execPopcBv (f : Bv1) (s : State) : Host.Outcome State Fault Refusal := runIntBv1 .popc (.popcBv f) f s

/-- POPC in XV (R120). -/
def execPopcXv (f : Xv) (s : State) : Host.Outcome State Fault Refusal := runIntXv .popc (.popcXv f) f s

/-- CLZ in BV (R120). -/
def execClzBv (f : Bv1) (s : State) : Host.Outcome State Fault Refusal := runIntBv1 .clz (.clzBv f) f s

/-- CLZ in XV (R120). -/
def execClzXv (f : Xv) (s : State) : Host.Outcome State Fault Refusal := runIntXv .clz (.clzXv f) f s

/-- CTZ in BV (R120). -/
def execCtzBv (f : Bv1) (s : State) : Host.Outcome State Fault Refusal := runIntBv1 .ctz (.ctzBv f) f s

/-- CTZ in XV (R120). -/
def execCtzXv (f : Xv) (s : State) : Host.Outcome State Fault Refusal := runIntXv .ctz (.ctzXv f) f s

/-- BREV in BV (R120). -/
def execBrevBv (f : Bv1) (s : State) : Host.Outcome State Fault Refusal := runIntBv1 .brev (.brevBv f) f s

/-- BREV in XV (R120). -/
def execBrevXv (f : Xv) (s : State) : Host.Outcome State Fault Refusal := runIntXv .brev (.brevXv f) f s

/-- PRMT in BV (R128). -/
def execPrmtBv (f : Bv) (s : State) : Host.Outcome State Fault Refusal := runIntBv .prmt (.prmtBv f) f s

/-- PRMT in XV (R128). -/
def execPrmtXv (f : Xv) (s : State) : Host.Outcome State Fault Refusal := runIntXv .prmt (.prmtXv f) f s

/-- SEL in BV (R120). -/
def execSelBv (f : Bv) (s : State) : Host.Outcome State Fault Refusal := runIntBv .sel (.selBv f) f s

/-- SEL in XV (R120). -/
def execSelXv (f : Xv) (s : State) : Host.Outcome State Fault Refusal := runIntXv .sel (.selXv f) f s

/-- MOV in BV (R120). -/
def execMovBv (f : Bv1) (s : State) : Host.Outcome State Fault Refusal := runIntBv1 .mov (.movBv f) f s

/-- MOV in XV (R120). -/
def execMovXv (f : Xv) (s : State) : Host.Outcome State Fault Refusal := runIntXv .mov (.movXv f) f s

/-- LEA in BV (R129). -/
def execLeaBv (f : Bv) (s : State) : Host.Outcome State Fault Refusal := runIntBv .lea (.leaBv f) f s

/-- LEA in XV (R129). -/
def execLeaXv (f : Xv) (s : State) : Host.Outcome State Fault Refusal := runIntXv .lea (.leaXv f) f s

/-- IADD3 in BV (R120). -/
def execIadd3Bv (f : Bv) (s : State) : Host.Outcome State Fault Refusal := runIntBv .iadd3 (.iadd3Bv f) f s

/-- IADD3 in XV (R120). -/
def execIadd3Xv (f : Xv) (s : State) : Host.Outcome State Fault Refusal := runIntXv .iadd3 (.iadd3Xv f) f s

/-- ISAD in BV (R120). -/
def execIsadBv (f : Bv) (s : State) : Host.Outcome State Fault Refusal := runIntBv .isad (.isadBv f) f s

/-- ISAD in XV (R120). -/
def execIsadXv (f : Xv) (s : State) : Host.Outcome State Fault Refusal := runIntXv .isad (.isadXv f) f s

/-- IADD2 in BV (R120). -/
def execIadd2Bv (f : Bv) (s : State) : Host.Outcome State Fault Refusal := runIntBv .iadd2 (.iadd2Bv f) f s

/-- IADD2 in XV (R120). -/
def execIadd2Xv (f : Xv) (s : State) : Host.Outcome State Fault Refusal := runIntXv .iadd2 (.iadd2Xv f) f s

/-- LOP3's operation (R82, R125). -/
def lop3Alu (f : Xv) : Alu :=
  let wide := decide (32 ≤ f.func6.val)
  let tt := f.func6.val % 32 * 8 + f.mod3.val
  let w := if wide then 64 else 32
  ⟨f.lit, xvSrcs (lop3Shape wide) f, f.d, f.slot, wide, if wide then .w else .a, .a, false, false,
    fun x => (BitVec.ofNat 64 (lop3Bits tt w (x.getD 0 0).toNat (x.getD 1 0).toNat (x.getD 2 0).toNat), 0)⟩

/-- LOP3 (R82, R125). -/
def execLop3Xv (f : Xv) (s : State) : Host.Outcome State Fault Refusal := runAlu (.lop3Xv f) f.p f.pn (lop3Alu f) s

/-- ICVT (R83, R135). A narrow result is extended to 64 bits by the destination type in the latch and a slot of a vector pipe
too, where R135 speaks of the scalar pipe alone (DEDUCED, notes/assumptions/69.md). -/
def icvtVal (dt st : CvtTy) (sat : Bool) (a : DWord) : DWord :=
  let n := a.toNat % 2 ^ st.bits
  let x : Int := if st.signed then signedOf st.bits n else n
  let rg := intRange dt.signed dt.bits
  let r := (BitVec.ofInt dt.bits (if sat then max rg.1 (min rg.2 x) else x)).toNat
  if dt.signed then BitVec.ofInt 64 (signedOf dt.bits r) else BitVec.ofNat 64 r

/-- ICVT's operation (R135). -/
def icvtAlu (f : Xv) : Alu :=
  let dt := cvtTyOf f.func6.val
  let st := cvtTyOf f.mod3.val
  let w := dt.bits == 64 || st.bits == 64
  ⟨f.lit, xvSrcs (icvtShape dt st) f, f.d, f.slot, dt.bits == 64, if w then .w else .a, .a, false, false,
    fun x => (icvtVal dt st (satOf f.func6) (x.getD 0 0), 0)⟩

/-- ICVT in XV (R135). -/
def execIcvtXv (f : Xv) (s : State) : Host.Outcome State Fault Refusal := runAlu (.icvtXv f) f.p f.pn (icvtAlu f) s

/-- ICMP's condition (R84, R132). -/
def cmpInt (cond : Nat) (a b : Int) : Bool :=
  match cond with
  | 0 => a == b
  | 1 => a != b
  | 2 => decide (a < b)
  | 3 => decide (a ≤ b)
  | 4 => decide (b < a)
  | _ => decide (b ≤ a)

/-- ICMP's operation (R132). -/
def icmpPred (f : CmpXv) : Pred :=
  let t := (ityOf f.func6).getD .s32
  let r : Rd := if t.wide then .i64 else .i32
  ⟨f.lit, [opndX f.a r, opndX f.b r], [], f.pd.val, if t.wide then .w else .a, false,
    fun _ x _ => (cmpInt f.cond.val (t.val (x.getD 0 0)) (t.val (x.getD 1 0)), 0)⟩

/-- ICMP in XV (R132). -/
def execIcmpXv (f : CmpXv) (s : State) : Host.Outcome State Fault Refusal := runPred (.icmpXv f) f.p f.pn (icmpPred f) s

/-- PSET's operation (R133). -/
def psetPred (f : PsetXv) : Pred :=
  ⟨none, [], [f.pa.val, f.pb.val, f.pc.val], f.pd.val, .a, false,
    fun _ _ q => (ttBit f.tt.toNat (q.getD 0 false) (q.getD 1 false) (q.getD 2 false), 0)⟩

/-- PSET in XV (R133). -/
def execPsetXv (f : PsetXv) (s : State) : Host.Outcome State Fault Refusal := runPred (.psetXv f) f.p f.pn (psetPred f) s

/-- PMOV from a predicate to a register (R134): la receives the bit too, and a null destination is not scalar (R130). -/
def pmovBody (d : Dst) (pa : Fin 16) (u : Iss) (s : State) : Res :=
  let vals := perLane fun L => if s.readP u.w pa.val L then (1 : DWord) else 0
  .ok (s.setWave u.k (u.w.putResult u.exec u.slot.t .a u.slot.pipeB false d none false vals)) .seq

/-- PMOV's operation from a register to a predicate (R134). -/
def pmovPred (lit : Option DWord) (pd : Fin 16) (a : SrcX) : Pred :=
  let uni := a.sel.uniform
  ⟨lit, [opndX a (if uni then .i64 else .i32)], [], pd.val, .a, false,
    fun L x _ => (if uni then inMask (x.getD 0 0) L else x.getD 0 0 != 0, 0)⟩

/-- PMOV in XV (R134). -/
def execPmovXv (f : PmovXv) (s : State) : Host.Outcome State Fault Refusal :=
  match f.dir with
  | .toPred pd a => runPred (.pmovXv f) f.p f.pn (pmovPred f.lit pd a) s
  | .toReg d pa => issue (.pmovXv f) ⟨f.p, f.pn, [], dstNamed d false, [pa.val], .vec⟩ (pmovBody d pa) s

end Sys2Proof.Machine
end

