-- ==== Sys2Proof/Machine/FloatOps.lean ====
section
/-! DEFINITION. Floating-point and conversion instructions (chapter 06), pairs (R65 to R68), and the class L effect they share
with the cross-lane instructions (R36, R39, R142). -/

namespace Sys2Proof

open Machine

/-! ### Values (R139 to R154) -/

/-- The element format of a type. -/
def FType.fmt : FType → Fmt
  | .f32 => fmt32 | .f16x2 => fmt16 | .bf16x2 => fmtBf16 | .f64 => fmt64

/-- A packed type (R95). -/
def FType.packed : FType → Bool
  | .f16x2 => true
  | .bf16x2 => true
  | _ => false

/-- Flip a sign bit (R58). -/
def negIf (f : Fmt) (b : Bool) (x : Nat) : Nat := if b then x ^^^ f.signBit else x

/-- Run an element operation once per element of a type (R95): the operands of an element, and the number of the element. -/
def FType.lift (t : FType) (g : Nat → List Nat → Nat × FFlags) (x : List DWord) : Nat × FFlags :=
  if t.packed then
    let lo := g 0 (x.map fun (v : DWord) => v.toNat % 65536)
    let hi := g 1 (x.map fun (v : DWord) => v.toNat / 65536 % 65536)
    (lo.1 + 65536 * hi.1, lo.2 ||| hi.2)
  else g 0 (x.map fun (v : DWord) => v.toNat % 2 ^ t.fmt.width)

/-- The operands of an element after negation and flushing (R141): `last` is the place of the last source. -/
def prepare (f : Fmt) (nega negl fl : Bool) (last : Nat) (x : List Nat) : List Nat :=
  x.zipIdx.map fun e =>
    let v := negIf f ((nega && e.2 == 0) != (negl && e.2 == last && last != 0)) e.1
    if fl then flushIn f v else v

/-- The place of the last source of an operation. -/
def FOp.last : FOp → Nat
  | .ffma => 2
  | .fdot2 => 2
  | .frnd => 0
  | .fclass => 0
  | _ => 1

/-- One element of an arithmetic operation on prepared operands (R143 to R147). -/
def FOp.elem (op : FOp) (f : Fmt) (md : RMode) (x : List Nat) : Nat × FFlags :=
  let a := x.getD 0 0
  let b := x.getD 1 0
  let c := x.getD 2 0
  match op with
  | .fadd => sumTerms f md [termOf (decF f a), termOf (decF f b)]
  | .fsub => sumTerms f md [termOf (decF f a), termOf (decF f (b ^^^ f.signBit))]
  | .fmul => sumTerms f md [termMul (decF f a) (decF f b)]
  | .ffma => sumTerms f md [termMul (decF f a) (decF f b), termOf (decF f c)]
  | .fmin => minMaxF f false a b
  | .fmax => minMaxF f true a b
  | .frnd => frndF f md a
  | .fclass => (fclassF f a, 0)
  | .fdot2 => (0, 0)
  | .fscale => (0, 0)

/-- FDOT2 (R143): a and b packed, c and the result F32. -/
def fdot2Val (t : FType) (nega negl fl : Bool) (md : RMode) (x : List DWord) : Nat × FFlags :=
  let f := t.fmt
  let a := (x.getD 0 0).toNat
  let b := (x.getD 1 0).toNat
  let half := fun (v i : Nat) => v / 65536 ^ i % 65536
  let fin := fun (g : Fmt) (v : Nat) => if fl then flushIn g v else v
  let pa := fun (i : Nat) => decF f (fin f (negIf f nega (half a i)))
  let pb := fun (i : Nat) => decF f (fin f (half b i))
  let c := decF fmt32 (fin fmt32 (negIf fmt32 negl ((x.getD 2 0).toNat % 2 ^ 32)))
  flushOut fl fmt32 (sumTerms fmt32 md [termMul (pa 0) (pb 0), termMul (pa 1) (pb 1), termOf c])

/-- FSCALE (R143): the integer is b as .S32, or the .S16 of the matching half. -/
def fscaleVal (t : FType) (nega fl : Bool) (md : RMode) (sat : Bool) (x : List DWord) : Nat × FFlags :=
  let f := t.fmt
  let b := (x.getD 1 0).toNat
  t.lift (fun i y =>
    let a := negIf f nega (y.getD 0 0)
    let a := if fl then flushIn f a else a
    let n := if t.packed then signedOf 16 (b / 65536 ^ i) else signedOf 32 b
    let r := flushOut fl f (fscaleF f md a n)
    if sat then satF f r else r) (x.take 1)

/-- An arithmetic operation in one lane (R141). -/
def FOp.calc (op : FOp) (t : FType) (md : RMode) (nega negl sat fl : Bool) (x : List DWord) : DWord × FFlags :=
  let f := t.fmt
  let r := match op with
    | .fdot2 => fdot2Val t nega negl fl md x
    | .fscale => fscaleVal t nega fl md sat x
    | .fclass =>
      t.lift (fun _ y => FOp.elem .fclass f md (prepare f nega false false 0 y)) x
    | .fmin => t.lift (fun _ y => FOp.elem .fmin f md (prepare f nega negl fl 1 y)) x
    | .fmax => t.lift (fun _ y => FOp.elem .fmax f md (prepare f nega negl fl 1 y)) x
    | op => t.lift (fun _ y =>
        let r := flushOut fl f (op.elem f md (prepare f nega negl fl op.last y))
        if sat then satF f r else r) x
  (BitVec.ofNat 64 r.1, r.2)

/-- A class L function in one lane (R148). -/
def SOp.calc (op : SOp) (t : FType) (md : RMode) (nega negl sat fl : Bool) (x : List DWord) : DWord × FFlags :=
  let f := t.fmt
  let r := t.lift (fun _ y =>
    let y := prepare f nega negl fl 1 y
    let r := match op with
      | .fdiv => flushOut fl f (fdivF f md (y.getD 0 0) (y.getD 1 0))
      | op => sfnF op f fl md (y.getD 0 0)
    if sat then satF f r else r) x
  (BitVec.ofNat 64 r.1, r.2)

/-- A conversion format. -/
def FFmt.fmt : FFmt → Fmt
  | .f32 => fmt32 | .f16 => fmt16 | .bf16 => fmtBf16 | .f64 => fmt64

/-- FCVT (R149). -/
def fcvtVal (dt st : FFmt) (md : RMode) (fl : Bool) (x : DWord) : DWord × FFlags :=
  let a := x.toNat % 2 ^ st.fmt.width
  let r := flushOut fl dt.fmt (fcvtF dt.fmt st.fmt md (if fl then flushIn st.fmt a else a))
  (BitVec.ofNat 64 r.1, r.2)

/-- FTOI (R150). A 32-bit result is zero-extended to 64 bits (R140). -/
def ftoiVal (t : ITy) (st : FFmt) (md : RMode) (fl : Bool) (x : DWord) : DWord × FFlags :=
  let a := x.toNat % 2 ^ st.fmt.width
  let r := ftoiF st.fmt t.signed t.bits md (if fl then flushIn st.fmt a else a)
  (BitVec.ofNat 64 (BitVec.ofInt t.bits r.1).toNat, r.2)

/-- ITOF (R151). -/
def itofVal (dt : FFmt) (t : ITy) (md : RMode) (fl : Bool) (x : DWord) : DWord × FFlags :=
  let r := flushOut fl dt.fmt (itofF dt.fmt md (t.val x))
  (BitVec.ofNat 64 r.1, r.2)

/-- The narrow format of a code (R86). -/
def nfmtOf (n : Nat) : NFmt :=
  match n with
  | 0 => .e4m3 | 1 => .e5m2 | 2 => .t8 | _ => .t6

/-- POS and SIGMA of a control word (R152). -/
def ctlPos (b : DWord) : Nat := b.toNat / 256 % 4
def ctlSigma (b : DWord) : Int := signedOf 6 b.toNat

/-- The place of a code in its word (R153). -/
def codeShift (f : NFmt) (j : Nat) : Nat := f.width * j

/-- NPACK (R153). -/
def npackVal (nf : NFmt) (st : FFmt) (inf : Bool) (a b c : DWord) : DWord × FFlags :=
  let r := encN nf inf (ctlSigma b) (decF st.fmt (a.toNat % 2 ^ st.fmt.width))
  let sh := codeShift nf (ctlPos b)
  let w := c.toNat % 2 ^ 32
  let n := w % 2 ^ sh + r.1 * 2 ^ sh + w / 2 ^ (sh + nf.width) * 2 ^ (sh + nf.width)
  (BitVec.ofNat 64 n, r.2)

/-- NUNPK (R154). -/
def nunpkVal (nf : NFmt) (dt : FFmt) (a b : DWord) : DWord × FFlags :=
  let v := decN nf (ctlSigma b) (a.toNat % 2 ^ 32 / 2 ^ codeShift nf (ctlPos b) % 2 ^ nf.width)
  let r := sumTerms dt.fmt .rne [termOf v]
  (BitVec.ofNat 64 r.1, r.2)

/-! ### Forms -/

/-- The operation with given sources. -/
def FOp.alu (op : FOp) (t : FType) (md : RMode) (nega negl sat fl paired : Bool) (lit : Option DWord) (srcs : List Opnd)
    (d : Dst) (slot : Option (Fin 8)) : Alu :=
  let cls : TClass := if t = .f64 ∨ op = .fdot2 then .w else .a
  ⟨lit, srcs, d, slot, (op.shape t).wide, cls, cls, t == .f64, paired, op.calc t md nega negl sat fl⟩

end Sys2Proof

namespace Sys2Proof.Machine

/-- FPMODE.FLUSH of the issuing wave. -/
def State.flushMode (s : State) : Bool := match s.issuer with | some (_, w, _) => w.flush | none => false
/-- The rounding of MOD3 for the issuing wave (R85). -/
def State.roundMode (s : State) (mod3 : Nat) : RMode := match s.issuer with | some (_, w, _) => w.rounding mod3 | none => .rne

/-- The base variant in BV: F32, RNE (R85). -/
def fpBv (op : FOp) (f : Bv) (s : State) : Alu :=
  op.alu .f32 .rne false false false s.flushMode false f.lit (bvSrcs (op.shape .f32) f) f.d none

/-- The base variant in BV with one source. -/
def fpBv1 (op : FOp) (f : Bv1) (s : State) : Alu :=
  op.alu .f32 .rne false false false s.flushMode false none (bv1Srcs (op.shape .f32) f) f.d none

/-- The XV variants (R85). -/
def fpXv (op : FOp) (f : Xv) (s : State) : Alu :=
  let t := (ftyOf f.func6).getD .f32
  op.alu t (s.roundMode f.mod3.val) (negaOf f.func6) (neglOf f.func6) (satOf f.func6) s.flushMode false f.lit
    (xvSrcs (op.shape t) f) f.d f.slot

/-- Issue a base variant. -/
def runFpBv (op : FOp) (i : Instr) (f : Bv) (s : State) : Host.Outcome State Fault Refusal := runAlu i 0 false (fpBv op f s) s

/-- Issue a base variant with one source. -/
def runFpBv1 (op : FOp) (i : Instr) (f : Bv1) (s : State) : Host.Outcome State Fault Refusal :=
  runAlu i 0 false (fpBv1 op f s) s

/-- Issue an XV variant. -/
def runFpXv (op : FOp) (i : Instr) (f : Xv) (s : State) : Host.Outcome State Fault Refusal :=
  runAlu i f.p f.pn (fpXv op f s) s

/-! ### Class L (R36, R38, R39, R142) -/

/-- Issue a class L operation whose values are known: it is counted, and lands later. -/
def State.addOp (s : State) (k : Nat) (o : Nat → LOp) : State :=
  let (id, s) := s.fresh
  let cycle := (s.coreAt (coreOfWave k)).cycle
  s.modWave k fun w => (w.enter (o id)).retire cycle

/-- The wave cannot take another operation of a counter (R39). -/
def Wave.full (w : Wave) (c : Ctr) : Bool := decide (c.max ≤ w.counter c)

/-- A class L function (R148): its literal, sources, destination, result width and value per lane. -/
structure Fun where
  lit : Option DWord
  srcs : List Opnd
  d : Dst
  wide : Bool
  f : List DWord → DWord × FFlags

/-- Its plan. -/
def Fun.plan (a : Fun) (p : Fin 16) (pn : Bool) : Plan := ⟨p, pn, a.srcs.map Opnd.named, dstNamed a.d a.wide, [], .none⟩

/-- The lanes of a class L operation: lane 0 for an s destination (R139). -/
def landLanes (d : Dst) (exec : Mask) : Mask := match d with | .s _ => if exec = 0 then 0 else 1 | _ => exec

/-- The effect of a class L function as it issues: its flags are known at once (R142), and it is counted in XC whatever its
destination (R140; notes/assumptions/61.md). -/
def Fun.body (a : Fun) (u : Iss) (s : State) : Res :=
  match (if u.w.strict then deadRead u.w u.exec a.srcs else none) with
  | some x => .trap .deadread x
  | none =>
    if u.w.full .xc then .hold s
    else
      let r := perLane fun L => if inMask u.exec L then a.f (a.srcs.map fun o => s.readOpnd u.w a.lit o L) else (0, 0)
      let en := enabledFlags u.w.enables u.exec (r.map (·.2))
      if en.1 ≠ 0 then .trap .fpexc (fpexcAddr en.2 en.1)
      else
        let m := landLanes a.d u.exec
        let vals := match a.d with
          | .s _ => perLane fun _ => (r.getD (lowestLane u.exec) (0, 0)).1
          | _ => r.map (·.1)
        let w := readEffects s u.w u.exec a.lit a.srcs u.w
        .ok ((s.setWave u.k w).addOp u.k fun id =>
          (mkOp id .xc u.e.pc m (groupWrites a.d (if a.wide then 2 else 1) m vals) u.slot.t
            (allFlags u.exec (r.map (·.2)))).promptBy u.w) .seq

/-- Issue a class L function. -/
def runFun (i : Instr) (p : Fin 16) (pn : Bool) (a : Fun) (s : State) : Host.Outcome State Fault Refusal :=
  issue i (a.plan p pn) a.body s

/-- A class L function in BV with one source: F32, RNE. -/
def sfBv1 (op : SOp) (f : Bv1) (s : State) : Fun :=
  ⟨none, bv1Srcs (op.shape .f32) f, f.d, false, op.calc .f32 .rne false false false s.flushMode⟩

/-- FDIV in BV: F32, RNE. -/
def sfBv (op : SOp) (f : Bv) (s : State) : Fun :=
  ⟨f.lit, bvSrcs (op.shape .f32) f, f.d, false, op.calc .f32 .rne false false false s.flushMode⟩

/-- A class L function in XV. -/
def sfXv (op : SOp) (f : Xv) (s : State) : Fun :=
  let t := (ftyOf f.func6).getD .f32
  ⟨f.lit, xvSrcs (op.shape t) f, f.d, t == .f64,
    op.calc t (s.roundMode f.mod3.val) (negaOf f.func6) (neglOf f.func6) (satOf f.func6) s.flushMode⟩

/-- Issue a class L function in BV with one source. -/
def runSfBv1 (op : SOp) (i : Instr) (f : Bv1) (s : State) : Host.Outcome State Fault Refusal := runFun i 0 false (sfBv1 op f s) s

/-- Issue FDIV in BV. -/
def runSfBv (op : SOp) (i : Instr) (f : Bv) (s : State) : Host.Outcome State Fault Refusal := runFun i 0 false (sfBv op f s) s

/-- Issue a class L function in XV. -/
def runSfXv (op : SOp) (i : Instr) (f : Xv) (s : State) : Host.Outcome State Fault Refusal :=
  runFun i f.p f.pn (sfXv op f s) s

/-! ### Instructions -/

/-- FADD in BV (R143). -/
def execFaddBv (f : Bv) (s : State) : Host.Outcome State Fault Refusal := runFpBv .fadd (.faddBv f) f s

/-- FADD in XV (R143). -/
def execFaddXv (f : Xv) (s : State) : Host.Outcome State Fault Refusal := runFpXv .fadd (.faddXv f) f s

/-- FSUB in BV (R143). -/
def execFsubBv (f : Bv) (s : State) : Host.Outcome State Fault Refusal := runFpBv .fsub (.fsubBv f) f s

/-- FSUB in XV (R143). -/
def execFsubXv (f : Xv) (s : State) : Host.Outcome State Fault Refusal := runFpXv .fsub (.fsubXv f) f s

/-- FMUL in BV (R143). -/
def execFmulBv (f : Bv) (s : State) : Host.Outcome State Fault Refusal := runFpBv .fmul (.fmulBv f) f s

/-- FMUL in XV (R143). -/
def execFmulXv (f : Xv) (s : State) : Host.Outcome State Fault Refusal := runFpXv .fmul (.fmulXv f) f s

/-- FFMA in BV (R143). -/
def execFfmaBv (f : Bv) (s : State) : Host.Outcome State Fault Refusal := runFpBv .ffma (.ffmaBv f) f s

/-- FFMA in XV (R143). -/
def execFfmaXv (f : Xv) (s : State) : Host.Outcome State Fault Refusal := runFpXv .ffma (.ffmaXv f) f s

/-- FMIN in BV (R143). -/
def execFminBv (f : Bv) (s : State) : Host.Outcome State Fault Refusal := runFpBv .fmin (.fminBv f) f s

/-- FMIN in XV (R143). -/
def execFminXv (f : Xv) (s : State) : Host.Outcome State Fault Refusal := runFpXv .fmin (.fminXv f) f s

/-- FMAX in BV (R143). -/
def execFmaxBv (f : Bv) (s : State) : Host.Outcome State Fault Refusal := runFpBv .fmax (.fmaxBv f) f s

/-- FMAX in XV (R143). -/
def execFmaxXv (f : Xv) (s : State) : Host.Outcome State Fault Refusal := runFpXv .fmax (.fmaxXv f) f s

/-- FRND in BV (R146). -/
def execFrndBv (f : Bv1) (s : State) : Host.Outcome State Fault Refusal := runFpBv1 .frnd (.frndBv f) f s

/-- FRND in XV (R146). -/
def execFrndXv (f : Xv) (s : State) : Host.Outcome State Fault Refusal := runFpXv .frnd (.frndXv f) f s

/-- FCLASS in BV (R147). -/
def execFclassBv (f : Bv1) (s : State) : Host.Outcome State Fault Refusal := runFpBv1 .fclass (.fclassBv f) f s

/-- FCLASS in XV (R147). -/
def execFclassXv (f : Xv) (s : State) : Host.Outcome State Fault Refusal := runFpXv .fclass (.fclassXv f) f s

/-- FRCP in BV (R148). -/
def execFrcpBv (f : Bv1) (s : State) : Host.Outcome State Fault Refusal := runSfBv1 .frcp (.frcpBv f) f s

/-- FRCP in XV (R148). -/
def execFrcpXv (f : Xv) (s : State) : Host.Outcome State Fault Refusal := runSfXv .frcp (.frcpXv f) f s

/-- FRSQ in BV (R148). -/
def execFrsqBv (f : Bv1) (s : State) : Host.Outcome State Fault Refusal := runSfBv1 .frsq (.frsqBv f) f s

/-- FRSQ in XV (R148). -/
def execFrsqXv (f : Xv) (s : State) : Host.Outcome State Fault Refusal := runSfXv .frsq (.frsqXv f) f s

/-- FSQRT in BV (R148). -/
def execFsqrtBv (f : Bv1) (s : State) : Host.Outcome State Fault Refusal := runSfBv1 .fsqrt (.fsqrtBv f) f s

/-- FSQRT in XV (R148). -/
def execFsqrtXv (f : Xv) (s : State) : Host.Outcome State Fault Refusal := runSfXv .fsqrt (.fsqrtXv f) f s

/-- FEXP2 in BV (R148). -/
def execFexp2Bv (f : Bv1) (s : State) : Host.Outcome State Fault Refusal := runSfBv1 .fexp2 (.fexp2Bv f) f s

/-- FEXP2 in XV (R148). -/
def execFexp2Xv (f : Xv) (s : State) : Host.Outcome State Fault Refusal := runSfXv .fexp2 (.fexp2Xv f) f s

/-- FLOG2 in BV (R148). -/
def execFlog2Bv (f : Bv1) (s : State) : Host.Outcome State Fault Refusal := runSfBv1 .flog2 (.flog2Bv f) f s

/-- FLOG2 in XV (R148). -/
def execFlog2Xv (f : Xv) (s : State) : Host.Outcome State Fault Refusal := runSfXv .flog2 (.flog2Xv f) f s

/-- FSIN in BV (R148). -/
def execFsinBv (f : Bv1) (s : State) : Host.Outcome State Fault Refusal := runSfBv1 .fsin (.fsinBv f) f s

/-- FSIN in XV (R148). -/
def execFsinXv (f : Xv) (s : State) : Host.Outcome State Fault Refusal := runSfXv .fsin (.fsinXv f) f s

/-- FCOS in BV (R148). -/
def execFcosBv (f : Bv1) (s : State) : Host.Outcome State Fault Refusal := runSfBv1 .fcos (.fcosBv f) f s

/-- FCOS in XV (R148). -/
def execFcosXv (f : Xv) (s : State) : Host.Outcome State Fault Refusal := runSfXv .fcos (.fcosXv f) f s

/-- FTANH in BV (R148). -/
def execFtanhBv (f : Bv1) (s : State) : Host.Outcome State Fault Refusal := runSfBv1 .ftanh (.ftanhBv f) f s

/-- FTANH in XV (R148). -/
def execFtanhXv (f : Xv) (s : State) : Host.Outcome State Fault Refusal := runSfXv .ftanh (.ftanhXv f) f s

/-- FDIV in BV (R148). -/
def execFdivBv (f : Bv) (s : State) : Host.Outcome State Fault Refusal := runSfBv .fdiv (.fdivBv f) f s

/-- FDIV in XV (R148). -/
def execFdivXv (f : Xv) (s : State) : Host.Outcome State Fault Refusal := runSfXv .fdiv (.fdivXv f) f s

/-- FDOT2 in XV (R143). -/
def execFdot2Xv (f : Xv) (s : State) : Host.Outcome State Fault Refusal := runFpXv .fdot2 (.fdot2Xv f) f s

/-- FSCALE in BV (R143). -/
def execFscaleBv (f : Bv) (s : State) : Host.Outcome State Fault Refusal := runFpBv .fscale (.fscaleBv f) f s

/-- FSCALE in XV (R143). -/
def execFscaleXv (f : Xv) (s : State) : Host.Outcome State Fault Refusal := runFpXv .fscale (.fscaleXv f) f s

/-- FCMP's operation (R145). -/
def fcmpPred (f : CmpXv) (s : State) : Pred :=
  let t := (ftyOf f.func6).getD .f32
  let fl := s.flushMode
  ⟨f.lit, [opndX f.a t.rd, opndX f.b t.rd], [], f.pd.val, if t = .f64 then .w else .a, t == .f64,
    fun _ x _ =>
      let y := prepare t.fmt (negaOf f.func6) (neglOf f.func6) fl 1 (x.map fun (v : DWord) => v.toNat % 2 ^ t.fmt.width)
      cmpF t.fmt f.cond.val (y.getD 0 0) (y.getD 1 0)⟩

/-- FCMP in XV (R145). -/
def execFcmpXv (f : CmpXv) (s : State) : Host.Outcome State Fault Refusal := runPred (.fcmpXv f) f.p f.pn (fcmpPred f s) s

/-- A conversion in XV: its sources, result width, whether a type of it has 64 bits, and whether one is F64 (R80, R149 to
R154); `both` says that it is class W on the scalar pipe too. -/
def cvtAlu (f : Xv) (srcs : List Opnd) (wide w64 both f64 : Bool) (g : List DWord → DWord × FFlags) : Alu :=
  ⟨f.lit, srcs, f.d, f.slot, wide, if w64 then .w else .a, if both then .w else .a, f64, false, g⟩

/-- FCVT's operation (R149). -/
def fcvtAlu (f : Xv) (s : State) : Alu :=
  let dt := (ffmtOf (f.func6.val % 8)).getD .f32
  let st := (ffmtOf (f6mid f.func6)).getD .f32
  let w := dt == .f64 || st == .f64
  let md := s.roundMode f.mod3.val
  let fl := s.flushMode
  cvtAlu f [opndX f.a st.rd] (dt == .f64) w w w fun x => fcvtVal dt st md fl (x.getD 0 0)

/-- FTOI's operation (R150). -/
def ftoiAlu (f : Xv) (s : State) : Alu :=
  let st := (ffmtOf (f.func6.val % 8)).getD .f32
  let t := itoTy (f6mid f.func6)
  let w := t.wide || st == .f64
  let md := s.roundMode f.mod3.val
  let fl := s.flushMode
  cvtAlu f [opndX f.a st.rd] t.wide w w (st == .f64) fun x => ftoiVal t st md fl (x.getD 0 0)

/-- ITOF's operation (R151). -/
def itofAlu (f : Xv) (s : State) : Alu :=
  let dt := (ffmtOf (f.func6.val % 8)).getD .f32
  let t := itoTy (f6mid f.func6)
  let md := s.roundMode f.mod3.val
  let fl := s.flushMode
  cvtAlu f [opndX f.a (if t.wide then .i64 else .i32)] (dt == .f64) (t.wide || dt == .f64) (dt == .f64) (dt == .f64)
    fun x => itofVal dt t md fl (x.getD 0 0)

/-- NPACK's operation (R153). Its b and c are integer reads (R50; DEDUCED, notes/assumptions/16.md). -/
def npackAlu (f : Xv) : Alu :=
  let st := (ffmtOf (f.func6.val % 8)).getD .f32
  let nf := nfmtOf (f6mid f.func6)
  let w := st == .f64
  cvtAlu f [opndX f.a st.rd, opndX f.b .i32, opndX f.c .i32] false w w w
    fun x => npackVal nf st (satOf f.func6) (x.getD 0 0) (x.getD 1 0) (x.getD 2 0)

/-- NUNPK's operation (R154). Its a and b are integer reads (R50; DEDUCED, notes/assumptions/16.md). -/
def nunpkAlu (f : Xv) : Alu :=
  let dt := (ffmtOf (f.func6.val % 8)).getD .f32
  let nf := nfmtOf (f6mid f.func6)
  let w := dt == .f64
  cvtAlu f [opndX f.a .i32, opndX f.b .i32] w w w w fun x => nunpkVal nf dt (x.getD 0 0) (x.getD 1 0)

/-- FCVT in XV (R149). -/
def execFcvtXv (f : Xv) (s : State) : Host.Outcome State Fault Refusal := runAlu (.fcvtXv f) f.p f.pn (fcvtAlu f s) s

/-- FTOI in XV (R150). -/
def execFtoiXv (f : Xv) (s : State) : Host.Outcome State Fault Refusal := runAlu (.ftoiXv f) f.p f.pn (ftoiAlu f s) s

/-- ITOF in XV (R151). -/
def execItofXv (f : Xv) (s : State) : Host.Outcome State Fault Refusal := runAlu (.itofXv f) f.p f.pn (itofAlu f s) s

/-- NPACK in XV (R153). -/
def execNpackXv (f : Xv) (s : State) : Host.Outcome State Fault Refusal := runAlu (.npackXv f) f.p f.pn (npackAlu f) s

/-- NUNPK in XV (R154). -/
def execNunpkXv (f : Xv) (s : State) : Host.Outcome State Fault Refusal := runAlu (.nunpkXv f) f.p f.pn (nunpkAlu f) s

/-- One operation of a pair: the base variant of its type (R66, R136, R155). -/
def halfAlu (h : PairHalf) (fl : Bool) : Alu :=
  let srcs := halfSrcs h.op.shape h
  match h.op with
  | .int op => op.alu .s32 false true none srcs h.d none
  | .fp op t => op.alu t .rne false false false fl true none srcs h.d none

/-- PAIR (R65 to R68). -/
def execPair (f : Pair) (s : State) : Host.Outcome State Fault Refusal :=
  runPair (.pair f) (halfAlu f.x s.flushMode) (halfAlu f.y s.flushMode) f.x.p f.y.p f.x.pn f.y.pn s

end Sys2Proof.Machine
end

