-- ==== Sys2Proof/Machine/Cross.lean ====
section
/-! DEFINITION. Cross-lane instructions (R174 to R179). -/

namespace Sys2Proof.Machine

/-- A cross-lane instruction as it is read: its predicate, what it computes, its literal, its sources A and B, the predicate
it supplies, and its member mask. -/
structure Xl1 where
  p : Fin 16
  pn : Bool
  spec : XSpec
  lit : Option DWord
  srcs : List Opnd
  pa : Nat
  mem : Option Opnd

/-- Registers a cross-lane instruction writes. -/
def XSpec.dsts (x : XSpec) : List (Src × Nat) :=
  match x.op with
  | .inl .match => dstNamed x.d true
  | .inl _ => dstNamed x.d x.ty.wide
  | .inr _ => dstNamed x.d false

/-- Its plan. -/
def Xl1.plan (x : Xl1) : Plan :=
  ⟨x.p, x.pn, (x.srcs ++ x.mem.toList).map Opnd.named, x.spec.dsts, [x.pa], .none⟩

/-- An operand in the lanes of `m`. -/
def State.operandIn (s : State) (w : Wave) (lit : Option DWord) (o : Option Opnd) (m : Mask) : List DWord :=
  match o with
  | none => []
  | some o => perLane fun L => if inMask m L then s.readOpnd w lit o L else 0

/-- The lanes an exchange without a mask writes: lane 0 for an s destination. -/
def XSpec.lanes (x : XSpec) (recv : Mask) : Mask := match x.op with | .inr 0 => landLanes x.d recv | _ => recv

/-- A cross-lane instruction without a mask: class L, counted in XC, complete at issue (R176, R179). -/
def Xl1.open_ (x : Xl1) (u : Iss) (s : State) : Res :=
  if u.w.full .xc then .hold s
  else
    let m := u.exec
    let r := exchange x.spec m m m (s.operandIn u.w x.lit x.srcs.head? m) (s.operandIn u.w x.lit (x.srcs[1]?) m)
      (s.predMask u.w x.pa) u.w.flush
    let en := enabledFlags u.w.enables m r.flags
    if en.1 ≠ 0 then .trap .fpexc (fpexcAddr en.2 en.1)
    else
      let w := readEffects s u.w m x.lit x.srcs u.w
      let w := if r.nosrc then w.stat statNosrc else w
      let lanes := x.spec.lanes m
      .ok ((s.setWave u.k w).addOp u.k fun id =>
        (mkOp id .xc u.e.pc lanes (if lanes = 0 then [] else x.spec.writes lanes r.vals) u.slot.t
          (allFlags m r.flags)).promptBy u.w) .seq

/-- The member set another entry waits with at this address differs (R179). -/
def Wave.exchClash (w : Wave) (pc : DWord) (m : Mask) : Bool :=
  let hit := fun (e : Entry) => match e.st with | .wait (.exch q n) => q == pc && n != m | _ => false
  w.frontier.any hit || (match w.handler with | some h => h.held.any hit | none => false)

/-- Capture the operands of the lanes of `got` in an arrival record (R179). -/
def Exch.arrive (x : Exch) (got recv : Mask) (a b : List DWord) (pr : Mask) : Exch :=
  { x with
    arrived := x.arrived ||| got
    recv := x.recv ||| recv
    a := mergeLanes 0 got x.a a
    b := mergeLanes 0 got x.b b
    pr := (x.pr &&& ~~~got) ||| (pr &&& got) }

/-- A cross-lane instruction with a member mask (R176, R179): lanes outside M take their own value, lanes of M that do not
execute pass, the others park; the exchange completes when its last member arrives. -/
def Xl1.masked (x : Xl1) (i : Instr) (o : Opnd) (u : Iss) (s : State) : Res :=
  let w := u.w
  let m := s.readOpnd w x.lit o 0
  let exec := u.exec
  if w.exchClash u.e.pc m then .trap .illegal (BitVec.ofNat 64 (srcCode o.sel))
  else
    let old := match w.exch.find? fun y => y.pc == u.e.pc && y.m == m && !(y.complete w && y.recv == 0) with
      | some y => y
      | none => ⟨u.e.pc, m, i, 0, 0, [], [], 0⟩
    let got := u.e.mask &&& m &&& ~~~old.recv
    let all := u.e.mask
    let a := s.operandIn w x.lit x.srcs.head? all
    let b := s.operandIn w x.lit (x.srcs[1]?) all
    let pr := s.predMask w x.pa
    let park := exec &&& m
    let rec' := old.arrive got park a b pr
    let own := exec &&& ~~~m
    let w1 := readEffects s w exec x.lit (x.srcs ++ [o]) w
    let w1 := match x.spec.op with
      | .inr 0 => w1
      | _ => if own = 0 then w1 else w1.putWrites (x.spec.writes own (ownResult x.spec a pr))
    let others := w.exch.filter fun y => !(y.pc == u.e.pc && y.m == m)
    let w1 := { w1 with exch := if m = 0 ∨ (park = 0 ∧ rec'.complete w ∧ rec'.recv = 0) then others else others ++ [rec'] }
    let pass : Entry := { u.e with mask := u.e.mask &&& ~~~park, pc := u.e.pc + BitVec.ofNat 64 u.len, starve := 0 }
    let wait : Entry := { u.e with mask := park, st := .wait (.exch u.e.pc m), len := u.len, starve := 0 }
    .ok (s.setWave u.k w1) (.split [wait, pass])

/-- The effect of a cross-lane instruction as it issues. -/
def Xl1.body (x : Xl1) (i : Instr) (u : Iss) (s : State) : Res :=
  match (if u.w.strict then deadRead u.w u.exec (x.srcs ++ x.mem.toList) else none) with
  | some v => .trap .deadread v
  | none =>
    match x.mem with
    | none => x.open_ u s
    | some o => x.masked i o u s

/-- The member mask of C8 (R174). -/
def memOf (c : SrcX) : Option Opnd := if c = SrcX.unused then none else some (opndX c .i64)

/-- Issue a cross-lane instruction. -/
def runXl (i : Instr) (x : Option Xl1) (s : State) : Host.Outcome State Fault Refusal :=
  match x with
  | none => .next s
  | some x => issue i x.plan (x.body i) s

/-- A cross-lane instruction of BV with sources A and B: TYPE 0, no mask. -/
def xlBv (op : XOp) (i : Instr) (f : Bv) : Option Xl1 :=
  (xspecOf i).map fun sp => ⟨0, false, sp, f.lit, bvSrcs { op.shape .s32 with c := none } f, 0, none⟩

/-- A cross-lane instruction of BV with one source. -/
def xlBv1 (op : XOp) (i : Instr) (f : Bv1) : Option Xl1 :=
  (xspecOf i).map fun sp => ⟨0, false, sp, none, bv1Srcs (op.shape .s32) f, 0, none⟩

/-- A cross-lane instruction of XV. -/
def xlXv (op : XOp) (i : Instr) (f : Xv) : Option Xl1 :=
  (xspecOf i).map fun sp =>
    ⟨f.p, f.pn, sp, f.lit, xvSrcs { op.xvShape sp.ty f with c := none } f, 0, memOf f.c⟩

/-- BALLOT, VOTE and ELECT of XV. -/
def xlPred (i : Instr) (f : PredXv) : Option Xl1 :=
  (xspecOf i).map fun sp => ⟨f.p, f.pn, sp, f.lit, [], f.pa.val, memOf f.c⟩

/-! ### Instructions -/

/-- XSHF in BV (R177). -/
def execXshfBv (f : Bv) (s : State) : Host.Outcome State Fault Refusal :=
  runXl (.xshfBv f) (xlBv .xshf (.xshfBv f) f) s

/-- XSHF in XV (R177). -/
def execXshfXv (f : Xv) (s : State) : Host.Outcome State Fault Refusal :=
  runXl (.xshfXv f) (xlXv .xshf (.xshfXv f) f) s

/-- XROT in BV (R177). -/
def execXrotBv (f : Bv) (s : State) : Host.Outcome State Fault Refusal :=
  runXl (.xrotBv f) (xlBv .xrot (.xrotBv f) f) s

/-- XROT in XV (R177). -/
def execXrotXv (f : Xv) (s : State) : Host.Outcome State Fault Refusal :=
  runXl (.xrotXv f) (xlXv .xrot (.xrotXv f) f) s

/-- XBFLY in BV (R177). -/
def execXbflyBv (f : Bv) (s : State) : Host.Outcome State Fault Refusal :=
  runXl (.xbflyBv f) (xlBv .xbfly (.xbflyBv f) f) s

/-- XBFLY in XV (R177). -/
def execXbflyXv (f : Xv) (s : State) : Host.Outcome State Fault Refusal :=
  runXl (.xbflyXv f) (xlXv .xbfly (.xbflyXv f) f) s

/-- XBCAST in BV (R177). -/
def execXbcastBv (f : Bv) (s : State) : Host.Outcome State Fault Refusal :=
  runXl (.xbcastBv f) (xlBv .xbcast (.xbcastBv f) f) s

/-- XBCAST in XV (R177). -/
def execXbcastXv (f : Xv) (s : State) : Host.Outcome State Fault Refusal :=
  runXl (.xbcastXv f) (xlXv .xbcast (.xbcastXv f) f) s

/-- XRED in BV (R177, R178). -/
def execXredBv (f : Bv1) (s : State) : Host.Outcome State Fault Refusal :=
  runXl (.xredBv f) (xlBv1 .xred (.xredBv f) f) s

/-- XRED in XV (R177, R178). -/
def execXredXv (f : Xv) (s : State) : Host.Outcome State Fault Refusal :=
  runXl (.xredXv f) (xlXv .xred (.xredXv f) f) s

/-- XSCAN in BV (R177, R178). -/
def execXscanBv (f : Bv1) (s : State) : Host.Outcome State Fault Refusal :=
  runXl (.xscanBv f) (xlBv1 .xscan (.xscanBv f) f) s

/-- XSCAN in XV (R177, R178). -/
def execXscanXv (f : Xv) (s : State) : Host.Outcome State Fault Refusal :=
  runXl (.xscanXv f) (xlXv .xscan (.xscanXv f) f) s

/-- BALLOT in BV (R177). -/
def execBallotBv (f : BallotBv) (s : State) : Host.Outcome State Fault Refusal :=
  runXl (.ballotBv f) ((xspecOf (.ballotBv f)).map fun sp => ⟨0, false, sp, none, [], f.pa.val, none⟩) s

/-- BALLOT in XV (R177). -/
def execBallotXv (f : PredXv) (s : State) : Host.Outcome State Fault Refusal :=
  runXl (.ballotXv f) (xlPred (.ballotXv f) f) s

/-- VOTE in BV (R177). -/
def execVoteBv (f : VoteBv) (s : State) : Host.Outcome State Fault Refusal :=
  runXl (.voteBv f) ((xspecOf (.voteBv f)).map fun sp => ⟨0, false, sp, none, [], f.pa.val, none⟩) s

/-- VOTE in XV (R177). -/
def execVoteXv (f : PredXv) (s : State) : Host.Outcome State Fault Refusal :=
  runXl (.voteXv f) (xlPred (.voteXv f) f) s

/-- MATCH in BV (R177). -/
def execMatchBv (f : Bv1) (s : State) : Host.Outcome State Fault Refusal :=
  runXl (.matchBv f) (xlBv1 .match (.matchBv f) f) s

/-- MATCH in XV (R177). -/
def execMatchXv (f : Xv) (s : State) : Host.Outcome State Fault Refusal :=
  runXl (.matchXv f) (xlXv .match (.matchXv f) f) s

/-- ELECT in BV (R177). -/
def execElectBv (f : ElectBv) (s : State) : Host.Outcome State Fault Refusal :=
  runXl (.electBv f) ((xspecOf (.electBv f)).map fun sp => ⟨0, false, sp, none, [], 0, none⟩) s

/-- ELECT in XV (R177). -/
def execElectXv (f : PredXv) (s : State) : Host.Outcome State Fault Refusal :=
  runXl (.electXv f) (xlPred (.electXv f) f) s

end Sys2Proof.Machine
end

