-- ==== Sys2Proof/Machine/Control.lean ====
section
/-! DEFINITION. Control instructions (R162 to R173), and the steps by which runs start, suspensions are saved and waits end
(R23, R25, R160, R171, R172, R254). -/

namespace Sys2Proof.Machine

/-- The address after the instruction. -/
def Iss.next (u : Iss) : DWord := u.e.pc + BitVec.ofNat 64 u.len

/-- An entry of some lanes of the issuing entry, elsewhere; a split starts its starvation count at 0 (R161). -/
def entryAt (m : Mask) (pc : DWord) (prio : Fin 4) : Entry := ⟨pc, m, prio, 0, .ready, 0, []⟩

/-- The lanes of the entry outside `m`, at the next address. -/
def Iss.rest (u : Iss) (m : Mask) : Entry := entryAt (u.e.mask &&& ~~~m) u.next u.e.prio

/-- The issuing entry's lanes of `m` wait for `o` at the instruction; the others pass (R161). -/
def Iss.waits (u : Iss) (m : Mask) (o : WaitObj) : After :=
  .split [{ u.e with mask := m, starve := 0, st := .wait o, len := u.len }, u.rest m]

/-- A branch taken by the lanes of `m` (R161, R162). -/
def branchTo (u : Iss) (m : Mask) (target : DWord) (prio : Fin 4) (s : State) : Res :=
  if m = 0 then .ok s .seq else .ok s (.split [entryAt m target prio, u.rest m])

/-- The target of BB (R54). -/
def bbTarget (f : Bb) (pc : DWord) : DWord :=
  match f.lit with
  | some l => pc + l
  | none => pc + BitVec.ofInt 64 (4 * f.ofs.toInt)

/-- BRA (R162). -/
def braBody (f : Bb) (u : Iss) (s : State) : Res :=
  branchTo u (u.e.mask &&& maskOf fun L => s.readP u.w f.p.val L != f.n) (bbTarget f u.e.pc) f.pr s

/-- The s register BRU reads. -/
def bruSrc (f : Bb) : Opnd := opnd (.s ⟨f.p.val, by omega⟩) .i64

/-- What reading sources does, with the DEADREAD trap of strict mode (R34). -/
def reading (u : Iss) (lit : Option DWord) (srcs : List Opnd) (s : State) (k : State → Res) : Res :=
  match (if u.w.strict then deadRead u.w u.exec srcs else none) with
  | some x => .trap .deadread x
  | none => k (s.modWave u.k fun w => readEffects s u.w u.exec lit srcs w)

/-- BRU (R162). -/
def bruBody (f : Bb) (u : Iss) (s : State) : Res :=
  reading u none [bruSrc f] s fun t =>
    let taken := (s.readOpnd u.w none (bruSrc f) 0 != 0) != f.n
    branchTo u (if taken then u.e.mask else 0) (bbTarget f u.e.pc) f.pr t

/-- Group the lanes of a list by target: one entry each (R163). -/
def groupTargets (prio : Fin 4) (t : Nat → DWord) : List Nat → List Entry → List Entry
  | [], es => es
  | L :: r, es =>
    let e := entryAt (laneBit L) (t L) prio
    groupTargets prio t r (addEntry e es)

/-- The lanes of EXEC go to their targets (R163). -/
def jumpTo (u : Iss) (prio : Fin 4) (t : Nat → DWord) (s : State) : Res :=
  match (lanesIn u.exec).find? fun L => (t L).toNat % 4 != 0 with
  | some L => .trap .misalign (t L)
  | none =>
    if u.exec = 0 then .ok s .seq
    else .ok s (.split (groupTargets prio t (lanesIn u.exec) [] ++ [u.rest u.exec]))

/-- The source of a target or return address. -/
def targetSrc (a : Src) : Opnd := opnd a .i64

/-- JMPI and RET (R163): a misaligned target stops the instruction before any effect. -/
def jumpBody (a : Src) (prio : Option (Fin 4)) (u : Iss) (s : State) : Res :=
  let t := fun L => s.readOpnd u.w none (targetSrc a) L
  reading u none [targetSrc a] s fun s' => jumpTo u (prio.getD u.e.prio) t s'

/-- CALL (R163). -/
def callBody (d : Dst) (ofs : DWord) (u : Iss) (s : State) : Res :=
  let target := u.e.pc + ofs
  if target.toNat % 4 != 0 && u.exec != 0 then .trap .misalign target
  else
    let scalar := match d with | .s _ => true | _ => false
    let s := s.modWave u.k fun w =>
      w.putResult u.exec u.slot.t .a false scalar d none true (perLane fun _ => u.next)
    jumpTo u u.e.prio (fun _ => target) s

/-- JMARK (R164). -/
def jmarkBody (j : Nat) (ofs : DWord) (u : Iss) (s : State) : Res :=
  let release := fun (e : Entry) => if e.st = .wait (.join j) then e.passed [] else e
  let mark := fun (w : Wave) =>
    { w with
      frontier := match w.frontier with
        | [] => []
        | e :: t => e :: t.map release
      handler := w.handler.map fun (h : Handler) => { h with held := h.held.map release }
      j := w.j.set j ⟨u.e.pc + ofs, u.exec, 0⟩ }
  .ok (s.modWave u.k fun w => (mark w).merged) .seq

/-- JOIN (R165). -/
def joinBody (j : Nat) (u : Iss) (s : State) : Res :=
  match u.w.j.get? j with
  | none => .ok s .stop
  | some r =>
    let m := if r.pc = u.e.pc then u.exec &&& r.mask else 0
    if m = 0 then .ok s .stop
    else
      .ok (s.modWave u.k fun w => { w with j := w.j.set j { r with arrived := r.arrived ||| m } }) (u.waits m (.join j))

/-- A FENCE of the wave has not completed (R169). -/
def Wave.fencing (w : Wave) : Bool := w.lops.any fun o => match o.work with | .fence _ _ => !o.done | _ => false

/-- What an EXIT reports (R262, R351, R360): rejected updates; and, at the wave's last lanes, what its XC work and its
FENCEs have left. -/
def exitCovers (last : Bool) (r : Report) : Bool := r.isRdv || (last && (isFence r || r.ctr == .xc))

/-- EXIT (R169). -/
def exitBody (u : Iss) (s : State) : Res :=
  if u.exec = 0 then .ok s .stop
  else
    let last := u.w.lastLanes u.exec
    if last && (u.w.counter .xc != 0 || u.w.fencing) then .hold s
    else
      let r := u.w.takeReports u.w.handler.isSome (exitCovers last)
      match trapsOf u.e.pc u.e.pc u.exec false r.1 with
      | [] =>
        .ok (s.modWave u.k fun w => { w with exited := w.exited ||| u.exec }) (.leave [u.rest u.exec])
      | ts => .again (s.setWave u.k { r.2 with frontier := { u.e with report := ts } :: r.2.frontier.tail })

/-- WAITC (R170). -/
def waitcBody (l c x : Nat) (u : Iss) (s : State) : Res := .ok s (u.waits u.e.mask (.counts l c x))

/-- LWAIT (R172). -/
def lwaitBody (t ns : Nat) (u : Iss) (s : State) : Res :=
  let late := u.exec &&& u.w.lateOn t
  let r := u.w.takeReports u.w.handler.isSome (lwaitCovers t (u.exec &&& ~~~late))
  let traps := trapsOf u.e.pc u.next (u.exec &&& ~~~late) true r.1
  let (id, s) := (s.setWave u.k r.2).fresh
  let wait : Entry := { u.e with mask := late, starve := 0, len := u.len,
                                 st := .wait (.ticket t id (if ns = 0 then none else some (s.chrono + ns))) }
  .ok s (.split [wait, { u.rest late with report := traps }])

/-- SLEEP (R171). -/
def sleepBody (ns : Nat) (u : Iss) (s : State) : Res :=
  if ns = 0 then .ok s .stop else .ok s (u.waits u.e.mask (.sleep (s.chrono + ns)))

/-- SETPRIO (R168). -/
def setprioBody (pr : Fin 4) (u : Iss) (s : State) : Res :=
  .ok (s.modWave u.k fun w =>
    { w with frontier := match w.frontier with | [] => [] | e :: t => { e with prio := pr } :: t }) .seq

/-- TRAP, BRKPT and SYSCALL (R173, R368): the trap of `c`, unless no lane executes. -/
def trapBody (c : Cause) (addr : Nat) (u : Iss) (s : State) : Res :=
  if u.exec = 0 then .ok s .seq else .trapNext s c (BitVec.ofNat 64 addr) false

/-- The plan of an XT form with a predicate and the given operands. -/
def xtPlan (f : Xt) (srcs : List Opnd) (dsts : List (Src × Nat)) (pipe : Pipe) : Plan :=
  ⟨f.p, f.pn, srcs.map Opnd.named, dsts, [], pipe⟩

/-- The plan of a base form with the given operands. -/
def basePlan (srcs : List Opnd) (dsts : List (Src × Nat)) (pipe : Pipe) : Plan :=
  ⟨0, false, srcs.map Opnd.named, dsts, [], pipe⟩

/-- The pipe of a CALL. -/
def callPipe (d : Dst) : Pipe := match d with | .s _ => .scalar | _ => .vec

/-- A signed 14-bit word offset in bytes (R90). -/
def wordOfs (ofs : BitVec 14) : DWord := BitVec.ofInt 64 (4 * ofs.toInt)

/-- A priority of two bits. -/
def prioOf (n : Nat) : Fin 4 := ⟨n % 4, by omega⟩

/-! ### Instructions -/

/-- NOP (R168). -/
def execNopBs (rb : Bool) (s : State) : Host.Outcome State Fault Refusal :=
  issue (.nopBs rb) scalarPlan (fun _ s => .ok s .seq) s

/-- NOP in XT (R168). -/
def execNopXt (f : Xt) (s : State) : Host.Outcome State Fault Refusal :=
  issue (.nopXt f) scalarPlan (fun _ s => .ok s .seq) s

/-- BRA (R162). The predicate it reads is no wave-uniform source, so it runs on pipe A (R27; DEDUCED, notes/assumptions/74.md). -/
def execBraBb (f : Bb) (s : State) : Host.Outcome State Fault Refusal :=
  issue (.braBb f) ⟨0, false, [], [], [f.p.val], .vec⟩ (braBody f) s

/-- BRU (R162). -/
def execBruBb (f : Bb) (s : State) : Host.Outcome State Fault Refusal :=
  issue (.bruBb f) (basePlan [bruSrc f] [] .scalar) (bruBody f) s

/-- JMPI (R163). -/
def execJmpiBs (rb : Bool) (a : Src) (pr : Fin 4) (s : State) : Host.Outcome State Fault Refusal :=
  issue (.jmpiBs rb a pr) (basePlan [targetSrc a] [] (readPipe a)) (jumpBody a (some pr)) s

/-- JMPI in XT (R163). -/
def execJmpiXt (f : Xt) (s : State) : Host.Outcome State Fault Refusal :=
  issue (.jmpiXt f) (xtPlan f [targetSrc f.a] [] (readPipe f.a)) (jumpBody f.a (some (prioOf f.e8.toNat))) s

/-- CALL (R163). -/
def execCallBs (rb : Bool) (d : Dst) (ofs : BitVec 14) (s : State) : Host.Outcome State Fault Refusal :=
  issue (.callBs rb d ofs) (basePlan [] (dstNamed d true) (callPipe d)) (callBody d (wordOfs ofs)) s

/-- CALL in XT (R163). -/
def execCallXt (f : Xt) (s : State) : Host.Outcome State Fault Refusal :=
  issue (.callXt f) (xtPlan f [] (dstNamed f.d true) (callPipe f.d)) (callBody f.d (f.imm.signExtend 64)) s

/-- RET (R163). -/
def execRetBs (rb : Bool) (a : Src) (s : State) : Host.Outcome State Fault Refusal :=
  issue (.retBs rb a) (basePlan [targetSrc a] [] (readPipe a)) (jumpBody a none) s

/-- RET in XT (R163). -/
def execRetXt (f : Xt) (s : State) : Host.Outcome State Fault Refusal :=
  issue (.retXt f) (xtPlan f [targetSrc f.a] [] (readPipe f.a)) (jumpBody f.a none) s

/-- JMARK (R164). -/
def execJmarkBs (rb : Bool) (j : Fin 4) (ofs : BitVec 14) (s : State) : Host.Outcome State Fault Refusal :=
  issue (.jmarkBs rb j ofs) scalarPlan (jmarkBody j.val (wordOfs ofs)) s

/-- JMARK in XT (R164). -/
def execJmarkXt (f : Xt) (s : State) : Host.Outcome State Fault Refusal :=
  issue (.jmarkXt f) (xtPlan f [] [] .scalar) (jmarkBody (f.e8.toNat % 4) (f.imm.signExtend 64)) s

/-- JOIN (R165). -/
def execJoinBs (rb : Bool) (j : Fin 4) (s : State) : Host.Outcome State Fault Refusal :=
  issue (.joinBs rb j) plainPlan (joinBody j.val) s

/-- JOIN in XT (R165). -/
def execJoinXt (f : Xt) (s : State) : Host.Outcome State Fault Refusal :=
  issue (.joinXt f) (xtPlan f [] [] .none) (joinBody (f.e8.toNat % 4)) s

/-- EXIT (R169). -/
def execExitBs (rb : Bool) (s : State) : Host.Outcome State Fault Refusal :=
  issue (.exitBs rb) plainPlan exitBody s

/-- EXIT in XT (R169). -/
def execExitXt (f : Xt) (s : State) : Host.Outcome State Fault Refusal :=
  issue (.exitXt f) (xtPlan f [] [] .none) exitBody s

/-- WAITC (R170). -/
def execWaitcBs (rb : Bool) (l : Fin 64) (c : Fin 16) (x : Fin 64) (s : State) : Host.Outcome State Fault Refusal :=
  issue (.waitcBs rb l c x) plainPlan (waitcBody l.val c.val x.val) s

/-- WAITC in XT (R167, R170). -/
def execWaitcXt (f : Xt) (s : State) : Host.Outcome State Fault Refusal :=
  issue (.waitcXt f) plainPlan (waitcBody (bits f.imm.toNat 5 0) (bits f.imm.toNat 9 6) (bits f.imm.toNat 15 10)) s

/-- LWAIT (R172). -/
def execLwaitBs (rb : Bool) (t : Fin 4) (ns : BitVec 19) (s : State) : Host.Outcome State Fault Refusal :=
  issue (.lwaitBs rb t ns) plainPlan (lwaitBody t.val ns.toNat) s

/-- LWAIT in XT (R172). -/
def execLwaitXt (f : Xt) (s : State) : Host.Outcome State Fault Refusal :=
  issue (.lwaitXt f) (xtPlan f [] [] .none) (lwaitBody (f.e8.toNat % 4) f.imm.toNat) s

/-- SLEEP (R171). -/
def execSleepBs (rb : Bool) (ns : BitVec 21) (s : State) : Host.Outcome State Fault Refusal :=
  issue (.sleepBs rb ns) plainPlan (sleepBody ns.toNat) s

/-- SLEEP in XT (R171). -/
def execSleepXt (f : Xt) (s : State) : Host.Outcome State Fault Refusal :=
  issue (.sleepXt f) plainPlan (sleepBody f.imm.toNat) s

/-- YIELD (R171). -/
def execYieldBs (rb : Bool) (s : State) : Host.Outcome State Fault Refusal :=
  issue (.yieldBs rb) plainPlan (fun _ s => .ok s .stop) s

/-- YIELD in XT (R171). -/
def execYieldXt (f : Xt) (s : State) : Host.Outcome State Fault Refusal :=
  issue (.yieldXt f) plainPlan (fun _ s => .ok s .stop) s

/-- SETPRIO (R168). -/
def execSetprioBs (rb : Bool) (pr : Fin 4) (s : State) : Host.Outcome State Fault Refusal :=
  issue (.setprioBs rb pr) scalarPlan (setprioBody pr) s

/-- SETPRIO in XT (R168). -/
def execSetprioXt (f : Xt) (s : State) : Host.Outcome State Fault Refusal :=
  issue (.setprioXt f) scalarPlan (setprioBody (prioOf f.e8.toNat)) s

/-- TRAP (R173). -/
def execTrapBs (rb : Bool) (code : BitVec 16) (s : State) : Host.Outcome State Fault Refusal :=
  issue (.trapBs rb code) plainPlan (trapBody .syscall (65536 + code.toNat)) s

/-- TRAP in XT (R173). -/
def execTrapXt (f : Xt) (s : State) : Host.Outcome State Fault Refusal :=
  issue (.trapXt f) (xtPlan f [] [] .none) (trapBody .syscall (65536 + f.imm.toNat % 65536)) s

/-- BRKPT (R173). -/
def execBrkptBs (rb : Bool) (code : BitVec 16) (s : State) : Host.Outcome State Fault Refusal :=
  issue (.brkptBs rb code) plainPlan (trapBody .brkpt code.toNat) s

/-- BRKPT in XT (R173). -/
def execBrkptXt (f : Xt) (s : State) : Host.Outcome State Fault Refusal :=
  issue (.brkptXt f) (xtPlan f [] [] .none) (trapBody .brkpt (f.imm.toNat % 65536)) s

/-- SYSCALL (R173, R368). -/
def execSyscallBs (rb : Bool) (code : BitVec 16) (s : State) : Host.Outcome State Fault Refusal :=
  issue (.syscallBs rb code) plainPlan (trapBody .syscall code.toNat) s

/-- SYSCALL in XT (R173, R368). -/
def execSyscallXt (f : Xt) (s : State) : Host.Outcome State Fault Refusal :=
  issue (.syscallXt f) (xtPlan f [] [] .none) (trapBody .syscall (f.imm.toNat % 65536)) s

/-! ### Runs and suspensions (R23 to R25, R160) -/

/-- The context of a wave may issue: it is not held by pre-emption or a kill, and its tenancy is not stopped (R23, R381,
R446). -/
def State.mayIssue (s : State) (w : Wave) : Bool :=
  match s.ctxAt? w.ctx with
  | none => false
  | some c => c.st == .live && !((s.host.tens.get? c.ten).map (·.stopped)).getD false

/-- The wave's run has been stopped as TRET returned to it (R364, R381). -/
def Wave.stopped (w : Wave) : Bool := match w.susp with | some x => x.kind == .stopped | none => false

/-- A suspended wave may go on: its context runs, or is being stopped while the wave's run is open; a trap wait stops at
once (R381). -/
def State.mayResume (s : State) (w : Wave) : Bool :=
  match s.ctxAt? w.ctx with
  | none => false
  | some c => (c.st == .live || (c.st == .stopping && w.trapWait.isNone && !w.stopped)) &&
      !((s.host.tens.get? c.ten).map (·.stopped)).getD false

/-- A wave the core may take at a run boundary (R23). -/
def State.selectable (s : State) (w : Wave) : Bool :=
  !w.run.isOpen && w.susp.isNone && w.trapWait.isNone && (selectEntry w.frontier).isSome && s.mayIssue w

/-- The next wave of a core, in round-robin order after the wave that ran last (R23). -/
def State.nextWave (s : State) (core : Nat) : Option Nat :=
  let c := s.coreAt core
  ((List.range 32).map fun i => core * 32 + (c.last + 1 + i) % 32).find? fun k =>
    match s.waveAt? k with
    | none => false
    | some w => s.selectable w

/-- RUN_START (R23, R24, R160): the core takes the next wave, and its scheduler an entry. The due cycles of the latches and slots
are kept, since R37 counts a producer of a run still in its pipeline too (DEDUCED, notes/assumptions/74.md). -/
def execRunStart (core : Nat) (s : State) : Host.Outcome State Fault Refusal :=
  .next <|
    if (s.coreAt core).run.isSome then s
    else
      match s.nextWave core with
      | none => s
      | some k =>
        let cycle := (s.coreAt core).cycle + s.freeNum 1
        let s := s.modWave k fun w =>
          { w with frontier := startEntries w.frontier, up := Upper.none, run := ⟨true, 0, cycle⟩ }.count 2 1
        s.modCore core fun c => { c with run := some k, cycle := cycle }

/-- Since which cycle a wave on its core is suspended or in a trap wait, if its state is not saved. -/
def Wave.heldSince (w : Wave) : Option Nat :=
  match w.trapWait, w.susp with
  | some t, _ => if t.saved.isNone then some t.since else none
  | none, some x => if x.saved.isNone then some x.since else none
  | none, none => none

/-- SUSPEND_SAVE (R25): a suspension or trap wait of more than 256 cycles saves the upper levels and frees the core. -/
def execSuspendSave (wave : Nat) (s : State) : Host.Outcome State Fault Refusal :=
  .next <|
    match s.waveAt? wave with
    | none => s
    | some w =>
      match w.heldSince with
      | none => s
      | some since =>
        if (s.coreAt (coreOfWave wave)).run ≠ some wave then s
        else
          let s := s.modCore (coreOfWave wave) fun c => { c with cycle := max c.cycle (since + 257) }
          (s.modWave wave fun w =>
            { w with
              susp := w.susp.map fun x => { x with saved := some (w.up, w.run.slots) }
              trapWait := w.trapWait.map fun t => { t with saved := some (w.up, w.run.slots) } }).leaveCore wave

/-! ### Waits that end (R161, R171, R172, R254) -/

/-- Apply `f` to the waiting entry that holds a lane. -/
def Wave.entryOf (w : Wave) (lane : Nat) (f : Bool → Wave → Entry → Wave × List Entry) : Wave :=
  w.eachEntry fun held w e => if inMask e.mask lane then f held w e else (w, [e])

/-- SLEEP_WAKE (R171). -/
def execSleepWake (wave lane : Nat) (s : State) : Host.Outcome State Fault Refusal :=
  .next <| s.modWave wave fun w => w.entryOf lane fun _ w e =>
    match e.st with
    | .wait (.sleep t) => if t ≤ s.chrono then (w, [e.passed []]) else (w, [e])
    | _ => (w, [e])

/-- LWAIT_TIMEOUT (R172): the lanes whose data has arrived go on; the late lanes wait without a timeout. -/
def execLwaitTimeout (wave lane : Nat) (s : State) : Host.Outcome State Fault Refusal :=
  .next <| s.modWave wave fun w => w.entryOf lane fun held w e =>
    match e.st with
    | .wait (.ticket t id (some d)) =>
      if s.chrono < d then (w, [e])
      else
        let late := e.mask &&& w.lateOn t
        let r := w.takeReports (w.handler.isSome && !held) (lwaitCovers t (e.mask &&& ~~~late))
        let go := { e with mask := e.mask &&& ~~~late }.passed
          (trapsOf e.pc (e.pc + BitVec.ofNat 64 e.len) (e.mask &&& ~~~late) true r.1)
        (r.2, [go, { e with mask := late, st := .wait (.ticket t id none) }].filter fun e => e.mask != 0)
    | _ => (w, [e])

/-- A PWAIT reads its object at its time (R254, R262): it completes as RDVWAIT does, or raises PROMISE. -/
def pwaitRead (w : Wave) (held ecc : Bool) (o : RdvObj) (off : Nat) (e : Entry) : Wave × Entry :=
  let trap := fun (c : Cause) => e.passed [⟨c, false, false, e.pc, scratchAddr off, e.mask, e.pc + BitVec.ofNat 64 e.len, true⟩]
  match e.st with
  | .wait (.promise _ ph sd _) =>
    if o.malformed then (w, trap .rdverr)
    else if o.phase != ph then w.completeRdv held ecc o off sd e
    else (w, trap .promise)
  | _ => (w, e)

/-- The object of a waiting PWAIT whose time has come (R254). -/
def Entry.promiseDue (t : Nat) (e : Entry) : Option Nat :=
  match e.st with
  | .wait (.promise off _ _ d) => if d ≤ t then some off else none
  | _ => none

/-- A PWAIT that completes as RDVWAIT does (R254). -/
def Entry.phaseOver (o : RdvObj) (e : Entry) : Bool :=
  match e.st with
  | .wait (.promise _ ph _ _) => !o.malformed && o.phase != ph
  | _ => false

/-- PWAIT_WAKE (R254): the PWAIT of a lane reads its object, after a RDVINIT that the wave issued before it (R208, R259). -/
def execPwaitWake (wave lane : Nat) (s : State) : Host.Outcome State Fault Refusal :=
  .next <|
    match s.waveAt? wave with
    | none => s
    | some w =>
      match s.groupAt? w.group, (w.allEntries.find? fun e => inMask e.mask lane).bind (Entry.promiseDue s.chrono) with
      | some g, some off =>
        if s.initPending wave w.group off s.nextId then s
        else
          let o := g.rdv off
          let mine := fun (e : Entry) => inMask e.mask lane && e.promiseDue s.chrono == some off
          let s := s.completeWaits w.group off wave (fun e => mine e && e.phaseOver o) fun held ecc w e =>
            let r := pwaitRead w held ecc o off e
            (r.1, [r.2])
          s.modWave wave fun w => w.eachEntry fun held w e =>
            if mine e then let r := pwaitRead w held false o off e; (r.1, [r.2]) else (w, [e])
      | _, _ => s

end Sys2Proof.Machine
end

