-- ==== Sys2Proof/Machine/MemInstr.lean ====
section
/-! DEFINITION. Memory instructions (chapter 10), and the steps by which their accesses are performed, return and land
(R198 to R210, R228 to R241). -/

namespace Sys2Proof

open Machine

/-- The instruction acts once for the wave (R228). -/
def MOp.once : MOp → Bool
  | .sld => true
  | .sst => true
  | _ => false

/-- The instruction sends data registers (R225). -/
def MOp.sends : MOp → Bool
  | .st | .sst | .atom | .atomf | .red | .redf | .cas | .mcred => true
  | _ => false

/-- The instruction returns data, and is counted for it (R39). -/
def MOp.ctr : MOp → Ctr
  | .ld | .ldnf | .atom | .atomf | .cas => .ldc
  | .sld => .sc
  | _ => .none

/-- What the access needs of its page (R378). -/
def MOp.want : MOp → Want
  | .ld | .ldnf | .sld => .load
  | .st | .sst => .store
  | .mcred => .mcred
  | _ => .atomic

/-- The private window is accepted (R188). -/
def MOp.priv : MOp → Bool
  | .ld | .st | .ldnf => true
  | _ => false

/-- ORD holds a release. -/
def Ord.releases : Ord → Bool
  | .release => true
  | .acqrel => true
  | _ => false

/-- ORD holds an acquire. -/
def Ord.acquires : Ord → Bool
  | .acquire => true
  | .acqrel => true
  | _ => false

/-- A fence of a scope reads the failure record (R303). -/
def Scope.reads : Scope → Bool
  | .fabric => true
  | .system => true
  | _ => false

/-- The stores of the wave are visible to the quad's TCE (R210). -/
def Scope.orders : Scope → Bool
  | .group => false
  | _ => true

end Sys2Proof

namespace Sys2Proof.Machine

/-! ### A memory instruction as it is read (R55, R59, R60, R225, R226) -/

/-- Its opcode, predicate, data field, size, address operands, and the XM fields; a BM form has device scope, relaxed
order, normal class and no ticket. -/
structure MemI where
  op : MOp
  p : Fin 16
  pn : Bool
  d : Dst
  sz : Size
  a : Src
  ak : Bool
  x : Option Src
  xsh : Nat
  ofs : DWord
  lit : Option DWord
  scope : Scope
  ord : Ord
  cls : Nat
  tk : Option Nat
  sign : Bool
  atom : AtomOp

/-- A BM form (R55). -/
def memBm (op : MOp) (f : Bm) : MemI :=
  ⟨op, 0, false, f.d, f.sz, f.a, false, none, 0, BitVec.ofNat 64 (f.off4.val * f.sz.bytes), none, .device, .relaxed, 0, none,
    false, .add⟩

/-- A BM hint: its offset counts bytes (R226). -/
def memHint (op : MOp) (f : BmHint) : MemI :=
  ⟨op, 0, false, .null, .b8, f.a, false, none, 0, BitVec.ofNat 64 f.off4.val, none, .device, .relaxed, 0, none, false, .add⟩

/-- An XM form (R59, R60): an index of inline constant 0 is none. -/
def memXm (op : MOp) (f : Xm) : MemI :=
  ⟨op, f.p, f.pn, f.d, f.sz, f.a, f.ak, if f.x = .const 0 then none else some f.x, f.xsh.val, f.ofs.signExtend 64, f.lit,
    f.scope, f.ord, f.cls.val, f.tk.map (·.val), f.func6.val % 2 == 1, ((atomOf op f.func6).map (·.1)).getD .add⟩

/-- What its accesses do. -/
def MemI.kind (m : MemI) : AKind :=
  match m.op with
  | .st | .sst => .store
  | .atom | .atomf | .cas => .atom m.atom
  | .red | .redf => .red m.atom
  | .mcred => .mcred m.atom
  | _ => .load

/-- Registers of the data group (R225, R236). -/
def MemI.regs (m : MemI) : Nat :=
  match m.d with
  | .v _ => match m.op with | .cas => 2 * m.sz.regs | _ => m.sz.regs
  | .s _ => match m.sz with | .b128 => 2 | _ => 1
  | .null => 0

/-- The base and the index (R60). -/
def MemI.addrSrcs (m : MemI) : List Opnd :=
  { opnd m.a .i64 with kill := m.ak } :: (m.x.map fun x => opnd x .i32).toList

/-- The registers of the data group as sources. -/
def MemI.dataSrcs (m : MemI) : List Opnd :=
  if m.op.sends then
    match m.d with
    | .v r => (List.range m.regs).map fun i => opnd (.v ⟨(r.val + i) % 128, Nat.mod_lt _ (by decide)⟩) .i32
    | .s r => (List.range m.regs).map fun i => opnd (.s ⟨(r.val + i) % 64, Nat.mod_lt _ (by decide)⟩) .i64
    | .null => []
  else []

/-- Its plan (R16, R37). -/
def MemI.plan (m : MemI) : Plan :=
  ⟨m.p, m.pn, (m.addrSrcs ++ m.dataSrcs).map Opnd.named,
    match m.d with | .v r => [(.v r, m.regs)] | .s r => [(.s r, m.regs)] | .null => [], [], .none⟩

/-- The effective address of a lane (R55, R60). -/
def MemI.addr (m : MemI) (s : State) (w : Wave) (L : Nat) : DWord :=
  let idx : DWord := match m.x with
    | none => 0
    | some x => ((s.readOpnd w m.lit (opnd x .i32) L).truncate 32).signExtend 64 <<< m.xsh
  s.readOpnd w m.lit (opnd m.a .i64) L + idx + m.ofs

/-- The bytes a lane sends (R225, R236). -/
def MemI.data (m : MemI) (s : State) (w : Wave) (L : Nat) : List Byte :=
  let n := match m.op with | .cas => 2 * m.sz.bytes | _ => m.sz.bytes
  let width := match m.d with | .v _ => 4 | _ => 8
  (m.dataSrcs.flatMap fun o => bytesOf width (s.readOpnd w m.lit o L).toNat).take n

/-- The registers that receive data, one after another (R225, R235, R236), and LDNF's predicate (R232). -/
def MemI.writes (m : MemI) (mask : Mask) : List LWrite :=
  let from_ := match m.op with | .cas => m.sz.regs | _ => 0
  let regs := match m.op.ctr, m.d with
    | .none, _ => []
    | _, .v r => (List.range (m.regs - from_)).map fun i => RegRef.v (r.val + from_ + i)
    | _, .s r => (List.range m.regs).map fun i => RegRef.s (r.val + i)
    | _, .null => []
  let regs := if m.op == .ldnf ∧ m.p ≠ 0 then regs ++ [RegRef.p m.p.val] else regs
  regs.map fun r => ⟨r, mask, [], 0⟩

/-- The lanes that perform an access, by R228. -/
def MemI.lanes (m : MemI) (exec : Mask) : Mask := if m.op.once then (if exec = 0 then 0 else 1) else exec

/-- TRAPADDR of the DEADREAD trap of its sources (R34): base, index, then the data group, whose dead registers are all named by the
first register of the D field (DESIGN CHOICE, notes/assumptions/73.md). -/
def MemI.dead (m : MemI) (w : Wave) (exec : Mask) : Option DWord :=
  if !w.strict then none
  else
    match deadRead w exec m.addrSrcs with
    | some x => some x
    | none => (deadRead w exec m.dataSrcs).map fun _ => BitVec.ofNat 64 (srcCode (dstSel m.d))

/-! ### Targets (R237, R240) -/

/-- The operations a host port carries as AtomicOps (R237). -/
def MemI.hostAtomic (m : MemI) : Bool :=
  match m.op with
  | .atom => m.atom == .add || m.atom == .exch
  | .red => m.atom == .add
  | .cas => true
  | _ => false

/-- A target the instruction accepts (R237, R240). -/
def MemI.accepts (m : MemI) (swred : Bool) (t : Target) : Bool :=
  match m.op.want, t with
  | .mcred, .mcast .. => swred
  | .mcred, _ => false
  | .atomic, .host .. => m.hostAtomic
  | .atomic, .param .. => false
  | _, _ => true

/-- The issuing context's tenancy accepts switch reductions (R240, R398). -/
def State.swred (s : State) (w : Wave) : Bool := (s.policy w.ten).getLsbD 2

/-! ### Issue (R209, R228, R294, R295) -/

/-- The waits of a release, over everything the wave has issued (R209, R210). -/
def State.released (s : State) (k : Nat) (scope : Scope) : Bool :=
  match s.waveAt? k with
  | none => true
  | some w => s.fenceHolds k w scope s.nextId

/-- What a system-scope wait sends while it waits (R222). -/
def State.pressHost (s : State) (k : Nat) (scope : Scope) : State :=
  match scope with
  | .system => s.flushHost (.wave k)
  | _ => s

/-- A fence or a release of wave `k` orders what the wave has issued before it: its stores for the quad's TCE, and the copies it
has waited for (R209, R210, R215, R228). -/
def State.order (s : State) (g k before : Nat) (scope : Scope) : State :=
  (if scope.orders then s.orderStores g k before else s).publishCpys g k

/-- Where an access starts. -/
def firstStage (kind : AKind) : Target → Stage
  | .remote .. => .needSlot
  | .mcast .. => .needSlot
  | .host .. => if kind = .store then .travelling else .needSlot
  | _ => .travelling

/-- The accesses of the lanes of a list, numbered from `id` up. -/
def makeAccs (mk : Nat → Nat → Nat → Target → Option (Nat × Nat) → Acc) (l : List (Nat × Parts)) : List Acc :=
  l.flatMap fun e => e.2.map fun p => mk e.1 p.1 p.2.1 p.2.2.1 p.2.2.2

/-- The lease length of a context, ns (R202, R359). -/
def State.leaseOf (s : State) (ctx : Nat) : Nat :=
  match s.ctxAt? ctx with
  | none => 0
  | some c => c.clease.toNat

/-- The accesses of an instruction enter the memory system: the core's copies of lines it stores to are dropped, requests
take reply slots, and host writes leave (R192, R222, R228, R295). -/
def State.launchAccs (s : State) (o : Owner) (core : Nat) (l : List Acc) : State :=
  let l := l.zipIdx.map fun e => { e.1 with id := s.nextId + e.2 }
  let s := { s with nextId := s.nextId + l.length, mem := { s.mem with accs := s.mem.accs ++ l } }
  let s := l.foldl (fun s a =>
    match a.owner, a.kind, a.line? with
    | .wave _, .load, _ => s
    | .wave _, _, some line => s.dropL1 core line
    | _, _, _ => s) s
  (s.takeSlots o l.length).pushHost o

/-- Issue the accesses whose checks have passed. An LDNF lane that is not resident for want of a translation or a permission leaves
PEERST as it is: no device has failed (DESIGN CHOICE, notes/assumptions/75.md). -/
def MemI.launch (m : MemI) (u : Iss) (lanes : Mask) (ps : List (Nat × Option Parts)) (s : State) : Res :=
  let w := u.w
  let (id, s) := s.fresh
  let good := ps.filterMap fun e => e.2.map fun p => (e.1, p)
  let mk := fun (L off size : Nat) (t : Target) (page : Option (Nat × Nat)) =>
    (⟨0, .wave u.k, coreOfWave u.k, id, L, off, m.kind, t, size,
      if m.op.sends then (if m.op == .cas then m.data s w L else ((m.data s w L).drop off).take size) else [], m.cls,
      s.leaseOf w.ctx, w.ten, w.launch, (s.launchAt? w.launch).bind (·.chain), firstStage m.kind t,
      none, false, page⟩ : Acc)
  let accs := makeAccs mk good
  let work : LWork := .load m.sz m.sign m.op
  let op : LOp := ⟨id, m.op.ctr, u.e.pc, work, lanes, 0, lanes, m.writes lanes, true, m.ord.acquires, m.tk, u.slot.t, 0, none⟩
  let op := ps.foldl (fun (o : LOp) e => if e.2.isNone then o.giveFailure e.1 else o) op
  let w := readEffects s u.w u.exec m.lit (m.addrSrcs ++ m.dataSrcs) w
  let w := if m.op.ctr = .none then w else w.enter op
  let s := s.setWave u.k (w.retire u.slot.t)
  let s := s.launchAccs (.wave u.k) (coreOfWave u.k) accs
  if s.needsSlots (.wave u.k) then .part s [] else .ok s .seq

/-- A release orders what the wave has issued, as its access issues (R209, R228). -/
def MemI.orders (m : MemI) (u : Iss) (s : State) : State :=
  if m.ord.releases then s.order u.w.group u.k s.nextId m.scope else s

/-- The page-request kind of a wanted access: a read or a write (R366). -/
def Want.kind : Want → Nat
  | .load => 0
  | .fetch => 2
  | _ => 1

/-- The effect of a memory instruction with accesses (R228). -/
def MemI.body (m : MemI) (u : Iss) (s : State) : Res :=
  match m.dead u.w u.exec with
  | some x => .trap .deadread x
  | none =>
    let lanes := m.lanes u.exec
    let r := s.checkLanes u m.op.want m.op.priv (m.op == .ldnf) (m.accepts (s.swred u.w)) m.sz.bytes
      ((lanesIn lanes).map fun L => (L, (m.addr s u.w L).toNat))
    match r.2 with
    | .error (.trap c, va) => .trap c (BitVec.ofNat 64 va)
    | .error (.page vpn, va) => .page r.1 vpn m.op.want.kind (BitVec.ofNat 64 va)
    | .error (.go _, _) => .ok s .seq
    | .ok ps =>
      let s := r.1
      if u.w.heldLater then .hold s
      else if m.ord.releases && !s.released u.k m.scope then .hold (s.pressHost u.k m.scope)
      else if m.op.ctr != .none && u.w.full m.op.ctr then .hold s
      else m.launch u lanes ps (m.orders u s)

/-- Issue a memory instruction with accesses. -/
def runMem (i : Instr) (m : MemI) (s : State) : Host.Outcome State Fault Refusal := issue i m.plan m.body s

/-! ### FENCE (R210, R238) -/

/-- FENCE: held by an earlier acquire or FENCE; counted in SC when it has a status. With no executing lane it does nothing
(R11). -/
def fenceBody (scope : Scope) (d : Dst) (u : Iss) (s : State) : Res :=
  let ctr : Ctr := match d with | .s _ => .sc | _ => .none
  if u.exec = 0 then .ok s .seq
  else if u.w.heldLater then .hold s
  else if ctr != .none && u.w.full ctr then .hold s
  else
    let (id, s) := s.fresh
    let writes : List LWrite := match d with | .s n => [⟨.s n.val, 1, [], 0⟩] | _ => []
    let sd := match d with | .s _ => true | _ => false
    let m : Mask := if sd then 1 else 0
    let op : LOp := ⟨id, ctr, u.e.pc, .fence scope sd, m, 0, m, writes, false, false, none, u.slot.t, 0, none⟩
    .ok ((s.modWave u.k fun w => w.enter op).pressHost u.k scope) .seq

/-- Where a fence has failures to report, the lanes of the atomics issued before it hold what they have received (R303). -/
def Wave.failsLanded (w : Wave) (scope : Scope) (before : Nat) : Bool :=
  !scope.reads || w.fail.first.isNone || w.lops.all fun o =>
    !(decide (o.id < before)) || (match o.work with | .load .. => o.ready &&& o.left == 0 | _ => true)

/-- A store's PROT that no FENCE has reported. -/
def Report.unfenced (r : Report) : Bool := r.cause == .prot && r.ctr == .none && r.lane.isSome

/-- A fabric or system FENCE at `pc` has completed: of the stores that met a line of another tenancy the first is reported by it
(R396; notes/assumptions/59.md). -/
def Wave.reportProt (w : Wave) (pc : DWord) : Wave :=
  match w.reports.find? Report.unfenced with
  | none => w
  | some r => { w with reports := w.reports.filter (fun x => !x.unfenced) ++ [{ r with lane := none, pc := pc }] }

/-- FENCE_COMPLETE (R210, R238, R303, R307). -/
def execFenceComplete (wave op : Nat) (s : State) : Host.Outcome State Fault Refusal :=
  .next <|
    match s.waveAt? wave with
    | none => s
    | some w =>
      match w.op? op with
      | none => s
      | some o =>
        match o.work with
        | .fence scope sd =>
          if o.done then s
          else if !s.fenceHolds wave w scope op || !w.failsLanded scope op then s.pressHost wave scope
          else
            let f := if scope.reads then w.fail else ⟨0, none, none, 0, 0⟩
            let word := match f.first with | none => 0 | some x => statusWord f.n x
            let w := if scope.reads then { w with fail := ⟨0, none, none, 0, 0⟩ } else w
            let w := if f.first.isNone then w
              else { w with peerst := BitVec.ofNat 64 (f.peer * 2 ^ 52 + ((w.peerst.toNat % 256) ||| f.bits)) }
            let w := if !sd && f.first.isSome then
                { w with reports := w.reports ++ [⟨.fabric, .none, op, none, none, o.pc, word, none⟩] }
              else w
            let w := if scope.reads then w.reportProt o.pc else w
            let w := w.modOp op fun o => { o with
              done := true
              ready := o.mask
              writes := o.writes.map fun (x : LWrite) => { x with vals := [word] } }
            let s := s.setWave wave w
            let s := s.order w.group wave op scope
            (s.landOp wave op fullMask).wakeWave wave
        | _ => s

/-! ### Hints and PGREQ (R233, R239) -/

/-- The device line a hint's address names, if it translates to device memory without a trap (R239): none of an address outside the
global window, which only LD, ST and LDNF may leave for the private window (R188, R228). -/
def State.hintLine (s : State) (u : Iss) (va : Nat) : State × Option Nat :=
  let go := fun (va : Nat) =>
    let r := s.translateCore (coreOfWave u.k) u.w.ctx va .load
    match r.1 with
    | .to (.dev pa) => (r.2, some (lineOf pa))
    | _ => (r.2, none)
  if va < 2 ^ 57 then go va else (s, none)

/-- PREF of a line (R239): into the L1 with a lease, into the home slice alone, or into a replica and the L1. -/
def State.prefetch (s : State) (u : Iss) (cls line : Nat) : State :=
  let core := coreOfWave u.k
  let s := s.settle
  if inWindow s.house (line * 128) then s
  else
    let s := s.modMem fun m => m.llcTouch line cls u.w.ten
    if cls = 1 ∨ s.mem.accs.any (blocksCopy core line) then s
    else
      match s.mem.leaseFor s.chrono line (s.leaseOf u.w.ctx) with
      | none => s
      | some e =>
        let copy : Leased := ⟨Memory.read s.mem.bytes (line * 128) 128, e, u.w.launch, s.linePoison line⟩
        let s := s.modMem fun m => { m with lines := m.lines.set line { m.line line with emax := max (m.line line).emax e } }
        let s := if cls = 3 ∧ dieOfPa (line * 128) ≠ dieOfCore core then
            s.modMem fun m => m.fillReplica (dieOfCore core) line u.w.ten copy
          else s
        s.modCore core fun c => c.fillL1 line copy (s.freeNum (2 ^ 32 + line))

/-- CDEMOTE of a line (R197, R239): its data, dirty state and tenancy stay. -/
def State.demoteLine (s : State) (line : Nat) : State :=
  s.modMem fun m => match m.llc.get? line with
    | none => m
    | some l => { m with llc := m.llc.set line { l with demoted := true } }

/-- The effect of a hint on each executing lane's line. It traps only on its encoding (R239): a dead base or index reads as zero under
STRICT too (DESIGN CHOICE, notes/assumptions/75.md). -/
def hintBody (m : MemI) (act : Iss → Nat → State → State) (u : Iss) (s : State) : Res :=
  if u.w.heldLater then .hold s
  else
    let addrs := (lanesIn u.exec).map fun L => (m.addr s u.w L).toNat
    let r := addrs.foldl (fun (acc : State × List Nat) va =>
      let r := acc.1.hintLine u va
      (r.1, acc.2 ++ r.2.toList)) (s, [])
    let s := (distinct r.2).foldl (fun s l => act u l s) r.1
    .ok (s.modWave u.k fun w => readEffects s u.w u.exec m.lit m.addrSrcs w) .seq

/-- PREF. -/
def prefAct (cls : Nat) (u : Iss) (line : Nat) (s : State) : State := s.prefetch u cls line
/-- CINV: the core's copy is dropped. -/
def cinvAct (u : Iss) (line : Nat) (s : State) : State := s.dropL1 (coreOfWave u.k) line
/-- CDEMOTE. -/
def cdemoteAct (_ : Iss) (line : Nat) (s : State) : State := s.demoteLine line

/-- Post residency requests for pages, one after another; those a full ring leaves come back (R233, R367). -/
def State.postAll (s : State) (ctx launch : Nat) : List Nat → State × List Nat
  | [] => (s, [])
  | v :: t =>
    let r := s.postPage ctx v 3 launch
    match r.1 with
    | .waits => (s, v :: t)
    | _ => State.postAll r.2 ctx launch t

/-- The pages without a valid translation under the global addresses of a list (R233). -/
def State.absentPages (s : State) (u : Iss) : List Nat → State × List Nat
  | [] => (s, [])
  | va :: t =>
    if 2 ^ 57 ≤ va then State.absentPages s u t
    else
      let r := s.translateCore (coreOfWave u.k) u.w.ctx va .load
      let rest := State.absentPages r.2 u t
      match r.1 with
      | .invalid => (rest.1, (va / 4096) :: rest.2)
      | _ => rest

/-- PGREQ (R233): a full ring suspends it until its last post. -/
def pgreqBody (m : MemI) (u : Iss) (s : State) : Res :=
  match m.dead u.w u.exec with
  | some x => .trap .deadread x
  | none =>
    if u.w.heldLater then .hold s
    else
      let r := s.absentPages u ((lanesIn u.exec).map fun L => (m.addr s u.w L).toNat)
      let t := r.1.postAll u.w.ctx u.w.launch (distinct r.2)
      let s := t.1.modWave u.k fun w => readEffects s u.w u.exec m.lit m.addrSrcs w
      if t.2 = [] then .ok s .seq else .part s t.2

/-! ### Instructions -/

/-- LD (R229). -/
def execLdBm (f : Bm) (s : State) : Host.Outcome State Fault Refusal := runMem (.ldBm f) (memBm .ld f) s
/-- LD in XM (R229). -/
def execLdXm (f : Xm) (s : State) : Host.Outcome State Fault Refusal := runMem (.ldXm f) (memXm .ld f) s
/-- ST (R234). -/
def execStBm (f : Bm) (s : State) : Host.Outcome State Fault Refusal := runMem (.stBm f) (memBm .st f) s
/-- ST in XM (R234). -/
def execStXm (f : Xm) (s : State) : Host.Outcome State Fault Refusal := runMem (.stXm f) (memXm .st f) s
/-- LDNF (R232). -/
def execLdnfBm (f : Bm) (s : State) : Host.Outcome State Fault Refusal := runMem (.ldnfBm f) (memBm .ldnf f) s
/-- LDNF in XM (R232). -/
def execLdnfXm (f : Xm) (s : State) : Host.Outcome State Fault Refusal := runMem (.ldnfXm f) (memXm .ldnf f) s
/-- ATOM (R235). -/
def execAtomXm (f : Xm) (s : State) : Host.Outcome State Fault Refusal := runMem (.atomXm f) (memXm .atom f) s
/-- ATOMF (R235). -/
def execAtomfXm (f : Xm) (s : State) : Host.Outcome State Fault Refusal := runMem (.atomfXm f) (memXm .atomf f) s
/-- RED (R235). -/
def execRedXm (f : Xm) (s : State) : Host.Outcome State Fault Refusal := runMem (.redXm f) (memXm .red f) s
/-- REDF (R235). -/
def execRedfXm (f : Xm) (s : State) : Host.Outcome State Fault Refusal := runMem (.redfXm f) (memXm .redf f) s
/-- CAS (R236). -/
def execCasXm (f : Xm) (s : State) : Host.Outcome State Fault Refusal := runMem (.casXm f) (memXm .cas f) s
/-- FENCE (R210, R238). -/
def execFenceXm (f : Xm) (s : State) : Host.Outcome State Fault Refusal :=
  issue (.fenceXm f) ⟨f.p, f.pn, [], dstNamed f.d true, [], .none⟩ (fenceBody f.scope f.d) s
/-- PREF (R239). -/
def execPrefBm (f : BmHint) (s : State) : Host.Outcome State Fault Refusal :=
  issue (.prefBm f) (memHint .pref f).plan (hintBody (memHint .pref f) (prefAct 0)) s
/-- PREF in XM (R239). -/
def execPrefXm (f : Xm) (s : State) : Host.Outcome State Fault Refusal :=
  issue (.prefXm f) { (memXm .pref f).plan with dsts := [] } (hintBody (memXm .pref f) (prefAct f.cls.val)) s
/-- CINV (R239). -/
def execCinvBm (f : BmHint) (s : State) : Host.Outcome State Fault Refusal :=
  issue (.cinvBm f) (memHint .cinv f).plan (hintBody (memHint .cinv f) cinvAct) s
/-- CINV in XM (R239). -/
def execCinvXm (f : Xm) (s : State) : Host.Outcome State Fault Refusal :=
  issue (.cinvXm f) { (memXm .cinv f).plan with dsts := [] } (hintBody (memXm .cinv f) cinvAct) s
/-- CDEMOTE (R197, R239). -/
def execCdemoteBm (f : BmHint) (s : State) : Host.Outcome State Fault Refusal :=
  issue (.cdemoteBm f) (memHint .cdemote f).plan (hintBody (memHint .cdemote f) cdemoteAct) s
/-- CDEMOTE in XM (R197, R239). -/
def execCdemoteXm (f : Xm) (s : State) : Host.Outcome State Fault Refusal :=
  issue (.cdemoteXm f) { (memXm .cdemote f).plan with dsts := [] } (hintBody (memXm .cdemote f) cdemoteAct) s
/-- PGREQ (R233). -/
def execPgreqXm (f : Xm) (s : State) : Host.Outcome State Fault Refusal :=
  issue (.pgreqXm f) { (memXm .pgreq f).plan with dsts := [] } (pgreqBody (memXm .pgreq f)) s
/-- MCRED (R240). -/
def execMcredXm (f : Xm) (s : State) : Host.Outcome State Fault Refusal := runMem (.mcredXm f) (memXm .mcred f) s
/-- SLD (R229). -/
def execSldBm (f : Bm) (s : State) : Host.Outcome State Fault Refusal := runMem (.sldBm f) (memBm .sld f) s
/-- SLD in XM (R229). -/
def execSldXm (f : Xm) (s : State) : Host.Outcome State Fault Refusal := runMem (.sldXm f) (memXm .sld f) s
/-- SST (R234). -/
def execSstBm (f : Bm) (s : State) : Host.Outcome State Fault Refusal := runMem (.sstBm f) (memBm .sst f) s
/-- SST in XM (R234). -/
def execSstXm (f : Xm) (s : State) : Host.Outcome State Fault Refusal := runMem (.sstXm f) (memXm .sst f) s

/-! ### Accesses as they are performed (R198 to R207) -/

/-- HOME_ACCESS (R198, R201 to R206): the access reaches its point. -/
def execHomeAccess (acc : Nat) (s : State) : Host.Outcome State Fault Refusal :=
  .next <|
    match (s.mem.acc? acc).map fun (a : Acc) => a.tgt with
    | some (.scratch g _) => (s.perform acc).flushCredits g
    | _ => s.perform acc

/-- The due accesses of the line of `a`, in serialisation order (R200, R201). -/
def State.visibleWith (s : State) (a : Acc) : List Acc :=
  s.mem.accs.filter fun b => b.line? == a.line? && b.due s.chrono

/-- STORE_VISIBLE (R203, R204): at its WCT a store is visible to every observer. -/
def execStoreVisible (acc : Nat) (s : State) : Host.Outcome State Fault Refusal :=
  .next <|
    match s.mem.acc? acc with
    | none => s
    | some a => if a.kind = .store ∧ a.due s.chrono then settleList s.chrono (s.visibleWith a) s else s

/-- ATOMIC_PERFORM (R206): at its V an atomic reads, computes and writes. -/
def execAtomicPerform (acc : Nat) (s : State) : Host.Outcome State Fault Refusal :=
  .next <|
    match s.mem.acc? acc with
    | none => s
    | some a => if a.kind ≠ .store ∧ a.due s.chrono then settleList s.chrono (s.visibleWith a) s else s

/-- WCT_RETURN (R203, R207): the WCT reaches the issuing wave, or the TCE. -/
def execWctReturn (acc : Nat) (s : State) : Host.Outcome State Fault Refusal :=
  .next <|
    match s.mem.acc? acc with
    | none => s
    | some a =>
      let note := fun (wct : Nat) (s : State) =>
        match a.owner with
        | .wave k => s.modWave k fun w => w.adopt wct
        | .tce q c => s.modCopy q c fun (y : Copy) => { y with wct := max y.wct wct }
        | _ => s
      match a.stage with
      | .pending w => note w (s.modMem fun m => m.modAcc acc fun b => { b with stage := .returned w })
      | .performed w => note w (s.modMem fun m => m.dropAcc acc)
      | _ => s

/-- LOAD_LAND (R230, R232): lanes whose data has come land, and waits on them may end. -/
def execLoadLand (wave op : Nat) (lanes : Mask) (s : State) : Host.Outcome State Fault Refusal :=
  .next <|
    match (s.waveAt? wave).bind fun w => w.op? op with
    | none => s
    | some o =>
      match o.work with
      | .load _ _ _ => (s.landOp wave op lanes).wakeWave wave
      | _ => s

/-! ### Suspensions and trap waits that end (R25, R366) -/

/-- The core takes a suspended wave back: the upper levels and the slot count return if they were saved. -/
def State.takeBack (s : State) (k : Nat) (saved : Option (Upper × Nat)) : State :=
  let s := s.modWave k fun w => match saved with
    | some (up, n) => { w with up := up, run := { w.run with isOpen := true, slots := n } }
    | none => w
  s.modCore (coreOfWave k) fun c => { c with run := some k, cycle := c.cycle + s.freeNum 2 }

/-- The core can take wave `k` back: it holds it or runs no wave, and the wave may go on. -/
def State.canTake (s : State) (k : Nat) : Bool :=
  (match s.waveAt? k with | some w => s.mayResume w | none => false) &&
    (match (s.coreAt (coreOfWave k)).run with | none => true | some j => j == k)

/-- SUSPEND_RESUME (R25, R295, R366): the held instruction of a wave is tried again, takes more reply slots, or the answer
to its page request has come. -/
def execSuspendResume (wave : Nat) (s : State) : Host.Outcome State Fault Refusal :=
  .next <|
    match s.waveAt? wave with
    | none => s
    | some w =>
      if !s.canTake wave then s
      else
        match w.trapWait, w.susp with
        | some t, _ =>
          match t.answer with
          | none => s
          | some true => (s.takeBack wave t.saved).modWave wave fun w => { w with trapWait := none }
          | some false =>
            let s := (s.takeBack wave t.saved).modWave wave fun w => { w with trapWait := none }
            match w.frontier with
            | [] => s
            | e :: _ => s.takeTrap wave ⟨.xlate, false, t.fetch, e.pc, t.addr, t.mask, e.pc, false⟩
        | none, some x =>
          match x.kind with
          | .trying => s
          | .stopped => (s.takeBack wave x.saved).modWave wave fun w => { w with susp := none }
          | .retry =>
            (s.takeBack wave x.saved).modWave wave fun w => { w with susp := some { x with kind := .trying, saved := none } }
          | .rest len ends pages =>
            let s := (s.takeSlots (.wave wave) 64).pushHost (.wave wave)
            let t := s.postAll w.ctx w.launch pages
            let s := t.1
            if s.needsSlots (.wave wave) || t.2 != [] then
              s.modWave wave fun w => { w with susp := some { x with kind := .rest len ends t.2 } }
            else
              let s := s.takeBack wave x.saved
              let lost := (s.coreAt (coreOfWave wave)).cycle - x.since
              let s := s.modWave wave fun w => { (w.advance len).count 5 lost with susp := none }
              if ends then s.endRun wave else s
        | none, none => s

end Sys2Proof.Machine
end

