-- ==== Sys2Proof/Machine/Tiles.lean ====
section
/-! DEFINITION. Tiles: formats and rows (R105, R246, R266), handles (R267 to R274), and the operands and checks of the engine
instructions (R243 to R245, R280). -/

namespace Sys2Proof.Machine

/-! ### Formats and rows -/

/-- Elements of a tile row (R246). -/
def fmtElems (f : Nat) : Nat :=
  match f with
  | 4 => 64 | 5 => 64 | 7 => 32 | 8 => 32 | _ => 128

/-- Bytes of a tile row (R246). -/
def fmtRow (f : Nat) : Nat := if f = 3 then 96 else 128

/-- Bytes of a raw memory element (R246). -/
def fmtEs (f : Nat) : Nat :=
  match f with
  | 3 => 4 | 4 => 2 | 5 => 2 | 7 => 4 | 8 => 4 | _ => 1

/-- The narrow format of a code below 4 (R269). -/
def fmtNarrow (f : Nat) : NFmt :=
  match f with
  | 0 => .e4m3 | 1 => .e5m2 | 2 => .t8 | _ => .t6

/-- The memory formats of CONV and WIDEN 1 to 3 (R242). -/
def convFmt (c : Nat) : Fmt :=
  match c with
  | 1 => fmt32 | 2 => fmtBf16 | _ => fmt16

/-- Bytes of a memory element under CONV or WIDEN (R246). -/
def convEs (f c : Nat) : Nat :=
  match c with
  | 0 => fmtEs f | 1 => 4 | _ => 2

/-- Bytes of a memory row (R246, R250). -/
def memRow (f c : Nat) : Nat := if c = 0 then fmtRow f else fmtElems f * convEs f c

/-- CONV and WIDEN codes a format takes (R246). -/
def convOk (f c : Nat) : Bool :=
  match f with
  | 6 => c == 0 | 7 => c == 0 | 8 => c == 0
  | 4 => c == 0 || c == 1
  | 5 => c == 0 || c == 1
  | _ => true

/-- CONV additionally takes F16 into BF16 and BF16 into F16 (R246). -/
def convInOk (f c : Nat) : Bool := convOk f c || (f == 4 && c == 3) || (f == 5 && c == 2)

/-- Formats that TR takes (R246). -/
def trOk (f : Nat) : Bool := f != 3 && f != 7 && f != 8

/-- Cut a list into pieces of `n`; `fuel` bounds their number. -/
def chunks {α : Type} (n : Nat) : Nat → List α → List (List α)
  | 0, _ => []
  | k + 1, l => if l.isEmpty then [] else l.take n :: chunks n k (l.drop n)

/-- The codes of a row's bytes (R105, R266). -/
def rowCodes (f : Nat) (bs : List Byte) : List Nat :=
  if f = 3 then (chunks 3 32 bs).flatMap fun g => (List.range 4).map fun i => ofBytes g / 64 ^ i % 64
  else (chunks (128 / fmtElems f) 128 bs).map ofBytes

/-- The bytes of a row's codes (R105, R266). -/
def rowBytes (f : Nat) (cs : List Nat) : List Byte :=
  if f = 3 then (chunks 4 32 cs).flatMap fun g => bytesOf 3 (g.zipIdx.foldl (fun n e => n + e.1 % 64 * 64 ^ e.2) 0)
  else cs.flatMap fun c => bytesOf (128 / fmtElems f) c

/-- The partition offset of byte `p` of row `r` (R266). -/
def HandleEntry.phys (h : HandleEntry) (r p : Nat) : Nat :=
  if h.swz then h.off + 128 * r + 16 * ((p / 16) ^^^ (r % 8)) + p % 16 else h.off + 128 * r + p

/-- The scale σ of a handle (R106). -/
def HandleEntry.scale (h : HandleEntry) : Int := h.sigma.toInt

/-- Write the bytes of a tile row for an engine's instruction `id` of wave `k` (R252, R266). -/
def State.writeRow (s : State) (g k id : Nat) (by_ : Writer) (h : HandleEntry) (r : Nat) (bs : List Byte) : State :=
  s.modGroup g fun x => bs.zipIdx.foldl (fun x e => s.scratchPut1 g k id by_ x (h.phys r e.2) e.1) x

/-- Read code `j` of row `r` of a tile, the element being old or new as a whole under each write that `f` selects (R105, R216, R217,
R266). -/
def State.readCode (s : State) (g : Nat) (x : Group) (f : Stale → Bool) (h : HandleEntry) (r j : Nat) : Nat :=
  if h.fmt = 3 then
    let p := 6 * j / 8
    let b := 6 * j % 8
    let at_ := fun (p : Nat) => (s.scratchByte g x f (8 * h.phys r (6 * j / 8) + b) (h.phys r p)).toNat
    (at_ p + 256 * at_ (p + 1)) / 2 ^ b % 64
  else
    let n := 128 / fmtElems h.fmt
    ofBytes ((List.range n).map fun i => s.scratchByte g x f (8 * h.phys r (j * n)) (h.phys r (j * n + i)))

/-- Read the codes of a tile row (R216, R217, R266). -/
def State.readRow (s : State) (g : Nat) (f : Stale → Bool) (h : HandleEntry) (r : Nat) : List Nat :=
  match s.groupAt? g with
  | none => List.replicate (fmtElems h.fmt) 0
  | some x => (List.range (fmtElems h.fmt)).map (s.readCode g x f h r)

/-- Bytes of a partition of which one is lost to an uncorrectable error (R251, R290). -/
def State.badBytes (s : State) (g : Nat) (offs : List Nat) : Bool :=
  match s.groupAt? g with
  | none => false
  | some x => !x.bad.isEmpty && offs.any x.bad.contains

/-- A tile row of which a byte is lost. -/
def State.badRow (s : State) (g : Nat) (h : HandleEntry) (r : Nat) : Bool :=
  s.badBytes g ((List.range (fmtRow h.fmt)).map (h.phys r))

/-! ### Values -/

/-- Convert an element of a memory format into a tile's (R248). -/
def tileEncode (h : HandleEntry) (src : Fmt) (x : Nat) : Nat × FFlags :=
  match h.fmt with
  | 4 => fcvtF fmtBf16 src .rne x
  | 5 => fcvtF fmt16 src .rne x
  | f => encN (fmtNarrow f) false h.scale (decF src x)

/-- Widen a tile's code into a memory format (R248). -/
def tileWiden (h : HandleEntry) (dst : Fmt) (c : Nat) : Nat × FFlags :=
  match h.fmt with
  | 4 => fcvtF dst fmtBf16 .rne c
  | 5 => fcvtF dst fmt16 .rne c
  | f => sumTerms dst .rne [termOf (decN (fmtNarrow f) h.scale c)]

/-! ### Handles (R267, R268, R271 to R274) -/

/-- The handle value of entry `i` of a core (R267). -/
def handleVal (core i gen : Nat) : Nat := gen * 256 + core % 4 * 64 + i

/-- The entry a handle value names for an instruction of a group on a core, with its index (R268). -/
def State.handleFor (s : State) (core g : Nat) (tile : DWord) : Option (Nat × HandleEntry) :=
  let v := tile.toNat
  let i := v % 64
  let h := (s.coreAt core).handle i
  if bits v 7 6 = core % 4 ∧ h.st = .mapped ∧ h.owner = g ∧ bits v 15 8 = h.gen then some (i, h) else none

/-- The next generation (R268). -/
def bumpGen (n : Nat) : Nat := if n = 255 then 1 else n + 1

/-- The handle values an array instruction names. -/
def AOpKind.tiles : AOpKind → List Nat
  | .mma _ a b => [a % 65536, b % 65536]
  | .mmag _ a b _ _ => [a % 65536, b % 65536]
  | .adrain t _ _ => [t % 65536]
  | .aload t _ _ => [t % 65536]
  | _ => []

/-- Array instructions and copies in flight that name a handle value of a core (R271, R272). -/
def State.users (s : State) (core v : Nat) : Nat :=
  let q := s.quadAt (quadOfCore core)
  (q.ops.filter fun o => o.core == core && o.kind.tiles.contains v).length +
    (q.copies.filter fun c => c.core == core && c.tile % 65536 == v).length

/-- The TUNMAPs of an entry complete (R271). -/
def State.landTunmap (s : State) (core i : Nat) : State :=
  (s.waves.filter fun e => coreOfWave e.1 == core).foldl (fun s e =>
    match e.2.lops.find? fun o => o.work == .tunmap i && !o.done with
    | none => s
    | some o =>
      ((s.modWave e.1 fun w => (w.modOp o.id fun x => { x with done := true, left := 0 }).retire (s.coreAt core).cycle)).wakeWave
        e.1) s

/-- Retiring entries of a core without users are free again, their generation bumped (R271, R274). -/
def State.retireHandles (s : State) (core : Nat) : State :=
  (s.coreAt core).handles.foldl (fun s e =>
    if e.2.st = .retiring ∧ s.users core (handleVal core e.1 e.2.gen) = 0 then
      (s.modCore core fun c => c.modHandle e.1 fun h => { h with st := .free, gen := bumpGen h.gen }).landTunmap core e.1
    else s) s

/-! ### Operands and checks (R243 to R245, R280) -/

/-- A wave-uniform operand of 64 bits (R243). -/
def uni (a : Src) : Opnd := opnd a .i64

/-- The value of a wave-uniform operand. -/
def Iss.val (u : Iss) (lit : Option DWord) (a : Src) (s : State) : DWord := s.readOpnd u.w lit (uni a) 0

/-- The partition offset of a rendezvous operand, or the trap of steps 1 and 2 of R245. -/
def State.rdvCheck (s : State) (g : Nat) (a : DWord) : Except (Cause × DWord) Nat :=
  let v := a.toNat
  if v % 32 ≠ 0 then .error (.misalign, a)
  else
    match s.groupAt? g with
    | none => .error (.aperture, a)
    | some x =>
      if 0xFE00000000000000 ≤ v ∧ v < 0xFF00000000000000 ∧ v - 0xFE00000000000000 + 32 ≤ x.size then
        .ok (v - 0xFE00000000000000)
      else .error (.aperture, a)

/-- The entry a tile operand names, or HANDLE (R245 step 3, R268). -/
def State.tileCheck (s : State) (core g : Nat) (tile : DWord) : Except (Cause × DWord) HandleEntry :=
  match s.handleFor core g tile with
  | some (_, h) => .ok h
  | none => .error (.handle, tile)

/-- ROW0 of a tile operand (R244). -/
def tileRow0 (tile : DWord) : Nat := bits tile.toNat 27 16

/-- The end of an instruction whose checks come to a trap or a result. -/
def finish (r : Except (Cause × DWord) Res) : Res :=
  match r with
  | .ok x => x
  | .error (c, a) => .trap c a

end Sys2Proof.Machine
end

