-- ==== Sys2Proof/Machine/Copies.lean ====
section
/-! DEFINITION. Tile copies, lane copies and rendezvous (chapter 11): TCOPY, TSTORE, TGATHER, CPY, CPYWAIT and the five
rendezvous instructions with PWAIT, and the steps of the TCE. -/

namespace Sys2Proof.Machine

/-! ### TCOPY, TSTORE and TGATHER at issue (R242 to R247, R252) -/

/-- An engine instruction's operand fields and kind. -/
structure EngI where
  f : Xt
  kind : CopyKind
  conv : Nat
  ok : Nat → Bool
  iofs : Option (Nat × Nat)   -- TGATHER's index offset and index size

/-- Row count (R242). -/
def EngI.rows (m : EngI) : Nat := bits m.f.imm.toNat 11 0 + 1

/-- TCOPY. -/
def tcopyI (f : Xt) : EngI :=
  let c := bits f.e8.toNat 1 0
  let tr := f.e8.toNat.testBit 2
  ⟨f, .tcopy c tr (bits f.imm.toNat 13 12) (f.d != .null), c, fun x => convInOk x c && (!tr || trOk x), none⟩

/-- TSTORE. -/
def tstoreI (f : Xt) : EngI :=
  let c := bits f.e8.toNat 1 0
  ⟨f, .tstore c (bits f.imm.toNat 13 12), c, fun x => convOk x c, none⟩

/-- TGATHER. -/
def tgatherI (f : Xt) : EngI :=
  let c := bits f.e8.toNat 1 0
  let n32 := f.e8.toNat.testBit 2
  let io := bits f.imm.toNat 30 12
  ⟨f, .tgather c n32 io, c, fun x => convInOk x c, some (io, if n32 then 4 else 2)⟩

/-- Its operands: tile, memory address, row stride, rendezvous. -/
def EngI.srcs (m : EngI) : List Opnd := [uni m.f.a, uni m.f.b, uni m.f.c, uni m.f.x]

/-- Step 7 of R245: TGATHER's index array lies in the partition. -/
def gatherCheck (size rows : Nat) : Option (Nat × Nat) → Except (Cause × DWord) Unit
  | none => .ok ()
  | some (io, n) =>
    if io % n ≠ 0 then .error (.misalign, BitVec.ofNat 64 io)
    else if size < io + rows * n then .error (.aperture, BitVec.ofNat 64 io)
    else .ok ()

/-- The checks of R245 in order: the rendezvous' offset. -/
def EngI.check (m : EngI) (u : Iss) (s : State) : Except (Cause × DWord) Nat := do
  let tile := u.val m.f.lit m.f.a s
  let mem := u.val m.f.lit m.f.b s
  let stride := u.val m.f.lit m.f.c s
  let off ← s.rdvCheck u.w.group (u.val m.f.lit m.f.x s)
  let h ← s.tileCheck (coreOfWave u.k) u.w.group tile
  if !m.ok h.fmt then throw (.illegal, m.f.e8.zeroExtend 64)
  if h.rows < tileRow0 tile + m.rows then throw (.handle, tile)
  let es := convEs h.fmt m.conv
  if mem.toNat % es ≠ 0 then throw (.misalign, mem)
  match m.kind with
  | .tgather .. => pure ()
  | _ => if stride.toNat % es ≠ 0 then throw (.misalign, stride)
  if 2 ^ 57 ≤ mem.toNat then throw (.aperture, mem)
  gatherCheck ((s.groupAt? u.w.group).map (·.size) |>.getD 0) m.rows m.iofs
  return off

/-- The TCE's queue of 64 entries is full (R252). -/
def State.tceFull (s : State) (core : Nat) : Bool := decide (64 ≤ (s.quadAt (quadOfCore core)).copies.length)

/-- An OPRDY holds the wave's later array instructions (R284): a scratchpad store issued before it is not performed. -/
def State.oprdyHolds (s : State) (k : Nat) (w : Wave) : Bool :=
  match w.oprdy with
  | none => false
  | some n => s.mem.accs.any fun a =>
    a.owner == .wave k && decide (a.op < n) && a.kind != .load && (match a.tgt with | .scratch .. => true | _ => false)

/-- The hold of an OPRDY is over: the stores visible to the wave are visible to the array and the TCE (R284). -/
def State.oprdyDone (s : State) (k : Nat) (w : Wave) : State :=
  match w.oprdy with
  | none => s
  | some n => (s.oprdyOrders w.group k n).modWave k fun w => { w with oprdy := none }

/-- A copy as it enters the TCE's queue. -/
def EngI.copy (m : EngI) (u : Iss) (s : State) (id off : Nat) : Copy :=
  let tile := u.val m.f.lit m.f.a s
  { id := id, core := coreOfWave u.k, group := u.w.group, wave := u.k, ctx := u.w.ctx, launch := u.w.launch, kind := m.kind,
    tile := tile.toNat % 65536, h := (s.coreAt (coreOfWave u.k)).handle (tile.toNat % 64), row0 := tileRow0 tile, rows := m.rows, mem := u.val m.f.lit m.f.b s,
    stride := u.val m.f.lit m.f.c s, params := u.w.parambase, rdv := off, accepted := false, nextRow := 0, rowsOpen := [], bad := [], err := false,
    aborted := false, flags := 0, wct := 0, wait := none }

/-- The effect of TCOPY, TSTORE and TGATHER at issue: the copy is queued at the quad's TCE; a promise is counted in XC. -/
def EngI.body (m : EngI) (u : Iss) (s : State) : Res :=
  reading u m.f.lit m.srcs s fun s' =>
    finish <| do
      let off ← m.check u s
      let store := match m.kind with | .tstore .. => true | _ => false
      let promise := match m.kind, m.f.d with | .tcopy .., .s _ => true | _, _ => false
      if u.w.heldLater || (store && s.oprdyHolds u.k u.w) || s.tceFull (coreOfWave u.k) || (promise && u.w.full .xc) then
        return .hold s
      let s := if store then s'.oprdyDone u.k u.w else s'
      let (id, s) := s.fresh
      let c := m.copy u s id off
      let s := s.modQuad (quadOfCore (coreOfWave u.k)) fun q => { q with copies := q.copies ++ [c] }
      match m.f.d with
      | .s n =>
        let op : LOp := ⟨id, .xc, u.e.pc, .tcopy id, 1, 0, 1, [⟨.s n.val, 1, [], 0⟩], true, false, none, u.slot.t, 0, none⟩
        return .ok (s.modWave u.k fun w => w.enter op) .seq
      | _ => return .ok s .seq

/-- TCOPY (R247). -/
def execTcopyXt (f : Xt) (s : State) : Host.Outcome State Fault Refusal :=
  issue (.tcopyXt f) (basePlan (tcopyI f).srcs (dstNamed f.d true) .none) (tcopyI f).body s

/-- TSTORE (R250). -/
def execTstoreXt (f : Xt) (s : State) : Host.Outcome State Fault Refusal :=
  issue (.tstoreXt f) (basePlan (tstoreI f).srcs [] .none) (tstoreI f).body s

/-- TGATHER (R249). -/
def execTgatherXt (f : Xt) (s : State) : Host.Outcome State Fault Refusal :=
  issue (.tgatherXt f) (basePlan (tgatherI f).srcs [] .none) (tgatherI f).body s

/-! ### The TCE (R247 to R253) -/

/-- A copy of a quad. -/
def State.copy? (s : State) (q c : Nat) : Option Copy := (s.quadAt q).copies.find? fun y => y.id == c

/-- The codes of a copy's conversion and of its class. -/
def CopyKind.conv : CopyKind → Nat
  | .tcopy c _ _ _ => c
  | .tstore w _ => w
  | .tgather c _ _ => c
def CopyKind.cls : CopyKind → Nat
  | .tcopy _ _ c _ => c
  | .tstore _ c => c
  | .tgather .. => 0
def CopyKind.stores : CopyKind → Bool
  | .tstore .. => true
  | _ => false

/-- The promise of a TCOPY (R253): 0, or an estimate no rule gives; a valid translation may or may not be held in the TCE's
TLB. -/
def State.promise (s : State) (q : Nat) (c : Copy) : DWord :=
  let ahead := ((s.quadAt q).copies.filter fun y => y.accepted && y.id != c.id).length
  let dev := match s.translateCp c.ctx c.mem.toNat .load with
    | .to (.dev _) => true
    | _ => false
  if !dev || decide (16 < ahead) || s.freeBit (2 ^ 57 + c.id) then 0 else BitVec.ofNat 64 (s.freeNum (2 ^ 39 + c.id))

/-- TCE_ACCEPT (R252, R253): the TCE takes a copy; a TCOPY's promise is known. -/
def execTceAccept (quad copy : Nat) (s : State) : Host.Outcome State Fault Refusal :=
  .next <|
    match s.copy? quad copy with
    | none => s
    | some c =>
      if c.accepted then s
      else
        let p := s.promise quad c
        let s := s.modCopy quad copy fun y => { y with accepted := true }
        match c.kind with
        | .tcopy _ _ _ true => s.modWave c.wave fun w => w.modOp copy fun o =>
          { o with ready := 1, writes := o.writes.map fun (x : LWrite) => { x with vals := [p] } }
        | _ => s

/-- The index of a gathered row (R249). -/
def State.gatherIndex (s : State) (c : Copy) (i : Nat) : Nat :=
  match c.kind with
  | .tgather _ n32 io =>
    let n := if n32 then 4 else 2
    ofBytes (s.indexRead c.wave c.group c.id (io + i * n) n)
  | _ => i

/-- Cut bytes from `va` up at 16-byte boundaries: the part's offset, address and size (R200, R250). -/
def cut16 : Nat → Nat → Nat → Nat → List (Nat × Nat × Nat)
  | 0, _, _, _ => []
  | k + 1, part, va, n =>
    if n = 0 then []
    else
      let m := min n (16 - va % 16)
      (part, va, m) :: cut16 k (part + m) (va + m) (n - m)

/-- The memory parts of row `i` of a copy (R247, R249, R250): addresses wrap modulo 2^64. -/
def State.rowParts (s : State) (c : Copy) (i : Nat) : List (Nat × Nat × Nat) :=
  let h := c.h
  let es := convEs h.fmt c.kind.conv
  match c.kind with
  | .tcopy _ true _ _ =>
    (List.range (fmtElems h.fmt)).map fun k =>
      (k * es, (c.mem + BitVec.ofNat 64 k * c.stride + BitVec.ofNat 64 (i * es)).toNat, es)
  | _ =>
    let a := c.mem + BitVec.ofNat 64 (s.gatherIndex c i) * c.stride
    cut16 64 0 a.toNat (memRow h.fmt c.kind.conv)

/-- Translate the parts of a row: their accesses' targets, a page to wait for, or a failed row (R251). A part in the launch's
parameter copy is read there, and is not stored to (R330). -/
def State.rowTargets (s : State) (q : Nat) (c : Copy) : List (Nat × Nat × Nat) → State × Except (Option Nat) Parts
  | [] => (s, .ok [])
  | (part, va, n) :: t =>
    if 2 ^ 57 < va + n ∨ (inPage c.params va n ∧ c.kind.stores) then (s, .error none)
    else if inPage c.params va n then
      let rest := State.rowTargets s q c t
      match rest.2 with
      | .ok p => (rest.1, .ok ((part, n, .param c.launch (va - c.params.toNat), none) :: p))
      | .error e => (rest.1, .error e)
    else
      let r := s.translateTce q c.ctx va (if c.kind.stores then .store else .load)
      match r.1 with
      | .invalid => (r.2, .error (some (va / 4096)))
      | .prot => (r.2, .error none)
      | .to tgt =>
        let rest := State.rowTargets r.2 q c t
        match rest.2 with
        | .ok p => (rest.1, .ok ((part, n, tgt, pageIn (r.2.quadAt q).tlb c.ctx va) :: p))
        | .error e => (rest.1, .error e)

/-- The bytes a TSTORE writes for a tile row, with the flags of widening (R248, R250). -/
def State.storeBytes (s : State) (c : Copy) (i : Nat) : List Byte × FFlags :=
  let h := c.h
  let row := s.readRow c.group (Stale.openTce c.wave) h (c.row0 + i)
  if c.kind.conv = 0 then (rowBytes h.fmt row, 0)
  else
    let l := row.map (tileWiden h (convFmt c.kind.conv))
    (l.flatMap fun e => bytesOf (convEs h.fmt c.kind.conv) e.1, l.foldl (fun f e => f ||| e.2) 0)

/-- Row `i` of a copy has failed before any of its accesses (R251). -/
def State.failRow (s : State) (q c i : Nat) : State :=
  s.modCopy q c fun y => { y with nextRow := i + 1, rowsOpen := y.rowsOpen.set i [], bad := i :: y.bad, err := true, wait := none }

/-- The TCE meets an uncorrectable error in the scratchpad bytes it reads for a row: a stored row, or the index of a gathered
one (R251). -/
def State.rowLost (s : State) (c : Copy) (i : Nat) : Bool :=
  match c.kind with
  | .tstore .. => s.badRow c.group c.h (c.row0 + i)
  | .tgather _ n32 io =>
    let n := if n32 then 4 else 2
    s.badBytes c.group ((List.range n).map fun j => io + i * n + j)
  | _ => false

/-- Begin row `i` of a copy, unless its page request has been denied (R247, R249 to R251). -/
def State.startRow (s : State) (q : Nat) (c : Copy) (i : Nat) : State :=
  let denied := match c.wait with | some (_, _, some false) => true | _ => false
  if denied then s.failRow q c.id i else
  if s.rowLost c i then (s.failRow q c.id i).modGroup c.group fun g => { g with err := true } else
  let r := s.rowTargets q c (s.rowParts c i)
  let s := r.1
  match r.2 with
  | .error none => s.failRow q c.id i
  | .error (some vpn) =>
    let t := s.postPage c.ctx vpn (if c.kind.stores then 1 else 0) c.launch
    match t.1 with
    | .posted n => t.2.modCopy q c.id fun y => { y with wait := some (vpn, some n, none) }
    | .waits => (t.2.modCopy q c.id fun y => { y with wait := some (vpn, none, none) }).modCtx c.ctx fun x =>
      { x with prqPend := x.prqPend ++ [(vpn, if c.kind.stores then 1 else 0, c.launch)] }
    | .denied => t.2.failRow q c.id i
  | .ok parts =>
    let st := c.kind.stores
    let data := if st then s.storeBytes c i else ([], 0)
    let mk := fun (L off size : Nat) (t : Target) (page : Option (Nat × Nat)) =>
      (⟨0, .tce q c.id, c.core, c.id, L, off, if st then .store else .load, t, size, (data.1.drop off).take size, c.kind.cls,
        s.leaseOf c.ctx, ((s.ctxAt? c.ctx).map Ctx.ten).getD 0, c.launch, (s.launchAt? c.launch).bind (·.chain),
        firstStage (if st then .store else .load) t, none, false, page⟩ : Acc)
    let s := s.modCopy q c.id fun y =>
      { y with nextRow := i + 1, wait := none, flags := y.flags ||| data.2,
               rowsOpen := y.rowsOpen.set i (List.replicate (memRow (c.h).fmt c.kind.conv) 0) }
    s.launchAccs (.tce q c.id) c.core (makeAccs mk [(i, parts)])

/-- An access of a row still to complete: a load not answered, or a store whose WCT or acknowledgement has not come. -/
def pendingOf (q c i : Nat) (a : Acc) : Bool :=
  a.owner == .tce q c && a.lane == i &&
    (match a.stage with | .returned _ => false | .posted => false | .flushing => false | _ => true)

/-- Write row `i` of a TCOPY or TGATHER into its tile: zeros if it has failed (R247, R248, R251). -/
def State.finishRow (s : State) (q : Nat) (c : Copy) (i : Nat) : State :=
  let h := c.h
  let done := fun (s : State) => s.modCopy q c.id fun y => { y with rowsOpen := y.rowsOpen.del i }
  if c.kind.stores || c.aborted then done s
  else
    let bs := c.rowsOpen.getD i []
    let put := fun (bytes : List Byte) (fl : FFlags) =>
      (done (s.writeRow c.group c.wave c.id .copy h (c.row0 + i) bytes)).modCopy q c.id fun y => { y with flags := y.flags ||| fl }
    if c.bad.contains i then put (List.replicate (fmtRow h.fmt) 0) 0
    else if c.kind.conv = 0 then put bs 0
    else
      let l := ((chunks (convEs h.fmt c.kind.conv) 128 bs).map ofBytes).map (tileEncode h (convFmt c.kind.conv))
      put (rowBytes h.fmt (l.map (·.1))) (l.foldl (fun f e => f ||| e.2) 0)

/-- The bytes a copy credits (R247, R250). -/
def copyBytesOf (c : Copy) : Nat :=
  let h := c.h
  if c.kind.stores then c.rows * memRow h.fmt c.kind.conv else c.rows * fmtRow h.fmt

/-- The copy credits its rendezvous and leaves the queue (R247, R250, R251, R259); its posted host writes stay until they are flushed
(R222). -/
def State.creditCopy (s : State) (q : Nat) (c : Copy) : State :=
  if s.creditWaits c.wave c.group c.rdv c.id then s
  else
    let s := s.markCredit c.group c.id c.rdv
    let s := s.creditRdv c.group c.rdv (copyBytesOf c) (c.err || c.aborted) c.flags (if c.kind.stores then c.wct else 0)
    (s.modQuad q fun x => { x with copies := x.copies.filter fun y => y.id != c.id }).retireHandles c.core

/-- A copy that has not begun is recorded for a restore (R263, R381); an aborted one is credited (R251). -/
def State.parked (s : State) (c : Copy) : Bool :=
  c.nextRow == 0 && !c.aborted && ((s.ctxAt? c.ctx).map (·.st)) == some .draining

/-- A TGATHER waits for the scratchpad accesses that its wave issued before it (R215). -/
def State.indexHeld (s : State) (c : Copy) : Bool :=
  match c.kind with
  | .tgather .. => s.mem.accs.any fun a => a.owner == .wave c.wave && a.unperformed && decide (a.op < c.id) &&
      (match a.tgt with | .scratch .. => true | _ => false)
  | _ => false

/-- COPY_COMPLETE (R247 to R252): a step of an accepted copy. A row whose accesses are complete is written; another row
begins; after the last row the copy credits its rendezvous and is complete. -/
def execCopyComplete (quad copy : Nat) (s : State) : Host.Outcome State Fault Refusal :=
  .next <|
    match s.copy? quad copy with
    | none => s
    | some c =>
      if !c.accepted || s.parked c then s
      else
        let s := (s.takeSlots (.tce quad copy) 64).pushHost (.tce quad copy)
        let ready := c.rowsOpen.find? fun e => !(s.mem.accs.any (pendingOf quad copy e.1))
        let more := !c.aborted && decide (c.nextRow < c.rows)
        let blocked := (match c.wait with | some (_, _, none) => true | _ => false) || s.indexHeld c
        match ready with
        | some (i, _) => if more && !blocked && s.freeBit 3 then s.startRow quad c c.nextRow else s.finishRow quad c i
        | none =>
          if more then (if blocked then s else s.startRow quad c c.nextRow)
          else if c.rowsOpen = [] then s.creditCopy quad c
          else s

/-! ### Lane copies (R255, R256) -/

/-- Bytes per lane and tag of a CPY. -/
def cpySize (f : Xt) : Nat := 4 * 2 ^ bits f.e8.toNat 1 0
def cpyTag (f : Xt) : Nat := bits f.e8.toNat 3 2

/-- The operands of a CPY (R243). -/
def cpySrcs (f : Xt) : List Opnd := [opnd f.a .i64, opnd f.b .i64, opnd f.c .i32]

/-- The checks of one lane of a CPY (R255): its destination's offset, its valid bytes, and its parts. -/
def State.cpyLane (s : State) (u : Iss) (size v dst src : Nat) :
    State × Except (LaneRes × Nat) (Nat × Parts) :=
  let gsize := ((s.groupAt? u.w.group).map (·.size)).getD 0
  if dst % size ≠ 0 then (s, .error (.trap .misalign, dst))
  else if dst < 0xFE00000000000000 ∨ 0xFF00000000000000 ≤ dst ∨ gsize < dst - 0xFE00000000000000 + size then
    (s, .error (.trap .aperture, dst))
  else if v = 0 then (s, .ok (dst - 0xFE00000000000000, []))
  else if src % size ≠ 0 then (s, .error (.trap .misalign, src))
  else if 2 ^ 57 ≤ src then (s, .error (.trap .aperture, src))
  else
    let r := s.globalAccess u .load v src
    match r.2 with
    | .go ((_, _, t, vpn) :: _) =>
      let at_ := fun (o : Nat) => match t with
        | .dev pa => Target.dev (pa + o)
        | .host p a => .host p (a + o)
        | .remote p w x => .remote p w (x + o)
        | .mcast p w x => .mcast p w (x + o)
        | .param l x => .param l (x + o)
        | .scratch g x => .scratch g (x + o)
      (r.2 |> fun _ => r.1, .ok (dst - 0xFE00000000000000, (cut16 3 0 src v).map fun e => (e.1, e.2.2, at_ e.1, vpn)))
    | .go [] => (r.1, .ok (dst - 0xFE00000000000000, []))
    | x => (r.1, .error (x, src))

/-- The checks of every lane, the lowest failing lane deciding. -/
def State.cpyLanes (s : State) (u : Iss) (size : Nat) :
    List (Nat × Nat × Nat × Nat) → State × Except (LaneRes × Nat) (List (Nat × Nat × Parts))
  | [] => (s, .ok [])
  | (L, v, dst, src) :: t =>
    let r := s.cpyLane u size v dst src
    match r.2 with
    | .error e => (r.1, .error e)
    | .ok (off, p) =>
      let rest := State.cpyLanes r.1 u size t
      match rest.2 with
      | .ok l => (rest.1, .ok ((L, off, p) :: l))
      | .error e => (rest.1, .error e)

/-- The effect of a CPY as it issues. -/
def cpyBody (f : Xt) (u : Iss) (s : State) : Res :=
  let size := cpySize f
  let tag := cpyTag f
  match (if u.w.strict then deadRead u.w u.exec (cpySrcs f) else none) with
  | some x => .trap .deadread x
  | none =>
    if u.exec = 0 then .ok s .seq
    else
      let at_ := fun (a : Src) (rd : Rd) (L : Nat) => (s.readOpnd u.w f.lit (opnd a rd) L).toNat
      let r := s.cpyLanes u size
        ((lanesIn u.exec).map fun L => (L, min (at_ f.c .i32 L) size, at_ f.a .i64 L, at_ f.b .i64 L))
      match r.2 with
      | .error (.trap c, va) => .trap c (BitVec.ofNat 64 va)
      | .error (.page vpn, va) => .page r.1 vpn 0 (BitVec.ofNat 64 va)
      | .error (.go _, _) => .ok s .seq
      | .ok l =>
        let s := r.1
        if u.w.heldLater || u.w.full (.bc tag) then .hold s
        else
          let (id, s) := s.fresh
          let lanes : List CpyLane := l.map fun e => ⟨e.1, e.2.1, List.replicate size 0⟩
          let ready := (l.filter fun e => e.2.2.isEmpty).foldl (fun m e => m ||| laneBit e.1) 0
          let op : LOp := ⟨id, .bc tag, u.e.pc, .cpy lanes, u.exec, ready, u.exec, [], false, false, none, u.slot.t, 0, none⟩
          let mk := fun (L off n : Nat) (t : Target) (page : Option (Nat × Nat)) =>
            (⟨0, .wave u.k, coreOfWave u.k, id, L, off, .load, t, n, [], bits f.imm.toNat 1 0, s.leaseOf u.w.ctx, u.w.ten,
              u.w.launch, (s.launchAt? u.w.launch).bind (·.chain), firstStage .load t, none, false, page⟩ : Acc)
          let s := s.modWave u.k fun w =>
            let w := readEffects s u.w u.exec f.lit (cpySrcs f) w
            w.enter op
          let s := s.launchAccs (.wave u.k) (coreOfWave u.k) (makeAccs mk (l.map fun e => (e.1, e.2.2)))
          if s.needsSlots (.wave u.k) then .part s [] else .ok s .seq

/-- CPY (R255). -/
def execCpyXt (f : Xt) (s : State) : Host.Outcome State Fault Refusal :=
  issue (.cpyXt f) (xtPlan f (cpySrcs f) [] .none) (cpyBody f) s

/-- CPY_COMPLETE (R255, R256): the lanes whose bytes have come are written to the partition; with the last of them the CPY
leaves its counter. -/
def execCpyComplete (wave op : Nat) (s : State) : Host.Outcome State Fault Refusal :=
  .next <|
    match s.waveAt? wave with
    | none => s
    | some w =>
      match w.op? op with
      | none => s
      | some o =>
        match o.work, o.ctr with
        | .cpy lanes, .bc tag =>
          let now := o.ready &&& o.left
          if now = 0 then s
          else
            let s := lanes.foldl (fun (s : State) (x : CpyLane) =>
              if inMask now x.lane then s.scratchWrite w.group wave op .copy x.off x.data else s) s
            let left := o.left &&& ~~~now
            let s := s.markCredit w.group op (cpyMark wave tag)
            let cycle := (s.coreAt (coreOfWave wave)).cycle
            (s.modWave wave fun w => (w.modOp op fun o => { o with left := left, done := decide (left = 0) }).retire cycle).wakeWave wave
        | _, _ => s

/-- The effect of a CPYWAIT. -/
def cpywaitBody (t n : Nat) (u : Iss) (s : State) : Res :=
  if u.w.heldLater then .hold s else .ok s (u.waits u.e.mask (.copies t n))

/-- CPYWAIT (R256). -/
def execCpywaitBs (rb : Bool) (t : Fin 4) (n : Fin 64) (s : State) : Host.Outcome State Fault Refusal :=
  issue (.cpywaitBs rb t n) plainPlan (cpywaitBody t.val n.val) s

/-- CPYWAIT in XT (R242, R256). -/
def execCpywaitXt (f : Xt) (s : State) : Host.Outcome State Fault Refusal :=
  issue (.cpywaitXt f) plainPlan (cpywaitBody (bits f.e8.toNat 1 0) (bits f.imm.toNat 5 0)) s

/-! ### Rendezvous (R257 to R262) -/

/-- The effect of a rendezvous instruction whose object is the A operand: later accesses hold, then `act` at the object's
offset. -/
def rdvBody (f : Xt) (srcs : List Opnd) (act : Nat → Iss → State → Res) (u : Iss) (s : State) : Res :=
  reading u f.lit srcs s fun s' =>
    finish <| do
      let off ← s.rdvCheck u.w.group (u.val f.lit f.a s)
      if u.w.heldLater then return .hold s
      return act off u s'

/-- RDVINIT (R257, R260): a store of 32 bytes of the wave at group scope. -/
def rdvinitAct (f : Xt) (off : Nat) (u : Iss) (s : State) : Res :=
  let n := (u.val f.lit f.b s).toNat % 65536
  let (id, s) := s.fresh
  let a : Acc := ⟨0, .wave u.k, coreOfWave u.k, id, 0, 0, .store, .scratch u.w.group off, 32, bytesOf 32 (n + n * 65536), 0, 0,
    u.w.ten, u.w.launch, none, .travelling, none, false, none⟩
  .ok (s.launchAccs (.wave u.k) (coreOfWave u.k) [a]) .seq

/-- Queue an update of a wave (R259). -/
def State.queueUpd (s : State) (k off : Nat) (upd : RdvUpd) : State :=
  let (id, s) := s.fresh
  s.modWave k fun w => { w with rdvq := w.rdvq ++ [⟨id, off, upd⟩] }

/-- RDVARR (R213, R260). -/
def rdvarrAct (f : Xt) (off : Nat) (u : Iss) (s : State) : Res :=
  if u.exec = 0 then .ok s .seq
  else .ok (s.queueUpd u.k off (.arrive (if f.e8.getLsbD 0 then 1 else laneCount u.exec))) .seq

/-- RDVEXP (R260). -/
def rdvexpAct (f : Xt) (off : Nat) (u : Iss) (s : State) : Res :=
  .ok (s.queueUpd u.k off (.expect (signedOf 32 (u.val f.lit f.b s).toNat))) .seq

/-- Every earlier scratchpad access of the wave is performed, and every earlier store, atomic and reduction to device memory
has returned its WCT (R213). -/
def State.arrivalReady (s : State) (k id : Nat) : Bool :=
  (s.mem.accs.filter (Acc.earlierOf k id)).all fun a =>
    match a.tgt, a.stage with
    | .scratch .., _ => false
    | .dev _, .returned _ => true
    | .dev _, _ => a.kind.isLoad
    | _, _ => true

/-- RDVARR_APPLY (R213, R258, R259): an update of a wave reaches its object, in issue order at each object. -/
def execRdvarrApply (wave op : Nat) (s : State) : Host.Outcome State Fault Refusal :=
  .next <|
    match s.waveAt? wave with
    | none => s
    | some w =>
      match w.rdvq.find? fun p => p.id == op with
      | none => s
      | some p =>
        let waits := match p.upd with
          | .arrive _ => !s.arrivalReady wave op
          | .expect _ => false
        if waits || s.creditHeld wave w.group p.off op then s
        else
          match s.groupAt? w.group with
          | none => s
          | some g =>
            let r := (g.rdv p.off).wave p.upd w.mwct.toNat
            let s := s.modWave wave fun w =>
              { w with
                rdvq := w.rdvq.filter fun q => q.id != op
                reports := if r.2.2 then w.reports ++ [⟨.rdverr, .none, op, none, none, 0, scratchAddr p.off, none⟩] else w.reports }
            let s := match p.upd with
              | .arrive _ => (s.markArrival w.group wave p.off).publishCpys w.group wave
              | _ => s
            (s.putRdv w.group p.off r.1 r.2.1).flushCredits w.group

/-- RDVWAIT reads its object as it issues (R260, R262). -/
def rdvwaitAct (f : Xt) (off : Nat) (u : Iss) (s : State) : Res :=
  let ph := (u.val f.lit f.b s).getLsbD 0
  let sd := match f.d with | .s n => some n | _ => none
  match s.groupAt? u.w.group, s.waveAt? u.k with
  | some g, some w =>
    if s.initPending u.k u.w.group off s.nextId then .hold s
    else
      let o := g.rdv off
      if o.malformed then .trapNext s .rdverr (scratchAddr off) true
      else if o.phase != ph then
        let ecc := g.err && w.handler.isNone
        let r := w.completeRdv false ecc o off sd { u.e with len := u.len }
        .ok (((s.setWave u.k r.1).clearErr u.w.group ecc).observe u.w.group u.k (Stale.ended off)) (.split [r.2])
      else .ok s (u.waits u.e.mask (.rdv off ph sd s.tick))
  | _, _ => .ok s .seq

/-- RDVTEST (R260): class L, counted in XC; the status is read as it issues. -/
def rdvtestAct (f : Xt) (off : Nat) (u : Iss) (s : State) : Res :=
  match s.groupAt? u.w.group with
  | none => .ok s .seq
  | some g =>
    let o := g.rdv off
    if s.initPending u.k u.w.group off s.nextId then .hold s
    else if o.malformed then .trapNext s .rdverr (scratchAddr off) false
    else
      match f.d with
      | .s n =>
        if u.w.full .xc then .hold s
        else .ok (s.addOp u.k fun id => mkOp id .xc u.e.pc 1 [⟨.s n.val, 1, [o.status], 0⟩] u.slot.t 0) .seq
      | _ => .ok s .seq

/-- PWAIT (R254): with t = 0 it is RDVWAIT. -/
def pwaitAct (f : Xt) (off : Nat) (u : Iss) (s : State) : Res :=
  let t := (u.val f.lit f.c s).toNat
  if t = 0 then rdvwaitAct f off u s
  else
    let sd := match f.d with | .s n => some n | _ => none
    .ok s (u.waits u.e.mask (.promise off ((u.val f.lit f.b s).getLsbD 0) sd t))

/-- RDVINIT (R260). -/
def execRdvinitXt (f : Xt) (s : State) : Host.Outcome State Fault Refusal :=
  let srcs := [uni f.a, uni f.b]
  issue (.rdvinitXt f) (basePlan srcs [] .none) (rdvBody f srcs (rdvinitAct f)) s

/-- RDVARR (R260): with no executing lane it acts as NOP (R242). -/
def execRdvarrXt (f : Xt) (s : State) : Host.Outcome State Fault Refusal :=
  let srcs := [uni f.a]
  issue (.rdvarrXt f) (xtPlan f srcs [] .none)
    (fun u s => if u.exec = 0 then .ok s .seq else rdvBody f srcs (rdvarrAct f) u s) s

/-- RDVEXP (R260). -/
def execRdvexpXt (f : Xt) (s : State) : Host.Outcome State Fault Refusal :=
  let srcs := [uni f.a, uni f.b]
  issue (.rdvexpXt f) (basePlan srcs [] .none) (rdvBody f srcs (rdvexpAct f)) s

/-- RDVWAIT (R260). -/
def execRdvwaitXt (f : Xt) (s : State) : Host.Outcome State Fault Refusal :=
  let srcs := [uni f.a, uni f.b]
  issue (.rdvwaitXt f) (basePlan srcs (dstNamed f.d true) .none) (rdvBody f srcs (rdvwaitAct f)) s

/-- RDVTEST (R260). -/
def execRdvtestXt (f : Xt) (s : State) : Host.Outcome State Fault Refusal :=
  let srcs := [uni f.a]
  issue (.rdvtestXt f) (basePlan srcs (dstNamed f.d true) .none) (rdvBody f srcs (rdvtestAct f)) s

/-- PWAIT (R254). -/
def execPwaitXt (f : Xt) (s : State) : Host.Outcome State Fault Refusal :=
  let srcs := [uni f.a, uni f.b, uni f.c]
  issue (.pwaitXt f) (basePlan srcs (dstNamed f.d true) .none) (rdvBody f srcs (pwaitAct f)) s

end Sys2Proof.Machine
end

