-- ==== Sys2Proof/Machine/Matrix.lean ====
section
/-! DEFINITION. The matrix array of a quad (chapter 12): tile handles, accumulator banks, array instructions, operand fills,
the arbiter, and the arithmetic of R112 to R115 and R289. -/

namespace Sys2Proof.Machine

/-! ### Banks (R275, R276) -/

/-- The stored element of a bank. -/
def Bank.elem (b : Bank) (r c : Nat) : Word := b.elems.getD (r * 128 + c) 0

/-- The element of a bank as ARD and ADRAIN read it (R276). -/
def Bank.read (b : Bank) (r c : Nat) : Word :=
  if b.poison then (if b.int then 0x80000000 else 0x7FC00000) else b.elem r c

/-- Set every element; zeros are not listed. -/
def Bank.fillWith (b : Bank) (f : Nat → Nat → Word) : Bank :=
  { b with elems := (List.range 16384).filterMap fun i =>
      let x := f (i / 128) (i % 128)
      if x = 0 then none else some (i, x) }

/-- A zeroing: +0 in every element, no poison (R277). -/
def Bank.zeroed (b : Bank) : Bank := { b with elems := [], poison := false, bad := false }

/-- The group owns the bank, and has not released it (R278). -/
def Bank.ownedBy (b : Bank) (g : Nat) : Bool := b.st == .owned && b.owner == g

/-! ### Arithmetic (R112 to R115, R281, R289) -/

/-- The value of an MMA input code (R112). -/
def mmaVal (ty : Nat) (σ : Int) (c : Nat) : FV :=
  match ty with
  | 4 => decF fmtBf16 c
  | 5 => decF fmt16 c
  | t => decN (fmtNarrow t) σ c

/-- One element of an op: the accumulator with the row of A and the row of B (R113 to R115). -/
def mmaNew (ty : Nat) (σa σb : Int) (acc : Word) (ra rb : List Nat) : Word :=
  if ty = 6 then mmaElemI8 acc (List.zipWith (fun x y => signedOf 8 x * signedOf 8 y) ra rb)
  else
    BitVec.ofNat 32 (mmaElem (ty == 4 || ty == 5) acc.toNat
      (List.zipWith (fun x y => termMul (mmaVal ty σa x) (mmaVal ty σb y)) ra rb))

/-- An MMA or MMAG applied to its bank (R275, R281). -/
def Bank.mma (b : Bank) (ty : Nat) (σa σb : Int) (ra rb : List (List Nat)) : Bank :=
  let b' := b.fillWith fun m n =>
    match ra[m]?, rb[n]? with
    | some x, some y => mmaNew ty σa σb (b.elem m n) x y
    | _, _ => b.elem m n
  { b' with int := ty == 6 }

/-- ADRAIN's conversion of one element into the format of a handle (R289). -/
def drainCode (h : HandleEntry) (int poison : Bool) (x : Word) : Nat × FFlags :=
  let v := x.toInt
  let src : FV := if int then .fin (decide (v < 0)) v.natAbs 0 else decF fmt32 x.toNat
  if poison then
    match h.fmt with
    | 4 => (fmtBf16.nan, 0)
    | 5 => (fmt16.nan, 0)
    | 6 => if int then (0x80, 0) else (0, (ftoiF fmt32 true 8 .rne 0x7FC00000).2)
    | 7 => (fmt32.nan, 0)
    | 8 => (0x80000000, 0)
    | f => ((encN (fmtNarrow f) false h.scale (.nan false)).1, 0)
  else
    match h.fmt with
    | 4 => if int then itofF fmtBf16 .rne v else fcvtF fmtBf16 fmt32 .rne x.toNat
    | 5 => if int then itofF fmt16 .rne v else fcvtF fmt16 fmt32 .rne x.toNat
    | 6 =>
      if int then ((BitVec.ofInt 8 (max (-128) (min 127 v))).toNat, 0)
      else let r := ftoiF fmt32 true 8 .rne x.toNat; ((BitVec.ofInt 8 r.1).toNat, r.2)
    | 7 => (x.toNat, 0)
    | 8 => (x.toNat, 0)
    | f => encN (fmtNarrow f) false h.scale src

/-- Tile rows to an accumulator row (R288). -/
def rowsPer (f : Nat) : Nat := 128 / fmtElems f

/-- The codes of tile row `i` that a drain of `rows` accumulator rows from `arow` writes, with their flags (R288). -/
def drainRow (h : HandleEntry) (b : Bank) (arow i : Nat) : List (Nat × FFlags) :=
  let e := fmtElems h.fmt
  (List.range e).map fun k => drainCode h b.int b.poison (b.read (arow + i / rowsPer h.fmt) (i % rowsPer h.fmt * e + k))

/-! ### The cycle of an event -/

/-- An earlier instruction on the bank has not completed (R285, R286). -/
def Quad.bankReady (q : Quad) (o : AOp) : Bool := !(q.ops.any fun x => x.bank == o.bank && decide (x.id < o.id))

/-- The array cycle at which the next thing happens to an instruction of its own accord, if one is settled; an aborted one ends in
its turn on its bank (R273, R285). -/
def Quad.aopDue (q : Quad) (o : AOp) : Option Nat :=
  if o.aborted then (if q.bankReady o then some q.cycle else none)
  else
    match o.stage, o.kind with
    | .filling t, _ => some t
    | .running t, _ => some t
    | .transfer t, _ => some t
    | .filled, .aload .. => if q.bankReady o then some q.cycle else none
    | .queued, .zero _ => if q.bankReady o then some q.cycle else none
    | _, _ => none

/-- An op can start (R286). -/
def Quad.startable (q : Quad) (o : AOp) : Bool :=
  let isOp := fun (k : AOpKind) => match k with | .mma .. => true | .mmag .. => true | _ => false
  isOp o.kind && o.stage == .filled && !o.aborted &&
    q.ops.all fun x => !(x.bank == o.bank && decide (x.id < o.id)) ||
      (isOp x.kind && (match x.stage with | .running _ => true | _ => false))

/-- The cycle of the arbiter's next decision: the array is free. -/
def Quad.visitAt (q : Quad) : Nat := max q.cycle q.busyUntil

/-- The arbiter has a decision to take: an op can start, or a visit under way may end (R287). -/
def Quad.visiting (q : Quad) : Bool := q.started != 0 || q.ops.any q.startable

/-- The array cycle of the next thing that happens of its own accord: to an instruction, or a visit of the arbiter (R287). -/
def Quad.nextDue (q : Quad) : Option Nat :=
  ((if q.visiting then [q.visitAt] else []) ++ q.ops.filterMap q.aopDue).min?

/-- Nothing of the quad is due before cycle `t`. -/
def Quad.first (q : Quad) (t : Nat) : Bool := match q.nextDue with | some u => decide (t ≤ u) | none => true

/-- The array cycle at which an instruction reaches the array: any cycle before the next thing due (R283). -/
def State.aopNow (s : State) (q : Quad) : Nat :=
  match q.nextDue with
  | none => q.cycle
  | some t => if t ≤ q.cycle then q.cycle else q.cycle + s.freeNum (2 ^ 38) % (t - q.cycle + 1)

/-- How long the arbiter takes to come round to a core (R277, R287). -/
def Quad.turn (q : Quad) (core : Nat) : Nat := (core % 4 + 4 - q.next % 4) % 4

/-- The array cycle at which a bank instruction of a core reaches the array, if it can now: of those that reach it in one cycle, the
ones of cores that the arbiter visits earlier are decided first (R277). -/
def State.claimNow (s : State) (q : Quad) (core : Nat) : Option Nat :=
  let n := s.aopNow q
  match q.claim with
  | some (t, c) => if n = t ∧ q.turn core < q.turn c then (if q.first (n + 1) then some (n + 1) else none) else some n
  | none => some n

/-! ### Operand fill (R283) -/

/-- The operand latch of a core. -/
def Quad.latchOf (q : Quad) (core : Nat) : OpLatch := q.latch.getD (core % 4) ⟨none, false, [], []⟩
/-- Change it. -/
def Quad.modLatch (q : Quad) (core : Nat) (f : OpLatch → OpLatch) : Quad :=
  { q with latch := q.latch.set (core % 4) (f (q.latchOf core)) }

/-- An OPRDY, TMAP or TUNMAP of the core: its next op refills both operands (R283). -/
def State.noReuse (s : State) (core : Nat) : State :=
  s.modQuad (quadOfCore core) fun q => q.modLatch core fun l => { l with key := none }

/-- Operand A of `k` is that of the previous op `p` (R283). -/
def sameA (p k : AOpKind) : Bool :=
  match p, k with
  | .mma _ a _, .mma _ b _ => a == b
  | .mmag _ a _ i m, .mmag _ b _ j n => a == b && i == j && m == n
  | _, _ => false

/-- Operand B of `k` is that of the previous op `p`. -/
def sameB (p k : AOpKind) : Bool :=
  let opB := fun (x : AOpKind) => match x with | .mma _ _ b => some b | .mmag _ _ b _ _ => some b | _ => none
  match opB p, opB k with
  | some x, some y => x == y
  | _, _ => false

/-- The codes of rows `r0` to `r0 + n` of a tile. -/
def State.tileRows (s : State) (o : AOp) (h : HandleEntry) (r0 n : Nat) : List (List Nat) :=
  (List.range n).map fun r => s.readRow o.group (Stale.openArr o.wave) h (r0 + r)

/-- The row indices of an MMAG (R282). -/
def State.gatherList (s : State) (o : AOp) (idx m : Nat) : List Nat :=
  (List.range m).map fun i => ofBytes (s.scratchElem o.group (Stale.openArr o.wave) (idx + 2 * i) 2)

/-- The rows of the pool that a list of indices names: one beyond the pool is a row of zeros (R282). -/
def State.gatherRows (s : State) (o : AOp) (ix : List Nat) : List (List Nat) :=
  let h := o.ha
  ix.map fun i => if i < h.rows then s.readRow o.group (Stale.openArr o.wave) h i else List.replicate (fmtElems h.fmt) 0

/-- The indices that a fill reads now (R282). -/
def State.fillIx (s : State) (o : AOp) : List Nat :=
  match o.kind with
  | .mmag _ _ _ i m => if o.reuseA then [] else s.gatherList o i m
  | _ => []

/-- What a fill reads now, with the indices `ix` of a gather: operands A and B. -/
def State.fillRead (s : State) (o : AOp) (ix : List Nat) : List (List Nat) × List (List Nat) :=
  let l := (s.quadAt (quadOfCore o.core)).latchOf o.core
  let rows := fun (h : HandleEntry) => s.tileRows o h 0 h.rows
  match o.kind with
  | .mma .. => (if o.reuseA then l.a else rows o.ha, if o.reuseB then l.b else rows o.hb)
  | .mmag .. => (if o.reuseA then l.a else s.gatherRows o ix, if o.reuseB then l.b else rows o.hb)
  | .aload t _ n => (s.tileRows o o.ha (tileRow0 (BitVec.ofNat 64 t)) (4 * n), [])
  | _ => ([], [])

/-- A gather with the indices `ix` meets one beyond its pool (R282); a reused one has the error of the earlier fill (R283). -/
def State.gatherErr (s : State) (o : AOp) (ix : List Nat) : Bool :=
  match o.kind with
  | .mmag .. => if o.reuseA then ((s.quadAt (quadOfCore o.core)).latchOf o.core).err else ix.any fun i => decide (o.ha.rows ≤ i)
  | _ => false

/-- The port cycles of an instruction (R283): 512 bytes a cycle, and a gather's own. -/
def AOp.portCycles (o : AOp) : Nat :=
  let up := fun (n d : Nat) => (n + d - 1) / d
  match o.kind with
  | .mma ty _ _ => up (((if o.reuseA then 0 else o.ha.rows) + (if o.reuseB then 0 else o.hb.rows)) * fmtRow ty) 512
  | .mmag ty _ _ _ m =>
    up (((if o.reuseA then 0 else m) + (if o.reuseB then 0 else o.hb.rows)) * fmtRow ty) 512 + (if o.reuseA then 0 else up m 8)
  | .aload _ _ n => n
  | .adrain _ _ n => up (n * rowsPer o.ha.fmt * fmtRow o.ha.fmt) 512
  | .ard _ _ n _ => up (n * 256) 512
  | .zero _ => 0

/-- An instruction that takes the core's port next, if it can: a fill, or a bank read whose bank is ready (R283, R286). -/
def Quad.wantsPort (q : Quad) (o : AOp) : Bool :=
  o.stage == .queued && !o.aborted &&
    (match o.kind with
     | .mma .. => true | .mmag .. => true | .aload .. => true
     | .ard .. => q.bankReady o | .adrain .. => q.bankReady o
     | .zero _ => false)

/-- The instruction occupies its core's port. -/
def AOp.onPort (o : AOp) : Bool := match o.stage with | .filling _ => true | .transfer _ => true | _ => false

/-- Change the array instruction `id` of a quad. -/
def Quad.modAop (q : Quad) (id : Nat) (f : AOp → AOp) : Quad := { q with ops := q.ops.map fun o => if o.id = id then f o else o }

/-- The core's port takes its next use in issue order (R283). -/
def State.pumpPort (s : State) (core : Nat) : State :=
  let q := s.quadAt (quadOfCore core)
  if q.ops.any fun o => o.core == core && o.onPort then s
  else
    match q.ops.find? fun o => o.core == core && q.wantsPort o with
    | none => s
    | some o =>
      let t := q.cycle + o.portCycles
      let bank := match o.kind with | .ard .. => true | .adrain .. => true | _ => false
      let ix := s.fillIx o
      let r := if bank then ([], []) else s.fillRead o ix
      s.modQuad (quadOfCore core) fun q => q.modAop o.id fun o =>
        { o with stage := if bank then .transfer t else .filling t, a := r.1, b := r.2, ix := ix }

/-- Every port of a quad. -/
def State.pumpQuad (s : State) (quad : Nat) : State := (List.range 4).foldl (fun s c => s.pumpPort (quad * 4 + c)) s

/-- The index list of a gather as its fill read it: each entry as it stood when the fill began or as it stands now (R217, R282). -/
def State.mixIx (s : State) (salt : Nat) (x y : List Nat) : List Nat :=
  y.zipIdx.map fun e => if s.freeBit (salt + e.2) then x.getD e.2 e.1 else e.1

/-- The rows of a gather with the indices `ix`: those whose index was read as the fill began (`x`, the rows then) or only now. A row
takes its elements from the one row of the pool that its index names (R282). -/
def gatherThen (x : List (List Nat)) (old ix : List Nat) (y : List (List Nat)) : List (List Nat) :=
  y.zipIdx.map fun r => if old[r.2]? = ix[r.2]? then x.getD r.2 r.1 else r.1

/-- Each element a fill reads is one it met while it ran (R217, R283). -/
def State.mixRows (s : State) (salt : Nat) (x y : List (List Nat)) : List (List Nat) :=
  if x = y then x
  else y.zipIdx.map fun r => r.1.zipIdx.map fun c =>
    if s.freeBit (salt + r.2 * 256 + c.2) then (x.getD r.2 []).getD c.2 0 else c.1

/-! ### Issue (R277, R279 to R288) -/

/-- Queue array instructions that reach the array at cycle `t`: their arrival moves the array's clock. -/
def State.queueAt (s : State) (u : Iss) (t : Nat) (ops : List AOp) : State :=
  let quad := quadOfCore (coreOfWave u.k)
  (s.modQuad quad fun x => { x with cycle := t, ops := x.ops ++ ops }).pumpQuad quad

/-- Queue an array instruction as it reaches the array. -/
def State.queueAop (s : State) (u : Iss) (ops : List AOp) : State :=
  s.queueAt u (s.aopNow (s.quadAt (quadOfCore (coreOfWave u.k)))) ops

/-- The weight of a group (R287). -/
def weightOf (prio : Nat) : Nat := if prio = 0 then 1 else if prio = 1 then 2 else 4

/-- A fresh array instruction. -/
def State.mkAop (s : State) (u : Iss) (id inst bank : Nat) (kind : AOpKind) (rdv : Option Nat) : AOp :=
  let w := weightOf (((s.groupAt? u.w.group).map fun g => g.prio.val).getD 0)
  let entry := fun (i : Nat) => match kind.tiles[i]? with
    | some t => (s.coreAt (coreOfWave u.k)).handle (t % 64)
    | none => HandleEntry.init
  ⟨id, inst, coreOfWave u.k, u.w.group, u.k, bank, kind, rdv, .queued, w, false, false, false, false, false, entry 0, entry 1,
    [], [], []⟩

/-- The core holds 32 array instructions (R285). -/
def State.arrayFull (s : State) (core : Nat) : Bool :=
  let l := ((s.quadAt (quadOfCore core)).ops.filter fun o => o.core == core && o.inst != 0).map (·.inst)
  decide (32 ≤ l.dedup.length)

/-- The banks of a mask that `ok` refuses, as ACCOWN names them (R277). -/
def badBanks (q : Quad) (m : BitVec 8) (ok : Bank → Bool) : Nat :=
  ((List.range 8).filter fun b => m.getLsbD b && !ok (q.bank b)).foldl (fun n b => n + 2 ^ b) 0

/-- ACLAIM, AREL and AZERO (R277): the array decides them one at a time; the banks of the mask change state, and a zeroing is queued
on each. -/
def bankBody (m : BitVec 8) (ok : Bank → Bool) (act : Bank → Bank) (release : Bool) (u : Iss) (s : State) : Res :=
  let core := coreOfWave u.k
  let quad := quadOfCore core
  let q := s.quadAt quad
  let bad := badBanks q m ok
  match s.claimNow q core with
  | none => .hold s
  | some t =>
    if bad ≠ 0 then .trap .accown (BitVec.ofNat 64 bad)
    else if u.w.heldLater || s.arrayFull core then .hold s
    else
      let banks := (List.range 8).filter fun b => m.getLsbD b
      let inst := s.nextId
      let ops := banks.zipIdx.map fun b => s.mkAop u (inst + b.2) inst b.1 (.zero release) none
      let s := { s with nextId := s.nextId + banks.length }
      let s := s.modQuad quad fun q => { banks.foldl (fun q b => q.modBank b act) q with claim := some (t, core) }
      .ok (s.queueAt u t ops) .seq

/-- ACLAIM (R277). -/
def aclaimBody (f : Xt) (u : Iss) (s : State) : Res :=
  bankBody f.e8 (fun b => b.st == .free || b.ownedBy u.w.group) (fun b => { b with st := .owned, owner := u.w.group }) false u s

/-- AREL (R277). -/
def arelBody (f : Xt) (u : Iss) (s : State) : Res :=
  bankBody f.e8 (fun b => b.ownedBy u.w.group) (fun b => { b with st := .releasing }) true u s

/-- AZERO (R277). -/
def azeroBody (f : Xt) (u : Iss) (s : State) : Res :=
  bankBody (BitVec.twoPow 8 (f.e8.toNat % 8)) (fun b => b.ownedBy u.w.group) id false u s

/-- The bank an array instruction names. -/
def bankOf (f : Xt) : Nat := f.e8.toNat % 8

/-- The rendezvous of an array instruction: none for inline constant 0, but an ADRAIN always names one (R279). -/
def State.rdvOpt (s : State) (u : Iss) (f : Xt) (needed : Bool) : Except (Cause × DWord) (Option Nat) :=
  if f.x = .const 0 ∧ !needed then .ok none
  else (s.rdvCheck u.w.group (u.val f.lit f.x s)).map some

/-- The operands a wave-uniform array instruction reads: `n` tiles or offsets and its rendezvous, if it names one. -/
def arraySrcs (f : Xt) (l : List Src) : List Opnd := (l.map uni) ++ (if f.x = .const 0 then [] else [uni f.x])

/-- The operand rules of MMA and MMAG on a tile (R280). -/
def opTile (ty : Nat) (poolOk : Bool) (tile : DWord) (h : HandleEntry) : Except (Cause × DWord) Unit :=
  if tileRow0 tile ≠ 0 ∨ h.fmt ≠ ty ∨ (h.pool ∧ !poolOk) then .error (.handle, tile) else .ok ()

/-- The bank is owned by the group, or ACCOWN (R280 step 4). -/
def State.bankCheck (s : State) (u : Iss) (f : Xt) : Except (Cause × DWord) Unit :=
  if ((s.quadAt (quadOfCore (coreOfWave u.k))).bank (bankOf f)).ownedBy u.w.group then .ok ()
  else .error (.accown, BitVec.ofNat 64 (2 ^ bankOf f))

/-- The checks of MMA and MMAG in the order of R280: rendezvous and what the op reads. -/
def opCheck (gather : Bool) (f : Xt) (u : Iss) (s : State) : Except (Cause × DWord) (Option Nat × AOpKind) := do
  let rdv ← s.rdvOpt u f false
  let ta := u.val f.lit f.a s
  let tb := u.val f.lit f.b s
  let ha ← s.tileCheck (coreOfWave u.k) u.w.group ta
  let hb ← s.tileCheck (coreOfWave u.k) u.w.group tb
  let ty := bits f.imm.toNat 2 0
  opTile ty gather ta ha
  opTile ty false tb hb
  let kind ← (if gather then do
      let idx := u.val f.lit f.c s
      let m := bits f.imm.toNat 9 3 + 1
      if idx.toNat % 2 ≠ 0 then throw (.misalign, idx)
      if ((s.groupAt? u.w.group).map (·.size)).getD 0 < idx.toNat + 2 * m then throw (.aperture, idx)
      pure (.mmag ty (ta.toNat % 65536) (tb.toNat % 65536) idx.toNat m)
    else pure (.mma ty (ta.toNat % 65536) (tb.toNat % 65536)) : Except (Cause × DWord) AOpKind)
  s.bankCheck u f
  return (rdv, kind)

/-- An array instruction is held at issue (R209, R284, R285). -/
def State.arrayHeld (s : State) (u : Iss) : Bool :=
  u.w.heldLater || s.oprdyHolds u.k u.w || s.arrayFull (coreOfWave u.k)

/-- MMA and MMAG (R281 to R283): the op is queued, its operands reused where R283 says so. -/
def opBody (gather : Bool) (f : Xt) (u : Iss) (s : State) : Res :=
  reading u f.lit (arraySrcs f (if gather then [f.a, f.b, f.c] else [f.a, f.b])) s fun s' =>
    finish <| do
      let (rdv, kind) ← opCheck gather f u s
      if s.arrayHeld u then return .hold s
      let core := coreOfWave u.k
      let key := ((s.quadAt (quadOfCore core)).latchOf core).key
      let (id, s) := (s'.oprdyDone u.k u.w).fresh
      let same := fun (p : AOpKind → AOpKind → Bool) => match key with | some k => p k kind | none => false
      let o := { s.mkAop u id id (bankOf f) kind rdv with reuseA := same sameA, reuseB := same sameB }
      let s := s.modQuad (quadOfCore core) fun q => q.modLatch core fun l => { l with key := some kind }
      return .ok (s.queueAop u [o]) .seq

/-- ARD (R288): counted in XC; its values come when the transfer is done. With no executing lane it does all of this and writes nothing
(DESIGN CHOICE, notes/assumptions/75.md). -/
def ardBody (f : Xt) (u : Iss) (s : State) : Res :=
  let arow := bits f.imm.toNat 6 0
  let n := bits f.imm.toNat 10 7 + 1
  finish <| do
    s.bankCheck u f
    if u.w.heldLater || s.arrayFull (coreOfWave u.k) || u.w.full .xc then return .hold s
    let d := match f.d with | .v r => r.val | _ => 0
    let (id, s) := s.fresh
    let o := s.mkAop u id id (bankOf f) (.ard d arow n u.exec) none
    let op : LOp := ⟨id, .xc, u.e.pc, .ard id, u.exec, 0, u.exec, (List.range n).map fun j => ⟨.v (d + j), u.exec, [], 0⟩, false,
      false, none, u.slot.t, 0, none⟩
    return .ok ((s.modWave u.k fun w => w.enter op).queueAop u [o]) .seq

/-- ADRAIN and ALOAD (R288). -/
def moveBody (load : Bool) (f : Xt) (u : Iss) (s : State) : Res :=
  let arow := bits f.imm.toNat 6 0
  let n := bits f.imm.toNat 13 7 + 1
  reading u f.lit (arraySrcs f [f.a]) s fun s' =>
    finish <| do
      let rdv ← s.rdvOpt u f (!load)
      let tile := u.val f.lit f.a s
      let h ← s.tileCheck (coreOfWave u.k) u.w.group tile
      if load ∧ h.fmt ≠ 7 ∧ h.fmt ≠ 8 then throw (.illegal, if load then 0xBB else 0xBA)
      if h.rows < tileRow0 tile + (if load then 4 else rowsPer h.fmt) * n then throw (.handle, tile)
      s.bankCheck u f
      if s.arrayHeld u then return .hold s
      let (id, s) := (s'.oprdyDone u.k u.w).fresh
      let t := tile.toNat % 2 ^ 28
      return .ok (s.queueAop u [s.mkAop u id id (bankOf f) (if load then .aload t arow n else .adrain t arow n) rdv]) .seq

/-- AWAIT (R278, R288): the entry waits for the instructions on the bank issued before it. -/
def awaitBody (b : Nat) (sd : Option (Fin 64)) (u : Iss) (s : State) : Res :=
  let bank := (s.quadAt (quadOfCore (coreOfWave u.k))).bank b
  if !bank.ownedBy u.w.group then .trap .accown (BitVec.ofNat 64 (2 ^ b))
  else if u.w.heldLater then .hold s
  else .ok s (u.waits u.e.mask (.bank b s.nextId sd s.tick))

/-- OPRDY (R283, R284): later array instructions of the wave are held for the stores issued before it. -/
def oprdyBody (u : Iss) (s : State) : Res :=
  if u.w.heldLater then .hold s
  else
    let s := (s.noReuse (coreOfWave u.k)).oprdyMeets u.w.group u.k
    .ok (s.modWave u.k fun w => { w with oprdy := some s.nextId }) .seq

/-! ### Handles (R270 to R272) -/

/-- TMAP (R270). -/
def tmapBody (f : Xt) (u : Iss) (s : State) : Res :=
  let imm := f.imm.toNat
  let rows := bits imm 23 12 + 1
  reading u f.lit [uni f.a] s fun s' =>
    let ofs := u.val f.lit f.a s
    let core := coreOfWave u.k
    if ofs.toNat % 1024 ≠ 0 then .trap .misalign ofs
    else if ((s.groupAt? u.w.group).map (·.size)).getD 0 < ofs.toNat + 128 * rows then .trap .aperture ofs
    else if u.w.heldLater || u.w.full .xc then .hold s
    else
      let s := s'.noReuse core
      let free := (List.range 64).find? fun i => ((s.coreAt core).handle i).st == .free
      let r := match free with
        | none => ((0 : Nat), s)
        | some i =>
          let h := (s.coreAt core).handle i
          let h' : HandleEntry := ⟨.mapped, h.gen, u.w.group, ofs.toNat, rows, imm.testBit 11, imm.testBit 10,
            BitVec.ofNat 6 (bits imm 9 4), bits imm 3 0⟩
          (handleVal core i h.gen, s.modCore core fun c => c.modHandle i fun _ => h')
      match f.d with
      | .s n => .ok (r.2.addOp u.k fun id => mkOp id .xc u.e.pc 1 [⟨.s n.val, 1, [BitVec.ofNat 64 r.1], 0⟩] u.slot.t 0) .seq
      | _ => .ok r.2 .seq

/-- TUNMAP (R271): the entry retires, and is free again when the last user has completed. -/
def tunmapBody (f : Xt) (u : Iss) (s : State) : Res :=
  reading u f.lit [uni f.a] s fun s' =>
    let core := coreOfWave u.k
    match s.handleFor core u.w.group (u.val f.lit f.a s) with
    | none => .trap .handle (u.val f.lit f.a s)
    | some (i, _) =>
      if u.w.heldLater || u.w.full .xc then .hold s
      else
        let s := (s'.noReuse core).modCore core fun c => c.modHandle i fun h => { h with st := .retiring }
        let s := s.addOp u.k fun id => ⟨id, .xc, u.e.pc, .tunmap i, 0, 0, 0, [], false, false, none, u.slot.t, 0, none⟩
        .ok (s.retireHandles core) .seq

/-- The value TQUERY writes (R272). -/
def State.queryVal (s : State) (core g : Nat) (tile : DWord) : Nat :=
  let v := tile.toNat % 65536
  let h := (s.coreAt core).handle (v % 64)
  if bits v 7 6 = core % 4 ∧ h.st ≠ .free ∧ h.owner = g ∧ bits v 15 8 = h.gen then
    2 ^ 63 + (if h.st = .retiring then 2 ^ 62 else 0) + min 255 (s.users core v) * 2 ^ 54 + (h.rows - 1) * 2 ^ 42 +
      h.off / 1024 % 512 * 2 ^ 33 + (if h.pool then 2 ^ 32 else 0) + (if h.swz then 2 ^ 31 else 0) + h.sigma.toNat * 2 ^ 25 +
      h.fmt * 2 ^ 21 + v
  else 0

/-- TQUERY (R272). -/
def tqueryBody (f : Xt) (u : Iss) (s : State) : Res :=
  reading u f.lit [uni f.a] s fun s' =>
    if u.w.heldLater || u.w.full .xc then .hold s
    else
      match f.d with
      | .s n =>
        let x := s.queryVal (coreOfWave u.k) u.w.group (u.val f.lit f.a s)
        .ok (s'.addOp u.k fun id => mkOp id .xc u.e.pc 1 [⟨.s n.val, 1, [BitVec.ofNat 64 x], 0⟩] u.slot.t 0) .seq
      | _ => .ok s' .seq

/-! ### Instructions -/

/-- TMAP (R270). -/
def execTmapXt (f : Xt) (s : State) : Host.Outcome State Fault Refusal :=
  issue (.tmapXt f) (basePlan [uni f.a] (dstNamed f.d true) .none) (tmapBody f) s
/-- TUNMAP (R271). -/
def execTunmapXt (f : Xt) (s : State) : Host.Outcome State Fault Refusal :=
  issue (.tunmapXt f) (basePlan [uni f.a] [] .none) (tunmapBody f) s
/-- TQUERY (R272). -/
def execTqueryXt (f : Xt) (s : State) : Host.Outcome State Fault Refusal :=
  issue (.tqueryXt f) (basePlan [uni f.a] (dstNamed f.d true) .none) (tqueryBody f) s
/-- ACLAIM (R277). -/
def execAclaimXt (f : Xt) (s : State) : Host.Outcome State Fault Refusal := issue (.aclaimXt f) plainPlan (aclaimBody f) s
/-- AREL (R277). -/
def execArelXt (f : Xt) (s : State) : Host.Outcome State Fault Refusal := issue (.arelXt f) plainPlan (arelBody f) s
/-- AZERO (R277). -/
def execAzeroXt (f : Xt) (s : State) : Host.Outcome State Fault Refusal := issue (.azeroXt f) plainPlan (azeroBody f) s
/-- MMA (R281). -/
def execMmaXt (f : Xt) (s : State) : Host.Outcome State Fault Refusal :=
  issue (.mmaXt f) (basePlan (arraySrcs f [f.a, f.b]) [] .none) (opBody false f) s
/-- MMAG (R282). -/
def execMmagXt (f : Xt) (s : State) : Host.Outcome State Fault Refusal :=
  issue (.mmagXt f) (basePlan (arraySrcs f [f.a, f.b, f.c]) [] .none) (opBody true f) s
/-- AWAIT in BS (R288). -/
def execAwaitBs (rb : Bool) (b : Fin 8) (s : State) : Host.Outcome State Fault Refusal :=
  issue (.awaitBs rb b) plainPlan (awaitBody b.val none) s
/-- AWAIT (R288). -/
def execAwaitXt (f : Xt) (s : State) : Host.Outcome State Fault Refusal :=
  issue (.awaitXt f) (basePlan [] (dstNamed f.d true) .none)
    (awaitBody (bankOf f) (match f.d with | .s n => some n | _ => none)) s
/-- ARD (R288). -/
def execArdXt (f : Xt) (s : State) : Host.Outcome State Fault Refusal :=
  let dsts := match f.d with | .v r => [(Src.v r, bits f.imm.toNat 10 7 + 1)] | _ => []
  issue (.ardXt f) (xtPlan f [] dsts .none) (ardBody f) s
/-- ADRAIN (R288). -/
def execAdrainXt (f : Xt) (s : State) : Host.Outcome State Fault Refusal :=
  issue (.adrainXt f) (basePlan (arraySrcs f [f.a]) [] .none) (moveBody false f) s
/-- ALOAD (R288). -/
def execAloadXt (f : Xt) (s : State) : Host.Outcome State Fault Refusal :=
  issue (.aloadXt f) (basePlan (arraySrcs f [f.a]) [] .none) (moveBody true f) s
/-- OPRDY in BS (R284). -/
def execOprdyBs (rb : Bool) (s : State) : Host.Outcome State Fault Refusal := issue (.oprdyBs rb) plainPlan oprdyBody s
/-- OPRDY (R284). -/
def execOprdyXt (f : Xt) (s : State) : Host.Outcome State Fault Refusal := issue (.oprdyXt f) plainPlan oprdyBody s

/-! ### The array at work -/

/-- The array instruction `id` of a quad whose time has come, with the cycle. -/
def State.aopNext (s : State) (quad id : Nat) : Option (AOp × Nat) :=
  let q := s.quadAt quad
  match q.ops.find? fun o => o.id == id with
  | none => none
  | some o =>
    match q.aopDue o with
    | some t => if q.first t then some (o, t) else none
    | none => none

/-- The array's clock reaches a cycle. -/
def State.arrayAt (s : State) (quad t : Nat) : State := s.modQuad quad fun q => { q with cycle := max q.cycle t }

/-- An instruction completes: its rendezvous is credited, its handles lose a user, and what waited for it goes on. -/
def State.finishAop (s : State) (quad : Nat) (o : AOp) (bytes : Nat) (err : Bool) (flags : FFlags) : State :=
  let s := s.modQuad quad fun q => { q with ops := q.ops.filter fun x => x.id != o.id }
  let s := match o.rdv with
    | none => s
    | some off => s.giveCredit o.group ⟨o.id, o.wave, off, bytes, err || o.ecc || o.aborted, flags⟩
  ((s.retireHandles o.core).pumpQuad quad).wakeGroup o.group

/-- The array meets an uncorrectable error in an instruction (R290): the group's error flag is set, its credit carries error, and its
bank is poisoned in the instruction's turn on it (R285). -/
def State.aopError (s : State) (quad : Nat) (o : AOp) : State :=
  (s.modQuad quad fun q => q.modAop o.id fun x => { x with ecc := true }).modGroup o.group fun g => { g with err := true }

/-- An instruction that has met an error poisons the bank it writes, or reads (R290). -/
def State.poisonBank (s : State) (quad : Nat) (o : AOp) : State :=
  if o.ecc then s.modQuad quad fun q => q.modBank o.bank fun b => { b with poison := true } else s

/-- A fill with the indices `ix` reads a byte of scratchpad that is lost (R290). -/
def State.fillLost (s : State) (o : AOp) (ix : List Nat) : Bool :=
  let rows := fun (h : HandleEntry) (r0 n : Nat) => (List.range n).any fun r => s.badRow o.group h (r0 + r)
  match o.kind with
  | .mma .. => (!o.reuseA && rows o.ha 0 o.ha.rows) || (!o.reuseB && rows o.hb 0 o.hb.rows)
  | .mmag _ _ _ i m =>
    (!o.reuseA && (s.badBytes o.group ((List.range (2 * m)).map fun j => i + j) ||
      ix.any fun r => decide (r < o.ha.rows) && s.badRow o.group o.ha r)) ||
      (!o.reuseB && rows o.hb 0 o.hb.rows)
  | .aload t _ n => rows o.ha (tileRow0 (BitVec.ofNat 64 t)) (4 * n)
  | _ => false

/-- An instruction that works on its bank meets the bank's storage errors (R290): the instruction and the state after. -/
def State.meetBank (s : State) (quad : Nat) (o : AOp) : AOp × State :=
  if ((s.quadAt quad).bank o.bank).bad then ({ o with ecc := true }, s.aopError quad o) else (o, s)

/-- FILL_COMPLETE (R217, R282, R283): the operands an instruction has read are in its latch. -/
def execFillComplete (quad op : Nat) (s : State) : Host.Outcome State Fault Refusal :=
  .next <|
    match s.aopNext quad op with
    | none => s
    | some (o, t) =>
      match o.stage, o.aborted with
      | .filling _, false =>
        let ix := s.mixIx (2 ^ 56 + op * 2 ^ 17) o.ix (s.fillIx o)
        let r := s.fillRead o ix
        let begun := if ix = o.ix then o.a else gatherThen o.a o.ix ix r.1
        let a := s.mixRows (2 ^ 37 + op * 2 ^ 17) begun r.1
        let b := s.mixRows (2 ^ 37 + op * 2 ^ 17 + 2 ^ 16) o.b r.2
        let isOp := match o.kind with | .aload .. => false | _ => true
        let err := s.gatherErr o ix
        let s := if s.fillLost o ix then s.aopError quad o else s
        ((s.arrayAt quad t).modQuad quad fun q =>
          let q := q.modAop op fun o => { o with stage := .filled, a := a, b := b, err := err }
          if isOp then q.modLatch o.core fun (l : OpLatch) => { l with err := err, a := a, b := b } else q).pumpQuad quad
      | _, _ => s

/-- The oldest startable op of a core of the quad. -/
def Quad.oldest (q : Quad) (c : Nat) : Option AOp := q.ops.find? fun o => o.core % 4 == c && q.startable o

/-- The arbiter's next start, passing over cores as R287 says: its position and the ops started there, with the op. -/
def Quad.visit (q : Quad) : Nat → Nat → Nat → Nat × Nat × Option AOp
  | 0, c, n => (c, n, none)
  | k + 1, c, n =>
    match q.oldest c with
    | some o => if n < o.weight then (c, n, some o) else q.visit k ((c + 1) % 4) 0
    | none => q.visit k ((c + 1) % 4) 0

/-- The cycles an op occupies the array (R286). -/
def opCycles (k : AOpKind) : Nat :=
  match k with
  | .mma 3 _ _ => 32
  | .mmag 3 _ _ _ _ => 32
  | _ => 64

/-- ARBITER_VISIT (R286, R287): the array is free, and the arbiter starts an op or ends its visit. -/
def execArbiterVisit (quad : Nat) (s : State) : Host.Outcome State Fault Refusal :=
  .next <|
    let q := s.quadAt quad
    let t := q.visitAt
    let early := q.ops.any fun o => match q.aopDue o with | some u => decide (u ≤ t) | none => false
    if !q.visiting || early then s
    else
      let s := s.arrayAt quad t
      if !(q.ops.any q.startable) then s.modQuad quad fun q => { q with next := (q.next + 1) % 4, started := 0 }
      else
        match q.visit 6 q.next q.started with
        | (c, n, some o) =>
          let len := opCycles o.kind
          s.modQuad quad fun q =>
            { q.modAop o.id fun o => { o with stage := .running (t + len + 39) } with next := c, started := n + 1, busyUntil := t + len }
        | _ => s

/-- OP_COMPLETE (R273, R275, R281, R282, R286): the results of an MMA or MMAG are in its bank; an aborted one poisons it. -/
def execOpComplete (quad op : Nat) (s : State) : Host.Outcome State Fault Refusal :=
  .next <|
    match s.aopNext quad op with
    | none => s
    | some (o, t) =>
      let run := match o.stage with | .running _ => true | _ => false
      let go := fun (ty : Nat) =>
        if o.aborted then
          ((s.arrayAt quad t).modQuad quad fun q => q.modBank o.bank fun x => { x with poison := true }).finishAop quad o 0 true 0
        else if run then
          let (o, s) := s.meetBank quad o
          (((s.arrayAt quad t).modQuad quad fun q => q.modBank o.bank fun x => x.mma ty o.ha.scale o.hb.scale o.a o.b).poisonBank quad
            o).finishAop quad o 0 o.err 0
        else s
      match o.kind with
      | .mma ty _ _ => go ty
      | .mmag ty _ _ _ _ => go ty
      | _ => s

/-- ZEROING_DONE (R277, R278): a zeroing takes effect; a released bank is free. -/
def execZeroingDone (quad op : Nat) (s : State) : Host.Outcome State Fault Refusal :=
  .next <|
    match s.aopNext quad op with
    | none => s
    | some (o, t) =>
      match o.kind with
      | .zero release =>
        ((s.arrayAt quad t).modQuad quad fun q => q.modBank o.bank fun x =>
          if release then { x.zeroed with st := .free, owner := 0 } else x.zeroed).finishAop quad o 0 false 0
      | _ => s

/-- The values of an ARD reach its operation (R288). -/
def State.landArd (s : State) (o : AOp) (b : Bank) (arow n : Nat) (lanes : Mask) : State :=
  let cycle := (s.coreAt o.core).cycle
  s.modWave o.wave fun w => (w.modOp o.id fun x =>
    { x with
      ready := lanes
      done := true
      writes := x.writes.zipIdx.map fun e =>
        if e.2 < n then
          { e.1 with vals := perLane fun L =>
              let i := e.2 * 64 + L
              (b.read (arow + i / 128) (i % 128)).zeroExtend 64 }
        else e.1 }).retire cycle

/-- Write rows of a drain from `i` up to `n` tile rows (R266, R289). -/
def State.drainRows (s : State) (o : AOp) (h : HandleEntry) (b : Bank) (row0 arow n : Nat) : State :=
  (List.range n).foldl (fun s i =>
    s.writeRow o.group o.wave o.id .drain h (row0 + i) (rowBytes h.fmt ((drainRow h b arow i).map (·.1)))) s

/-- BANK_TRANSFER_DONE (R273, R288 to R290): an ARD, ADRAIN or ALOAD finishes. An aborted ADRAIN has written some of its
rows; an aborted ALOAD poisons its bank. -/
def execBankTransferDone (quad op : Nat) (s : State) : Host.Outcome State Fault Refusal :=
  .next <|
    match s.aopNext quad op with
    | none => s
    | some (o, t) =>
      let (o, s) := (match o.kind with
        | .aload .. => (o, s)
        | _ => let r := s.meetBank quad o; (r.1, r.2.poisonBank quad r.1))
      let b := (s.quadAt quad).bank o.bank
      let at_ := s.arrayAt quad t
      let moving := match o.stage with | .transfer _ => true | _ => false
      match o.kind with
      | .ard _ arow n lanes =>
        if moving || o.aborted then (at_.landArd o b arow n lanes).finishAop quad o 0 false 0 else s
      | .adrain tile arow n =>
        let h := o.ha
        let row0 := tileRow0 (BitVec.ofNat 64 tile)
        let rows := n * rowsPer h.fmt
        if o.aborted then
          let k := if moving then s.freeNum (2 ^ 35 + op) % (rows + 1) else 0
          (at_.drainRows o h b row0 arow k).finishAop quad o (rows * fmtRow h.fmt) true 0
        else if moving then
          let fl := (List.range rows).foldl (fun fl i => (drainRow h b arow i).foldl (fun f e => f ||| e.2) fl) (0 : FFlags)
          (at_.drainRows o h b row0 arow rows).finishAop quad o (rows * fmtRow h.fmt) b.poison fl
        else s
      | .aload _ arow n =>
        let h := o.ha
        if o.aborted then
          (at_.modQuad quad fun q => q.modBank o.bank fun x => { x with poison := true }).finishAop quad o (512 * n) true 0
        else if o.stage = .filled then
          let rows := pieces 4 n o.a
          (at_.modQuad quad fun q => q.modBank o.bank fun x =>
            { x.fillWith fun r c =>
                if arow ≤ r ∧ r < arow + n then
                  BitVec.ofNat 32 (((rows.getD (r - arow) []).getD (c / 32) []).getD (c % 32) 0)
                else x.elem r c with
              int := h.fmt == 8, poison := o.ecc || (x.poison && n != 128), bad := x.bad && n != 128 }).finishAop quad o (512 * n) false 0
        else s
      | _ => s

/-! ### Revocation (R273) -/

/-- Free the handle entries of a core that `p` selects, their generations bumped; their users are aborted (R273). -/
def State.revoke (s : State) (core : Nat) (p : HandleEntry → Bool) : State :=
  let hit := (s.coreAt core).handles.filter fun e => e.2.st != .free && p e.2
  let vals := hit.map fun e => handleVal core e.1 e.2.gen
  let q := quadOfCore core
  let s := s.modQuad q fun x => { x with
    ops := x.ops.map fun o => if o.core = core && o.kind.tiles.any vals.contains then { o with aborted := true } else o
    copies := x.copies.map fun c => if c.core = core && vals.contains (c.tile % 65536) then { c with aborted := true } else c }
  hit.foldl (fun s e => (s.modCore core fun c => c.modHandle e.1 fun h => { h with st := .free, gen := bumpGen h.gen }).landTunmap
    core e.1) s

end Sys2Proof.Machine
end

