-- ==== Sys2Proof/Machine/Meridian.lean ====
section
/-! DEFINITION. The Meridian protocol engine (chapter 21): what programs read, messages, breaches, joining and leaving. Times
are group time in ns. -/

namespace Sys2Proof.Machine

/-- The earliest pending change of the clock: its value and group time (R420). -/
def Meridian.nextClock (self : Nat) (m : Meridian) (t : Nat) : Nat → Option (Nat × Nat)
  | 0 => none
  | k + 1 =>
    let times := (if t < m.dropEnd then [m.dropEnd] else []) ++ (if m.follows self then m.times.filter fun e => decide (t < e) else [])
    match times.min? with
    | none => none
    | some e =>
      let n := m.settle self e
      if n.clockAt e = m.clockAt t then Meridian.nextClock self n e k else some (n.clockAt e, e)

/-! ### What programs read (R18, R420, R421) -/

/-- GCLK. -/
def State.gclk (s : State) : Nat := s.merNow.clockAt s.gt
/-- GCLKNEXT and GCLKEFF. -/
def State.gclkNext (s : State) : Nat × Nat :=
  let m := s.merNow
  (m.nextClock s.host.device s.gt (m.times.length + 2)).getD (s.gclk, 0)
/-- MSTATE. -/
def State.mstate (s : State) : Nat :=
  let m := s.merNow
  m.mnum.toNat * 2 ^ 32 + m.members.length * 2 ^ 19 + (if m.openBr.isSome then 8 else 0) +
    (match m.st with | .none => 0 | .joining => 1 | .member => 2 | .leaving => 3 | .local_ => 4)
/-- MCEIL. -/
def State.mceil (s : State) : Nat :=
  let m := s.merNow
  s.gclk + m.own * 2 ^ 16 + m.ownLimit * 2 ^ 32

/-! ### Sending (R407, R408) -/

/-- The 256 bits of a message (R407). -/
def wireOf (m : MMsg) : BitVec 256 :=
  m.type ++ m.sender ++ m.subject ++ m.ceiling ++ m.nextceil ++ m.rsv ++ m.group ++ m.mnum ++ m.effective ++ m.sent

/-- The ports on which a message leaves: the lowest usable one of each die (R408, R444). -/
def State.merPorts (s : State) : List Nat :=
  (List.range 4).filterMap fun d => ((List.range 18).map fun i => d * 18 + i).find? fun p =>
    (s.links.port p).st == .up && (s.links.port p).tx.stopped.isNone

/-- Send a message whose EFFECTIVE lies `after` ns past its SENT, 0 for none; its SENT and the state. After a level 3 alarm
none is sent (R447). -/
def State.sendM (s : State) (type : BitVec 8) (subject ceiling nextceil : Nat) (eff : Nat → Nat) : Nat × State :=
  let sent := max s.gt (s.mer.sentAt + 1)
  let key := s.host.device * 256 + type.toNat
  let m : MMsg := ⟨type, BitVec.ofNat 12 s.host.device, BitVec.ofNat 12 subject, BitVec.ofNat 12 ceiling,
    BitVec.ofNat 12 nextceil, 0, s.mer.group, s.mer.mnum, BitVec.ofNat 64 (eff sent), BitVec.ofNat 64 sent⟩
  let s := s.modMer fun x => { x with sentAt := sent, seen := x.seen.set key (sent :: x.seen.getD key []) }
  (sent, if s.links.level3 then s else s.merPorts.foldl (fun s p => s.sendFlit p (.meridian (wireOf m))) s)

/-- Enter JOINING (R412). -/
def State.startJoin (s : State) : State :=
  let t := s.gt
  s.modMer fun m => { m with st := .joining, since := t, aligned := none, view := [], members := [], anns := [], changes := [],
                             epochFrom := none }

/-- The device leaves on its own (R413, R416), with a breach of its kind: 3 EPOCH, 4 SELFEXIT, 5 MERGE. -/
def State.selfExit (s : State) (kind subject : Nat) : State :=
  let s := s.merSettle.keepDelta
  let t := s.gt
  let before := s.mer.clockAt t
  s.modMer fun m =>
    let m := m.breach kind subject t t before m.ownLimit
    { m with st := .local_, members := [], anns := [], changes := [], epochFrom := none, view := [], aligned := none }

/-- A member announces its limit with 100 µs of lead (R406), or leaves on its own where it needs less than 1,000 MHz (R416); another
device follows it at once. -/
def State.announceLimit (s : State) : State :=
  let s := s.merSettle
  let l := s.mer.ownLimit
  if !s.mer.isMember then s
  else if l < 1000 then s.selfExit 4 0
  else
    let r := s.sendM 2 0 l 0 fun t => t + lead
    r.2.modMer fun m => { m with anns := m.anns ++ [⟨s.host.device, l, r.1 + lead, r.1⟩] }

/-- A member makes an emergency drop of `k` steps of 25 MHz, or leaves on its own: for a need of more than two steps, a second one
within 100 µs, or one below 1,000 MHz (R416). -/
def State.dropBy (s : State) (k : Nat) : State :=
  let s := s.merSettle
  let g := s.mer.ceiling
  let c := g - 25 * k
  let recent := match s.mer.lastDrop with | some d => decide (s.gt < d + lead) | none => false
  if recent || decide (2 < k) || decide (c < 1000) then s.selfExit 4 0
  else
    let r := s.sendM 3 0 c 0 fun t => t + lead
    r.2.modMer fun m =>
      { m.breach 1 0 r.1 0 g c with
        clock := c, own := c, dropEnd := r.1 + lead, lastDrop := some r.1
        members := m.members.set s.host.device (c, r.1) }

/-- An emergency drop of a member that cannot run on at its clock for the lead: by one or two steps, whichever its limit needs (R416). -/
def State.emergencyDrop (s : State) : State :=
  let s := s.merSettle
  let l := s.mer.ownLimit
  let g := s.mer.ceiling
  if !s.mer.isMember ∨ s.mer.clockAt s.gt ≤ l then s
  else s.dropBy (if l < 1000 ∨ l + 50 < g then 3 else if g ≤ l + 25 ∧ (s.freeBit (2 ^ 34) ∨ g < 1050) then 1 else 2)

/-- The own limit has changed from `l`: the device announces the new one, or drops where `fast` says that it cannot run on for the
lead (R406, R416). -/
def State.limitChanged (s : State) (l : Nat) (fast : Bool) : State :=
  if s.mer.ownLimit = l then s
  else if fast && decide (s.mer.ownLimit < s.mer.clockAt s.gt) then s.emergencyDrop
  else s.announceLimit

/-! ### Receiving (R404, R407 to R409) -/

/-- The conditions of R407 and R408 on a message's own fields. -/
def mmsgOk (m : MMsg) : Bool :=
  let mhz := fun (c : Nat) => c == 0 || (c % 25 == 0 && decide (1000 ≤ c) && decide (c ≤ 2250))
  m.rsv == 0 && mhz m.ceiling.toNat && mhz m.nextceil.toNat &&
    (match m.type.toNat with
     | 1 => true
     | 3 => m.effective.toNat == m.sent.toNat + lead
     | t => decide (2 ≤ t) && decide (t ≤ 6) && decide (m.sent.toNat + lead ≤ m.effective.toNat))

/-- The key of the messages of a sender and TYPE (R408). -/
def msgKey (m : MMsg) : Nat := m.sender.toNat * 256 + m.type.toNat

/-- An invalid or foreign message is discarded and counted (R404, R408); its copies on the other planes will be duplicates. -/
def State.discardM (s : State) (m : MMsg) : State :=
  let k := 2 ^ 20 + msgKey m
  s.modMer fun x => { x with invalid := x.invalid + 1, seen := x.seen.set k (m.sent.toNat :: x.seen.getD k []) }

/-- A valid message has come at group time `t` (R408, R417). -/
def State.noteM (s : State) (m : MMsg) (t : Nat) (late : Bool) : State :=
  s.modMer fun x =>
    { x with
      seen := x.seen.set (msgKey m) (m.sent.toNat :: x.seen.getD (msgKey m) [])
      heard := x.heard.set m.sender.toNat t
      late := if late then x.late + 1 else x.late }

/-- A message arrives on a port that brings it: it is discarded, or `act` applies it with its effective time and says whether it did,
and LATE is logged where R409 says so. A late heartbeat is still heard, and aligns a device that is not aligned yet (R412). -/
def State.receiveM (s : State) (port : Nat) (m : MMsg) (act : State → Nat → State × Bool) : State :=
  let s := s.merSettle
  let sent := m.sent.toNat
  let eff := m.effective.toNat
  let old := s.mer.seen.getD (msgKey m) []
  let t := s.gt
  if !s.brings port then s
  else if old.contains sent ∨ (s.mer.seen.getD (2 ^ 20 + msgKey m) []).contains sent then s
  else if m.group ≠ s.mer.group ∨ !(s.mer.admit_.getD m.sender.toNat false) ∨ !mmsgOk m ∨ old.any (fun x => decide (sent ≤ x)) then
    s.discardM m
  else
    let late := decide (sent + 20000 < t)
    let s := s.noteM m t late
    if s.mer.st = .none ∨ s.mer.st = .local_ then s
    else if m.type = 1 then
      if late && !(s.mer.st == .joining && s.mer.aligned.isNone) then s.modMer fun x => if x.st = .joining then { x with since := t } else x
      else (act s 0).1
    else
      let before := s.mer.clockAt t
      let r := act s (max eff t)
      if late && decide (eff < t) && r.2 then
        r.1.modMer fun x =>
          { ({ x with mnum := x.numberAt eff } : Meridian).breach 2 m.sender.toNat eff t before (x.clockAt t) with mnum := x.mnum }
      else r.1

/-- Align group time to a heartbeat's (R412, R413): its SENT and a flight time that no rule gives. -/
def State.align (s : State) (sent : Nat) : State :=
  let t := s.gt
  let target := sent + s.freeNum (2 ^ 33) % 20001
  let base := s.gtime - s.chrono
  if t ≤ target then
    s.modMer fun m => { m with delta := base + (target - t : Nat), slew := 0, slewFrom := s.chrono, aligned := some target }
  else
    let d := t - target
    s.modMer fun m => { m with delta := base, slew := d, slewFrom := s.chrono, aligned := some (t + 999 * d) }

/-- A membership number is this device's own, or changes that are pending here make the difference: each join, and each device that
leaves or is removed, once (R410, R411). -/
def Meridian.explains (m : Meridian) (n : BitVec 32) : Bool :=
  decide ((n - m.mnum).toNat ≤ (distinct (m.changes.map fun c => 2 * c.subject + if c.join then 1 else 0)).length)

/-- What a heartbeat does (R410 to R412, R415). -/
def State.onHeartbeat (s : State) (m : MMsg) : State :=
  match s.mer.st with
  | .joining =>
    let s := if s.mer.aligned.isNone then s.align m.sent.toNat else s
    let t := s.gt
    s.modMer fun x => { x with view := (t, m) :: x.view, since := t, heard := x.heard.set m.sender.toNat t }
  | .none => s
  | .local_ => s
  | _ =>
    let counted := (s.mer.members.get? m.sender.toNat).isSome
    if !counted && decide (m.subject.toNat < s.mer.founder) then s.selfExit 5 m.sender.toNat
    else if !counted then s
    else
      let t := s.gt
      s.modMer fun x => { x with epochFrom := if x.explains m.mnum then none else some ((x.epochFrom.map (·.1)).getD t, t) }

/-- A member's announcement, or a joining device's record of one (R405, R416), and whether it applies to a member. -/
def State.onAnnounce (s : State) (m : MMsg) (eff : Nat) : State × Bool :=
  let sent := m.sent.toNat
  ((s.modMer fun x => { x with anns := x.anns ++ [⟨m.sender.toNat, m.ceiling.toNat, eff, sent⟩] }).merSettle,
    s.mer.follows s.host.device && ((s.mer.members.get? m.sender.toNat).any fun e => decide (e.2 ≤ sent)))

/-- A membership change (R410, R412, R414, R417), and whether it changes the members this device counts. -/
def State.onChange (s : State) (c : MChange) : State × Bool :=
  ((s.modMer fun x => { x with changes := x.changes ++ [c] }).merSettle,
    s.mer.follows s.host.device && (c.join || (s.mer.members.get? c.subject).isSome))

/-! ### Messages that arrive -/

/-- HEARTBEAT (R410 to R412, R415). -/
def execHeartbeat (a : MFlit) (s : State) : Host.Outcome State Fault Refusal :=
  .next <| s.receiveM a.port a.msg fun s _ => (s.onHeartbeat a.msg, true)

/-- ANNOUNCE (R405, R406). -/
def execAnnounce (a : MFlit) (s : State) : Host.Outcome State Fault Refusal :=
  .next <| s.receiveM a.port a.msg fun s e => s.onAnnounce a.msg e

/-- DROP (R416). -/
def execDrop (a : MFlit) (s : State) : Host.Outcome State Fault Refusal :=
  .next <| s.receiveM a.port a.msg fun s e => s.onAnnounce a.msg e

/-- JOIN (R412). -/
def execJoin (a : MFlit) (s : State) : Host.Outcome State Fault Refusal :=
  .next <| s.receiveM a.port a.msg fun s e => s.onChange ⟨a.msg.sender.toNat, a.msg.sender.toNat, true, e, a.msg.ceiling.toNat, a.msg.sent.toNat⟩

/-- LEAVE (R414). -/
def execLeave (a : MFlit) (s : State) : Host.Outcome State Fault Refusal :=
  .next <| s.receiveM a.port a.msg fun s e => s.onChange ⟨a.msg.sender.toNat, a.msg.sender.toNat, false, e, 0, a.msg.sent.toNat⟩

/-- SILENT (R417): one that names the device itself makes it leave. -/
def execSilent (a : MFlit) (s : State) : Host.Outcome State Fault Refusal :=
  .next <| s.receiveM a.port a.msg fun s e =>
    if a.msg.subject.toNat = s.host.device ∧ s.mer.isMember then (s.selfExit 4 s.host.device, true)
    else if s.mer.follows s.host.device ∧ a.msg.mnum ≠ s.mer.mnum then (s, false)
    else s.onChange ⟨a.msg.sender.toNat, a.msg.subject.toNat, false, e, 0, a.msg.sent.toNat⟩

/-- MERIDIAN_INVALID_TYPE (R404, R407, R408). -/
def execMeridianInvalidType (a : MFlit) (s : State) : Host.Outcome State Fault Refusal :=
  .next <| s.receiveM a.port a.msg fun s _ => (s, false)

/-! ### What the engine does by itself -/

/-- HEARTBEAT_TIMER (R410): every 20 µs a member sends HEARTBEAT with its pending announcement. -/
def execHeartbeatTimer (s : State) : Host.Outcome State Fault Refusal :=
  .next <|
    let s := s.merSettle
    if !s.mer.isMember ∨ s.gt < s.mer.nextBeat then s
    else
      let mine := (s.mer.anns.filter fun a => a.sender == s.host.device).getLast?
      let c := ((s.mer.members.get? s.host.device).map (·.1)).getD s.mer.ownLimit
      let r := s.sendM 1 s.mer.founder c ((mine.map (·.ceiling)).getD 0) fun _ => (mine.map (·.effective)).getD 0
      r.2.modMer fun m => { m with nextBeat := m.nextBeat + 20000 }

/-- MERIDIAN_EFFECTIVE (R405, R410, R419): what is due takes effect; a device that has left on its own joins again. -/
def execMeridianEffective (s : State) : Host.Outcome State Fault Refusal :=
  .next <|
    let s := s.merSettle
    if s.mer.st = .local_ then s.startJoin else s

/-- The other members. -/
def State.others (s : State) : List Nat := (s.mer.members.map (·.1)).filter fun n => n != s.host.device

/-- Nothing has come from member `n` for 200 µs. -/
def State.silentNow (s : State) (n : Nat) : Bool := decide ((s.mer.heard.getD n 0) + 200000 ≤ s.gt)

/-- No other member has been heard for 200 µs (R418). -/
def State.allSilent (s : State) : Bool := !s.others.isEmpty && s.others.all s.silentNow

/-- SILENCE_TIMEOUT (R417): the device has not heard member `n`, and has not said so under this membership number. -/
def execSilenceTimeout (n : Nat) (s : State) : Host.Outcome State Fault Refusal :=
  .next <|
    let s := s.merSettle
    let said := s.mer.changes.any fun c => c.subject == n && !c.join && c.by_ == s.host.device
    if !s.mer.isMember ∨ !(s.others.contains n) ∨ !(s.silentNow n) ∨ s.allSilent ∨ said then s
    else
      let r := s.sendM 6 n 0 0 fun t => t + lead
      (r.2.onChange ⟨s.host.device, n, false, r.1 + lead, 0, r.1⟩).1

/-- GROUP_SILENCE (R418). -/
def execGroupSilence (s : State) : Host.Outcome State Fault Refusal :=
  .next <|
    let s := s.merSettle
    if s.mer.isMember ∧ s.allSilent then s.selfExit 4 0 else s

/-- EPOCH_TIMEOUT (R411): foreign membership numbers have come for more than 100 µs (notes/assumptions/65.md). -/
def execEpochTimeout (s : State) : Host.Outcome State Fault Refusal :=
  .next <|
    let s := s.merSettle
    match s.mer.epochFrom with
    | some (a, b) => if s.mer.isMember ∧ a + 100000 < b then s.selfExit 3 0 else s
    | none => s

/-- The latest heartbeat of each sender. -/
def latestBeats (view : List (Nat × MMsg)) : List MMsg :=
  view.foldl (fun l e => if l.any fun m => m.sender == e.2.sender then l else l ++ [e.2]) []

/-- JOIN_LISTEN_END (R412): 40 µs after alignment the device takes its view of the group and sends JOIN. -/
def execJoinListenEnd (s : State) : Host.Outcome State Fault Refusal :=
  .next <|
    match s.mer.st, s.mer.aligned with
    | .joining, some a =>
      let self := s.host.device
      if s.gt < a + 40000 ∨ s.mer.follows self then s
      else
        let beats := latestBeats (s.mer.view.filter fun e => decide (a ≤ e.1))
        match beats with
        | [] => s
        | b :: _ =>
          let last := beats.foldl (fun b m => if b.sent < m.sent then m else b) b
          let sent := last.sent.toNat
          let l := s.mer.ownLimit
          let gone := (s.mer.changes.filter fun c => !c.join && decide (c.effective ≤ sent)).map (·.subject)
          let s := s.modMer fun m =>
            { m with
              members := (beats.filter fun b => !gone.contains b.sender.toNat).foldl
                (fun t b => t.set b.sender.toNat (b.ceiling.toNat, b.sent.toNat)) []
              anns := (m.anns.filter fun a => decide (sent < a.effective)) ++
                (beats.filter fun b => b.nextceil != 0).map fun b =>
                  ⟨b.sender.toNat, b.nextceil.toNat, b.effective.toNat, b.sent.toNat⟩
              changes := m.changes.filter fun c => decide (sent < c.effective)
              mnum := last.mnum
              mnums := (s.gt, last.mnum) :: m.mnums
              founder := last.subject.toNat }
          let r := s.sendM 4 0 l 0 fun t => t + lead
          (r.2.onChange ⟨self, self, true, r.1 + lead, l, r.1⟩).1
    | _, _ => s

/-- FOUND_GROUP (R412): a joining device that hears no heartbeat for 200 µs founds the group. -/
def execFoundGroup (s : State) : Host.Outcome State Fault Refusal :=
  .next <|
    let s := s.merSettle
    let self := s.host.device
    let t := s.gt
    if s.mer.st ≠ .joining ∨ t < s.mer.since + 200000 then s
    else s.keepDelta.modMer fun m =>
      { m with st := .member, mnum := 1, mnums := (t, 1) :: m.mnums, founder := self, members := [(self, (m.ownLimit, t))], own := m.ownLimit, anns := [],
               changes := [], view := [], nextBeat := t, epochFrom := none }

/-! ### Management registers (R414, R421) -/

/-- The port whose owner writes the management registers (R421). -/
def State.merPort (s : State) : Nat := if s.host.mode.val = 0 then s.host.owner else 0

/-- Send LEAVE (R414). -/
def State.sendLeave (s : State) : State :=
  let r := s.sendM 5 0 0 0 fun t => t + lead
  r.2.modMer fun m => { m with st := .leaving, changes := m.changes ++ [⟨s.host.device, s.host.device, false, r.1 + lead, 0, r.1⟩] }

/-- A write from the owner, on a device that answers its management registers (R421, R447). -/
def State.ownerWrites (s : State) (port : Nat) : Bool :=
  port == s.merPort && !s.links.level3 && s.links.boot == .running

/-- MCTL_EN_SET (R412, R419). -/
def execMctlEnSet (port : Nat) (s : State) : Host.Outcome State Fault Refusal :=
  .next <|
    let s := s.merSettle
    if !s.ownerWrites port then s
    else
      let s := s.modMer fun m => { m with en := true }
      if s.mer.st = .none then s.startJoin else s

/-- MCTL_EN_CLEAR (R414, R419). -/
def execMctlEnClear (port : Nat) (s : State) : Host.Outcome State Fault Refusal :=
  .next <|
    let s := s.merSettle
    if !s.ownerWrites port then s
    else if s.mer.st = .member then (s.modMer fun m => { m with en := false }).sendLeave
    else
      s.keepDelta.modMer fun m => { m with en := false, st := .none, members := [], anns := [], changes := [], view := [],
                                           aligned := none, epochFrom := none }

/-- MCTL_LEAVE (R414). -/
def execMctlLeave (port : Nat) (s : State) : Host.Outcome State Fault Refusal :=
  .next <|
    let s := s.merSettle
    if s.ownerWrites port ∧ s.mer.st = .member then s.sendLeave else s

/-- MLIMIT_WRITE (R406, R421). A value with bits above the field is out of range, and the write is ignored as a whole (DESIGN CHOICE,
notes/assumptions/57.md). -/
def execMlimitWrite (port : Nat) (val : DWord) (s : State) : Host.Outcome State Fault Refusal :=
  .next <|
    let s := s.merSettle
    let v := val.toNat
    if !s.ownerWrites port ∨ v % 25 ≠ 0 ∨ v < 1000 ∨ 2250 < v then s
    else
      let l := s.mer.ownLimit
      let s := s.modMer fun m => { m with limit := v }
      s.limitChanged l false

end Sys2Proof.Machine
end

