-- ==== Sys2Proof/Machine/System.lean ====
section
/-! DEFINITION. System instructions (R10, R18 to R20, R364, R368 to R375, R380, R386), and the steps of translation, page
requests and invalidations (R367, R378, R380). -/

namespace Sys2Proof.Machine

/-! ### Special registers (R18, R370) -/

/-- The value of a special register of a wave, other than LANEID. -/
def State.sreg (s : State) (u : Iss) (n : Nat) : DWord :=
  let w := u.w
  let nat := fun (x : Nat) => BitVec.ofNat 64 x
  match n with
  | 0x00 => 64
  | 0x02 => nat w.waveid
  | 0x03 => nat w.groupid
  | 0x04 => nat w.groupwaves
  | 0x05 => nat (coreOfWave u.k)
  | 0x06 => nat s.host.device
  | 0x07 => nat (w.launch % 2 ^ 32)
  | 0x08 => nat s.chrono
  | 0x09 => BitVec.ofInt 64 s.gtime
  | 0x0A => w.mwct
  | 0x0B => w.fpmode
  | 0x0C => w.wstat
  | 0x0D => w.trapcause
  | 0x0E => w.trappc
  | 0x0F => w.trapaddr
  | 0x10 => ((s.ctxAt? w.ctx).map (·.clease)).getD 0
  | 0x11 => nat s.gclk
  | 0x12 => nat s.gclkNext.1
  | 0x13 => nat s.gclkNext.2
  | 0x14 => nat s.mstate
  | 0x15 => w.parambase
  | 0x16 => 0xFE00000000000000
  | 0x17 => 0xFF00000000000000
  | 0x18 => w.peerst
  | 0x19 => nat w.ten
  | 0x88 => w.trapmask
  | 0x89 => w.retpc
  | 0x8A => w.traprun
  | 0x8B => nat w.ctx
  | 0x8C => ((s.ctxAt? w.ctx).map (·.clease)).getD 0
  | 0x8D => ((s.ctxAt? w.ctx).map (·.cto)).getD 0
  | n => if 0x80 ≤ n ∧ n ≤ 0x87 then w.hsave.getD (n - 0x80) 0 else 0

/-- MOVS (R18, R372). -/
def movsBody (f : Xt) (u : Iss) (s : State) : Res :=
  let n := f.e8.toNat
  let scalar := match f.d with | .s _ => true | _ => false
  let vals := perLane fun L => if n = 1 then BitVec.ofNat 64 L else narrow scalar (s.sreg u n)
  .ok (s.modWave u.k fun w => w.putResult u.exec u.slot.t .a false scalar f.d none false vals) .seq

/-- The pipe of a result of class A that stands in `d`. -/
def dstPipe (d : Dst) : Pipe := match d with | .s _ => .scalar | _ => .vec

/-- The bits of PEERST that a write of 1 clears (R306). -/
def peerstW1c : DWord := 0xFF
/-- The reserved bits of WSTAT and PEERST. -/
def wstatRsv : DWord := ~~~0x1F7
def peerstRsv : DWord := 0x000FFFFFFFFFFF00

/-- A write of `x` to special register `n`: the state after, or none where it raises ILLEGAL (R10, R18 to R20, R306,
R370). -/
def State.writeSreg (s : State) (u : Iss) (n : Nat) (x : DWord) : Option State :=
  let wave := fun (f : Wave → Wave) => some (s.modWave u.k f)
  match n with
  | 0x0B => if fpmodeOk x then wave fun w => { w with fpmode := x } else none
  | 0x0C => if x &&& wstatRsv = 0 then wave fun w => { w with wstat := w.wstat &&& ~~~x } else none
  | 0x18 => if x &&& peerstRsv = 0 then wave fun w => { w with peerst := w.peerst &&& ~~~(x &&& peerstW1c) } else none
  | 0x89 => if x.toNat % 4 = 0 then wave fun w => { w with retpc := x, traprun := w.traprun ||| 32 } else none
  | 0x8C => if 64 ≤ x.toNat ∧ x.toNat ≤ 4096 then some (s.modCtx u.w.ctx fun c => { c with clease := x }) else none
  | 0x8D => if 10 ≤ x.toNat ∧ x.toNat ≤ 10000 then some (s.modCtx u.w.ctx fun c => { c with cto := x }) else none
  | n => if 0x80 ≤ n ∧ n ≤ 0x87 then wave fun w => { w with hsave := w.hsave.set (n - 0x80) x } else none

/-- MOVSW (R372): a read-only index, a value out of range and a reserved bit change nothing. -/
def movswBody (f : Xt) (u : Iss) (s : State) : Res :=
  reading u f.lit [uni f.a] s fun s' =>
    match s'.writeSreg u f.e8.toNat (u.val f.lit f.a s) with
    | none => .trap .illegal (f.e8.zeroExtend 64)
    | some t => .ok t .seq

/-- TRET (R364): outside handler mode ILLEGAL; inside, the entry's lanes wait for the handler's others. -/
def tretBody (u : Iss) (s : State) : Res :=
  if u.w.handler.isNone then .trap .illegal 0xCA
  else .ok s (.leave [{ u.e with st := .wait .tret, len := u.len }])

/-- A performance counter at issue (R373); counter 0 holds the cycle of the wave's allocation. -/
def perfVal (u : Iss) (n : Nat) : DWord :=
  let x := u.w.perf.getD n 0
  if n = 0 then BitVec.ofNat 64 u.slot.t - x else x

/-- PERFRD (R373). -/
def perfrdBody (f : Xt) (u : Iss) (s : State) : Res :=
  .ok (s.modWave u.k fun w =>
    w.putResult u.exec u.slot.t .a false true f.d none false (perLane fun _ => perfVal u f.e8.toNat)) .seq

/-! ### The trace ring (R375) -/

/-- A record (R375). -/
def traceRecord (s : State) (u : Iss) (code : Nat) (value : DWord) : Nat :=
  s.chrono % 2 ^ 64 * 2 ^ 192 + u.e.pc.toNat * 2 ^ 128 + value.toNat * 2 ^ 64 + code % 65536 * 2 ^ 48 +
    coreOfWave u.k * 2 ^ 38 + u.w.waveid * 2 ^ 34

/-- Where the ring's byte at `off` is stored, if it can be, and the page it is reached through (notes/assumptions/20.md). -/
def State.tracePa (s : State) (u : Iss) (base off : Nat) : Option (Nat × Option (Nat × Nat)) × State :=
  let core := coreOfWave u.k
  let r := s.translateCore core u.w.ctx (base + off) .store
  match r.1 with
  | .to (.dev pa) => (some (pa, pageIn (r.2.coreAt core).tlb u.w.ctx (base + off)), r.2)
  | _ => (none, r.2)

/-- A store of a DBGMARK, accepted at its home (R374, R380). -/
def State.traceStore (s : State) (u : Iss) (at_ : Nat × Option (Nat × Nat)) (off n x after : Nat) : Nat × State :=
  s.engineAcc .store (at_.1 + off) (bytesOf n x) after (u.w.ctx + 1) u.w.launch at_.2

/-- The records a ring holds (R375). -/
def Ctx.traceCap (c : Ctx) : Nat := (c.trpages * 4096 - 64) / 32

/-- Append a record to the context's trace ring (R374, R375). -/
def State.trace (s : State) (u : Iss) (code : Nat) (value : DWord) : State :=
  match s.ctxAt? u.w.ctx with
  | none => s
  | some c =>
    if c.trbase = 0 ∨ c.traceCap = 0 then s
    else
      let h := s.tracePa u c.trbase 0
      match h.1 with
      | none => h.2
      | some hd =>
        let s := h.2
        let wr := s.latest hd.1 8
        if (wr + 2 ^ 64 - s.latest (hd.1 + 8) 8) % 2 ^ 64 = c.traceCap then
          (s.traceStore u hd 16 4 ((s.latest (hd.1 + 16) 4 + 1) % 2 ^ 32) 0).2
        else
          let r := s.tracePa u c.trbase (64 + 32 * (wr % c.traceCap))
          match r.1 with
          | none => r.2
          | some pa =>
            let a := r.2.traceStore u pa 0 32 (traceRecord s u code value) 0
            let b := a.2.traceStore u hd 0 8 ((wr + 1) % 2 ^ 64) a.1
            b.2.modWave u.k fun w => w.adopt b.1

/-- DBGMARK with a value (R374). -/
def dbgmarkBody (f : Xt) (u : Iss) (s : State) : Res :=
  reading u f.lit [uni f.a] s fun s' => .ok (s'.trace u f.imm.toNat (u.val f.lit f.a s)) .seq

/-! ### HALTW (R369) -/

/-- HALTW: the wave ends as at an EXIT of its last lanes, which waits for its XC work and its FENCEs (R169). -/
def haltwBody (f : Xt) (u : Iss) (s : State) : Res :=
  if u.w.counter .xc != 0 || u.w.fencing then .hold s
  else if f.e8.toNat % 2 = 1 then .ok (s.haltLaunch u.k 2 (f.imm.toNat % 65536)) (.split [])
  else .ok (s.endLanes u.k) (.split [])

/-! ### TLBINV (R380) -/

/-- Start an invalidation. -/
def State.startInval (s : State) (x : Inval) : State := s.modMem fun m => { m with invals := m.invals ++ [x] }

/-- Bytes of device memory lie in one of the granules. -/
def inGrans (l : List Nat) (pa n : Nat) : Bool := l.any fun g => overlap pa n (g * 2 ^ 21) (2 ^ 21)

/-- A home has accepted an access to a granule that changes hands (R198, R394). -/
def Acc.heldIn (grans : List Nat) (a : Acc) : Bool :=
  a.wct?.isSome && (match a.tgt with | .dev pa => inGrans grans pa a.size | _ => false)

/-- Granules change hands (R394, R433): what their homes have accepted takes its effect, their lines are dropped and they are zeroed, and
the entry names their owner; then the translations to them are dropped, and until that is done every access to them is PROT. -/
def State.startMove (s : State) (grans : List Nat) (owner : Option (BitVec 8)) (port : Option Nat) : Nat × State :=
  let (id, s) := s.fresh
  let s := (s.mem.accs.filter (Acc.heldIn grans)).foldl State.makeVisible s
  let s := grans.foldl (fun s g => s.wipe (g * 2 ^ 21) (2 ^ 21)) s
  (id, (s.modMem fun m => { m with
      owners := match owner with | some b => grans.foldl (fun t g => t.set g b) m.owners | none => m.owners
      moving := m.moving ++ grans.filter fun g => !m.moving.contains g }).startInval
    ⟨id, 64, false, 0, 0, none, port, false, [], grans, owner⟩)

/-- TLBINV (R380): an address off a page boundary is MISALIGN; with no page it completes at once. -/
def tlbinvBody (f : Xt) (u : Iss) (s : State) : Res :=
  let all := f.e8.toNat % 4 == 1
  reading u f.lit (if all then [] else [uni f.a, uni f.b]) s fun s' =>
    let va := u.val f.lit f.a s
    let n := (u.val f.lit f.b s).toNat
    if !all && va.toNat % 4096 != 0 then .trap .misalign va
    else if !all && n == 0 then .ok s' .seq
    else if u.w.full .xc then .hold s
    else
      let (id, s) := s'.fresh
      let op : LOp := ⟨id, .xc, u.e.pc, .tlbinv id, 0, 0, 0, [], false, false, none, u.slot.t, 0, none⟩
      .ok ((s.modWave u.k fun w => w.enter op).startInval
        ⟨id, u.w.ctx, all, if all then 0 else va.toNat, if all then 0 else n, some u.k, none, false, [], [], none⟩) .seq

/-! ### Instructions -/

/-- MOVS (R372). -/
def execMovsXt (f : Xt) (s : State) : Host.Outcome State Fault Refusal :=
  issue (.movsXt f) (xtPlan f [] (dstNamed f.d false) (dstPipe f.d)) (movsBody f) s

/-- MOVSW (R372). -/
def execMovswXt (f : Xt) (s : State) : Host.Outcome State Fault Refusal :=
  issue (.movswXt f) (basePlan [uni f.a] [] .scalar) (movswBody f) s

/-- TRET (R364). -/
def execTretBs (rb : Bool) (s : State) : Host.Outcome State Fault Refusal := issue (.tretBs rb) plainPlan tretBody s

/-- TRET in XT (R364). -/
def execTretXt (f : Xt) (s : State) : Host.Outcome State Fault Refusal := issue (.tretXt f) plainPlan tretBody s

/-- TLBINV (R380). -/
def execTlbinvXt (f : Xt) (s : State) : Host.Outcome State Fault Refusal :=
  issue (.tlbinvXt f) (basePlan (if f.e8.toNat % 4 == 1 then [] else [uni f.a, uni f.b]) [] .none) (tlbinvBody f) s

/-- PERFRD (R373). -/
def execPerfrdXt (f : Xt) (s : State) : Host.Outcome State Fault Refusal :=
  issue (.perfrdXt f) (basePlan [] (dstNamed f.d true) .scalar) (perfrdBody f) s

/-- DBGMARK without a value (R374). -/
def execDbgmarkBs (rb : Bool) (code : BitVec 16) (s : State) : Host.Outcome State Fault Refusal :=
  issue (.dbgmarkBs rb code) scalarPlan (fun u s => .ok (s.trace u code.toNat 0) .seq) s

/-- DBGMARK with a value (R374). -/
def execDbgmarkXt (f : Xt) (s : State) : Host.Outcome State Fault Refusal :=
  issue (.dbgmarkXt f) (basePlan [uni f.a] [] .scalar) (dbgmarkBody f) s

/-- HALTW (R369). -/
def execHaltwXt (f : Xt) (s : State) : Host.Outcome State Fault Refusal := issue (.haltwXt f) plainPlan (haltwBody f) s

/-- An encoding that is no instruction raises ILLEGAL precisely (R79, R138), after the checks that any instruction without
operands passes: it is issued in the place of a NOP. -/
def execNonInstruction (opc : BitVec 8) (s : State) : Host.Outcome State Fault Refusal :=
  issue (.nopBs false) plainPlan (fun _ _ => .trap .illegal (opc.zeroExtend 64)) s

/-! ### Walks and page requests (R367, R378) -/

/-- TRANSLATION_WALK (R378, R379): the walk for an address of the wave on a core completes and its caches fill. -/
def execTranslationWalk (core va : Nat) (s : State) : Host.Outcome State Fault Refusal :=
  .next <|
    match (s.coreAt core).run.bind s.waveAt? with
    | none => s
    | some w => if 2 ^ 57 ≤ va then s else (s.translateCore core w.ctx va .load).2

/-- A wait for a page: its page number, the request awaited and the answer. -/
abbrev WaitFn := Nat → Option (BitVec 32) → Option Bool → Option (BitVec 32) × Option Bool

/-- A trap wait under `f`. -/
def TrapWait.upd (f : WaitFn) (t : TrapWait) : TrapWait :=
  let r := f t.vpn t.seq t.answer
  { t with seq := r.1, answer := r.2 }

/-- A page wait of a copy or an admission under `f`. -/
def pageUpd (f : WaitFn) (t : Nat × Option (BitVec 32) × Option Bool) : Nat × Option (BitVec 32) × Option Bool :=
  (t.1, f t.1 t.2.1 t.2.2)

/-- Change every wait for a page of a context: of its waves and copies, saved ones included, and of its queues (R366,
R251, R330). -/
def State.eachWait (s : State) (ctx : Nat) (f : WaitFn) : State :=
  let wave := fun (w : Wave) => if w.ctx = ctx then { w with trapWait := w.trapWait.map (TrapWait.upd f) } else w
  let copy := fun (c : Copy) => if c.ctx = ctx then { c with wait := c.wait.map (pageUpd f) } else c
  let saved := fun (g : SavedGroup) =>
    { g with waves := g.waves.map (fun (e : Nat × Wave) => (e.1, wave e.2)), copies := g.copies.map copy }
  let quad := fun (q : Quad) => { q with copies := q.copies.map copy }
  let queue := fun (q : Queue) => if q.ctx = ctx then { q with wait := q.wait.map (pageUpd f) } else q
  let s : State := { s with
    waves := s.waves.mapVals fun _ => wave
    quads := s.quads.mapVals fun _ => quad
    cp := { s.cp with queues := s.cp.queues.mapVals fun _ => queue } }
  s.modCtx ctx fun c => { c with saves := c.saves.map saved }

/-- Posts of a page that another post has just named: each merges and takes no room (R367). -/
def State.mergePosts (s : State) (ctx vpn : Nat) : List (Nat × Nat × Nat) → State
  | [] => s
  | p :: t => State.mergePosts (if p.1 = vpn then (s.postPage ctx vpn p.2.1 p.2.2).2 else s) ctx vpn t

/-- PRQ_POST (R367): the oldest post that waits is written once there is room, with those of its page; one that cannot be
written is answered as DENY. -/
def execPrqPost (ctx : Nat) (s : State) : Host.Outcome State Fault Refusal :=
  .next <|
    match s.ctxAt? ctx with
    | none => s
    | some c =>
      match c.prqPend with
      | [] => s
      | p :: t =>
        let r := s.postPage ctx p.1 p.2.1 p.2.2
        let rest := fun (s : State) => s.modCtx ctx fun c => { c with prqPend := c.prqPend.filter fun x => x.1 != p.1 }
        match r.1 with
        | .waits => s
        | .posted q =>
          (rest (r.2.mergePosts ctx p.1 t)).eachWait ctx fun v seq ans =>
            if v = p.1 ∧ seq = none ∧ ans = none then (some q, none) else (seq, ans)
        | .denied =>
          (rest r.2).eachWait ctx fun v seq ans =>
            if v = p.1 ∧ seq = none ∧ ans = none then (none, some false) else (seq, ans)

/-! ### Invalidations (R380) -/


/-- A cached entry maps one of the granules, or names a table in it. -/
def TlbEntry.reaches (e : TlbEntry) (l : List Nat) : Bool :=
  if pteLeaf e.pte then pteTgt e.pte == 0 && inGrans l (ptePa e.pte / e.size * e.size) e.size
  else inGrans l (ptePa e.pte) 4096

/-- An invalidation covers a cached translation. -/
def Inval.covers (x : Inval) (e : TlbEntry) : Bool :=
  if x.grans.isEmpty then e.ctx == x.ctx && (x.all || overlap e.va e.size x.va (4096 * x.pages)) else e.reaches x.grans

/-- The context for which an access was translated. -/
def State.accCtx (s : State) (a : Acc) : Option Nat :=
  match a.owner with
  | .engine => if a.op = 0 then none else some (a.op - 1)
  | _ => (s.launchAt? a.launch).map (·.ctx)

/-- An access was translated through a covered entry. -/
def State.throughInval (s : State) (x : Inval) (a : Acc) : Bool :=
  if x.grans.isEmpty then
    (match a.page with | some (va, size) => x.all || overlap va size x.va (4096 * x.pages) | none => false) &&
      s.accCtx a == some x.ctx
  else
    match a.owner, a.tgt with
    | .engine, .dev pa => a.page.isSome && inGrans x.grans pa a.size
    | _, .dev pa => inGrans x.grans pa a.size
    | _, _ => false

/-- An access or operation that an invalidation waits for has not completed. -/
def State.invalWaits (s : State) (x : Inval) : Bool :=
  s.mem.accs.any (fun a => x.waits.contains a.id) ||
    s.waves.any fun e => e.2.lops.any fun o => x.waits.contains o.id && o.left != 0

/-- The granule belongs to a tenancy that an alarm has stopped: no access to it is served again (R446). -/
def State.shut (s : State) (g : Nat) : Bool :=
  let b := (s.mem.owner g).toNat
  b / 16 == 4 && ((s.host.tens.get? (b % 16)).map (·.stopped)).getD false

/-- An invalidation has completed: the granules that it moved can be reached again, but for those of a stopped tenancy and those that
another one moves (R394, R433, R446). -/
def State.endInval (s : State) (x : Inval) : State :=
  s.modMem fun m =>
    let rest := m.invals.filter fun y => y.id != x.id
    { m with
      invals := rest
      moving := m.moving.filter fun g => !x.grans.contains g || s.shut g || rest.any fun y => y.grans.contains g }

/-- TLBINV_COMPLETE (R380): the covered entries are dropped everywhere; once the accesses that used them have completed, the
invalidation completes, and its TLBINV leaves XC or its TLB_INV answers. -/
def execTlbinvComplete (id : Nat) (s : State) : Host.Outcome State Fault Refusal :=
  .next <|
    match s.mem.invals.find? fun x => x.id == id with
    | none => s
    | some x =>
      if !x.dropped then
        let used := s.mem.accs.filter (s.throughInval x)
        let ops := used.filterMap fun a => match a.owner with | .wave _ => some a.op | _ => none
        let waits := used.map (·.id) ++ distinct ops
        (s.dropTlb x.covers).modMem fun m =>
          { m with invals := m.invals.map fun y => if y.id = id then { y with dropped := true, waits := waits } else y }
      else if s.invalWaits x || s.house.pwInval == some id then s
      else
        let s := s.endInval x
        let s := match x.wave with
          | none => s
          | some k =>
            let cycle := (s.coreAt (coreOfWave k)).cycle
            (s.modWave k fun w => (w.modOp id fun (o : LOp) => { o with done := true }).retire cycle).wakeWave k
        match x.port with
        | none => s
        | some p => if s.answers then s.send (.mb p .ok) else s

end Sys2Proof.Machine
end

