-- ==== Sys2Proof/Machine/Waypoints.lean ====
section
/-! DEFINITION. The Waypoint Table (R341, R342, R346 to R350, R352 to R354) and WPUB and WTEST (R351). -/

namespace Sys2Proof.Machine

/-! ### Entries (R341) -/

/-- The entry of a triple (context, instance, key). -/
def WpEntry.named (e : WpEntry) (ctx inst key : Nat) : Bool := e.ctx == ctx && e.inst == inst && e.key == key

/-- The entry of a triple, if there is one. -/
def Cp.wpGet (c : Cp) (ctx inst key : Nat) : Option WpEntry := c.wp.find? fun e => e.named ctx inst key

/-- Change the entry of a triple. -/
def Cp.wpMod (c : Cp) (ctx inst key : Nat) (f : WpEntry → WpEntry) : Cp :=
  { c with wp := c.wp.map fun e => if e.named ctx inst key then f e else e }

/-- A free entry exists (R341). -/
def Cp.wpRoom (c : Cp) : Bool := decide (c.wp.length < 65536)

/-- Allocate an entry (R346, R348). -/
def Cp.wpAdd (c : Cp) (ctx inst key gen creator : Nat) : Cp :=
  { c with wp := c.wp ++ [⟨ctx, inst, key, gen, 0, 0, false, none, creator⟩] }

/-- Change a launch. -/
def Cp.modLaunch (c : Cp) (l : Nat) (f : Launch → Launch) : Cp :=
  match c.launches.get? l with
  | none => c
  | some x => { c with launches := c.launches.set l (f x) }

/-- DEFER says whether a deferred registration names the entry (R341, R347). -/
def Cp.fixDefer (c : Cp) (ctx inst key : Nat) : Cp :=
  c.wpMod ctx inst key fun e => { e with
    defer := c.launches.any fun l => l.2.ctx == ctx && l.2.inst == inst && l.2.needs.any fun n => n.key == key && n.st == .deferred }

/-! ### Registration (R346) -/

/-- Count a registration at generation `gen` on its entry: how it stands, or none where it is stale. -/
def Cp.countNeed (c : Cp) (ctx inst key gen : Nat) (e : WpEntry) : Cp × Option NeedSt :=
  if gen < e.gen then (c, none)
  else if gen = e.gen then
    if e.cur = 65535 then (c, some .overflowed)
    else (c.wpMod ctx inst key fun e => { e with cur := e.cur + 1 }, some .cur)
  else if gen = e.gen + 1 then
    if e.next = 65535 then (c, some .overflowed)
    else (c.wpMod ctx inst key fun e => { e with next := e.next + 1 }, some .next)
  else (c.wpMod ctx inst key fun e => { e with defer := true }, some .deferred)

/-- Register a key at a generation for launch `l`. -/
def Cp.register (c : Cp) (l ctx inst key gen : Nat) : Cp × Option NeedSt :=
  match c.wpGet ctx inst key with
  | some e => c.countNeed ctx inst key gen e
  | none =>
    if !c.wpRoom then (c, some .overflowed)
    else
      let c := c.wpAdd ctx inst key 0 l
      match c.wpGet ctx inst key with
      | some e => c.countNeed ctx inst key gen e
      | none => (c, some .overflowed)

/-- The key of group `g`, map `m`, index `i` (R342, R344). -/
def WpMap.key (m : WpMap) (g i : Nat) : Nat := ((m.base : Int) + m.stride * g + m.step * i).emod (2 ^ 48) |>.toNat

/-- A launch's groups. -/
def Launch.ngroups (l : Launch) : Nat := field512 l.desc 95 64

/-- The registrations of a launch in their order: group, map and key (R346). -/
def Launch.wants (l : Launch) : List (Nat × Nat × WpMap × Nat) :=
  (List.range l.ngroups).flatMap fun g =>
    l.maps.zipIdx.flatMap fun m => (List.range m.1.count).map fun i => (g, m.2, m.1, m.1.key g i)

/-- Register the needs of launch `l` one after another: the needs so far, and whether one was stale. -/
def Cp.registerAll (l ctx inst : Nat) : List (Nat × Nat × WpMap × Nat) → List Need → Cp → Cp × List Need × Bool
  | [], acc, c => (c, acc, false)
  | (g, i, m, key) :: t, acc, c =>
    let r := c.register l ctx inst key m.gen
    match r.2 with
    | none => (r.1, acc, true)
    | some st => Cp.registerAll l ctx inst t (acc ++ [⟨g, i, key, m.gen, st⟩]) r.1

/-! ### Withdrawal and dispatch (R347, R349, R353) -/

/-- A need leaves its entry's counts. -/
def Cp.dropNeed (c : Cp) (ctx inst : Nat) (n : Need) : Cp :=
  match n.st with
  | .cur => c.wpMod ctx inst n.key fun e => { e with cur := e.cur - 1 }
  | .next => c.wpMod ctx inst n.key fun e => { e with next := e.next - 1 }
  | _ => c

/-- The needs of a launch that `p` selects are withdrawn. -/
def Cp.withdraw (c : Cp) (l : Nat) (p : Need → Bool) : Cp :=
  match c.launches.get? l with
  | none => c
  | some x =>
    let out := x.needs.filter p
    let c := out.foldl (fun c n => c.dropNeed x.ctx x.inst n) c
    let c := c.modLaunch l fun x => { x with needs := x.needs.filter fun n => !p n }
    out.foldl (fun c n => c.fixDefer x.ctx x.inst n.key) c

/-- A launch faults with WPSTALE: its registrations are withdrawn and no further group is dispatched (R353). -/
def Cp.wpFault (c : Cp) (l : Nat) : Cp :=
  (c.withdraw l fun _ => true).modLaunch l fun x => { x with fault := some (x.fault.getD 4) }

/-- Entries that a dispatch has left without consumers are free (R349); one with a publication held on it goes on to the
next generation instead. -/
def Cp.freeSpent (c : Cp) (ctx inst : Nat) (keys : List Nat) : Cp :=
  { c with wp := c.wp.filter fun e =>
      !(e.ctx == ctx && e.inst == inst && keys.contains e.key && e.cur == 0 && e.gen != 0 && e.next == 0 && !e.defer &&
        e.held.isNone) }

/-- Group `gid` of a launch is dispatched (R347): its needs leave the table, and the entries so changed may be free. -/
def Cp.dispatchNeeds (c : Cp) (l gid : Nat) : Cp :=
  match c.launches.get? l with
  | none => c
  | some x =>
    let touched := x.needs.filter fun n => n.gid == gid && n.st != .overflowed
    (c.withdraw l fun n => n.gid == gid).freeSpent x.ctx x.inst (touched.map (·.key))

/-! ### Publication (R348) -/

/-- The needs of a launch on a key after a publication: NEXT has become CUR, and deferred ones are tried again. -/
def Cp.retryNeeds (ctx inst key : Nat) : List Need → List Need → Cp → Cp × List Need
  | [], acc, c => (c, acc)
  | n :: t, acc, c =>
    if n.key ≠ key then Cp.retryNeeds ctx inst key t (acc ++ [n]) c
    else
      match n.st with
      | .next => Cp.retryNeeds ctx inst key t (acc ++ [{ n with st := .cur }]) c
      | .deferred =>
        match c.wpGet ctx inst key with
        | none => Cp.retryNeeds ctx inst key t (acc ++ [n]) c
        | some e =>
          let r := c.countNeed ctx inst key n.gen e
          Cp.retryNeeds ctx inst key t (acc ++ [{ n with st := r.2.getD .deferred }]) r.1
      | _ => Cp.retryNeeds ctx inst key t (acc ++ [n]) c

/-- A publication takes effect on an entry whose CUR is 0; deferred registrations are retried in the order in which they were made,
which is that of the launches' openings (R346, R348). -/
def Cp.wpAdvance (c : Cp) (ctx inst key : Nat) : Cp :=
  let c := c.wpMod ctx inst key fun e => { e with gen := e.gen + 1, cur := e.next, next := 0, held := none }
  let c := c.opens.foldl (fun c l =>
    match c.launches.get? l with
    | none => c
    | some x =>
      if x.ctx = ctx ∧ x.inst = inst then
        let r := c.retryNeeds ctx inst key x.needs []
        r.1.modLaunch l fun x => { x with needs := r.2 }
      else c) c
  c.fixDefer ctx inst key

/-- Apply a publication of a launch (R348): its result code, the entry's GEN as it was, and the table after. -/
def Cp.publish (c : Cp) (p : Pub) (x : Launch) : Nat × Nat × Cp :=
  match c.wpGet x.ctx x.inst p.key with
  | none =>
    if c.wpRoom then (0, 0, c.wpAdd x.ctx x.inst p.key p.gen p.launch)
    else (1, 0, c.modLaunch p.launch fun x => { x with ovf := true })
  | some e =>
    if p.gen ≠ e.gen + 1 then (2, e.gen, c)
    else if e.cur = 0 then (0, e.gen, c.wpAdvance x.ctx x.inst p.key)
    else if e.held.isSome then (2, e.gen, c)
    else (3, e.gen, c.wpMod x.ctx x.inst p.key fun e => { e with held := some p.id })

/-- A publication leaves the order of its wave. -/
def Cp.dropPub (c : Cp) (id : Nat) : Cp := { c with pubs := c.pubs.filter fun p => p.id != id }

/-- No earlier publication of the wave is left. -/
def Cp.firstPub (c : Cp) (p : Pub) : Bool :=
  (c.pubs.find? fun q => q.launch == p.launch && q.who == p.who).map (·.id) == some p.id

/-- The next thing the table does of itself: a held publication takes effect, or one that waited behind a held publication of
its wave is applied (R348). -/
def Cp.wpStep (c : Cp) : Option Cp :=
  match c.wp.find? fun e => e.held.isSome && e.cur == 0 with
  | some e => some ((c.wpAdvance e.ctx e.inst e.key).dropPub (e.held.getD 0))
  | none =>
    match c.pubs.find? fun p => p.held && c.firstPub p && !(c.wp.any fun e => e.held == some p.id) with
    | none => none
    | some p =>
      match c.launches.get? p.launch with
      | none => some (c.dropPub p.id)
      | some x =>
        let r := c.publish p x
        some (if r.1 = 3 then r.2.2
          else if r.1 = 2 then (r.2.2.dropPub p.id).wpFault p.launch
          else r.2.2.dropPub p.id)

/-- Everything the table does of itself; `n` bounds the steps. -/
def Cp.wpSettle : Nat → Cp → Cp
  | 0, c => c
  | n + 1, c => match c.wpStep with | none => c | some c => Cp.wpSettle n c

/-- Settle the table after a change: each publication takes effect, is dropped or is put on an entry at most once. -/
def State.wpSettled (s : State) : State := s.modCp fun c => c.wpSettle (2 * c.pubs.length + 1)

/-! ### WPUB and WTEST (R351) -/

/-- The wave that holds an operation. -/
def State.waveOfOp (s : State) (op : Nat) : Option (Nat × Wave) := s.waves.find? fun e => e.2.lops.any fun o => o.id == op

/-- Give a WPUB its result code. -/
def State.giveCode (s : State) (p : Pub) (code gen : Nat) : State :=
  match s.waveOfOp p.id with
  | none => s
  | some (k, w) =>
    match w.op? p.id with
    | none => s
    | some o =>
      let sd := match o.work with | .wpub _ sd => sd | _ => true
      let addr : DWord := BitVec.ofNat 64 (p.key + gen * 2 ^ 48)
      let s := s.modWave k fun w =>
        let w := w.modOp p.id fun (o : LOp) => { o with
          done := true
          ready := o.mask
          writes := o.writes.map fun (x : LWrite) => { x with vals := [BitVec.ofNat 64 code] } }
        if !sd && code == 2 then { w with reports := w.reports ++ [⟨.wpstale, .xc, p.id, none, none, o.pc, addr, none⟩] } else w
      (s.landOp k p.id fullMask).wakeWave k

/-- WP_PUBLISH (R348, R351): the command processor takes a WPUB. Behind a held publication of its wave it answers 3 at once. -/
def execWpPublish (pub : Nat) (s : State) : Host.Outcome State Fault Refusal :=
  .next <|
    match s.cp.pubs.find? fun p => p.id == pub && !p.held with
    | none => s
    | some p =>
      let before := (s.cp.pubs.takeWhile fun q => q.id != pub).filter fun q => q.launch == p.launch && q.who == p.who
      let hold := fun (c : Cp) => { c with pubs := c.pubs.map fun q => if q.id = pub then { q with held := true } else q }
      if before.any fun q => !q.held then s
      else if before ≠ [] then (s.modCp hold).giveCode p 3 0
      else
        match s.launchAt? p.launch with
        | none => s.modCp fun c => c.dropPub pub
        | some x =>
          let r := s.cp.publish p x
          ((s.modCp fun _ => if r.1 = 3 then hold r.2.2 else r.2.2.dropPub pub).giveCode p r.1 r.2.1).wpSettled

/-- OBASE of a wave's launch. -/
def State.obase (s : State) (w : Wave) : Nat := ((s.launchAt? w.launch).map (·.obase)).getD 0

/-- WPUB (R214, R351). -/
def wpubBody (f : Xt) (u : Iss) (s : State) : Res :=
  reading u f.lit [uni f.a, uni f.b] s fun s' =>
    let g := (u.val f.lit f.b s).toNat % 65536
    if u.w.heldLater || !s.released u.k .device then .hold s
    else if g = 0 then .trap .illegal 0xC0
    else if u.w.full .xc then .hold s
    else
      let key := (s.obase u.w + (u.val f.lit f.a s).toNat) % 2 ^ 48
      let (id, s) := s'.fresh
      let sd := match f.d with | .s _ => true | _ => false
      let m : Mask := if sd then 1 else 0
      let op : LOp := ⟨id, .xc, u.e.pc, .wpub id sd, m, 0, m, groupWrites f.d 1 1 [], false, false, none, u.slot.t, 0, none⟩
      let s := s.order u.w.group u.k id .device
      let p : Pub := ⟨id, u.w.groupid * 16 + u.w.waveid, id, u.w.launch, key, g, false⟩
      .ok ((s.modWave u.k fun w => w.enter op).modCp fun c => { c with pubs := c.pubs ++ [p] }) .seq

/-- The word WTEST writes (R351). -/
def State.wpWord (s : State) (w : Wave) (inst key : Nat) : Nat :=
  let ovf := if ((s.launchAt? w.launch).map (·.ovf)).getD false then 2 ^ 60 else 0
  match s.cp.wpGet w.ctx inst key with
  | none => ovf
  | some e =>
    2 ^ 63 + (if e.gen = 0 then 0 else 2 ^ 62) + (if e.defer then 2 ^ 61 else 0) + ovf + e.gen * 2 ^ 32 + e.cur * 2 ^ 16 + e.next

/-- WTEST (R351). -/
def wtestBody (f : Xt) (u : Iss) (s : State) : Res :=
  reading u f.lit [uni f.a] s fun s' =>
    if u.w.heldLater || u.w.full .xc then .hold s
    else
      let base := if f.e8.toNat % 2 = 1 then s.obase u.w else 0
      let key := (base + (u.val f.lit f.a s).toNat) % 2 ^ 48
      let inst := ((s.launchAt? u.w.launch).map (·.inst)).getD 0
      .ok (s'.addOp u.k fun id =>
        ⟨id, .xc, u.e.pc, .wtest inst key, 1, 0, 1, groupWrites f.d 1 1 [], false, false, none, u.slot.t, 0, none⟩) .seq

/-- WPUB (R351). -/
def execWpubXt (f : Xt) (s : State) : Host.Outcome State Fault Refusal :=
  issue (.wpubXt f) (basePlan [uni f.a, uni f.b] (dstNamed f.d true) .none) (wpubBody f) s

/-- WTEST (R351). -/
def execWtestXt (f : Xt) (s : State) : Host.Outcome State Fault Refusal :=
  issue (.wtestXt f) (basePlan [uni f.a] (dstNamed f.d true) .none) (wtestBody f) s

end Sys2Proof.Machine
end

