-- ==== Sys2Proof/Machine/Admission.lean ====
section
/-! DEFINITION. Queues and doorbells (R325 to R327), descriptors and their admission (R328 to R331, R343 to R345), chains
(R355 to R357), device-side launches (R338 to R340), and the landing of class L work (R36, R39). -/

namespace Sys2Proof.Machine

/-! ### What the command processor reads (R327, R330) -/

/-- What a read comes to. -/
inductive CpRead where
  | ok (bs : List Byte) | page (vpn : Nat) | bad

/-- The answer DENY has come for a page a queue waits for. -/
def Queue.denied (q : Queue) (vpn : Nat) : Bool := q.wait.any fun w => w.1 == vpn && w.2.2 == some false

/-- A queue waits for an answer. -/
def Queue.blocked (q : Queue) : Bool := q.wait.any fun w => w.2.2.isNone

/-- A queue waits for a page no longer as it did: what it awaits of the page is `w`. -/
def Queue.await (q : Queue) (vpn : Nat) (w : Option (BitVec 32) × Option Bool) : Queue :=
  { q with wait := q.wait.filter (fun e => e.1 != vpn) ++ [(vpn, w)] }

/-- A piece of a page that a queue's head needs: its bytes as they stand at its home slice; those of a host or a peer are free, and
so is whether they come poisoned. A page that was denied stays absent (R330). -/
def State.cpPiece (s : State) (x : Queue) (va n : Nat) : CpRead :=
  if x.denied (va / 4096) then .page (va / 4096)
  else
    match s.translateCp x.ctx va .load with
    | .invalid => .page (va / 4096)
    | .prot => .bad
    | .to (.dev pa) => if s.poisoned pa n then .bad else .ok (Memory.read s.settle.mem.bytes pa n)
    | .to _ =>
      if s.freeBit (2 ^ 63 + va / 4096) then .bad else .ok ((List.range n).map fun i => s.freeByte (2 ^ 62 + va + i))

/-- `n` bytes from `va`, page by page; `k` bounds the pages. -/
def State.cpRead (s : State) (x : Queue) : Nat → Nat → Nat → CpRead
  | 0, _, _ => .ok []
  | k + 1, va, n =>
    if n = 0 then .ok []
    else
      let m := min n (4096 - va % 4096)
      match s.cpPiece x va m with
      | .ok a =>
        match State.cpRead s x k (va + m) (n - m) with
        | .ok b => .ok (a ++ b)
        | r => r
      | r => r

/-- `n` bytes from `va`. -/
def State.cpBytes (s : State) (x : Queue) (va n : Nat) : CpRead := s.cpRead x (n / 4096 + 2) va n

/-- A check of an address: it holds, waits for a page, or fails. -/
inductive Chk where
  | ok | page (vpn : Nat) | bad
  deriving DecidableEq, Repr

/-- The first check that does not hold. -/
def firstChk : List Chk → Chk
  | [] => .ok
  | .ok :: t => firstChk t
  | x :: _ => x

/-- A page with a permission; `dev` says that it must be device memory of the context's tenancy. -/
def State.pageChk (s : State) (x : Queue) (va : Nat) (want : Want) (dev : Bool) : Chk :=
  if x.denied (va / 4096) then .page (va / 4096)
  else
    match s.translateCp x.ctx va want with
    | .invalid => .page (va / 4096)
    | .prot => .bad
    | .to (.dev _) => .ok
    | .to _ => if dev then .bad else .ok

/-! ### The launch descriptor (R328, R329) -/

def descEntry (d : BitVec 512) : Nat := field512 d 63 0
def descWaves (d : BitVec 512) : Nat := field512 d 99 96 + 1
def descNv (d : BitVec 512) : Nat := (field512 d 103 100 + 1) * 8
def descNs (d : BitVec 512) : Nat := (field512 d 105 104 + 1) * 16
def descScr (d : BitVec 512) : Nat := field512 d 114 106 * 1024
def descPrio (d : BitVec 512) : Nat := field512 d 116 115
def descConc (d : BitVec 512) : Bool := d.getLsbD 117
def descPb (d : BitVec 512) : Nat := field512 d 127 118 * 16
def descParam (d : BitVec 512) : Nat := field512 d 191 128
def descPrivva (d : BitVec 512) : Nat := field512 d 255 192
def descPrivpg (d : BitVec 512) : Nat := field512 d 287 256
def descPwords (d : BitVec 512) : Nat := field512 d 299 288
def descLanes (d : BitVec 512) : Nat := field512 d 310 304
def descWpx (d : BitVec 512) : Nat := field512 d 383 320
def descDone (d : BitVec 512) : Nat := field512 d 447 384
def descDoneVal (d : BitVec 512) : BitVec 32 := BitVec.ofNat 32 (field512 d 479 448)

/-- The upper part of a descriptor, which every kind has: FMT, reserved bits, DONE and WPX (R328, R345). -/
def descTopBad (d : BitVec 512) : Bool :=
  field512 d 511 504 != 1 || field512 d 503 480 != 0 || descDone d % 8 != 0 || descWpx d % 64 != 0

/-- BADDESC of a launch's descriptor (R330). -/
def descBad (d : BitVec 512) : Bool :=
  descTopBad d || field512 d 319 311 != 0 || field512 d 303 300 != 0 || field512 d 95 64 == 0 || decide (448 * 1024 < descScr d) ||
    decide (512 < descPwords d) || decide (63 < descLanes d) || descEntry d % 64 != 0 || descParam d % 8 != 0 ||
    descPrivva d % 4096 != 0 || (descPb d != 0 && decide (descPrivpg d * 4096 < descPb d * 64 * descWaves d))

/-- The dies of a partition (R392). -/
def State.diesOf (s : State) (part : Nat) : List Nat :=
  if s.host.mode.val = 1 then [part * 2, part * 2 + 1] else [0, 1, 2, 3]

/-- The cores of a die. -/
def coresOfDie (d : Nat) : List Nat := (List.range 128).map fun c => d * 128 + c

/-- The cores of a partition. -/
def State.coresOf (s : State) (part : Nat) : List Nat := (s.diesOf part).flatMap coresOfDie

/-- An empty core could hold one group of a launch (R330, R333, R335). -/
def State.holdsEmpty (s : State) (d : BitVec 512) (core : Nat) : Bool :=
  decide (descWaves d ≤ 32) && decide (descWaves d * descNv d ≤ 1024) && decide (descWaves d * descNs d ≤ 2048) &&
    decide (descScr d ≤ (s.coreAt core).split * 65536)

/-- NOFIT (R330). -/
def State.noFit (s : State) (part : Nat) (d : BitVec 512) : Bool := !(s.coresOf part).any (s.holdsEmpty d)

/-- The addresses of a descriptor (R330): ENTRY, PARAM and the pages of the private region. -/
def State.descChk (s : State) (x : Queue) (d : BitVec 512) : Chk :=
  let n := 8 * descPwords d
  let param := (List.range ((descParam d % 4096 + n + 4095) / 4096)).map fun i => descParam d / 4096 * 4096 + 4096 * i
  let priv := (List.range (descPrivpg d)).map fun i => descPrivva d + 4096 * i
  firstChk (s.pageChk x (descEntry d) .fetch false :: (if n = 0 then [] else param.map fun va => s.pageChk x va .load false) ++
    priv.flatMap fun va => [s.pageChk x va .load true, s.pageChk x va .store true])

/-! ### The extension (R343 to R345) -/

/-- A field of the extension. -/
def fieldX (x : BitVec 1024) (hi lo : Nat) : Nat := bits x.toNat hi lo
def extKind (x : BitVec 1024) : Nat := fieldX x 119 118
def extChain (x : BitVec 1024) : Nat := fieldX x 117 112
def extCount (x : BitVec 1024) : Nat := fieldX x 95 64
def extNrange (x : BitVec 1024) : Nat := fieldX x 63 48
def extAddr (x : BitVec 1024) : Nat := fieldX x 191 128
def extObase (x : BitVec 1024) : Nat := fieldX x 47 0
def extNmap (x : BitVec 1024) : Nat := fieldX x 111 108

/-- Map `i` (R344). -/
def extMap (x : BitVec 1024) (i : Nat) : WpMap :=
  let b := 128 + 128 * i
  ⟨fieldX x (b + 127) (b + 120), fieldX x (b + 119) (b + 112), (BitVec.ofNat 16 (fieldX x (b + 111) (b + 96))).toInt,
    (BitVec.ofNat 32 (fieldX x (b + 95) (b + 64))).toInt, fieldX x (b + 63) (b + 48), fieldX x (b + 47) b⟩

/-- What the extension shares between its kinds. -/
def extTopBad (x : BitVec 1024) : Bool :=
  fieldX x 1023 640 != 0 || fieldX x 127 120 != 1 || fieldX x 107 97 != 0 || extKind x == 3

/-- A violation of R343 or R344 by a KIND 0 extension; `index` is the launch's place in its chain, if it is in one. -/
def extLaunchBad (x : BitVec 1024) (index : Option Nat) : Bool :=
  extTopBad x || extKind x != 0 || extChain x != 0 || x.getLsbD 96 || extCount x != 0 || extNrange x != 0 ||
    decide (4 < extNmap x) || (index.isNone && extNmap x != 0) ||
    (List.range 4).any fun i =>
      let m := extMap x i
      if i < extNmap x then m.count == 0 || m.gen == 0 || decide (index.getD 0 ≤ m.prod)
      else fieldX x (255 + 128 * i) (128 + 128 * i) != 0

/-- A violation by a KIND 1 or KIND 2 extension, or by its descriptor's bits [319:0]. -/
def extChainBad (d : BitVec 512) (x : BitVec 1024) : Bool :=
  extTopBad x || extNmap x != 0 || extObase x != 0 || extAddr x % 64 != 0 || fieldX x 639 192 != 0 || field512 d 319 0 != 0 ||
    (if extKind x = 1 then extCount x == 0 || decide (256 < extCount x) || decide (256 < extNrange x)
     else x.getLsbD 96 || extNrange x != 0 || decide (4096 < extCount x))

/-! ### Completion words (R332) -/

/-- Write a completion word, if DONE names a place that takes it: at a peer, as a remote store does (R294 to R300). -/
def State.writeDone (s : State) (ctx done : Nat) (val : BitVec 32) (code : Nat) : State :=
  let bs := bytesOf 8 (val.toNat + code * 2 ^ 32)
  if done = 0 then s
  else
    match s.translateCp ctx done .store with
    | .to (.dev pa) => (s.engineAcc .store pa bs 0 (ctx + 1) 0 (s.pageAt ctx done)).2
    | .to (.host p a) => s.send (.hostWrite p (s.ideStream (((s.ctxAt? ctx).map Ctx.ten).getD 0) p) a bs)
    | .to (.remote p w off) => s.engineFar .store (.remote p w off) bs ctx 0 (s.pageAt ctx done)
    | _ => s

/-! ### Queues (R325 to R327) -/

/-- Descriptors a queue holds. -/
def Queue.count (q : Queue) : Nat := (q.wridx - q.rdidx).toNat

/-- The partition a port's doorbells belong to, if it owns one (R392). -/
def State.partOfPort (s : State) (port : Nat) : Option Nat :=
  if s.host.mode.val = 0 then (if port = s.host.owner then some 0 else none)
  else if port < 2 then some port else none

/-- A tenancy must be reached over its own IDE stream, with its TDI in RUN (R399). -/
def State.reaches (s : State) (port ten : Nat) (stream : Option Nat) : Bool :=
  match s.host.tens.get? ten with
  | none => false
  | some t => if t.policy.getLsbD 0 then stream.isSome && stream == t.stream.get? port && t.tdi.getD port .unlocked == .run else true

/-- A refused request that would have reached the state of a tenancy with TEE is counted by it (R399). -/
def State.violate (s : State) (ten : Nat) : State :=
  s.modHost fun h => match h.tens.get? ten with
    | none => h
    | some t => if t.policy.getLsbD 0 then { h with tens := h.tens.set ten { t with violations := t.violations + 1 } } else h

/-- The effect of a doorbell write (R326). -/
def Queue.ring (q : Queue) (wr : BitVec 32) : Queue :=
  if q.device then { q with qstat := 2 }
  else
    let n := (wr - q.rdidx).toNat
    if 2 ^ q.k < n ∨ n < q.count then { q with qstat := 1 } else { q with wridx := wr }

/-- DOORBELL_WRITE (R326, R399). -/
def execDoorbellWrite (port q : Nat) (stream : Option Nat) (val : DWord) (s : State) : Host.Outcome State Fault Refusal :=
  .next <|
    if !s.answers || decide (64 ≤ q) then s
    else
      match s.partOfPort port with
      | none => s
      | some part =>
        match s.queueAt? part q with
        | none => s
        | some x =>
          let ten := ((s.ctxAt? x.ctx).map Ctx.ten).getD 0
          if !s.reaches port ten stream then s.violate ten
          else s.modQueue part q fun x => x.ring (val.truncate 32)

/-! ### Admission (R327, R330, R331) -/

/-- A launch has not retired: a launch, or a replay whose instance has not (R331, R357). -/
def State.outstanding (s : State) (lid : Nat) : Bool :=
  (s.launchAt? lid).isSome || s.cp.instances.any fun i => i.lid == lid

/-- The next LAUNCHID: 0 is never one (R339). -/
def nextLid (n : Nat) : Nat := if (n + 1) % 2 ^ 32 = 0 then n + 2 else n + 1

/-- The head of a queue as the command processor meets it. -/
inductive Head where
  | idle                                             -- nothing to admit
  | slotBad                                          -- the slot cannot be read (R327)
  | page (vpn : Nat) (slot : Bool) (d : BitVec 512)  -- a page of the slot or of the extension is absent
  | fail (d : BitVec 512) (code : Nat)
  | desc (d : BitVec 512) (x : BitVec 1024)

/-- The slot of index `i` of a queue (R325). -/
def Queue.slotVa (q : Queue) (i : BitVec 32) : Nat := q.base + 64 * (i.toNat % 2 ^ q.k)

/-- Read a ring slot (R327): device memory of the context's tenancy, without poison; a slot LAUNCH has filled is read as it
was written, or as it was held where the slot took no store (notes/assumptions/64.md). -/
def State.readSlot (s : State) (q : Queue) (i : BitVec 32) : CpRead :=
  let va := q.slotVa i
  if q.denied (va / 4096) then .page (va / 4096)
  else
    match s.translateCp q.ctx va .load, q.held.get? i.toNat with
    | .invalid, _ => .page (va / 4096)
    | .to (.dev _), some d => .ok (bytesOf 64 d.toNat)
    | .to (.dev pa), none =>
      if s.poisoned pa 64 then .bad
      else .ok (if q.device then bytesOf 64 (s.latest pa 64) else Memory.read s.settle.mem.bytes pa 64)
    | _, _ => .bad

/-- A context is absent or being killed. -/
def State.ending (s : State) (ctx : Nat) : Bool :=
  match s.ctxAt? ctx with
  | none => true
  | some c => c.st == .killing

/-- The device holds as many admitted launches as it can: no queue admits (R327). -/
def State.holdsAll (s : State) : Bool := decide (1024 ≤ s.cp.launches.length)

/-- Read the head of a queue. -/
def State.head (s : State) (part q : Nat) : Head :=
  match s.queueAt? part q with
  | none => .idle
  | some x =>
    if x.qstat ≠ 0 ∨ x.count = 0 ∨ x.blocked ∨ s.holdsAll then .idle
    else if s.ending x.ctx then .idle
    else
      match s.readSlot x x.rdidx with
      | .page v => .page v true 0
      | .bad => .slotBad
      | .ok bs =>
        let d := BitVec.ofNat 512 (ofBytes bs)
        if descTopBad d then .fail d 1
        else if descWpx d = 0 then .desc d 0
        else
          match s.cpBytes x (descWpx d) 128 with
          | .page v => .page v false d
          | .bad => .fail d 3
          | .ok bs => .desc d (BitVec.ofNat 1024 (ofBytes bs))

/-- The kind of a head descriptor. -/
def headKind (d : BitVec 512) (x : BitVec 1024) : Nat := if descWpx d = 0 then 0 else extKind x

/-- The identity the head descriptor takes. -/
def State.headLid (s : State) (q : Queue) : Nat := (q.ids.head?).getD s.cp.nextLaunch

/-- The head descriptor leaves the queue with its identity (R327). -/
def State.popDesc (s : State) (part q : Nat) : State :=
  match s.queueAt? part q with
  | none => s
  | some x =>
    let s := if x.ids.isEmpty then s.modCp fun c => { c with nextLaunch := nextLid c.nextLaunch } else s
    s.modQueue part q fun x => 
      { x with rdidx := x.rdidx + 1, ids := x.ids.tail, wait := [], held := x.held.del x.rdidx.toNat }

/-- The head descriptor ends at once with a launch code (R330). -/
def State.failDesc (s : State) (part q : Nat) (ctx : Nat) (d : BitVec 512) (code : Nat) : State :=
  (s.popDesc part q).writeDone ctx (descDone d) (descDoneVal d) code

/-- A page of the head is absent: its request is posted with the identity that the head takes, or it is answered as DENY
(R330). -/
def State.awaitPage (s : State) (part q : Nat) (x : Queue) (vpn : Nat) (deny : State → State) : State :=
  if x.denied vpn then deny s
  else
    let lid := s.headLid x
    let s := if x.ids.isEmpty then
      (s.modCp fun c => { c with nextLaunch := nextLid c.nextLaunch }).modQueue part q fun x => { x with ids := [lid] } else s
    let r := s.postPage x.ctx vpn 0 lid
    match r.1 with
    | .posted n => r.2.modQueue part q fun x => x.await vpn (some n, none)
    | .waits => (r.2.modQueue part q fun x => x.await vpn (none, none)).modCtx x.ctx fun c =>
        { c with prqPend := c.prqPend ++ [(vpn, 0, lid)] }
    | .denied => deny r.2

/-- The words of a parameter block. -/
def paramWords (bs : List Byte) : List DWord :=
  (List.range (bs.length / 8)).map fun i => BitVec.ofNat 64 (ofBytes ((bs.drop (8 * i)).take 8))

/-- An admitted launch. -/
def mkLaunch (ctx part q : Nat) (d : BitVec 512) (params : List DWord) : Launch :=
  { ctx := ctx, part := part, queue := q, desc := d, params := params, inst := 0, chain := none, index := 0, maps := [],
    obase := 0, opened := true, fault := none, next := 0, dispatched := [], live := 0, ovf := false, needs := [], slots := [],
    offered := none, pred := none }

/-- Add a launch. -/
def Cp.addLaunch (c : Cp) (lid : Nat) (l : Launch) : Cp :=
  { c with launches := c.launches.set lid l, order := c.order ++ [lid] }

/-- Admit a KIND 0 descriptor (R330, R331, R343). -/
def State.admitLaunch (s : State) (part q : Nat) (x : Queue) (d : BitVec 512) (e : BitVec 1024) : State :=
  let fail := fun (code : Nat) (s : State) => s.failDesc part q x.ctx d code
  if descBad d || (descWpx d != 0 && extLaunchBad e none) then fail 1 s
  else if s.noFit part d then fail 2 s
  else
    match s.descChk x d with
    | .bad => fail 3 s
    | .page v => s.awaitPage part q x v (fail 3)
    | .ok =>
      match s.cpBytes x (descParam d) (8 * descPwords d) with
      | .bad => fail 3 s
      | .page v => s.awaitPage part q x v (fail 3)
      | .ok bs =>
        let lid := s.headLid x
        let l := { mkLaunch x.ctx part q d (paramWords bs) with
          obase := if descWpx d = 0 then 0 else extObase e
          pred := if descConc d then none else x.last.filter s.outstanding }
        ((s.popDesc part q).modQueue part q fun x => { x with last := some lid }).modCp fun c => c.addLaunch lid l

/-- ADMIT (R327, R330): the command processor takes the head of a queue, unless it records or replays a chain. -/
def execAdmitDesc (part q : Nat) (s : State) : Host.Outcome State Fault Refusal :=
  .next <|
    match s.queueAt? part q with
    | none => s
    | some x =>
      if !s.answers then s
      else
        match s.head part q with
        | .idle => s
        | .slotBad => s.modQueue part q fun x => { x with qstat := 4, wait := [] }
        | .page v slot d => s.awaitPage part q x v fun s =>
            if slot then s.modQueue part q fun x => { x with qstat := 4, wait := [] } else s.failDesc part q x.ctx d 3
        | .fail d code => s.failDesc part q x.ctx d code
        | .desc d e =>
          match headKind d e with
          | 0 => s.admitLaunch part q x d e
          | 3 => s.failDesc part q x.ctx d 1
          | _ => s

/-! ### Chains (R355 to R357) -/

/-- The key of a chain. -/
def chainKey (ctx chain : Nat) : Nat := ctx * 64 + chain

/-- Entry `i` of a record: a descriptor and its extension. -/
def recordEntry (bs : List Byte) (i : Nat) : BitVec 512 × BitVec 1024 :=
  let e := (bs.drop (192 * i)).take 192
  (BitVec.ofNat 512 (ofBytes (e.take 64)), BitVec.ofNat 1024 (ofBytes (e.drop 64)))

/-- The place of an address in device memory that the context's tenancy owns, whatever its leaf permits (R355). -/
def State.placeOf (s : State) (ctx va : Nat) : Option Nat :=
  (s.ctxAt? ctx).bind fun c =>
    if 2 ^ 57 ≤ va then none
    else
      match (s.walkNow c ctx va).1 with
      | .leaf p size =>
        (match leafTarget p size va with
         | .dev pa => if s.mem.owns c.ten pa then some pa else none
         | _ => none)
      | _ => none

/-- The pages of a residency entry, each with its physical base; none where a page is not the tenancy's device memory. -/
def State.rangePages (s : State) (ctx base : Nat) : List Nat → Option (List Nat)
  | [] => some []
  | i :: t =>
    match s.placeOf ctx (base + 4096 * i) with
    | some pa => (State.rangePages s ctx base t).map (pa :: ·)
    | none => none

/-- The maximal runs of pages contiguous in physical address. -/
def runsOf : List Nat → List (Nat × Nat)
  | [] => []
  | p :: t =>
    match runsOf t with
    | (b, n) :: r => if b = p + 4096 then (p, n + 1) :: r else (p, 1) :: (b, n) :: r
    | [] => [(p, 1)]

/-- The physical ranges of a record's residency entries, or none where the record is refused (R355). -/
def State.recordRanges (s : State) (ctx : Nat) (bs : List Byte) : List Nat → Option (List (Nat × Nat))
  | [] => some []
  | i :: t =>
    let e := (bs.drop (16 * i)).take 16
    let base := ofBytes (e.take 8)
    let hi := ofBytes (e.drop 8)
    if base % 4096 ≠ 0 ∨ 2 ^ 32 ≤ hi then none
    else
      match s.rangePages ctx base (List.range hi), State.recordRanges s ctx bs t with
      | some l, some r => some (runsOf l ++ r)
      | _, _ => none

/-- CHAIN_RECORD (R345, R355). The ranges of the record come after those that stay, which decides where ranges overlap (DESIGN CHOICE,
notes/assumptions/76.md). -/
def execChainRecord (part q : Nat) (s : State) : Host.Outcome State Fault Refusal :=
  .next <|
    match s.queueAt? part q, s.head part q with
    | some x, .desc d e =>
      if !s.answers || headKind d e != 1 then s
      else
        let fail := fun (s : State) => s.failDesc part q x.ctx d 1
        let chain := extChain e
        let nl := extCount e
        let busy := s.cp.chains.any (fun c => c.1 % 64 == chain && c.1 / 64 != x.ctx) ||
          s.cp.instances.any fun i => i.chain == chain && i.ctx == x.ctx
        if extChainBad d e || busy then fail s
        else
          match s.cpBytes x (extAddr e) (192 * nl + 16 * extNrange e) with
          | .bad => fail s
          | .page v => s.awaitPage part q x v fail
          | .ok bs =>
            let entries := (List.range nl).map (recordEntry bs)
            let bad := entries.zipIdx.any fun y =>
              descBad y.1.1 || descWpx y.1.1 != 0 || extLaunchBad y.1.2 (some y.2) || s.noFit part y.1.1
            if bad then fail s
            else
              match firstChk (entries.map fun y => s.descChk x y.1) with
              | .bad => fail s
              | .page v => s.awaitPage part q x v fail
              | .ok =>
                match s.recordRanges x.ctx (bs.drop (192 * nl)) (List.range (extNrange e)) with
                | none => fail s
                | some rs =>
                  let kept := s.mem.ranges.filter fun r => !(r.ctx == x.ctx && r.chain == chain)
                  if 256 < kept.length + rs.length then fail s
                  else
                    let s := s.modMem fun m => { m with ranges := kept ++ rs.map fun r => ⟨r.1, r.2, chain, x.ctx⟩ }
                    (s.modCp fun c => { c with chains := c.chains.set (chainKey x.ctx chain) ⟨e.getLsbD 96, entries, none⟩ }).failDesc
                      part q x.ctx d 0
    | _, _ => s

/-- The instance identities that a context holds (R342). -/
def Cp.instHeld (c : Cp) (ctx i : Nat) : Bool :=
  c.launches.any (fun l => l.2.ctx == ctx && l.2.inst == i) || c.wp.any fun e => e.ctx == ctx && e.inst == i

/-- The next free instance identity of a context (R342). -/
def Cp.freeInst (c : Cp) (ctx : Nat) : Option Nat :=
  let n := c.nextInst.getD ctx 1
  ((List.range 65535).map fun i => (n - 1 + i) % 65535 + 1).find? fun i => !c.instHeld ctx i

/-- Patch `i` of a list: its launch, its word and its value, or none where its other bits are not zero (R356). -/
def patchOf (bs : List Byte) (i : Nat) : Option (Nat × Nat × DWord) :=
  let e := (bs.drop (16 * i)).take 16
  let hi := ofBytes (e.drop 8)
  if bits hi 63 24 ≠ 0 ∨ bits hi 15 9 ≠ 0 then none
  else some (bits hi 23 16, bits hi 8 0, BitVec.ofNat 64 (ofBytes (e.take 8)))

/-- The parameter copy of launch `i` under the patches (R356). -/
def patched (i : Nat) (ps : List (Nat × Nat × DWord)) (params : List DWord) : List DWord :=
  ps.foldl (fun l p => if p.1 = i then l.set p.2.1 p.2.2 else l) params

/-- The parameter blocks of a chain's launches; none stands for one that cannot be read, or whose page is denied. -/
def State.chainParams (s : State) (q : Queue) : List (BitVec 512 × BitVec 1024) → Except Nat (List (Option (List DWord)))
  | [] => .ok []
  | e :: t =>
    match s.cpBytes q (descParam e.1) (8 * descPwords e.1), State.chainParams s q t with
    | .page v, r => if q.denied v then r.map fun l => none :: l else .error v
    | _, .error v => .error v
    | .ok bs, .ok r => .ok (some (paramWords bs) :: r)
    | .bad, .ok r => .ok (none :: r)

/-- CHAIN_REPLAY (R356, R357): the instance is admitted whole. -/
def execChainReplay (part q : Nat) (s : State) : Host.Outcome State Fault Refusal :=
  .next <|
    match s.queueAt? part q, s.head part q with
    | some x, .desc d e =>
      if !s.answers || headKind d e != 2 then s
      else
        let fail := fun (s : State) => s.failDesc part q x.ctx d 1
        match s.cp.chains.get? (chainKey x.ctx (extChain e)) with
        | none => fail s
        | some c =>
          if extChainBad d e then fail s
          else
            let nl := c.entries.length
            match s.cpBytes x (extAddr e) (16 * extCount e) with
            | .bad => fail s
            | .page v => s.awaitPage part q x v fail
            | .ok bs =>
              let ps := (List.range (extCount e)).map (patchOf bs)
              let good := ps.all fun p => match p with
                | none => false
                | some (l, w, _) => match c.entries[l]? with | none => false | some y => decide (w < descPwords y.1)
              if !good then fail s
              else
                match s.cp.freeInst x.ctx, decide (s.cp.launches.length + nl ≤ 1024) with
                | some inst, true =>
                  match s.chainParams x c.entries with
                  | .error v => s.awaitPage part q x v fun s => s.modQueue part q fun x => x.await v (none, some false)
                  | .ok params =>
                    let lid := s.headLid x
                    let s := (s.popDesc part q).modQueue part q fun x => { x with last := some lid }
                    let first := s.cp.nextLaunch
                    let ids := (List.range nl).foldl (fun (l : List Nat × Nat) _ => (l.1 ++ [l.2], nextLid l.2)) ([], first)
                    let mk := fun (i : Nat) (y : BitVec 512 × BitVec 1024) =>
                      let maps := (List.range (extNmap y.2)).map (extMap y.2)
                      { mkLaunch x.ctx part q y.1 (patched i (ps.filterMap id) ((params.getD i none).getD [])) with
                        inst := inst, chain := some (extChain e), index := i, maps := maps, obase := extObase y.2, opened := false
                        fault := if (params.getD i none).isNone then some 3 else none
                        pred := if maps = [] ∧ !descConc y.1 ∧ 0 < i then ids.1[i - 1]? else none }
                    s.modCp fun cp =>
                      let cp := c.entries.zipIdx.foldl (fun cp y => cp.addLaunch (ids.1.getD y.2 0) (mk y.2 y.1)) cp
                      { cp with
                        nextLaunch := ids.2
                        nextInst := cp.nextInst.set x.ctx (inst % 65535 + 1)
                        chains := cp.chains.set (chainKey x.ctx (extChain e)) { c with last := some lid }
                        instances := cp.instances ++
                          [⟨lid, x.ctx, extChain e, inst, part, q, descDone d, descDoneVal d, ids.1, [], [], c.last⟩] }
                | _, _ => s
    | _, _ => s

/-- The instance of a launch. -/
def Cp.instanceOf (c : Cp) (l : Launch) : Option Instance := c.instances.find? fun i => i.ctx == l.ctx && i.id == l.inst

/-- A launch of a chain instance may open (R357). -/
def State.mayOpen (s : State) (l : Launch) : Bool :=
  match s.cp.instanceOf l with
  | none => true
  | some i =>
    let overlap := ((s.cp.chains.get? (chainKey i.ctx i.chain)).map (·.overlap)).getD false
    match i.prev.bind fun n => s.cp.instances.find? fun j => j.lid == n with
    | none => true
    | some j => overlap && (j.codes.get? l.index).isSome

/-- A map's producer has retired: whether it had overflowed (R352). -/
def State.producerGone (s : State) (l : Launch) (map : Nat) : Option Bool :=
  match s.cp.instanceOf l, l.maps[map]? with
  | some i, some m => if (i.codes.get? m.prod).isSome then some (i.ovfs.contains m.prod) else none
  | _, _ => none

/-- A need of a launch's map is satisfied (R347, R352). -/
def State.needMet (s : State) (l : Launch) (n : Need) : Bool :=
  match n.st with
  | .cur => true
  | .overflowed => (s.producerGone l n.map).isSome
  | _ => s.producerGone l n.map == some true

/-- A need that can never be satisfied: its producer has retired without publishing it (R353). -/
def State.needLost (s : State) (l : Launch) (n : Need) : Bool :=
  (n.st == .next || n.st == .deferred) && s.producerGone l n.map == some false

/-- LAUNCH_OPEN (R346, R353, R357). -/
def execLaunchOpen (launch : Nat) (s : State) : Host.Outcome State Fault Refusal :=
  .next <|
    match s.launchAt? launch with
    | none => s
    | some l =>
      if l.opened || !s.mayOpen l then s
      else if l.fault.isSome then s.modLaunch launch fun l => { l with opened := true }
      else
        let s := s.modCp fun c => { c with opens := c.opens ++ [launch] }
        let r := Cp.registerAll launch l.ctx l.inst l.wants [] s.cp
        let s := (s.modCp fun _ => r.1).modLaunch launch fun l => { l with opened := true, needs := r.2.1 }
        let lost := match s.launchAt? launch with | none => false | some l => l.needs.any (s.needLost l)
        (if r.2.2 || lost then s.modCp fun c => c.wpFault launch else s).wpSettled

/-! ### LAUNCH and LPARM (R338 to R340) -/

/-- The value LAUNCH writes, and the queue after (R339). -/
def State.submit (s : State) (ctx : Nat) (d : BitVec 512) (q : Nat) : Nat × State :=
  let part := ((s.ctxAt? ctx).map s.partOfCtx).getD 0
  let code := fun (n : Nat) => (n * 2 ^ 56, s)
  match s.queueAt? part q with
  | none => code 2
  | some x =>
    if x.ctx ≠ ctx ∨ !x.device then code 2
    else if x.qstat ≠ 0 then code 3
    else if 2 ^ x.k ≤ x.count then code 1
    else
      let lid := s.cp.nextLaunch
      let s := match s.translateCp ctx (x.slotVa x.wridx) .load with
        | .to (.dev pa) => (s.engineAcc .store pa (bytesOf 64 d.toNat) 0 (ctx + 1) 0 (s.pageAt ctx (x.slotVa x.wridx))).2
        | _ => s.modQueue part q fun x => { x with held := x.held.set x.wridx.toNat d }
      (lid % 2 ^ 32, (s.modQueue part q fun x => { x with wridx := x.wridx + 1, ids := x.ids ++ [lid] }).modCp fun c =>
        { c with nextLaunch := nextLid c.nextLaunch })

/-- LAUNCH (R339): it waits as a device-scope release does, then checks its descriptor's address. -/
def launchBody (f : Xt) (u : Iss) (s : State) : Res :=
  reading u f.lit [uni f.a, uni f.b] s fun s' =>
    let va := u.val f.lit f.a s
    if u.w.heldLater || !s.released u.k .device then .hold s
    else if va.toNat % 64 ≠ 0 then .trap .misalign va
    else if 2 ^ 57 ≤ va.toNat then .trap .aperture va
    else
      let r := s'.globalAccess u .load 64 va.toNat
      match r.2 with
      | .page vpn => .page r.1 vpn 0 va
      | .trap c => .trap c va
      | .go p =>
        if u.w.full .sc then .hold s
        else
          let s := r.1.order u.w.group u.k r.1.nextId .device
          let from_ : Option Nat × BitVec 512 := match p with
            | (_, _, .dev pa, _) :: _ => (some pa, 0)
            | (_, _, .param l off, _) :: _ =>
              (none, BitVec.ofNat 512 (ofBytes (((s.launchAt? l).map fun (x : Launch) => x.paramBytes off 64).getD [])))
            | _ => (none, BitVec.ofNat 512 (ofBytes ((List.range 64).map s.freeByte)))
          let m : Mask := match f.d with | .s _ => 1 | _ => 0
          let q := (u.val f.lit f.b s).toNat % 64
          .ok (s.addOp u.k fun id =>
            ⟨id, .sc, u.e.pc, .launch from_.1 from_.2 q, m, 0, m, groupWrites f.d 1 1 [], false, false, none, u.slot.t, 0, none⟩) .seq

/-- Words LPARM reads. -/
def lparmWords (f : Xt) : Nat := f.e8.toNat % 8 + 1

/-- LPARM (R340). -/
def lparmBody (f : Xt) (u : Iss) (s : State) : Res :=
  reading u f.lit [uni f.a] s fun s' =>
    let off := u.val f.lit f.a s
    if off.toNat % 8 ≠ 0 then .trap .misalign off
    else if u.w.full .sc then .hold s
    else
      let params := ((s.launchAt? u.w.launch).map (·.params)).getD []
      let d := match f.d with | .s n => n.val | _ => 0
      let writes := (List.range (lparmWords f)).map fun i =>
        (⟨.s (d + i), 1, [params.getD (off.toNat / 8 + i) 0], 0⟩ : LWrite)
      .ok (s'.addOp u.k fun id => mkOp id .sc u.e.pc 1 writes u.slot.t 0) .seq

/-- LAUNCH (R339). -/
def execLaunchXt (f : Xt) (s : State) : Host.Outcome State Fault Refusal :=
  issue (.launchXt f) (basePlan [uni f.a, uni f.b] (dstNamed f.d true) .none) (launchBody f) s

/-- LPARM (R340). -/
def execLparmXt (f : Xt) (s : State) : Host.Outcome State Fault Refusal :=
  issue (.lparmXt f) (basePlan [uni f.a] [(dstSel f.d, lparmWords f)] .none) (lparmBody f) s

/-! ### The landing of class L work (R36, R38, R39) -/

/-- The value of an operation becomes known. -/
def State.knowOp (s : State) (k op : Nat) (x : Nat) : State :=
  s.modWave k fun w => w.modOp op fun (o : LOp) => { o with
    done := true
    ready := o.mask
    writes := o.writes.map fun (y : LWrite) => { y with vals := [BitVec.ofNat 64 x] } }

/-- CLASS_L_LAND (R36, R38, R39): the values of an operation land, and waits on its counter may end. A WTEST reads its entry,
and the command processor takes a LAUNCH. -/
def execClassLLand (wave op : Nat) (s : State) : Host.Outcome State Fault Refusal :=
  .next <|
    match s.waveAt? wave with
    | none => s
    | some w =>
      match w.op? op with
      | none => s
      | some o =>
        let land := fun (s : State) => (s.landOp wave op fullMask).wakeWave wave
        match o.work with
        | .load _ _ _ => s
        | .wtest inst key => land (s.knowOp wave op (s.wpWord w inst key))
        | .launch pa d q =>
          if o.done then land s
          else
            let d := match pa with | some a => BitVec.ofNat 512 (Memory.num s.settle.mem.bytes a 64) | none => d
            let r := s.submit w.ctx d q
            land (r.2.knowOp wave op r.1)
        | _ => land s

end Sys2Proof.Machine
end

