-- ==== Sys2Proof/Machine/Place.lean ====
section
/-! DEFINITION. A wave as it starts (R15, R16, R18, R329), and a word placed where the next step fetches
(notes/assumptions/2.md). -/

namespace Sys2Proof.Machine

/-- What a dispatch fixes of a wave (R18, R329, R330). -/
structure WaveCfg where
  group : Nat
  launch : Nat
  ctx : Nat
  ten : Nat
  waveid : Nat
  groupid : Nat
  groupwaves : Nat
  parambase : DWord
  priv : Nat
  nv : Nat
  ns : Nat
  lanes : Mask
  entry : DWord

/-- A wave at its start: one entry at the kernel's entry point with the launched lanes, every register zero (R15, R329). -/
def Wave.start (c : WaveCfg) : Wave :=
  { group := c.group, launch := c.launch, ctx := c.ctx, ten := c.ten, waveid := c.waveid, groupid := c.groupid,
    groupwaves := c.groupwaves, parambase := c.parambase, priv := c.priv, nv := c.nv, ns := c.ns, v := [], s := [], p := [],
    dead := [], j := [], frontier := [⟨c.entry, c.lanes, 0, 0, .ready, 0, []⟩], launched := c.lanes, exited := 0,
    up := Upper.none, run := RunSt.closed, handler := none, lops := [], fpmode := 0, wstat := 0, mwct := 0, trapcause := 0,
    trappc := 0, trapaddr := 0, trapmask := 0, retpc := 0, traprun := 0, hsave := [], peerst := 0, perf := [], slots := [],
    fail := ⟨0, none, none, 0, 0⟩, reports := [], rdvq := [], exch := [], susp := none, trapWait := none, oprdy := none,
    halting := false, time := Timing.init }

/-- Where the placed instruction stands. -/
def placedPc : Nat := 4096

/-- The leaf that maps the page of the placed instruction to the same physical address: V, LEAF, R, W, X, A (R377). -/
def placedPte : DWord := BitVec.ofNat 64 (4096 + 63)

/-- The placed launch: one group, dispatched, of context 0. -/
def placedLaunch : Launch :=
  { ctx := 0, part := 0, queue := 0, desc := 0, params := [], inst := 0, chain := none, index := 0, maps := [], obase := 0,
    opened := true, fault := none, next := 1, dispatched := [0], live := 1, ovf := false, needs := [], slots := [0],
    offered := none, pred := none }

/-- The placed context: tenancy 0, no handler, no save area. -/
def placedCtx : Ctx :=
  { desc := 0, clease := 256, cto := 100, deficit := 0, st := .live, saves := [], served := 0, prqSeq := 0, prq := [],
    prqPend := [] }

/-- A wave of 64 lanes with every register, its run open on core 0, about to fetch at `placedPc`. -/
def placedWave : Wave :=
  { Wave.start ⟨0, 1, 0, 0, 0, 0, 1, 0, 0, 128, 64, fullMask, BitVec.ofNat 64 placedPc⟩ with run := ⟨true, 0, 0⟩ }

/-- Place an instruction of `nbits` bits, the lowest first, zeros above them, where the next step fetches it: a group of one
wave is resident on core 0 with its run open, and nothing else is at work. -/
def State.place (s : State) (nbits w : Nat) : State :=
  let bytes := Memory.write s.mem.bytes placedPc (bytesOf 24 (w % 2 ^ nbits))
  { s with
    waves := [(0, placedWave)]
    groups := [(0, ⟨1, 0, 0, 0, 0, [], [], false, [], [], [], 0, 1⟩)]
    cores := [(0, { Core.init with run := some 0, tlb := [⟨0, 4096, 4096, placedPte⟩] })]
    quads := []
    mem := { s.mem with bytes := bytes, accs := [], owners := s.mem.owners.set 0 0x40, moving := [], peers := [], invals := [] }
    cp := { Cp.init with launches := [(1, placedLaunch)], order := [1], nextLaunch := 2, ctxs := [(0, placedCtx)] }
    script := []
    focus := 0 }

end Sys2Proof.Machine
end

