-- ==== Sys2Proof/Machine/Placement.lean ====
section
/-! DEFINITION. Placement of groups on cores (R329, R330, R333 to R335), classes and deficit round robin (R336, R337), and the
ends of waves, groups and launches (R169, R186, R263, R291, R332). -/

namespace Sys2Proof.Machine

/-! ### Resources (R333) -/

/-- The groups resident on a core that `keep` selects. -/
def State.groupsOn (s : State) (core : Nat) (keep : Group → Bool) : List (Nat × Group) :=
  s.groups.filter fun e => coreOfGroup e.1 == core && keep e.2

/-- The waves resident on a core whose groups `keep` selects. -/
def State.wavesOn (s : State) (core : Nat) (keep : Group → Bool) : Nat :=
  (s.waves.filter fun e => coreOfWave e.1 == core && ((s.groupAt? e.2.group).map keep).getD true).length

/-- A register of its kind per wave on a core whose groups `keep` selects, in all: a wave that has ended holds none (R169, R333). -/
def State.regsOn (s : State) (core : Nat) (keep : Group → Bool) (f : Wave → Nat) : Nat :=
  ((s.waves.filter fun e => coreOfWave e.1 == core && ((s.groupAt? e.2.group).map keep).getD true).map fun e => f e.2).sum

/-- All waves resident on a core. -/
def State.resident (s : State) (core : Nat) : Nat := s.wavesOn core fun _ => true

/-- All waves resident on a die. -/
def State.residentDie (s : State) (die : Nat) : Nat := (s.waves.filter fun e => dieOfCore (coreOfWave e.1) == die).length

/-- A partition of `size` bytes at `off` fits between the others. -/
def scratchFree (l : List (Nat × Group)) (limit size off : Nat) : Bool :=
  decide (off + size ≤ limit) && l.all fun e => !overlap off size e.2.off e.2.size || size == 0 || e.2.size == 0

/-- The lowest fitting offset of a partition (R333): 0 or the end of another. -/
def scratchFit (l : List (Nat × Group)) (limit size : Nat) : Option Nat :=
  ((0 :: l.map fun e => e.2.off + e.2.size).filter (scratchFree l limit size)).min?

/-- The private slots a launch's region holds (R330). -/
def Launch.regionSlots (l : Launch) : Nat :=
  if descPb l.desc = 0 then 2 ^ 32 else descPrivpg l.desc * 4096 / (descPb l.desc * 64)

/-- The core holds one more group of a launch beside the groups `keep` selects (R333). -/
def State.room (s : State) (keep : Group → Bool) (l : Launch) (core : Nat) : Bool :=
  let gs := s.groupsOn core keep
  let n := descWaves l.desc
  decide (s.wavesOn core keep + n ≤ 32) && decide (gs.length < 16) &&
    decide (s.regsOn core keep Wave.nv + n * descNv l.desc ≤ 1024) &&
    decide (s.regsOn core keep Wave.ns + n * descNs l.desc ≤ 2048) &&
    (scratchFit gs ((s.coreAt core).split * 65536) (descScr l.desc)).isSome &&
    decide (l.slots.length + n ≤ l.regionSlots)

/-- The class of a launch's context (R336). -/
def State.classOf (s : State) (l : Launch) : Nat := ((s.ctxAt? l.ctx).map Ctx.cls).getD 0

/-- The class of a launch by its identity. -/
def State.classAt (s : State) (lid : Nat) : Nat := ((s.launchAt? lid).map s.classOf).getD 0

/-- A core takes group `gid` of launch `lid`: no new split waits (R186), and no reservation of the same or a higher class stands
against it (R335); of two in one class the older goes first (notes/assumptions/45.md). -/
def State.coreTakes (s : State) (lid : Nat) (l : Launch) (gid core : Nat) : Bool :=
  let c := s.coreAt core
  let after := c.reserve.dropWhile fun r => r != (lid, gid)
  c.pendSplit.isNone && c.reserve.all fun r =>
    r == (lid, gid) || decide (s.classAt r.1 < s.classOf l) || (s.classAt r.1 == s.classOf l && after.contains r)

/-- A group can be placed on a core. -/
def State.fits (s : State) (lid : Nat) (l : Launch) (gid core : Nat) : Bool :=
  s.coreTakes lid l gid core && s.room (fun _ => true) l core

/-- The element of a list with the least value, the first of several. -/
def leastBy (f : Nat → Nat) : List Nat → Option Nat
  | [] => none
  | a :: t => match leastBy f t with | none => some a | some b => if f b < f a then some b else some a

/-- The die that takes an offered group (R334). -/
def State.dieFor (s : State) (lid : Nat) (l : Launch) (gid : Nat) (blocked : List Nat) : Option Nat :=
  leastBy s.residentDie
    ((s.diesOf l.part).filter fun d => !blocked.contains d && (coresOfDie d).any (s.fits lid l gid))

/-! ### Offers (R331, R334, R347) -/

/-- The group a launch offers: the lowest not yet dispatched whose needs are satisfied. -/
def State.offerOf (s : State) (l : Launch) : Option Nat :=
  let ready := l.opened && l.fault.isNone && ((s.ctxAt? l.ctx).map (·.st)) == some .live &&
    (match l.pred with | none => true | some p => !s.outstanding p)
  let stopped := ((s.ctxAt? l.ctx).bind fun c => (s.host.tens.get? c.ten).map (·.stopped)).getD false
  if !ready || stopped then none
  else if l.maps = [] then (if l.next < l.ngroups then some l.next else none)
  else (List.range l.ngroups).find? fun g => !l.dispatched.contains g && (l.needs.filter fun n => n.gid == g).all (s.needMet l)

/-- The offers: launch, its record and the group, in admission order. -/
def State.offers (s : State) : List (Nat × Launch × Nat) :=
  s.cp.order.filterMap fun lid =>
    match s.launchAt? lid with
    | none => none
    | some l => (s.offerOf l).map fun g => (lid, l, g)

/-- The deficit of a context (R337). -/
def State.deficit (s : State) (ctx : Nat) : Int := ((s.ctxAt? ctx).map (·.deficit)).getD 0

/-- A context with nothing to offer keeps D ≤ 0 (R337). -/
def State.clampDeficits (s : State) : State :=
  let offers := s.offers.map fun o => o.2.1.ctx
  let clamp := fun n (x : Ctx) => if offers.contains n then x else { x with deficit := min x.deficit 0 }
  s.modCp fun c => { c with ctxs := c.ctxs.mapVals clamp }

/-- Contexts with an offer gain weight × 64 up to weight × 256 (R337). -/
def State.refill (s : State) (ctxs : List Nat) : State :=
  ctxs.foldl (fun s c => s.modCtx c fun x => { x with deficit := min (x.deficit + x.weight * 64) (x.weight * 256) }) s

/-- The better of two offers: the context next in rotation, then the higher PRIO, then the earlier launch (R334, R337). -/
def State.betterOffer (s : State) (a b : Nat × Launch × Nat) : Nat × Launch × Nat :=
  let turn := fun (o : Nat × Launch × Nat) => (o.2.1.ctx + 64 - s.cp.rot - 1) % 64
  if turn b < turn a ∨ (turn b = turn a ∧ descPrio a.2.1.desc < descPrio b.2.1.desc) then b else a

/-- The command processor's choice among the offers of the classes `cs`, with the dies `blocked` taken by higher classes: the
offer and its die, and the deficits after (R334, R336, R337). -/
def State.chooseIn (s : State) (os : List (Nat × Launch × Nat)) : List Nat → List Nat → State × Option (Nat × Nat × Nat)
  | [], _ => (s, none)
  | c :: cs, blocked =>
    let mine := os.filter fun o => s.classOf o.2.1 == c
    let fit := mine.filter fun o => (s.dieFor o.1 o.2.1 o.2.2 blocked).isSome
    if fit = [] then State.chooseIn s os cs blocked
    else
      let rich := mine.any fun o => decide (0 < s.deficit o.2.1.ctx)
      let s' := if rich then s else s.refill (distinct (mine.map fun o => o.2.1.ctx))
      match fit.filter fun o => decide (0 < s'.deficit o.2.1.ctx) with
      | o :: t =>
        let b := t.foldl s.betterOffer o
        (s', (s.dieFor b.1 b.2.1 b.2.2 blocked).map fun d => (b.1, b.2.2, d))
      | [] =>
        if !rich then (s', none)
        else
          let more := [0, 1, 2, 3].filter fun d => mine.any fun o =>
            (s.diesOf o.2.1.part).contains d && (coresOfDie d).any (s.fits o.1 o.2.1 o.2.2)
          State.chooseIn s os cs (blocked ++ more)

/-- The choice among all classes. -/
def State.choose (s : State) : State × Option (Nat × Nat × Nat) := s.chooseIn s.offers [3, 2, 1, 0] []

/-! ### Placing a group (R14, R188, R329, R330, R334) -/

/-- The stores that waves which have ended still have under way to the bytes from `pa` to `pa + n`: a zeroing of the bytes follows them
(R14, R188). -/
def State.dropEnded (s : State) (pa n : Nat) : State :=
  let ended := fun (a : Acc) => match a.owner, a.tgt with
    | .wave k, .dev p => a.kind == .store && overlap p a.size pa n && ((s.waveAt? k).map fun w => w.nv == 0) == some true
    | _, _ => false
  s.modMem fun m => { m with accs := m.accs.filter fun a => !ended a }

/-- Zero `n` bytes of a private region, page by page; `k` bounds the pages. A page that has lost its translation to device memory since
the admission is left as it is (DESIGN CHOICE, notes/assumptions/45.md). -/
def State.zeroGlobal (s : State) (ctx : Nat) : Nat → Nat → Nat → State
  | 0, _, _ => s
  | k + 1, va, n =>
    if n = 0 then s
    else
      let m := min n (4096 - va % 4096)
      let s := match s.translateCp ctx va .store with
        | .to (.dev pa) => (s.dropEnded pa m).wipe pa m
        | _ => s
      State.zeroGlobal s ctx k (va + m) (n - m)

/-- The lowest `n` numbers below `limit` outside a list. -/
def lowestFree (used : List Nat) (limit n : Nat) : List Nat := ((List.range limit).filter fun i => !used.contains i).take n

/-- The mask of the lanes a wave launches (R329). -/
def launchedLanes (d : BitVec 512) (last : Bool) : Mask :=
  if last && descLanes d != 0 then BitVec.ofNat 64 (2 ^ descLanes d - 1) else fullMask

/-- The core of a die that takes a group (R334). -/
def State.coreFor (s : State) (lid : Nat) (l : Launch) (gid die : Nat) : Option Nat :=
  leastBy s.resident ((coresOfDie die).filter (s.fits lid l gid))

/-- Place group `gid` of launch `lid` on a core: its partition, its waves and their private slots are allocated and zeroed. It sees its
code with every store that is visible now (R70). -/
def State.placeGroup (s : State) (lid : Nat) (l : Launch) (gid core : Nat) : State :=
  let s := s.settle
  let gs := s.groupsOn core fun _ => true
  let n := descWaves l.desc
  let g := core * 16 + (lowestFree (gs.map fun e => e.1 % 16) 16 1).headD 0
  let ws := lowestFree ((s.waves.filter fun e => coreOfWave e.1 == core).map fun e => e.1 % 32) 32 n
  let off := (scratchFit gs ((s.coreAt core).split * 65536) (descScr l.desc)).getD 0
  let privs := lowestFree l.slots (l.slots.length + n) n
  let pb := descPb l.desc
  let ten := ((s.ctxAt? l.ctx).map Ctx.ten).getD 0
  let s := privs.foldl (fun s i => s.zeroGlobal l.ctx (pb * 64 / 4096 + 2) (descPrivva l.desc + i * pb * 64) (pb * 64)) s
  let cycle := (s.coreAt core).cycle
  let mk := fun (i priv : Nat) =>
    { Wave.start ⟨g, lid, l.ctx, ten, i, gid, n, paramBase lid, priv, descNv l.desc, descNs l.desc,
        launchedLanes l.desc (i + 1 == n), BitVec.ofNat 64 (descEntry l.desc)⟩ with perf := [(0, BitVec.ofNat 64 cycle)] }
  let group : Group :=
    { launch := lid, gid := gid, ctx := l.ctx, off := off, size := descScr l.desc, scratch := [], stale := [], err := false, bad := [],
      code := [], credits := [], prio := ⟨descPrio l.desc % 4, by omega⟩, waves := n }
  let s := { s with
    groups := s.groups.set g group
    waves := ws.zipIdx.foldl (fun t (e : Nat × Nat) => t.set (core * 32 + e.1) (mk e.2 (privs.getD e.2 0))) s.waves
    cores := s.cores.mapVals fun _ (c : Core) => { c with reserve := c.reserve.filter fun r => r != (lid, gid) } }
  let s := s.modLaunch lid fun l =>
    { l with next := l.next + 1, dispatched := l.dispatched ++ [gid], live := l.live + 1, slots := l.slots ++ privs, offered := none }
  let s := s.modCtx l.ctx fun c => { c with served := s.chrono }
  (s.modCp fun c => { c.dispatchNeeds lid gid with rot := l.ctx }).wpSettled

/-! ### Pre-emption for a higher class (R336) -/

/-- The class of a group's context. -/
def State.classOfGroup (s : State) (g : Group) : Nat := ((s.ctxAt? g.ctx).map Ctx.cls).getD 0

/-- A context resident on a core that leaves for a higher class `c`: the lowest class, then the least recently dispatched. -/
def State.victim (s : State) (core c : Nat) : Option Nat :=
  let ctxs := distinct ((s.groupsOn core fun g => decide (s.classOfGroup g < c)).map fun e => e.2.ctx)
  let rank := fun (x : Nat) => match s.ctxAt? x with | some y => y.cls * 2 ^ 80 + y.served | none => 0
  leastBy rank (ctxs.filter fun x => ((s.ctxAt? x).map (·.st)) == some .live)

/-- A context of a core is on its way out already. -/
def State.leaving (s : State) (core : Nat) : Bool :=
  s.groupsOn core (fun g => ((s.ctxAt? g.ctx).map (·.st)) != some CtxSt.live) != []

/-- The core an offer would have without the lower classes (R335, R336), chosen as a reserved core is. -/
def State.coreBelow (s : State) (o : Nat × Launch × Nat) : Option Nat :=
  let c := s.classOf o.2.1
  let can := fun (core : Nat) => s.coreTakes o.1 o.2.1 o.2.2 core && s.room (fun g => decide (c ≤ s.classOfGroup g)) o.2.1 core
  (leastBy s.residentDie ((s.diesOf o.2.1.part).filter fun d => (coresOfDie d).any can)).bind fun d =>
    leastBy s.resident ((coresOfDie d).filter can)

/-- The context to pre-empt next: of the first offer that fits nowhere for lack of what lower classes hold. -/
def State.preemptNext (s : State) : Option Nat :=
  (s.offers.filter fun o => (s.dieFor o.1 o.2.1 o.2.2 []).isNone).findSome? fun o =>
    match s.coreBelow o with
    | none => none
    | some core => if s.leaving core then none else s.victim core (s.classOf o.2.1)

/-- GROUP_DISPATCH (R334, R336, R337, R347): the command processor starts a pre-emption that a higher class needs, or releases
a group to the dispatcher of die `die`. -/
def execGroupDispatch (die : Nat) (s : State) : Host.Outcome State Fault Refusal :=
  .next <|
    match s.preemptNext with
    | some c => (s.modCtx c fun x => { x with st := .stopping }).clampDeficits
    | none =>
      let r := s.choose
      match r.2 with
      | none => r.1
      | some (lid, gid, d) =>
        if d ≠ die then s
        else
          match r.1.launchAt? lid with
          | none => s
          | some l => match r.1.coreFor lid l gid die with
            | none => s
            | some core => (r.1.placeGroup lid l gid core).clampDeficits

/-- The watch of a launch's offered group has lapsed: it offers another, or a core can hold the group (R335). -/
def State.unwatched (s : State) (lid : Nat) (l : Launch) : Bool :=
  match l.offered, s.offerOf l with
  | some o, some gid => o.1 != gid || (s.dieFor lid l gid []).isSome
  | some _, none => true
  | none, _ => false

/-- A core that can hold a watched group ends its watch at once (R335). -/
def State.unwatch (s : State) : State :=
  if s.cp.launches.any fun e => s.unwatched e.1 e.2 then
    s.modCp fun c => { c with
      launches := c.launches.mapVals fun lid (l : Launch) => if s.unwatched lid l then { l with offered := none } else l }
  else s

/-- CORE_RESERVE (R335): an offered group that fits nowhere is watched, and after 1 ms reserves a core. -/
def execCoreReserve (launch : Nat) (s : State) : Host.Outcome State Fault Refusal :=
  .next <|
    match s.launchAt? launch with
    | none => s
    | some l =>
      match s.offerOf l with
      | none => s.unwatch
      | some gid =>
        if (s.dieFor launch l gid []).isSome then s.unwatch
        else
          let since := (l.offered.filter fun o => o.1 == gid).map (·.2)
          match since with
          | none => s.modLaunch launch fun l => { l with offered := some (gid, s.chrono) }
          | some t =>
            if s.chrono < t + 1000000 || s.cores.any (fun e => e.2.reserve.contains (launch, gid)) then s
            else
              match (leastBy s.residentDie (s.diesOf l.part)).bind fun d =>
                  leastBy s.resident ((coresOfDie d).filter (s.holdsEmpty l.desc)) with
              | none => s
              | some core => s.modCore core fun c => { c with reserve := c.reserve ++ [(launch, gid)] }

/-- DEFICIT_CHARGE (R337): a microsecond of its resident waves is charged to every context. -/
def execDeficitCharge (s : State) : Host.Outcome State Fault Refusal :=
  .next <|
    if s.chrono < s.cp.charged + 1000 then s
    else
      (s.modCp fun c => { c with
        charged := c.charged + 1000
        ctxs := c.ctxs.mapVals fun n (x : Ctx) =>
          { x with deficit := x.deficit - ((s.waves.filter fun e => e.2.ctx == n).length : Nat) } }).clampDeficits

/-! ### Ends (R169, R186, R263, R291, R332) -/

/-- A wave has no lane left, its counters are 0 and its reply slots are free (R169). -/
def Wave.over (w : Wave) : Bool :=
  w.frontier.isEmpty && w.handler.isNone && w.counter .ldc == 0 && w.counter .sc == 0 && w.counter .xc == 0 &&
    w.slots.all fun e => e.2.busy.isNone

/-- No array instruction, no held credit and no copy of a group is left (R263, R291). -/
def State.groupWorked (s : State) (g : Nat) : Bool :=
  let q := s.quadAt (quadOfCore (coreOfGroup g))
  !(q.ops.any fun o => o.group == g && o.inst != 0) && !(q.copies.any fun c => c.group == g) &&
    ((s.groupAt? g).map fun x => x.credits.isEmpty).getD true

/-- A wave may end: the last of its group once the group's array instructions and copies are done (R169, R263, R291). A wave that
holds no registers has ended. -/
def State.mayEnd (s : State) (k : Nat) (w : Wave) : Bool :=
  w.over && (s.waves.any (fun e => e.1 != k && e.2.group == w.group && e.2.nv != 0) ||
    (s.groupWorked w.group && s.waves.all fun e => e.2.group != w.group || e.2.lops.isEmpty))

/-- A wave ends: its registers and its private slot are free (R169, R330). -/
def State.freeWave (s : State) (k : Nat) (w : Wave) : State :=
  if w.nv = 0 then s
  else
    ((s.leaveCore k).modWave k fun w => { w with nv := 0, ns := 0, v := [], s := [] }).modLaunch w.launch fun l =>
      { l with slots := l.slots.erase w.priv }

/-- A wave has nothing left under way. -/
def State.waveDrained (s : State) (k : Nat) (w : Wave) : Bool :=
  w.lops == [] && w.rdvq == [] && w.slots.all (fun e => e.2.busy.isNone) && !(s.mem.accs.any fun a => a.owner == .wave k)

/-- WAVE_END (R169, R330): the wave ends; its slot is free once its copies, arrivals and stores are done, its host writes flushed
(R332; notes/assumptions/45.md). -/
def execWaveEnd (wave : Nat) (s : State) : Host.Outcome State Fault Refusal :=
  .next <|
    match s.waveAt? wave with
    | none => s
    | some w =>
      if !s.mayEnd wave w then s
      else
        let s := s.freeWave wave w
        if s.waveDrained wave w then { s with waves := s.waves.del wave } else (s.pushHost (.wave wave)).flushHost (.wave wave)

/-- No wave, no array instruction and no copy of a group is left (R263, R291). -/
def State.groupDrained (s : State) (g : Nat) : Bool := s.wavesOf g == [] && s.groupWorked g

/-- The banks of a group are released: a zeroing is queued on each (R278, R291). -/
def State.releaseBanks (s : State) (g : Nat) : State :=
  let core := coreOfGroup g
  let quad := quadOfCore core
  let owned := (List.range 8).filter fun b => ((s.quadAt quad).bank b).ownedBy g
  owned.foldl (fun s b =>
    let (id, s) := s.fresh
    let o : AOp := ⟨id, 0, core, g, 0, b, .zero true, none, .queued, 1, false, false, false, false, false, HandleEntry.init,
      HandleEntry.init, [], [], []⟩
    s.modQuad quad fun q => { q.modBank b fun x => { x with st := .releasing } with ops := q.ops ++ [o] }) s

/-- The handle entries of a group are free again, their generations bumped (R274, R291). -/
def State.freeHandles (s : State) (g : Nat) : State :=
  s.modCore (coreOfGroup g) fun c => { c with handles := c.handles.map fun (e : Nat × HandleEntry) =>
    (e.1, if e.2.st != .free && e.2.owner == g then { e.2 with st := .free, gen := bumpGen e.2.gen } else e.2) }

/-- GROUP_EXIT (R263, R291): the group has ended; its banks, handles and partition are freed. -/
def execGroupExit (group : Nat) (s : State) : Host.Outcome State Fault Refusal :=
  .next <|
    match s.groupAt? group with
    | none => s
    | some g =>
      if !s.groupDrained group then s
      else
        let s := (s.releaseBanks group).freeHandles group
        { s with groups := s.groups.del group }.modLaunch g.launch fun l => { l with live := l.live - 1 }

/-- CORE_SPLIT_APPLY (R186): a core without resident groups takes its new split; its L1 is dropped. -/
def execCoreSplitApply (core : Nat) (s : State) : Host.Outcome State Fault Refusal :=
  .next <|
    match (s.coreAt core).pendSplit with
    | none => s
    | some n =>
      if s.groupsOn core (fun _ => true) ≠ [] then s
      else s.modCore core fun c => { c with split := n, pendSplit := none, l1 := [] }

/-- Every group of a launch has exited and every publication of its waves is settled (R332). -/
def State.launchOver (s : State) (lid : Nat) (l : Launch) : Bool :=
  l.live == 0 && (l.fault.isSome || (l.opened && l.dispatched.length == l.ngroups)) && !(s.cp.pubs.any fun p => p.launch == lid)

/-- A launch has finished (R332). -/
def State.launchDone (s : State) (lid : Nat) (l : Launch) : Bool :=
  s.launchOver lid l &&
    s.mem.accs.all fun a => a.launch != lid || (match a.stage with | .returned w => decide (w ≤ s.chrono) | _ => false)

/-- The owners of posted host writes of a launch that no completion-carrying read follows (R332). -/
def State.postedOwners (s : State) (lid : Nat) : List Owner :=
  (s.mem.accs.filter fun a => a.launch == lid && a.stage == .posted).map (·.owner)

/-- The lines of a chain are demoted (R197). -/
def MemSys.demoteChain (m : MemSys) (chain : Nat) : MemSys :=
  { m with llc := m.llc.mapVals fun _ (x : LlcLine) => if x.tagged && x.chain == chain then { x with demoted := true } else x }

/-- An instance whose launches have all retired retires (R349, R356, R357). -/
def State.retireInstance (s : State) (i : Instance) : State :=
  if i.codes.length < i.launches.length then s
  else
    let code := ((i.codes.map fun (e : Nat × Nat) => e.2).find? fun n => n != 0).getD 0
    let s := s.modCp fun c => { c with
      wp := c.wp.filter fun e => !(e.ctx == i.ctx && e.inst == i.id)
      instances := c.instances.filter fun j => j.lid != i.lid }
    (s.modMem fun m => m.demoteChain i.chain).writeDone i.ctx i.done i.doneVal code

/-- LAUNCH_RETIRE (R195, R332, R349, R352, R353, R357): the launch's host writes are flushed; once everything of it is done, it
retires. -/
def execLaunchRetire (launch : Nat) (s : State) : Host.Outcome State Fault Refusal :=
  .next <|
    match s.launchAt? launch with
    | none => s
    | some l =>
      if !s.launchDone launch l then
        if s.launchOver launch l then (s.postedOwners launch).foldl State.flushHost s else s
      else
        let s := s.settle.modMem fun m => m.dropReplicas fun _ x => x.launch == launch
        let code := l.fault.getD 0
        let s := s.writeDone l.ctx (descDone l.desc) (descDoneVal l.desc) code
        let s := { s with cores := s.cores.mapVals fun _ (c : Core) => { c with reserve := c.reserve.filter fun r => r.1 != launch } }
        let mine := fun (i : Instance) => l.inst != 0 && i.ctx == l.ctx && i.id == l.inst
        let s := (s.modCp fun c => c.withdraw launch fun _ => true).modCp fun c => { c with
          launches := c.launches.del launch
          order := c.order.filter fun x => x != launch
          opens := c.opens.filter fun x => x != launch
          wp := c.wp.filter fun e => !(l.inst == 0 && e.ctx == l.ctx && e.inst == 0 && e.creator == launch)
          instances := c.instances.map fun i =>
            if mine i then { i with codes := i.codes.set l.index code, ovfs := if l.ovf then i.ovfs ++ [l.index] else i.ovfs } else i }
        let lost := (s.cp.launches.filter fun (e : Nat × Launch) => e.2.fault.isNone && e.2.needs.any (s.needLost e.2)).map fun (e : Nat × Launch) => e.1
        let s := s.modCp fun c => lost.foldl Cp.wpFault c
        let s := match s.cp.instances.find? mine with | some i => s.retireInstance i | none => s
        s.wpSettled.clampDeficits

end Sys2Proof.Machine
end

