-- ==== Sys2Proof/Machine/Preempt.lean ====
section
/-! DEFINITION. Pre-emption and restore of a context (R263, R291, R381 to R383) and its kill (R224, R310, R350, R385). -/

namespace Sys2Proof.Machine

/-! ### Stopping and draining (R381) -/

/-- The waves of a context. -/
def State.ctxWaves (s : State) (ctx : Nat) : List (Nat × Wave) := s.waves.filter fun e => e.2.ctx == ctx

/-- The groups of a context. -/
def State.ctxGroups (s : State) (ctx : Nat) : List (Nat × Group) := s.groups.filter fun e => e.2.ctx == ctx

/-- A wave has stopped: it stands at a run boundary or in a trap wait, or as TRET has left it. -/
def Wave.atRest (w : Wave) : Bool := w.trapWait.isSome || !w.run.isOpen || w.stopped

/-- A wave in a trap wait leaves its core with its upper levels saved (R25, R366). -/
def State.parkWave (s : State) (k : Nat) : State :=
  (s.modWave k fun w => { w with
    trapWait := w.trapWait.map fun (t : TrapWait) => { t with saved := some (t.saved.getD (w.up, w.run.slots)) } }).leaveCore k

/-- An array instruction that has not begun (R291): an ALOAD begins when nothing is before it on its bank. -/
def AOp.fresh (q : Quad) (o : AOp) : Bool :=
  match o.stage, o.kind with
  | .queued, _ => true
  | .parked, _ => true
  | .filling _, .aload .. => !q.bankReady o
  | .filled, .aload .. => !q.bankReady o
  | .filling _, _ => true
  | .filled, _ => true
  | _, _ => false

/-- The array instructions of a context's groups that have not begun are recorded (R291). -/
def State.parkOps (s : State) (gs : List Nat) : State :=
  (gs.map fun g => quadOfCore (coreOfGroup g)).foldl (fun s q =>
    (s.modQuad q fun x => { x with
      ops := x.ops.map fun o => if gs.contains o.group && o.inst != 0 && o.fresh x then { o with stage := .parked } else o }).pumpQuad q) s

/-- A class L operation that may stay counted in a saved context (R381). -/
def LOp.recorded (o : LOp) : Bool := match o.work with | .ard _ => true | .tunmap _ => true | _ => false

/-- An access whose WCT has returned. -/
def Acc.returned (a : Acc) : Bool := match a.stage with | .returned _ => true | _ => false

/-- The work of a wave that a save waits for is done (R310, R381). -/
def State.waveSaved (s : State) (k : Nat) (w : Wave) : Bool :=
  w.lops.all LOp.recorded && w.rdvq == [] && w.slots.all (fun e => e.2.busy.isNone) &&
    s.mem.accs.all fun a => a.owner != .wave k || a.returned

/-- The array work and the copies of a group that a save waits for are done (R263, R291). -/
def State.groupSaved (s : State) (g : Nat) : Bool :=
  let q := s.quadAt (quadOfCore (coreOfGroup g))
  q.ops.all (fun o => o.group != g || o.inst == 0 || o.stage == .parked) &&
    ((s.groupAt? g).map fun x => x.credits.isEmpty).getD true &&
    !(s.mem.accs.any fun a => match a.owner with
      | .tce t c => a.slot.isSome && t == quadOfCore (coreOfGroup g) && q.copies.any fun y => y.id == c && y.group == g
      | _ => false) &&
    q.copies.all fun c => c.group != g || (c.nextRow == 0 && c.rowsOpen == [] && !c.aborted)

/-- A wave as a save area holds it: without the values of its dead registers (R35, R382). -/
def Wave.image (w : Wave) : Wave :=
  { w with
    v := w.v.filter fun e => !w.dead.contains e.1
    s := w.s.filter fun e => !w.dead.contains (128 + e.1) }

/-- The image of a group (R382). -/
def State.imageOf (s : State) (k : Nat) (g : Group) : SavedGroup :=
  let core := coreOfGroup k
  let q := s.quadAt (quadOfCore core)
  { core := core, slot := k % 16, group := g
    waves := (s.waves.filter fun e => e.2.group == k).map fun e => (e.1 % 32, e.2.image)
    handles := (s.coreAt core).handles.filter fun e => e.2.st != .free && e.2.owner == k
    banks := q.banks.filter fun e => e.2.ownedBy k
    ops := q.ops.filter fun o => o.group == k && o.inst != 0
    copies := q.copies.filter fun c => c.group == k }

/-- A group leaves its core. -/
def State.removeGroup (s : State) (k : Nat) : State :=
  let core := coreOfGroup k
  let s := s.modQuad (quadOfCore core) fun q => { q with
    banks := q.banks.filter fun e => !e.2.ownedBy k
    ops := q.ops.filter fun o => !(o.group == k && o.inst != 0)
    copies := q.copies.filter fun c => c.group != k }
  let s := s.modCore core fun c => { c with handles := c.handles.mapVals fun _ (h : HandleEntry) =>
    if h.st != .free && h.owner == k then { h with st := .free } else h }
  { s with waves := s.waves.filter fun e => e.2.group != k, groups := s.groups.del k }

/-- PREEMPT_SAVE_DONE (R381, R382): the waves of a context being pre-empted have stopped, and its work that has not begun is
recorded; once the rest has drained, the context is saved. -/
def execPreemptSaveDone (ctx : Nat) (s : State) : Host.Outcome State Fault Refusal :=
  .next <|
    match s.ctxAt? ctx with
    | none => s
    | some c =>
      let ws := s.ctxWaves ctx
      let gs := s.ctxGroups ctx
      match c.st with
      | .stopping =>
        if !(ws.all fun e => e.2.atRest) then s
        else
          let s := ws.foldl (fun s e => if e.2.trapWait.isSome then s.parkWave e.1 else s) s
          (s.parkOps (gs.map fun e => e.1)).modCtx ctx fun c => { c with st := .draining }
      | .draining =>
        if !(ws.all fun e => s.waveSaved e.1 e.2) || !(gs.all fun e => s.groupSaved e.1) then
          ws.foldl (fun s e => (s.pushHost (.wave e.1)).flushHost (.wave e.1)) s
        else
          let saves := gs.map fun e => s.imageOf e.1 e.2
          (gs.foldl (fun s e => s.removeGroup e.1) s).modCtx ctx fun c => { c with st := .saved, saves := saves }
      | _ => s

/-! ### Restore (R383) -/

/-- A key under a renaming. -/
def renamed (f : List (Nat × Nat)) (k : Nat) : Nat := ((f.find? fun e => e.1 == k).map (·.2)).getD k

/-- A mark under a renaming of waves: one of a CPY names its wave. -/
def renamedMark (f : List (Nat × Nat)) (m : Nat × Bool) : Nat × Bool :=
  (if 2 ^ 32 ≤ m.1 then cpyMark (renamed f ((m.1 - 2 ^ 32) / 4)) ((m.1 - 2 ^ 32) % 4) else m.1, m.2)

/-- A byte's record under a renaming of waves. -/
def Stale.rename (f : List (Nat × Nat)) (e : Stale) : Stale :=
  { e with
    by_ := match e.by_ with | .wave k => .wave (renamed f k) | x => x
    marks := e.marks.map (renamedMark f)
    clear := e.clear.map (renamed f)
    seen := e.seen.map (renamed f)
    ordered := e.ordered.map (renamed f) }

/-- The registers of a kind that the waves of a saved group need. -/
def SavedGroup.regs (g : SavedGroup) (f : Wave → Nat) : Nat := (g.waves.map fun e => f e.2).sum

/-- The core a group left has room for it again (R333, R383). -/
def State.roomBack (s : State) (g : SavedGroup) : Bool :=
  let c := s.coreAt g.core
  let gs := s.groupsOn g.core fun _ => true
  let q := s.quadAt (quadOfCore g.core)
  decide (s.resident g.core + g.waves.length ≤ 32) && decide (gs.length < 16) &&
    decide (s.regsOn g.core (fun _ => true) Wave.nv + g.regs Wave.nv ≤ 1024) &&
    decide (s.regsOn g.core (fun _ => true) Wave.ns + g.regs Wave.ns ≤ 2048) &&
    (scratchFit gs (c.split * 65536) g.group.size).isSome &&
    g.handles.all (fun e => (c.handle e.1).st == .free) && g.banks.all (fun e => (q.bank e.1).st == .free) &&
    (match s.launchAt? g.group.launch with | some l => s.coreTakes g.group.launch l g.group.gid g.core | none => true)

/-- A saved group returns to its core, in the slots now free there. Its recorded instructions issue again, the last MMA or MMAG of them as
the core's previous one (R283, R291). -/
def State.putBack (s : State) (g : SavedGroup) : State :=
  let gs := s.groupsOn g.core fun _ => true
  let quad := quadOfCore g.core
  let k := g.core * 16 + (lowestFree (gs.map fun e => e.1 % 16) 16 1).headD 0
  let free := lowestFree ((s.waves.filter fun e => coreOfWave e.1 == g.core).map fun e => e.1 % 32) 32 g.waves.length
  let names := g.waves.zipIdx.map fun e => (g.core * 32 + e.1.1, g.core * 32 + free.getD e.2 0)
  let off := (scratchFit gs ((s.coreAt g.core).split * 65536) g.group.size).getD 0
  let group := { g.group with off := off, stale := g.group.stale.map (Stale.rename names) }
  let ops := g.ops.map fun (o : AOp) =>
    { o with group := k, wave := renamed names o.wave, stage := .queued, err := false, reuseA := false, reuseB := false, a := [], b := [],
             ix := [] }
  let copies := g.copies.map fun (c : Copy) => { c with group := k, wave := renamed names c.wave }
  let s := { s with
    groups := s.groups.set k group
    waves := g.waves.foldl (fun t (e : Nat × Wave) =>
      t.set (renamed names (g.core * 32 + e.1)) { e.2 with group := k }) s.waves }
  let s := s.modCore g.core fun c => { c with
    handles := g.handles.foldl (fun t (e : Nat × HandleEntry) => t.set e.1 { e.2 with owner := k }) c.handles }
  let key := (g.ops.filterMap fun (o : AOp) => match o.kind with | .mma .. => some o.kind | .mmag .. => some o.kind | _ => none).getLast?
  (s.modQuad quad fun q =>
    let q := { q with
      banks := g.banks.foldl (fun t (e : Nat × Bank) => t.set e.1 { e.2 with owner := k }) q.banks
      ops := q.ops ++ ops
      copies := q.copies ++ copies }
    if key.isSome then q.modLatch g.core fun l => { l with key := key } else q).pumpQuad quad

/-- A higher class waits: an offer whose partition has a die of the context's (R336, R392). -/
def State.higherWaits (s : State) (c : Ctx) : Bool :=
  s.offers.any fun o => decide (c.cls < s.classOf o.2.1) && (s.diesOf o.2.1.part).any (s.diesOf (s.partOfCtx c)).contains

/-- CONTEXT_RESTORE (R336, R383): with no higher class waiting, a group of a saved context returns to the core it left once
that has room; with the last of them the context runs again. -/
def execContextRestore (ctx : Nat) (s : State) : Host.Outcome State Fault Refusal :=
  .next <|
    match s.ctxAt? ctx with
    | none => s
    | some c =>
      if c.st ≠ .saved || s.higherWaits c then s
      else
        match c.saves.find? s.roomBack with
        | none => if c.saves = [] then s.modCtx ctx fun c => { c with st := .live } else s
        | some g =>
          let left := c.saves.erase g
          (s.putBack g).modCtx ctx fun c => { c with saves := left, st := if left = [] then .live else .saved }

/-! ### Kill (R385) -/

/-- The descriptors a queue still holds retire with KILLED. -/
def State.killQueued (s : State) (q : Queue) : Nat → BitVec 32 → State
  | 0, _ => s
  | n + 1, i =>
    let s := match s.readSlot q i with
      | .ok bs =>
        let d := BitVec.ofNat 512 (ofBytes bs)
        if descTopBad d then s else s.writeDone q.ctx (descDone d) (descDoneVal d) 5
      | _ => s
    State.killQueued s q n (i + 1)

/-- An access that has not been accepted at its point, nor left the device (R224). -/
def Acc.unsent (a : Acc) : Bool :=
  match a.stage with
  | .needSlot => true
  | .queued => true
  | .travelling => a.slot.isNone
  | _ => false

/-- The array work of a group is aborted as by a revocation, whose handle entries are freed at once; a recorded instruction ends in
its turn, and a zeroing is still done (R273, R278, R291). -/
def State.killArray (s : State) (g : Nat) : State :=
  let core := coreOfGroup g
  let quad := quadOfCore core
  let s := s.modQuad quad fun x => { x with
    ops := x.ops.map fun o => if o.group = g ∧ o.stage = .parked then { o with stage := .queued } else o }
  (s.revoke core fun h => h.owner == g).pumpQuad quad

/-- A reply slot whose reply has come is free, its registers given up (R310). -/
def RSlot.dropped (x : RSlot) : RSlot := if x.answered.isSome then { x with busy := none, answered := none } else x

/-- What a kill does to the waves and engines of a context: every lane ends, class L work is given up, array work and copies are aborted
with their credits, and what has not been accepted is discarded (R224, R251, R273, R310). -/
def State.killWork (s : State) (ctx : Nat) : State :=
  let ws := s.ctxWaves ctx
  let gs := (s.ctxGroups ctx).map fun e => e.1
  let s := ws.foldl (fun s e => s.endLanes e.1) s
  let copies := s.quads.flatMap fun e => (e.2.copies.filter fun c => c.ctx == ctx).map fun c => (e.1, c.id)
  let mine := fun (a : Acc) => match a.owner with
    | .wave k => ws.any fun e => e.1 == k
    | .tce q c => copies.contains (q, c)
    | _ => false
  let out := s.mem.accs.filter fun a => mine a && a.unsent
  let s := out.foldl (fun s a => match a.owner.holder, a.slot with
    | some h, some j => s.freeReply ⟨h.1, h.2.1, j⟩
    | _, _ => s) s
  let s := s.modMem fun m => { m with accs := m.accs.filter fun a => !(mine a && a.unsent) }
  let s := ws.foldl (fun s e => s.modWave e.1 fun w =>
    { w with lops := [], rdvq := [], reports := [], slots := w.slots.mapVals fun _ => RSlot.dropped }) s
  let s := { s with quads := s.quads.mapVals fun _ (q : Quad) =>
    { q with copies := q.copies.map fun (c : Copy) => if c.ctx = ctx then { c with aborted := true } else c } }
  gs.foldl (fun s g => (s.killArray g).flushCredits g) s

/-- What a kill does to the command processor's tables: launches fail with KILLED, the context's waypoint entries and
publications are discarded, its queues are emptied (R350, R354). -/
def State.killTables (s : State) (ctx : Nat) : State :=
  let qs := s.cp.queues.filter fun e => e.2.ctx == ctx
  let s := qs.foldl (fun s e => s.killQueued e.2 e.2.count e.2.rdidx) s
  let saves := ((s.ctxAt? ctx).map (·.saves)).getD []
  let gone := fun (lid : Nat) => (saves.filter fun g => g.group.launch == lid).length
  s.modCp fun c => { c with
    queues := c.queues.mapVals fun _ (q : Queue) =>
      if q.ctx = ctx then { q with rdidx := q.wridx, ids := [], wait := [], held := [] } else q
    launches := c.launches.mapVals fun lid (l : Launch) =>
      if l.ctx = ctx then { l with fault := some 5, needs := [], live := l.live - gone lid } else l
    wp := c.wp.filter fun e => e.ctx != ctx
    pubs := c.pubs.filter fun p => ((c.launches.get? p.launch).map fun l => l.ctx) != some ctx }

/-- A kill of a context begins (R385): a pre-emption is abandoned, a save discarded; a TLB_INV under way answers NOCTX
(R400). -/
def State.startKill (s : State) (ctx : Nat) : State :=
  match s.ctxAt? ctx with
  | none => s
  | some c =>
    if c.st = .killing then s
    else
      let s := (s.killTables ctx).killWork ctx
      let s := (s.mem.invals.filter fun x => x.ctx == ctx).foldl (fun s x =>
        match x.port with | some p => if s.answers then s.send (.mb p .noctx) else s | none => s) s
      let s := s.modMem fun m => { m with invals := m.invals.filter fun x => x.ctx != ctx }
      (s.dropTlb fun e => e.ctx == ctx).modCtx ctx fun c => { c with st := .killing, saves := [], prq := [], prqPend := [] }

/-- The granules of a tenancy. -/
def MemSys.granulesOf (m : MemSys) (ten : Nat) : List Nat :=
  (m.owners.filter fun e => e.2 == BitVec.ofNat 8 (64 + ten)).map fun e => e.1

/-- A tenancy without contexts is destroyed: its key is gone, and its granules are reclaimed in the order of R394 (R393, R395, R446;
notes/assumptions/22.md). -/
def State.endTenancy (s : State) (ten : Nat) : State :=
  let mine := s.mem.granulesOf ten
  let s := (s.modMem fun m => { m with ways := m.ways.del ten }).modHost fun h => { h with tens := h.tens.del ten }
  if mine = [] then s else (s.startMove mine (some 0) none).2

/-- A standby host that has taken over becomes the owner once the partition has no context (R392). -/
def State.settleOwner (s : State) : State :=
  match s.host.takeover with
  | some p => if s.cp.ctxs.isEmpty then s.modHost fun h => { h with owner := p, takeover := none } else s
  | none => s

/-- A tenancy that is being destroyed has no context left, and no granule of it is being moved. -/
def State.tenancyGone (s : State) (ten : Nat) : Bool :=
  let b := BitVec.ofNat 8 (64 + ten)
  ((s.host.tens.get? ten).map fun t => t.dying).getD false && !(s.cp.ctxs.any fun e => e.2.ten == ten) &&
    !s.mem.invals.any fun x => !x.grans.isEmpty && (x.owner == some b || x.grans.any fun g => s.mem.owner g == b)

/-- A tenancy whose destruction waits for its contexts is destroyed once they are gone. -/
def State.settleTenancy (s : State) (ten : Nat) : State := if s.tenancyGone ten then s.endTenancy ten else s

/-- An access that an engine makes for a context has not completed: a fault record, a trace entry, a page request or a completion
word. -/
def State.enginePending (s : State) (ctx : Nat) : Bool := s.mem.accs.any fun a => a.owner == .engine && a.op == ctx + 1

/-- KILL_COMPLETE (R355, R385): every store is visible, every slot free, every launch retired; the context is gone. -/
def execKillComplete (ctx : Nat) (s : State) : Host.Outcome State Fault Refusal :=
  .next <|
    match s.ctxAt? ctx with
    | none => s
    | some c =>
      let busy := s.waves.any (fun e => e.2.ctx == ctx) || s.groups.any (fun e => e.2.ctx == ctx) ||
        s.cp.launches.any (fun e => e.2.ctx == ctx) || s.settle.enginePending ctx
      if c.st ≠ .killing || busy then s
      else
        let s := s.modCp fun p => { p with
          queues := p.queues.filter fun e => e.2.ctx != ctx
          chains := p.chains.filter fun e => e.1 / 64 != ctx
          instances := p.instances.filter fun i => i.ctx != ctx
          nextInst := p.nextInst.del ctx
          ctxs := p.ctxs.del ctx }
        (s.modMem fun m => { m with ranges := m.ranges.filter fun r => r.ctx != ctx }).settleTenancy c.ten |>.settleOwner

end Sys2Proof.Machine
end

