-- ==== Sys2Proof/Machine/Remote.lean ====
section
/-! DEFINITION. What other devices, switches and hosts answer and ask (R190, R191, R220 to R223, R294 to R309). -/

namespace Sys2Proof.Machine

/-! ### Requests of other devices (R190, R191, R220) -/

/-- Fields of a peer window entry (R190). -/
def winValid (e : BitVec 128) : Bool := e.getLsbD 0
def winBase (e : BitVec 128) : Nat := bits e.toNat 63 12 * 4096
def winPages (e : BitVec 128) : Nat := bits e.toNat 103 64
def winTen (e : BitVec 128) : Nat := bits e.toNat 11 8

/-- The permission bit of a kind of access (R190, R191). -/
def PeerBit (k : PeerKind) : Nat :=
  match k with
  | .load => 1
  | .store => 2
  | .atom _ => 3
  | .mcred _ => 4

/-- The window check of R191, with the ownership of the granules the lanes reach (R396): the window's base and tenancy. -/
def State.windowCheck (s : State) (r : PeerReq) : Option (Nat × Nat) :=
  let e := s.mem.windows.getD r.win 0
  let ten := winTen e
  let ftid := match s.host.tens.get? ten with
    | some t => decide (t.policy.toNat / 2 ^ 32 = r.ftid.toNat) && !t.stopped
    | none => false
  let fits := r.lanes.all fun l => decide (l.off + l.size ≤ winPages e * 4096) && s.mem.owns ten (winBase e + l.off)
  if winValid e && e.getLsbD (PeerBit r.kind) && ftid && fits then some (winBase e, ten) else none

/-- What a peer's access does here. -/
def peerAKind : PeerKind → AKind
  | .load => .load
  | .store => .store
  | .atom op => .atom op
  | .mcred op => .mcred op

/-- The accesses of a peer's request, in lane order. -/
def peerAccs (r : PeerReq) (key base ten : Nat) : List Acc :=
  r.lanes.map fun l =>
    (⟨0, .peer key, 0, key, l.lane, 0, peerAKind r.kind, .dev (base + l.off), l.size, l.data, if r.cls = 3 then 0 else r.cls,
      0, ten, 0, none, .travelling, none, false, none⟩ : Acc)

/-- A reply leaves on any plane that carries traffic (R298). -/
def State.reply (s : State) (id dest : Nat) (body : ReplyBody) : State :=
  let h := Config.hash (dest * 2 ^ 64 + id)
  match ((List.range 72).map fun i => (h + i) % 72).find? fun p => (s.links.port p).st == .up && (s.links.port p).tx.stopped.isNone with
  | some p => s.sendFlit p (.reply id dest body)
  | none => s

/-- Accept a request at the home slices: it is refused by the window check, discarded at or after its deadline, or performed
in increasing lane order (R191, R200, R294, R300). -/
def State.acceptPeer (s : State) (r : PeerReq) : State :=
  if r.deadline ≤ s.gtime then s
  else
    match s.windowCheck r with
    | none => s.reply r.id r.src .refused
    | some (base, ten) =>
      let (key, s) := s.fresh
      let l := (peerAccs r key base ten).zipIdx.map fun e => { e.1 with id := s.nextId + e.2 }
      let s := { s with
        nextId := s.nextId + l.length
        mem := { s.mem with accs := s.mem.accs ++ l, peers := s.mem.peers ++ [⟨key, r, [], none⟩] } }
      l.foldl (fun s a => s.perform a.id) s

/-- The order a request stands in: its plane and its source (R298). -/
def orderKey (r : PeerReq) : Nat := r.plane * 4096 + r.src

/-- The next number of an order is known to have come: it is `n`. -/
def State.expectNext (s : State) (key n : Nat) : State := s.modLinks fun l => { l with reqIn := l.reqIn.set key n }

/-- The requests that came early and whose turn it is are accepted, in order (R298); `n` bounds their number. -/
def State.takeEarly (s : State) (key : Nat) : Nat → State
  | 0 => s
  | n + 1 =>
    match s.links.early.find? fun r => orderKey r == key && s.links.reqIn.get? key == some r.pseq with
    | none => s
    | some r =>
      (((s.modLinks fun l => { l with early := l.early.erase r }).expectNext key (r.pseq + 1)).acceptPeer r).takeEarly key n

/-- The number that an order has reached: one not begun expects 0 (notes/assumptions/66.md). -/
def Links.expected (l : Links) (key : Nat) : Nat := l.reqIn.getD key 0

/-- A request takes its turn among those of its source on its plane (R298): the one expected is performed, and one numbered 0 begins
the order anew; any other is kept for its turn (notes/assumptions/66.md). -/
def State.orderPeer (s : State) (r : PeerReq) : State :=
  let key := orderKey r
  let now := fun (s : State) => ((s.expectNext key (r.pseq + 1)).acceptPeer r).takeEarly key s.links.early.length
  if r.pseq = s.links.expected key then now s
  else if r.pseq = 0 then
    now (s.modLinks fun l => { l with early := l.early.filter fun x => orderKey x != key || decide (s.gtime < x.deadline) })
  else s.modLinks fun l => { l with early := l.early ++ [r] }

/-- REMOTE_REQUEST (R191, R220, R298, R300). -/
def execRemoteRequest (r : PeerReq) (s : State) : Host.Outcome State Fault Refusal :=
  .next <| if s.brings r.plane then s.orderPeer r else s

/-- MCRED_APPLY (R223, R309): a value combined by the switches is applied here as one atomic, unless the window refuses it. -/
def execMcredApply (r : PeerReq) (s : State) : Host.Outcome State Fault Refusal :=
  .next <| if s.brings r.plane then s.acceptPeer r else s

/-- The reply of a request that has been performed. -/
def PeerIn.reply (p : PeerIn) : ReplyBody :=
  match p.bad, p.req.kind with
  | some b, _ => b
  | none, .load => .data p.old
  | none, .atom _ => .data p.old
  | none, _ => .ack

/-- REMOTE_ACK (R220): the request's effects are visible, so its reply leaves. -/
def execRemoteAck (id : Nat) (s : State) : Host.Outcome State Fault Refusal :=
  .next <|
    match s.mem.peers.find? fun p => p.key = id with
    | none => s
    | some p =>
      let mine := s.mem.accs.filter fun a => a.owner == .peer id
      if mine.all fun a => match a.stage with | .performed _ => true | _ => false then
        (s.modMem fun m => { m with
          peers := m.peers.filter fun q => q.key != id
          accs := m.accs.filter fun a => a.owner != .peer id }).reply p.req.id p.req.src p.reply
      else s

/-! ### Replies to this device's requests (R301 to R305) -/

/-- The busy reply slots of a table have heard a device. -/
def hearSlots (peer : Nat) (now : Int) (t : Table RSlot) : Table RSlot :=
  t.mapVals fun _ x =>
    if x.busy.isSome && decide (now ≤ x.gdeadline) && !x.heard.contains peer then { x with heard := peer :: x.heard } else x

/-- Every request of this device under way notes that a reply of `peer` has come (R305). -/
def State.hear (s : State) (peer : Nat) : State :=
  { s with
    waves := s.waves.map fun e => (e.1, { e.2 with slots := hearSlots peer s.gtime e.2.slots })
    quads := s.quads.map fun e => (e.1, { e.2 with slots := hearSlots peer s.gtime e.2.slots }) }

/-- What follows when an owner's slot has become free: held host writes leave, and waits may end. -/
def State.afterReply (s : State) (a : Acc) : State :=
  match a.owner with
  | .wave k => (s.pushHost a.owner).wakeWave k
  | _ => s.pushHost a.owner

/-- An access receives what a reply holds for it. -/
def State.takeReply (s : State) (body : ReplyBody) (a : Acc) : State :=
  match body with
  | .data lanes =>
    match a.kind with
    | .load => s.deliver a (((lanes.find? fun e => e.1 == a.name).map (·.2)).getD [])
    | .atom _ => s.deliver a (((lanes.find? fun e => e.1 == a.name).map (·.2)).getD [])
    | _ => s.modMem fun m => m.dropAcc a.id
  | .ack => s.modMem fun m => m.dropAcc a.id
  | .refused => s.failAcc a .fabric (s.failureOf a (match a.tgt with | .host .. => 7 | _ => 2)) 0
  | .poison => s.failAcc a .ecc (s.failureOf a 3) (BitVec.ofNat 64 (s.freeNum (2 ^ 38 + a.id)))
  | .unsupported => s.failAcc a .fabric (s.failureOf a 5) 0

/-- What a reply must still reach for its slot to be free (R295): the registers of the lanes it answers. -/
def State.replyOwes (s : State) (body : ReplyBody) (l : List Acc) : Option (Nat × Mask) :=
  match body, l with
  | .data _, a :: _ =>
    match a.owner with
    | .wave k =>
      match (s.waveAt? k).bind fun w => w.op? a.op with
      | some o =>
        (match o.work with
         | .cpy _ => none
         | _ => some (a.op, maskOf fun L => l.any fun b => b.lane == L))
      | none => none
    | _ => none
  | _, _ => none

/-- A reply has been accepted for the accesses `l` of a slot: they receive it, and the slot is free, or will be once the registers
are written (R295). -/
def State.closeSlot (s : State) (r : SlotRef) (body : ReplyBody) (l : List Acc) : State :=
  let ans := s.replyOwes body l
  let s := l.foldl (fun s a => s.takeReply body a) s
  let s := match ans with
    | none => s.freeReply r
    | some _ => (s.setSlot r { s.rslot r with answered := ans }).modWave r.owner Wave.freeLanded
  match l with
  | [] => s
  | a :: _ => s.afterReply a

/-- A request has failed: its slot is free (R295). -/
def State.failSlot (s : State) (r : SlotRef) (l : List Acc) : State :=
  match l with
  | [] => s.freeReply r
  | a :: _ => (s.freeReply r).afterReply a

/-- A slot awaits the reply that comes with number `seq` before its deadline (R300, R301). -/
def State.awaits (s : State) (r : SlotRef) (seq : BitVec 8) : Bool :=
  let x := s.rslot r
  x.busy.isSome && x.answered.isNone && x.seq == seq && decide (s.gtime < x.gdeadline)

/-- REMOTE_REPLY (R301): a reply whose slot is free or whose SEQ differs is discarded, and so is one that comes at the deadline
(R300). -/
def execRemoteReply (r : PeerReply) (s : State) : Host.Outcome State Fault Refusal :=
  .next <|
    if !s.brings r.plane then s
    else
      let s := s.hear r.peer
      if s.awaits r.slot r.seq then s.closeSlot r.slot r.body (s.slotAccs r.slot) else s

/-- MCRED_ACK (R223, R309): one acknowledgement covers every member, or names the member that failed. -/
def execMcredAck (ack : AckIn) (seq : BitVec 8) (failed : Option (Nat × Nat)) (s : State) :
    Host.Outcome State Fault Refusal :=
  .next <|
    if !s.brings ack.plane || !s.awaits ack.slot seq then s
    else
      let l := s.slotAccs ack.slot
      let one := fun (s : State) (a : Acc) =>
        match failed with
        | none => s.modMem fun m => m.dropAcc a.id
        | some (peer, code) => s.failAcc a .fabric ⟨code, peer, false, 0, 0⟩ 0
      (l.foldl one s).failSlot ack.slot l

/-- The code of a request that has reached its deadline (R305): whether the device has heard the peer that did not answer. -/
def State.lateCode (s : State) (x : RSlot) (l : List Acc) : Nat :=
  match l with
  | [] => 4
  | a :: _ => match a.tgt with | .host .. => 7 | _ => if x.heard.contains (s.failPeer a) then 1 else 4

/-- REQUEST_TIMEOUT (R300, R305, R309): a request at its deadline fails; its slot's SEQ advances and the slot is free. -/
def execRequestTimeout (slot : SlotRef) (s : State) : Host.Outcome State Fault Refusal :=
  .next <|
    let x := s.rslot slot
    let l := s.slotAccs slot
    let host := l.any fun a => match a.tgt with | .host .. => true | _ => false
    let late := if host then decide (x.deadline ≤ s.chrono) else decide (x.gdeadline ≤ s.gtime)
    if x.busy.isNone || x.answered.isSome || !late then s
    else ((s.failAll l (s.lateCode x l)).setSlot slot { x with seq := x.seq + 1 }).failSlot slot l

/-! ### Hosts (R222, R237) -/

/-- HOST_COMPLETION: what a host answers to a read, an AtomicOp, or the completion-carrying read that follows posted writes
(R222, R237). A completion that a port's own timeout gives in place of an answer is a failed access with code HOSTTIMEOUT. -/
def execHostCompletion (acc : Nat) (body : ReplyBody) (s : State) : Host.Outcome State Fault Refusal :=
  .next <|
    match s.mem.acc? acc with
    | none => s
    | some a =>
      match a.tgt, a.stage with
      | .host port _, .flushing =>
        let done := fun (b : Acc) =>
          b.owner == a.owner && b.stage == .flushing && decide (b.id ≤ acc) && (match b.tgt with | .host p _ => p == port | _ => false)
        let s := match a.owner, body with
          | .wave k, .refused => s.modWave k fun w => w.noteFence ⟨7, 0, true, port, 2 * a.id⟩
          | _, _ => s
        (s.modMem fun m => { m with accs := m.accs.filter fun b => !done b }).afterReply a
      | .host _ _, .travelling =>
        match a.slot, a.owner.holder with
        | some j, some h =>
          let body := match body with
            | .data ((_, bs) :: _) => .data [(a.name, bs)]
            | b => b
          let r : SlotRef := ⟨h.1, h.2.1, j⟩
          if (s.rslot r).deadline ≤ s.chrono then s else s.closeSlot r body [a]
        | _, _ => s
      | _, _ => s

end Sys2Proof.Machine
end

