-- ==== Sys2Proof/Machine/HostSide.lean ====
section
/-! DEFINITION. Hosts and tenancies: the mailbox (R392 to R400, R358, R325, R326, R366, R380, R190, R186), host requests and
TDIs (R399), and attestation (R401 to R403). -/

namespace Sys2Proof.Machine

/-! ### Who is answered (R392, R400, R447) -/

/-- An SPDM session is established at a port. -/
def State.hasSession (s : State) (port sess : Nat) : Bool :=
  ((s.host.spdm.getD port Spdm.init).sessions.get? sess).isSome

/-- A command comes over the session that created its tenancy. -/
def State.inSession (s : State) (r : MbReq) (t : Tenancy) : Bool := r.sess == some t.session && s.hasSession r.port t.session

/-- The TDI of a tenancy with TEE takes a command: one that is locked or runs takes those of its stream alone, and one that has been in
ERROR none until it is locked again (R399; notes/assumptions/59.md). -/
def Tenancy.tdiTakes (t : Tenancy) (r : MbReq) : Bool :=
  match t.tdi.getD r.port .unlocked with
  | .unlocked => !t.failed.contains r.port
  | .error => false
  | _ => r.stream.isSome && r.stream == t.stream.get? r.port

/-- A command on a tenancy is accepted (R399, R400): from the partition that created it and, with TEE, over its session. -/
def State.accepts (s : State) (r : MbReq) (part ten : Nat) : Bool :=
  match s.host.tens.get? ten with
  | none => false
  | some t =>
    t.part == part && !t.dying && !t.stopped && (!t.policy.getLsbD 0 || (s.inSession r t && t.tdiTakes r))

/-- What a command comes to: a status now, or later at the end of what it starts. -/
abbrev Answer := Option MbStatus × State

/-- A mailbox command of a partition owner; no other port is answered (R392). -/
def State.mailbox (s : State) (r : MbReq) (f : Nat → Answer) : State :=
  if !s.answers then s
  else
    match s.partOfPort r.port with
    | none => s
    | some part =>
      let a := f part
      match a.1 with
      | some st => a.2.send (.mb r.port st)
      | none => a.2

/-- A command ends at once with a status. -/
def State.says (s : State) (st : MbStatus) : Answer := (some st, s)

/-! ### STATUS and TAKEOVER (R392, R400) -/

/-- STATUS (R400, R447, R450): the partition mode, which ports own a partition, and the states of the TDIs at the port. -/
def execStatus (r : MbReq) (s : State) : Host.Outcome State Fault Refusal :=
  .next <|
    if (s.links.boot == .running || s.links.boot == .recovery) && decide (r.port < 2) then
      s.send (.mbStatus r.port s.host.mode.val ((List.range 2).filter fun p => (s.partOfPort p).isSome)
        ((s.host.tens.filter fun e => e.2.policy.getLsbD 0).map fun (e : Nat × Tenancy) => (e.1, e.2.tdi.getD r.port .unlocked)))
    else s

/-- TAKEOVER (R392): every context of the partition is killed; then the standby host owns it. -/
def execTakeover (r : MbReq) (s : State) : Host.Outcome State Fault Refusal :=
  .next <|
    if !s.answers || 2 ≤ r.port then s
    else if s.host.mode.val ≠ 0 ∨ r.port = s.host.owner then s.send (.mb r.port .denied)
    else if s.host.takeover.isSome then s.send (.mb r.port .busy)
    else
      let s := s.cp.ctxs.foldl (fun s e => s.startKill e.1) s
      ((s.modHost fun h => { h with takeover := some r.port }).settleOwner).send (.mb r.port .ok)

/-! ### Tenancies and granules (R393 to R398) -/

/-- TEN_CREATE (R393, R395, R398). -/
def execTenCreate (r : MbReq) (ten : Nat) (policy : DWord) (s : State) : Host.Outcome State Fault Refusal :=
  .next <| s.mailbox r fun part =>
    let ftid := bits policy.toNat 63 32
    match r.sess with
    | none => s.says .denied
    | some sess =>
      if !s.hasSession r.port sess then s.says .denied
      else if 15 < ten ∨ bits policy.toNat 31 3 ≠ 0 then s.says .badarg
      else if (s.host.tens.get? ten).isSome then s.says .busy
      else if ftid = 0 ∨ s.host.tens.any (fun e => bits e.2.policy.toNat 63 32 == ftid) then s.says .denied
      else
        let t : Tenancy := { policy := policy, part := part, session := sess, key := some (Config.key s.host.drbg), tdi := [],
                             stream := [], ideKey := [], violations := 0, stopped := false, dying := false, failed := [] }
        (s.modHost fun h => { h with tens := h.tens.set ten t, drbg := h.drbg + 1 }).says .ok

/-- The contexts of a tenancy are killed; it is destroyed once they are gone (R393, R446). -/
def State.destroyTenancy (s : State) (ten : Nat) : State :=
  let s := (s.cp.ctxs.filter fun e => e.2.ten == ten).foldl (fun s e => s.startKill e.1) s
  (s.modHost fun h => match h.tens.get? ten with
    | some t => { h with tens := h.tens.set ten { t with dying := true } }
    | none => h).settleTenancy ten

/-- TEN_DESTROY (R393): over the session that created the tenancy. -/
def execTenDestroy (r : MbReq) (ten : Nat) (s : State) : Host.Outcome State Fault Refusal :=
  .next <| s.mailbox r fun part =>
    match s.host.tens.get? ten, r.sess with
    | some t, some sess =>
      if s.accepts r part ten && sess == t.session && s.hasSession r.port sess then (s.destroyTenancy ten).says .ok
      else s.says .denied
    | _, _ => s.says .denied

/-- The granules of device memory: 512 GiB (R1). -/
def granuleCount : Nat := 2 ^ 18

/-- A granule in the HBM of a partition's dies (R392). -/
def State.granuleOf (s : State) (part g : Nat) : Bool := decide (g < granuleCount) && (s.diesOf part).contains (dieOfPa (g * 2 ^ 21))

/-- GRANT (R394): a free granule goes to the tenancy; the status is written when it is done. -/
def execGrant (r : MbReq) (ten gran : Nat) (s : State) : Host.Outcome State Fault Refusal :=
  .next <| s.mailbox r fun part =>
    if !s.accepts r part ten then s.says .denied
    else if !s.granuleOf part gran then s.says .badarg
    else if s.mem.owner gran ≠ 0 ∨ s.mem.moving.contains gran = true then s.says .busy
    else (none, (s.startMove [gran] (some (BitVec.ofNat 8 (64 + ten))) (some r.port)).2)

/-- A table that a walk can reach lies in a granule (R376, R394). -/
def tableIn (m : MemSys) (gran : Nat) : List Nat → Nat → Bool
  | [], _ => false
  | lv :: rest, base =>
    decide (base / 2 ^ 21 = gran) ||
      (List.range 512).any fun i =>
        let p := BitVec.ofNat 64 (Memory.num m.bytes (base + 8 * i) 8)
        pteV p && !pteLeaf p && pteOk lv p && tableIn m gran rest (ptePa p)

/-- A granule holds a page table or the save area of a context of the tenancy (R394). -/
def State.granuleLive (s : State) (ten gran : Nat) : Bool :=
  s.cp.ctxs.any fun e => e.2.ten == ten &&
    (tableIn s.settle.mem gran [4, 3, 2, 1, 0] e.2.ptroot || decide (e.2.savebase / 2 ^ 21 = gran))

/-- RECLAIM (R394): a granule of the tenancy becomes free; the status is written when it is done. -/
def execReclaim (r : MbReq) (ten gran : Nat) (s : State) : Host.Outcome State Fault Refusal :=
  .next <| s.mailbox r fun part =>
    if !s.accepts r part ten then s.says .denied
    else if s.mem.moving.contains gran then s.says .busy
    else if s.mem.owner gran ≠ BitVec.ofNat 8 (64 + ten) then s.says .denied
    else if s.granuleLive ten gran then s.says .busy
    else (none, (s.startMove [gran] (some 0) (some r.port)).2)

/-- WAYS (R397): over the tenancy's session, with TEE or without. -/
def execWays (r : MbReq) (ten : Nat) (ways : BitVec 16) (s : State) : Host.Outcome State Fault Refusal :=
  .next <| s.mailbox r fun part =>
    if !s.accepts r part ten || !((s.host.tens.get? ten).map (s.inSession r)).getD false then s.says .denied
    else if bits ways.toNat 15 12 ≠ 0 then s.says .badarg
    else if ways = 0 then s.says .denied
    else (s.modMem fun m => { m with ways := m.ways.set ten (ways.truncate 12) }).says .ok

/-! ### Contexts and queues (R325, R326, R358, R385) -/

/-- A new context (R358). -/
def mkCtx (d : BitVec 512) : Ctx :=
  let f := fun hi lo => bits d.toNat hi lo
  { desc := d, clease := BitVec.ofNat 64 (if f 217 205 = 0 then 256 else f 217 205),
    cto := BitVec.ofNat 64 (if f 231 218 = 0 then 100 else f 231 218), deficit := 0, st := .live, saves := [], served := 0,
    prqSeq := 0, prq := [], prqPend := [] }

/-- A save area may lie at a physical address: in a granule that the firmware owns (R358, R393), whose entry names no tenancy
(notes/assumptions/22.md). -/
def MemSys.savesAt (m : MemSys) (pa : Nat) : Bool := m.owner (pa / 2 ^ 21) == 0x80

/-- A page of the page-request ring that translates lies in device memory of the tenancy (R358). -/
def State.ringBad (s : State) (ctx : Nat) (d : BitVec 512) : Bool :=
  let c := mkCtx d
  c.prqbase != 0 && [0, 4096].any fun off =>
    match (s.walkNow c ctx (c.prqbase + off)).1 with
    | .leaf p size => (match leafTarget p size (c.prqbase + off) with | .dev pa => !s.mem.owns c.ten pa | _ => true)
    | _ => false

/-- A context descriptor breaks a limit of R358. -/
def State.ctxDescBad (s : State) (ctx : Nat) (d : BitVec 512) : Bool :=
  let f := fun hi lo => bits d.toNat hi lo
  let cto := f 231 218
  let lease := f 217 205
  let outside := fun a => decide (2 ^ 57 ≤ a)
  f 511 448 % 4096 != 0 || !s.mem.owns (f 194 191) (f 511 448) || f 447 384 % 64 != 0 || f 383 320 % 64 != 0 || f 319 256 % 4096 != 0 ||
    f 255 244 != 0 || (f 319 256 != 0 && f 243 232 == 0) || (cto != 0 && (decide (cto < 10) || decide (10000 < cto))) ||
    (lease != 0 && (decide (lease < 64) || decide (4096 < lease))) || f 204 197 == 0 || f 190 128 != 0 ||
    !s.mem.savesAt (f 127 64) || f 63 0 % 8192 != 0 || [f 447 384, f 383 320, f 319 256, f 63 0].any outside || s.ringBad ctx d

/-- CTX_CREATE (R358). -/
def execCtxCreate (r : MbReq) (ctx : Nat) (desc : BitVec 512) (s : State) : Host.Outcome State Fault Refusal :=
  .next <| s.mailbox r fun part =>
    if !s.accepts r part (bits desc.toNat 194 191) then s.says .denied
    else if 63 < ctx ∨ s.ctxDescBad ctx desc = true then s.says .badarg
    else if (s.ctxAt? ctx).isSome || s.host.takeover.isSome then s.says .busy
    else (s.modCp fun c => { c with ctxs := c.ctxs.set ctx (mkCtx desc) }).says .ok

/-- A command on a context (R400): none that is absent or being killed takes one. -/
def State.onCtx (s : State) (r : MbReq) (part ctx : Nat) (f : Ctx → Answer) : Answer :=
  match s.ctxAt? ctx with
  | none => s.says .noctx
  | some c =>
    if c.st = .killing then s.says .noctx
    else if !s.accepts r part c.ten then s.says .denied
    else f c

/-- CTX_KILL (R385). -/
def execCtxKill (r : MbReq) (ctx : Nat) (s : State) : Host.Outcome State Fault Refusal :=
  .next <| s.mailbox r fun part => s.onCtx r part ctx fun _ => (s.startKill ctx).says .ok

/-- QUEUE_CREATE (R325). -/
def execQueueCreate (r : MbReq) (q : Nat) (cfg : QueueCfg) (s : State) : Host.Outcome State Fault Refusal :=
  .next <| s.mailbox r fun part => s.onCtx r part cfg.ctx fun _ =>
    if 63 < q ∨ cfg.k < 6 ∨ 16 < cfg.k ∨ cfg.base % 64 ≠ 0 then s.says .badarg
    else if (s.queueAt? part q).isSome then s.says .busy
    else (s.modCp fun c => { c with
      queues := c.queues.set (part * 64 + q) ⟨cfg.ctx, cfg.device, cfg.base, cfg.k, 0, 0, 0, none, [], [], []⟩ }).says .ok

/-- QUEUE_RESET (R326): a stopped queue runs again, empty. -/
def execQueueReset (r : MbReq) (q : Nat) (s : State) : Host.Outcome State Fault Refusal :=
  .next <| s.mailbox r fun part =>
    match s.queueAt? part q with
    | none => s.says .badarg
    | some x => s.onCtx r part x.ctx fun _ =>
      if x.qstat = 0 then s.says .busy
      else (s.modQueue part q fun x => { x with wridx := 0, rdidx := 0, qstat := 0, ids := [], wait := [], held := [] }).says .ok

/-- The host answers a page request (R366): every wait on it takes the answer. -/
def State.pageResp (s : State) (ctx : Nat) (seq : BitVec 32) (retry : Bool) : State :=
  (s.modCtx ctx fun c => { c with prq := c.prq.filter fun p => p.seq != seq }).eachWait ctx fun _ q ans =>
    if q = some seq ∧ ans = none then (q, some retry) else (q, ans)

/-- A response to a request that awaits none does nothing. -/
def State.pageAnswer (s : State) (r : MbReq) (ctx : Nat) (seq : BitVec 32) (retry : Bool) : State :=
  s.mailbox r fun part => s.onCtx r part ctx fun c =>
    (if c.prq.any fun p => p.seq == seq then s.pageResp ctx seq retry else s).says .ok

/-- PAGE_RESP with RETRY (R366). -/
def execPageRespRetry (r : MbReq) (ctx : Nat) (seq : BitVec 32) (s : State) : Host.Outcome State Fault Refusal :=
  .next (s.pageAnswer r ctx seq true)

/-- PAGE_RESP with DENY (R366). -/
def execPageRespDeny (r : MbReq) (ctx : Nat) (seq : BitVec 32) (s : State) : Host.Outcome State Fault Refusal :=
  .next (s.pageAnswer r ctx seq false)

/-- TLB_INV (R380, R400): its status is written at completion. -/
def execTlbInv (r : MbReq) (ctx : Nat) (all : Bool) (va pages : Nat) (s : State) : Host.Outcome State Fault Refusal :=
  .next <| s.mailbox r fun part => s.onCtx r part ctx fun _ =>
    if !all && va % 4096 != 0 then s.says .badarg
    else if !all && pages == 0 then s.says .ok
    else
      let (id, s) := s.fresh
      (none, s.startInval ⟨id, ctx, all, if all then 0 else va, if all then 0 else pages, none, some r.port, false, [], [], none⟩)

/-! ### Peer windows and cores (R186, R190) -/

/-- WINDOW_SET (R190, R398). -/
def execWindowSet (r : MbReq) (win : Nat) (entry : BitVec 128) (s : State) : Host.Outcome State Fault Refusal :=
  .next <| s.mailbox r fun part =>
    let old := s.mem.windows.getD win 0
    let p := s.policy (winTen entry)
    if !s.accepts r part (winTen entry) || (winValid old && !s.accepts r part (winTen old)) then s.says .denied
    else if 4095 < win ∨ bits entry.toNat 127 104 ≠ 0 ∨ bits entry.toNat 7 5 ≠ 0 then s.says .badarg
    else if !p.getLsbD 1 || (entry.getLsbD 4 && !p.getLsbD 2) then s.says .denied
    else (s.modMem fun m => { m with windows := m.windows.set win entry }).says .ok

/-- A core is named for a new split; with FORCE its handles are revoked and the launches of its groups halt as EVICTED
(R186, R273, R369). -/
def State.cfgCore (s : State) (scr : Nat) (force : Bool) (core : Nat) : State :=
  let s := s.modCore core fun c => { c with pendSplit := some scr }
  if force then
    let launches := distinct ((s.groupsOn core fun _ => true).map fun e => e.2.launch)
    launches.foldl (fun s l => s.haltWaves l 7) (s.revoke core fun _ => true)
  else s

/-- CORE_CFG (R186). -/
def State.coreCfg (s : State) (r : MbReq) (arg : DWord) (force : Bool) : State :=
  s.mailbox r fun part =>
    let scr := bits arg.toNat 21 18
    let count := bits arg.toNat 17 9
    let first := bits arg.toNat 8 0
    let cores := (List.range count).map fun i => first + i
    let foreign := fun (c : Nat) => (s.groupsOn c fun _ => true).any fun e =>
      match s.ctxAt? e.2.ctx with | some x => s.partOfCtx x != part | none => false
    if bits arg.toNat 63 23 ≠ 0 ∨ count = 0 ∨ 7 < scr ∨ 512 < first + count ∨ cores.any (fun c => !(s.diesOf part).contains (dieOfCore c)) = true
      then s.says .badarg
    else if cores.any foreign then s.says .busy
    else (cores.foldl (fun s c => s.cfgCore scr force c) s).says .ok

/-- CORE_CFG in DRAIN mode (R186). -/
def execCoreCfgDrain (r : MbReq) (arg : DWord) (s : State) : Host.Outcome State Fault Refusal := .next (s.coreCfg r arg false)

/-- CORE_CFG in FORCE mode (R186). -/
def execCoreCfgForce (r : MbReq) (arg : DWord) (s : State) : Host.Outcome State Fault Refusal := .next (s.coreCfg r arg true)

/-! ### Host requests and TDIs (R399) -/

/-- A host's port carries a tenancy: its partition created it. -/
def State.carries (s : State) (port ten : Nat) : Bool :=
  match s.host.tens.get? ten, s.partOfPort port with
  | some t, some part => t.part == part
  | _, _ => false

/-- Every granule of the bytes is the tenancy's and none is being moved (R394, R396). -/
def State.hostOwns (s : State) (ten pa n : Nat) : Bool :=
  (List.range ((pa % 2 ^ 21 + n + 2 ^ 21 - 1) / 2 ^ 21)).all fun i => s.mem.owns ten (pa / 2 ^ 21 * 2 ^ 21 + i * 2 ^ 21)

/-- The other tenancies whose granules the bytes reach. -/
def State.strangers (s : State) (ten pa n : Nat) : List Nat :=
  distinct ((List.range ((pa % 2 ^ 21 + n + 2 ^ 21 - 1) / 2 ^ 21)).filterMap fun i =>
    let b := (s.mem.owner (pa / 2 ^ 21 + i)).toNat
    if b / 16 = 4 ∧ b ≠ 64 + ten then some (b % 16) else none)

/-- HOST_REQUEST (R394, R396, R399, R430): a read completes with its data, poisoned, or with Completer Abort; a refused write
is dropped. -/
def execHostRequest (r : HostReq) (s : State) : Host.Outcome State Fault Refusal :=
  .next <|
    if !s.answers || (s.partOfPort r.port).isNone then s
    else
      let abort := fun (s : State) => if r.write then s else s.send (.hostReply r.port .abort)
      let n := if r.write then r.data.length else r.size
      if !s.carries r.port r.ten then abort (s.violate r.ten)
      else if !s.reaches r.port r.ten r.stream then abort (s.violate r.ten)
      else if !s.hostOwns r.ten r.addr n then abort ((s.strangers r.ten r.addr n).foldl State.violate s)
      else if r.write then s.engineStores r.addr r.data (r.data.length / 128 + 2)
      else if s.poisoned r.addr r.size then s.send (.hostReply r.port .poisoned)
      else s.send (.hostReply r.port (.data (Memory.read s.settle.mem.bytes r.addr r.size)))

/-- The TDI of a tenancy at a port enters a state; one that has been in ERROR is remembered until it is locked (R399). -/
def Tenancy.enter (t : Tenancy) (port : Nat) (st : TdiSt) : Tenancy :=
  { t with
    tdi := t.tdi.set port st
    failed := match st with
      | .error => port :: t.failed
      | .locked => t.failed.filter fun p => p != port
      | _ => t.failed }

/-- Change the TDI of a tenancy at a port. -/
def State.setTdi (s : State) (port ten : Nat) (st : TdiSt) : State :=
  s.modHost fun h => match h.tens.get? ten with
    | some t => { h with tens := h.tens.set ten (t.enter port st) }
    | none => h

/-- The TDI of a tenancy at a port. -/
def State.tdiAt (s : State) (port ten : Nat) : TdiSt :=
  ((s.host.tens.get? ten).map fun t => t.tdi.getD port .unlocked).getD .unlocked

/-- The BAR or stream configuration of a TDI changes: one that is locked or runs is in ERROR. -/
def State.tdiChanged (s : State) (port ten : Nat) : State :=
  match s.tdiAt port ten with
  | .locked => s.setTdi port ten .error
  | .run => s.setTdi port ten .error
  | _ => s

/-- TDI_CONFIG_CHANGE (R399). -/
def execTdiConfigChange (port ten : Nat) (s : State) : Host.Outcome State Fault Refusal := .next (s.tdiChanged port ten)

/-! ### SPDM (R401 to R403) -/

/-- Codes by which the model names an SPDM response. -/
def spdmError : Nat := 0x7F
/-- The sizes of the two signatures of a response (R401). -/
def twoSigs : List Nat := [384, 7856]

/-- The responder of a port. -/
def State.spdmAt (s : State) (port : Nat) : Spdm := s.host.spdm.getD port Spdm.init

/-- Change the responder of a port. -/
def State.modSpdm (s : State) (port : Nat) (f : Spdm → Spdm) : State :=
  s.modHost fun h => { h with spdm := h.spdm.set port (f (s.spdmAt port)) }

/-- A response, or an error where the connection has not come so far (notes/assumptions/24.md). -/
def State.spdm (s : State) (port stage msg : Nat) (body : List Nat) (f : Spdm → Spdm) : State :=
  if !s.answers || 2 ≤ port then s
  else if (s.spdmAt port).stage < stage then s.send (.spdm port spdmError [])
  else (s.modSpdm port f).send (.spdm port msg body)

/-- GET_VERSION (R401, R447): the one request that a device with a level 3 alarm answers. -/
def execGetVersion (port : Nat) (s : State) : Host.Outcome State Fault Refusal :=
  .next <|
    if s.links.boot != .running || decide (2 ≤ port) then s
    else (s.modSpdm port fun x => { x with stage := max x.stage 1 }).send (.spdm port 0x04 [0x13])

/-- GET_CAPABILITIES (R401). -/
def execGetCapabilities (port : Nat) (s : State) : Host.Outcome State Fault Refusal :=
  .next (s.spdm port 1 0x61 [] fun x => { x with stage := max x.stage 2 })

/-- NEGOTIATE_ALGORITHMS (R401, R402). -/
def execNegotiateAlgorithms (port : Nat) (s : State) : Host.Outcome State Fault Refusal :=
  .next (s.spdm port 2 0x63 [] fun x => { x with stage := max x.stage 3 })

/-- GET_DIGESTS (R401): the digests of the two certificate chains. -/
def execGetDigests (port : Nat) (s : State) : Host.Outcome State Fault Refusal :=
  .next (s.spdm port 3 0x01 [Config.digest 100 0, Config.digest 101 0] id)

/-- GET_CERTIFICATE (R401): chain 0 or chain 1. -/
def execGetCertificate (port chain : Nat) (s : State) : Host.Outcome State Fault Refusal :=
  .next (if chain < 2 then s.spdm port 3 0x02 [chain, Config.digest (100 + chain) 0] id
    else if s.answers && decide (port < 2) then s.send (.spdm port spdmError []) else s)

/-- CHALLENGE (R401): answered with both signatures. -/
def execChallenge (port : Nat) (s : State) : Host.Outcome State Fault Refusal := .next (s.spdm port 3 0x03 twoSigs id)

/-- The tenancy a session belongs to. -/
def State.tenancyOf (s : State) (sess : Nat) : Option Tenancy := (s.host.tens.find? fun e => e.2.session == sess).map (·.2)

/-- A measurement block (R403): the rollback counters raw, a digest otherwise; block 6 is the policy record of the tenancy
whose session asks. -/
def State.measure (s : State) (sess : Option Nat) (index : Nat) : Option (List Nat) :=
  match index with
  | 1 => some [Config.digest 1 0]
  | 5 => some ((List.range 3).map fun i => (s.host.rollback.getD i 0).toNat)
  | 6 => (sess.bind s.tenancyOf).map fun t => [Config.digest 6 t.policy.toNat]
  | n => if n = 2 ∨ n = 3 ∨ n = 4 then some [Config.digest n (s.host.digests.getD n 0)] else none

/-- GET_MEASUREMENTS (R401, R403). -/
def execGetMeasurements (port : Nat) (sess : Option Nat) (index : Nat) (s : State) : Host.Outcome State Fault Refusal :=
  .next <|
    let sess := sess.filter fun x => s.hasSession port x
    match s.measure sess index with
    | some l => s.spdm port 3 0x60 (index :: l ++ twoSigs) id
    | none => if s.answers && decide (port < 2) then s.send (.spdm port spdmError []) else s

/-- The handshake secret of session `n` (R402): from the ML-KEM shared secret followed by the ECDH shared secret. -/
def handshakeSecret (n mlkem ecdh : Nat) : Nat :=
  let kem := Config.digest 202 (2 ^ 64 * mlkem + n)
  let dh := Config.digest 203 (2 ^ 64 * ecdh + n)
  Config.digest 204 (2 ^ 512 * kem + dh)

/-- KEY_EXCHANGE (R402): the handshake secret of a new session comes from both shared secrets; the answer, the ML-KEM ciphertext and
the device's own share, is signed. -/
def execKeyExchange (port mlkem ecdh : Nat) (s : State) : Host.Outcome State Fault Refusal :=
  .next <|
    if s.answers && decide (port < 2) && decide (3 ≤ (s.spdmAt port).stage) then
      let n := s.host.drbg
      let t := s.spdm port 3 0x64 ([Config.digest 200 (2 ^ 64 * mlkem + n), Config.digest 201 n, n] ++ twoSigs) fun x =>
        { x with pending := some (n, handshakeSecret n mlkem ecdh) }
      t.modHost fun h => { h with drbg := n + 1 }
    else s.spdm port 3 0x64 [] id

/-- FINISH (R401): the session is established when the requester's proof verifies. -/
def execFinish (port : Nat) (ok : Bool) (s : State) : Host.Outcome State Fault Refusal :=
  .next <|
    match (s.spdmAt port).pending with
    | some (n, secret) =>
      if ok then s.spdm port 3 0x65 [n] fun x => { x with pending := none, sessions := x.sessions.set n (secret, 0) }
      else s.spdm port 3 spdmError [] fun x => { x with pending := none }
    | none => s.spdm port 3 spdmError [] id

/-- KEY_UPDATE (R401): the session goes on with new keys. -/
def execKeyUpdate (port sess : Nat) (s : State) : Host.Outcome State Fault Refusal :=
  .next <|
    if s.hasSession port sess then
      s.spdm port 3 0x69 [sess] fun x => 
        { x with sessions := x.sessions.mapVals fun n (y : Nat × Nat) => if n = sess then (y.1, y.2 + 1) else y }
    else s.spdm port 3 spdmError [] id

/-- END_SESSION (R401). -/
def execEndSession (port sess : Nat) (s : State) : Host.Outcome State Fault Refusal :=
  .next <|
    if s.hasSession port sess then s.spdm port 3 0x6C [sess] fun x => { x with sessions := x.sessions.del sess }
    else s.spdm port 3 spdmError [] id

/-- A request over the session of a tenancy with TEE at a port that carries it. -/
def State.overSession (s : State) (port sess ten : Nat) : Bool :=
  s.hasSession port sess && s.carries port ten &&
    (match s.host.tens.get? ten with | some t => t.policy.getLsbD 0 && t.session == sess | none => false)

/-- IDE_KM (R399, R402): keys of a stream are programmed over the session, which binds it to the tenancy's TDI. A stream of
another tenancy is refused. -/
def execIdeKm (port sess ten : Nat) (sk : StreamKey) (s : State) : Host.Outcome State Fault Refusal :=
  .next <|
    let taken := s.host.tens.any fun e => e.1 != ten && e.2.stream.get? port == some sk.stream
    if !s.overSession port sess ten || taken then s.spdm port 3 spdmError [] id
    else
      let same := ((s.host.tens.get? ten).bind fun t => t.stream.get? port) == some sk.stream
      let s := if same then s else s.tdiChanged port ten
      (s.modHost fun h => match h.tens.get? ten with
        | some t => { h with tens := h.tens.set ten { t with stream := t.stream.set port sk.stream, ideKey := t.ideKey.set port sk.key } }
        | none => h).spdm port 3 0xFE [sk.stream] id

/-- TDISP_REQUEST (R399): lock, start and stop over the tenancy's session. -/
def execTdispRequest (port sess ten : Nat) (rq : TdispReq) (s : State) : Host.Outcome State Fault Refusal :=
  .next <|
    if !s.answers || !s.overSession port sess ten then s.spdm port 3 spdmError [] id
    else
      let enter := fun (st : TdiSt) => (s.setTdi port ten st).spdm port 3 0xFD [ten] id
      match rq, s.tdiAt port ten with
      | .lock, .unlocked => enter .locked
      | .start, .locked => enter .run
      | .stop, _ => enter .unlocked
      | _, _ => s.spdm port 3 spdmError [] id

end Sys2Proof.Machine
end

