-- ==== Sys2Proof/Machine/Housekeeping.lean ====
section
/-! DEFINITION. Memory housekeeping (chapter 22): refresh (R425, R426), row disturbance (R427), remapping (R428, R429), error
correction and scrubbing (R430 to R432), the placement window (R433, R434) and the management registers that have no row of
their own (R10, R421, R435, R451). Times of a pseudo-channel are in eighths of a nanosecond. -/

namespace Sys2Proof.Machine

/-! ### Banks and refresh (R425, R426, R436) -/

/-- The chronometer in eighths of ns. -/
def State.now8 (s : State) : Nat := s.chrono * 8
/-- Lengths of a per-bank, an all-bank and a directed refresh: 130, 300 and 190 ns (R425, R427). -/
def tRFCpb : Nat := 1040
def tRFCab : Nat := 2400
def tRFM : Nat := 1520

/-- A refresh occupies the bank at `t`, or is to run on it. -/
def DBank.refreshing (k : DBank) (t : Nat) : Bool := match k.busy with | some e => decide (t < e) | none => false
/-- When a refresh that starts at `t` or later finds the bank free of others. -/
def DBank.freeFrom (k : DBank) (t : Nat) : Nat := max t (k.busy.getD 0)
/-- A refresh of `len` after those already on the bank; it closes the bank's row. -/
def DBank.refresh (k : DBank) (t len : Nat) : DBank := { k with busy := some (k.freeFrom t + len), openRow := none }

/-- The 16 banks. -/
def bankNumbers : List Nat := List.range 16

/-- A forced all-bank refresh starts once nothing issued to the stack is still moving data, after every refresh already
running (R426, R436). -/
def PChan.startForced (x : PChan) (t : Nat) : PChan :=
  if bankNumbers.any fun b => (x.bank b).issued != 0 then { x with forced := some none }
  else
    let start := bankNumbers.foldl (fun n b => max n ((x.bank b).freeFrom t)) t
    let x := bankNumbers.foldl (fun x b => x.modBank b fun k => { k with busy := some (start + tRFCab), openRow := none }) x
    { x with forced := some (some (start + tRFCab)), ab := x.ab + 1 }

/-- The time between refresh slots (R425). -/
def PChan.period (x : PChan) : Nat := if x.hot then 975 else 1950

/-- The time of the next slot of a pseudo-channel; that of the first is free within one period (notes/assumptions/23.md). -/
def State.slotDue (s : State) (pc : Nat) : Nat := (s.house.pc pc).due.getD (1 + Config.fixed (2 ^ 60 + pc) % 1950)

/-- The owed bank that is repaid after a slot: the oldest without a pending access that is not refreshing (R426). -/
def PChan.payee (x : PChan) (t : Nat) : Option Nat := x.owed.find? fun b => (x.bank b).pending == 0 && !(x.bank b).refreshing t

/-- The controller acts on a slot that falls due at `t` (R426). -/
def PChan.atSlot (x : PChan) (t : Nat) : PChan :=
  let b := x.slot % 16
  let x :=
    if x.debt = 8 then { x.startForced t with debt := 0, owed := [] }
    else if (x.bank b).pending ≠ 0 then { x with debt := x.debt + 1, owed := x.owed ++ [b] }
    else x.modBank b fun k => k.refresh t tRFCpb
  let x := match x.payee t with
    | some b => { (x.modBank b fun k => k.refresh t tRFCpb) with debt := x.debt - 1, owed := x.owed.erase b }
    | none => x
  { x with slot := x.slot + 1, due := some (t + x.period) }

/-- REFRESH_SLOT (R425, R426): the slot that is due. -/
def execRefreshSlot (pc : Nat) (s : State) : Host.Outcome State Fault Refusal :=
  .next <|
    let t := s.slotDue pc
    if 2048 ≤ pc ∨ s.now8 < t then s else s.modHouse fun h => h.modPc pc fun x => x.atSlot t

/-- REFRESH_DONE (R425, R426): refreshes that have ended leave their banks. -/
def execRefreshDone (pc : Nat) (s : State) : Host.Outcome State Fault Refusal :=
  .next <| s.modHouse fun h => h.modPc pc fun x =>
    { x with
      banks := x.banks.mapVals fun _ (k : DBank) => { k with busy := k.busy.filter fun e => decide (s.now8 < e) }
      forced := match x.forced with | some (some e) => if e ≤ s.now8 then none else x.forced | f => f }

/-- A stack's temperature reads so: above 85 °C its channels are hot, below 83 °C no longer (R425). -/
def House.heat (h : House) (stack : Nat) (deciC : Int) : House :=
  (List.range 256).foldl (fun h p => h.modPc (256 * stack + p) fun x =>
    { x with hot := if 850 < deciC then true else if deciC < 830 then false else x.hot }) h

/-- STACK_TEMPERATURE (R425). -/
def execStackTemperature (stack : Nat) (deciC : Int) (s : State) : Host.Outcome State Fault Refusal :=
  .next <|
    if 8 ≤ stack then s
    else
      let s := s.modLinks fun l => { l with stackTemp := l.stackTemp.set stack deciC }
      s.modHouse fun h => h.heat stack deciC

/-! ### Row disturbance (R427) -/

/-- The tracker after an activation of row `x`. -/
def trackStep (x : Nat) (l : List (Nat × Nat)) : List (Nat × Nat) :=
  if l.any fun e => e.1 == x then l.map fun e => if e.1 = x then (x, e.2 + 1) else e
  else if l.length < 24 then l ++ [(x, 1)]
  else (l.map fun e => (e.1, e.2 - 1)).filter fun e => e.2 != 0

/-- The tracker's count of a row has come to the threshold with this activation. -/
def DBank.atThreshold (k : DBank) (thr row : Nat) : Bool := (trackStep row k.tracker).any fun e => e.1 == row && decide (thr ≤ e.2)

/-- The channel after the controller has opened a row of a bank: the tracker counts it, and at the threshold its neighbours are
refreshed. -/
def PChan.activate (x : PChan) (thr t b row : Nat) : PChan :=
  let l := trackStep row (x.bank b).tracker
  if (x.bank b).atThreshold thr row then
    { (x.modBank b fun k => { k.refresh t tRFM with tracker := l.filter fun e => e.1 != row }) with rfm := x.rfm + 1 }
  else x.modBank b fun k => { k with tracker := l, openRow := some row }

/-- The rows that a directed refresh covers: the two on each side that exist. A spare, known by 16,384 past its index, has the spares
next to it as neighbours (DESIGN CHOICE, notes/assumptions/25.md). -/
def neighbours (row : Nat) : List Nat :=
  let near := fun (lo n : Nat) => ([row - 2, row - 1, row + 1, row + 2].filter fun r => decide (lo ≤ r) && decide (r < lo + n) && r != row)
  distinct (if row < 16384 then near 0 16384 else near 16384 576)

/-- The controller opens a row of a bank of a channel; a directed refresh that this calls for goes to the stack (R427). -/
def State.activate (s : State) (pc b row : Nat) : State :=
  let now := (s.house.pc pc).bank b
  let t := s.modHouse fun h => h.modPc pc fun x => x.activate h.rdmthr s.now8 b row
  if now.atThreshold s.house.rdmthr row then t.send (.refreshRows pc b (neighbours row)) else t

/-- The controller opens a row where it is not open already, or opens it anew (R427). -/
def State.openRow (s : State) (pc b row : Nat) (anew : Bool) : State :=
  if anew || ((s.house.pc pc).bank b).openRow != some row then s.activate pc b row else s

/-- TRACKER_CLEAR (R427): every 32 ms. -/
def execTrackerClear (s : State) : Host.Outcome State Fault Refusal :=
  .next <|
    if s.chrono < s.house.cleared + 32000000 then s
    else s.modHouse fun h => { h with
      cleared := h.cleared + 32000000
      pcs := h.pcs.mapVals fun _ (x : PChan) => { x with banks := x.banks.mapVals fun _ (k : DBank) => { k with tracker := [] } } }

/-! ### Row remapping (R428, R429) -/

/-- The spare that a row is mapped to. -/
def PChan.spareOf (x : PChan) (b row : Nat) : Option Nat :=
  (x.remap.find? fun e => e.2.bank == b && e.2.row == row).map fun e => e.2.spare

/-- A repair spare of a bank that no entry uses. -/
def PChan.freeSpare (x : PChan) (b : Nat) : Option Nat :=
  (List.range 64).find? fun i => !x.remap.any fun e => e.2.bank == b && e.2.spare == i

/-- A free place of the table. -/
def PChan.freePlace (x : PChan) : Option Nat := (List.range 64).find? fun i => (x.remap.get? i).isNone

/-- The number by which the tracker knows a row: a spare by its index after the rows of the map (R427). -/
def PChan.trueRow (x : PChan) (a : HbmAcc) : Nat :=
  if a.spare then 16384 + a.row else match x.spareOf a.bank a.row with | some i => 16384 + i | none => a.row

/-- Remap a row to a free spare, if it is not remapped already and the table, the bank's spares and the pending list have
room (R428; notes/assumptions/25.md). The copy opens both rows. -/
def State.remapRow (s : State) (pc b row : Nat) : State :=
  let x := s.house.pc pc
  let pend := s.house.pend.getD (pc / 256) []
  match x.spareOf b row, x.freePlace, x.freeSpare b with
  | none, some i, some sp =>
    if 256 ≤ pend.length then s
    else
      let r : Remap := ⟨b, row, sp, false⟩
      let s := s.modHouse fun h => { h with pend := h.pend.set (pc / 256) (pend ++ [(pc, r)]) }.modPc pc fun x =>
        { x with remap := x.remap.set i r, ceLog := x.ceLog.filter fun e => !(e.1 == b && e.2.1 == row) }
      (s.activate pc b row).activate pc b (16384 + sp)
  | _, _, _ => s

/-- The place of an access exists: 16 banks of 16,384 mapped rows and 576 spares, with 16 bursts a row (R424). -/
def hbmExists (a : HbmAcc) : Bool :=
  decide (a.bank < 16) && decide (a.col < 16) && decide (a.row < if a.spare then 576 else 16384)

/-- The number of a mapped burst of its pseudo-channel, in the order of addresses (DESIGN CHOICE, notes/assumptions/32.md). -/
def burstIndex (a : HbmAcc) : Nat := (a.row * 16 + a.bank) * 16 + a.col

/-- The burst of device memory that is mapped burst `i` of a pseudo-channel: the die's bursts go round its 512 pseudo-channels in an
order that the part fixes for each round (DESIGN CHOICE, notes/assumptions/32.md). -/
def burstAt (pc i : Nat) : Nat := pc / 512 * 2 ^ 31 + i * 512 + (pc % 512 ^^^ Config.fixed (2 ^ 61 + pc / 512 * 2 ^ 22 + i) % 512)

/-- The burst of device memory that an access of a controller meets: in the placement window by R433, elsewhere by the map of
addresses; the mapped rows of the window's granule hold nothing of it meanwhile. -/
def State.burstOf (s : State) (pc : Nat) (a : HbmAcc) : Option Nat :=
  let h := s.house
  if !hbmExists a then none
  else if a.spare then
    if h.pwEn && h.pwPc == pc && a.bank / 4 == h.pwBg && decide (64 ≤ a.row) then
      some ((h.pwGran * 2 ^ 21 + (a.row - 64) * 4096 + a.bank % 4 * 1024 + a.col * 64) / 64)
    else none
  else
    let b := burstAt pc (burstIndex a)
    if inWindow h (b * 64) then none else some b

/-- The HBM delivers a burst as poisoned from now on (R430). -/
def MemSys.poisonBurst (m : MemSys) (b : Nat) : MemSys := if m.poison.contains b then m else { m with poison := b :: m.poison }

/-- A day in ns (R428). -/
def dayNs : Nat := 86400 * 10 ^ 9

/-- What the symbol code finds in a burst that is read (R428, R430). -/
def State.burstRead (s : State) (pc : Nat) (a : HbmAcc) : State :=
  match a.err with
  | .clean => s
  | .corrected =>
    let s := s.modHouse fun h => h.modPc pc fun x => { x with ce := x.ce + 1 }
    if a.spare then s
    else
      let s := s.modHouse fun h => h.modPc pc fun x =>
        { x with ceLog := (a.bank, a.row, s.chrono) :: x.ceLog.filter fun e => decide (s.chrono < e.2.2 + dayNs) }
      let n := ((s.house.pc pc).ceLog.filter fun e => e.1 == a.bank && e.2.1 == a.row).length
      if n < 3 then s else s.remapRow pc a.bank a.row
  | .uncorrectable =>
    let s := s.modHouse fun h => h.modPc pc fun x => { x with ue := x.ue + 1 }
    let s := match s.burstOf pc a with | some b => s.modMem fun m => m.poisonBurst b | none => s
    if a.spare then s else s.remapRow pc a.bank a.row

/-- A controller can issue an access to a bank (R425, R426, R429). -/
def PChan.open_ (x : PChan) (t b : Nat) : Bool := x.forced.isNone && x.blocked.isNone && !(x.bank b).refreshing t

/-- The controller issues an access: its row is opened if it is not open, and a read is checked. -/
def State.issueHbm (s : State) (pc : Nat) (a : HbmAcc) : State :=
  let s := s.openRow pc a.bank ((s.house.pc pc).trueRow a) a.opens
  if a.write then s else s.burstRead pc a

/-- The data of an access has moved: it is no longer pending (R426). -/
def DBank.move (k : DBank) : DBank := { k with pending := k.pending - 1 }

/-- A write has come for the burst that a scrub has corrected: it stands, and the scrub's own write is given up (R432). -/
def PChan.overtaken (x : PChan) (a : HbmAcc) : PChan :=
  match x.fix with
  | some f => if a.write && !a.spare && burstIndex a == burstIndex f then { x.modBank f.bank DBank.move with fix := none } else x
  | none => x

/-- HBM_ACCESS (R426 to R430): an access arrives at its controller; it is issued, unless it must wait; its data has moved. -/
def execHbmAccess (pc : Nat) (a : HbmAcc) (s : State) : Host.Outcome State Fault Refusal :=
  .next <|
    let x := s.house.pc pc
    let k := x.bank a.bank
    if 2048 ≤ pc ∨ hbmExists a = false then s
    else
      match a.phase with
      | .arrives => s.modHouse fun h => h.modPc pc fun x => (x.overtaken a).modBank a.bank DBank.arrive
      | .issued =>
        if k.pending ≤ k.issued ∨ !x.open_ s.now8 a.bank then s
        else
          (s.modHouse fun h => h.modPc pc fun x => x.modBank a.bank fun k => { k with issued := k.issued + 1 }).issueHbm pc a
      | .moved =>
        if k.issued = 0 then s
        else s.modHouse fun h => h.modPc pc fun x =>
          let x := x.modBank a.bank fun k => { k.move with issued := k.issued - 1 }
          if x.forced = some none then x.startForced s.now8 else x

/-- The mapped bursts of a pseudo-channel (R424). -/
def mappedBursts : Nat := 2 ^ 22

/-- The pass in which the next scrub read falls: a pass begins when the last one is `hours` old (R432). -/
def PChan.scrubPass (x : PChan) (hours now : Nat) : PChan :=
  let next := x.scrubFrom + hours * (3600 * 10 ^ 9)
  if x.scrub = mappedBursts ∧ next ≤ now then { x with scrub := 0, scrubFrom := next } else x

/-- SCRUB_READ (R432): the scrub, which yields to every other access, reads the next mapped burst in the order of addresses; like any
access it is pending on its bank until its data has moved (R426). A burst that it corrects is to be written back. -/
def execScrubRead (pc : Nat) (a : HbmAcc) (s : State) : Host.Outcome State Fault Refusal :=
  .next <|
    let x := (s.house.pc pc).scrubPass s.house.scrubh s.chrono
    if 2048 ≤ pc ∨ !hbmExists a ∨ a.spare = true ∨ burstIndex a ≠ x.scrub ∨ mappedBursts ≤ x.scrub ∨ !s.house.scrub ∨ !x.open_ s.now8 a.bank ∨
        bankNumbers.any (fun b => (x.bank b).pending != 0) = true then s
    else
      let x := { x with scrub := x.scrub + 1 }.modBank a.bank fun k => { k.arrive with issued := k.issued + 1 }
      let x := if a.err = .corrected then { x.modBank a.bank DBank.arrive with fix := some { a with write := true, err := .clean } } else x
      (s.modHouse fun h => h.modPc pc fun _ => x).issueHbm pc { a with write := false }

/-- The scrub writes back the burst that it has corrected, once no other access is pending (R432). -/
def State.scrubFix (s : State) (pc : Nat) : State :=
  let x := s.house.pc pc
  match x.fix with
  | none => s
  | some f =>
    if !x.open_ s.now8 f.bank then s
    else (s.modHouse fun h => h.modPc pc fun x => { x.modBank f.bank DBank.move with fix := none }).issueHbm pc f

/-- The controller serves an access to the placement window (R434): its row is opened and its data moves, and a load is then performed
at its home. -/
def State.serveWindow (s : State) (w : WinAcc) : State :=
  if !((s.house.pc w.pc).open_ s.now8 w.bank) then s
  else
    let s := s.openRow w.pc w.bank (16384 + w.row) false
    let s := s.modHouse fun h => { h.modPc w.pc fun x => x.modBank w.bank DBank.move with
      pwAccs := h.pwAccs.map fun y => if y = w then { y with moved := true } else y }
    if w.write then s.winForget else (s.perform w.acc).winForget

/-- REMAP_PERSIST (R428): Lodestar writes the oldest pending entry of a stack to the flash log. -/
def execRemapPersist (stack : Nat) (s : State) : Host.Outcome State Fault Refusal :=
  .next <| s.modHouse fun h =>
    match h.pend.getD stack [] with
    | [] => h
    | (pc, r) :: t =>
      ({ h with pend := h.pend.set stack t, flash := h.flash ++ [(pc, { r with persist := true })] }).modPc pc fun x =>
        { x with remap := x.remap.mapVals fun _ (e : Remap) => if e = r then { e with persist := true } else e }

/-- The table of a pseudo-channel as its stack's fuses and the flash log give it (R428). -/
def House.loadTable (h : House) (pc : Nat) : Table Remap :=
  (((h.fuses ++ h.flash).filter fun e => e.1 == pc).zipIdx.foldl (fun t e =>
    if e.2 < 64 then t.set e.2 { e.1.2 with persist := true } else t) ([] : Table Remap))

/-- A pending row of a reloaded table is remapped once more; each of its bursts is poisoned (R429). -/
def State.remapAgain (s : State) (pc : Nat) (r : Remap) : State :=
  let x := s.house.pc pc
  match x.freePlace, x.freeSpare r.bank with
  | some i, some sp =>
    let n : Remap := { r with spare := sp }
    let s := s.modHouse fun h =>
      ({ h with pend := h.pend.set (pc / 256) ((h.pend.getD (pc / 256) []).map fun (e : Nat × Remap) => if e.1 = pc ∧ e.2 = r then (pc, n) else e) }).modPc
        pc fun x => { x with remap := x.remap.set i n }
    (List.range 16).foldl (fun s c =>
      match s.burstOf pc ⟨.issued, r.bank, r.row, false, false, false, c, .clean⟩ with
      | some b => s.modMem fun m => m.poisonBurst b
      | none => s) s
  | _, _ => s

/-- REMAP_RELOAD_DONE (R429): the table is that of fuses and flash log, and the rows whose remaps had not persisted are remapped
again. -/
def execRemapReloadDone (pc : Nat) (s : State) : Host.Outcome State Fault Refusal :=
  .next <|
    if (s.house.pc pc).blocked.isNone then s
    else
      let s := s.modHouse fun h => h.modPc pc fun x => { x with remap := h.loadTable pc, blocked := none }
      ((s.house.pend.getD (pc / 256) []).filter fun e => e.1 == pc).foldl (fun s e => s.remapAgain pc e.2) s

/-- The translation that an error met is dropped (R431): any of the list, or none where the error lies in an unused place. -/
def dropAt (n : Nat) (l : List TlbEntry) : List TlbEntry := l.eraseIdx (n % (l.length + 1))

/-- SRAM_ERROR (R290, R429, R431): corrected, or handled by the structure it lies in. -/
def execSramError (e : SramErr) (s : State) : Host.Outcome State Fault Refusal :=
  .next <|
    let count := fun (s : State) => s.modHouse fun h => { h with sramUe := h.sramUe + 1 }
    match e with
    | .corrected => s.modHouse fun h => { h with sramCe := h.sramCe + 1 }
    | .scratch g off => (count s).modGroup g fun x => if off < x.size ∧ !x.bad.contains off then { x with bad := off :: x.bad } else x
    | .accum q b => (count s).modQuad q fun x => x.modBank b fun y => { y with bad := y.st != .free }
    | .llc line =>
      (count s).modMem fun m => match m.llc.get? line with
        | some l => { m with
            llc := m.llc.set line { l with poison := 3 }
            reps := match m.reps.get? line with | some x => m.reps.set line { x with poison := 3 } | none => m.reps }
        | none => m
    | .remap pc => (count s).modHouse fun h => h.modPc pc fun x => { x with blocked := some (x.blocked.getD s.chrono), remap := [] }
    | .tlb core => (count s).modCore core fun c => { c with tlb := dropAt (s.freeNum (2 ^ 40 + core)) c.tlb }
    | .tceTlb quad => (count s).modQuad quad fun q => { q with tlb := dropAt (s.freeNum (2 ^ 40 + 512 + quad)) q.tlb }
    | .llTlb die => (count s).modMem fun m => { m with
        llTlb := m.llTlb.set die (dropAt (s.freeNum (2 ^ 40 + 640 + die)) (m.llTlb.getD die [])) }
    | .walker die => (count s).modMem fun m => { m with
        walker := m.walker.set die (dropAt (s.freeNum (2 ^ 40 + 644 + die)) (m.walker.getD die [])) }
    | .tags => count s

/-! ### The placement window (R433) -/

/-- A granule may become the window: a tenancy without TEE that the partition created owns it (R433). -/
def State.windowable (s : State) (part gran : Nat) : Bool :=
  s.host.tens.any fun e =>
    e.2.part == part && !e.2.policy.getLsbD 0 && !e.2.dying && s.mem.owner gran == BitVec.ofNat 8 (64 + e.1) &&
      !s.mem.moving.contains gran

/-- HKPW_WRITE (R433, R435). -/
def execHkpwWrite (port : Nat) (val : DWord) (s : State) : Host.Outcome State Fault Refusal :=
  .next <|
    match s.partOfPort port with
    | none => s
    | some part =>
      let h := s.house
      let gran := bits val.toNat 63 33
      let en := val.getLsbD 15
      let bg := bits val.toNat 14 13
      let pc := bits val.toNat 10 0
      if !s.ownerWrites port then s
      else if h.pwBusy || (en && !s.windowable part gran) then s.modHouse fun h => { h with pwErr := true }
      else
        let old := if h.pwEn then [h.pwGran] else []
        let change := if en then !h.pwEn || h.pwGran != gran || h.pwPc != pc || h.pwBg != bg else h.pwEn
        let s := s.modHouse fun h =>
          { h with pwGran := gran, pwEn := en, pwBg := bg, pwPc := pc, pwErr := h.pwErr && !val.getLsbD 16 }
        if !change then s
        else
          let r := s.startMove (distinct (old ++ if en then [gran] else [])) none none
          r.2.modHouse fun h => { h with pwBusy := true, pwInval := some r.1 }

/-- The change of the window has come to its end. -/
def State.windowSettled (s : State) : Bool :=
  match s.house.pwInval with
  | none => false
  | some id =>
    match s.mem.invals.find? fun x => x.id == id with
    | none => true
    | some x => x.dropped && !s.invalWaits x

/-- PW_CHANGE_DONE (R433): the granules hold zeros and no old translation is left; BUSY reads 0. -/
def execPwChangeDone (s : State) : Host.Outcome State Fault Refusal :=
  .next <|
    if !s.windowSettled then s
    else
      let s := match s.mem.invals.find? fun x => some x.id == s.house.pwInval with
        | some x => s.endInval x
        | none => s
      s.modHouse fun h => { h with pwBusy := false, pwInval := none }

/-! ### Management registers (R10, R421, R435, R451) -/

/-- REGISTER_WRITE (R10): a management register that no other step writes. Read-only registers and values out of range change
nothing. A value is out of range when it does not fit the register's field, and a write of HKCTL with one field out of range is
ignored as a whole (DESIGN CHOICE, notes/assumptions/57.md). -/
def execRegisterWrite (port off : Nat) (val : DWord) (s : State) : Host.Outcome State Fault Refusal :=
  .next <|
    let s := s.merSettle
    let v := val.toNat
    if !s.ownerWrites port then s
    else if off = 0x008 then (if s.mer.en || decide (2 ^ 32 ≤ v) then s else s.modMer fun m => { m with group := BitVec.ofNat 32 v })
    else if 0x800 ≤ off ∧ off < 0xA00 ∧ off % 8 = 0 then
      if s.mer.en then s
      else s.modMer fun m => { m with
        admit_ := (List.range 64).foldl (fun t i => t.set ((off - 0x800) * 8 + i) (val.getLsbD i)) m.admit_ }
    else if off = 0x2000 then
      let scrubh := bits v 31 24
      let thr := bits v 12 0
      if scrubh = 0 ∨ 168 < scrubh ∨ thr < 256 ∨ 4096 < thr then s
      else s.modHouse fun h => { h with scrubh := scrubh, scrub := val.getLsbD 13, rdmthr := thr }
    else if off = 0x2008 then s.modHouse fun h => { h with sel := bits v 10 0 }
    else if off = 0x3680 then (if v < 500 ∨ 3200 < v then s else s.modLinks fun l => { l with plim := v })
    else s

end Sys2Proof.Machine
end

