-- ==== Sys2Proof/Machine/Links.lean ====
section
/-! DEFINITION. Link integrity (R440 to R444, R299), security alarms (R445 to R448), boot (R449, R450), and power (R451). -/

namespace Sys2Proof.Machine

/-! ### Locks and holds (R299, R442) -/

/-- Change a Zonar port. -/
def State.modPort (s : State) (p : Nat) (f : Port → Port) : State := s.modLinks fun l => l.modPort p f

/-- The lines of a port's plane are held until every request sent on it has passed its deadline by 100 ns (R299). -/
def Port.holdLines (x : Port) : Port := { x with hold := some (x.sent + 100), open_ := false }

/-- A port locks: its lines are held until what was sent has passed its deadlines (R299, R442). -/
def State.lockPort (s : State) (p : Nat) : State :=
  s.modPort p fun x => { x.holdLines with st := .locked, locks := x.locks + 1, attestFrom := s.chrono }

/-- The reply slots of the device that hold a request. -/
def State.busySlots (s : State) : List SlotRef :=
  (s.waves.flatMap fun e => (e.2.slots.filter fun x => x.2.busy.isSome).map fun (x : Nat × RSlot) => ⟨false, e.1, x.1⟩) ++
    s.quads.flatMap fun e => (e.2.slots.filter fun x => x.2.busy.isSome).map fun (x : Nat × RSlot) => ⟨true, e.1, x.1⟩

/-- Put a slot into a list ordered by when each was taken. -/
def State.insertSlot (s : State) (r : SlotRef) : List SlotRef → List SlotRef
  | [] => [r]
  | x :: t => if (s.rslot r).taken < (s.rslot x).taken then r :: x :: t else x :: s.insertSlot r t

/-- Held requests that may leave now do so, in the order in which they took their slots (R299). -/
def State.resendHeld (s : State) : State :=
  (s.busySlots.foldr s.insertSlot []).foldl (fun s r =>
    let g := s.slotAccs r
    if g.any fun a => a.stage == .queued then s.sendRequest g r else s) s

/-- PLANE_REHASH (R299): the held lines of a port that is not usable go by the hash over fewer ports. -/
def execPlaneRehash (port : Nat) (s : State) : Host.Outcome State Fault Refusal :=
  .next <|
    match (s.links.port port).hold with
    | none => s
    | some t =>
      if (s.links.port port).open_ || decide (s.gtime < t) then s
      else (s.modPort port fun x => { x with hold := none }).resendHeld

/-- A direction under a fresh key and salt, its counter at 0 (R440, R442). -/
def Dir.fresh (n : Nat) : Dir := { Dir.init with key := Config.key n, salt := BitVec.ofNat 32 (Config.digest 300 n) }

/-- A port's session is new: fresh keys both ways, and a fresh order of its requests; lines whose plane returns to it are held until
what was sent on any plane has passed its deadline (R298, R442). -/
def State.renewPort (s : State) (p : Nat) (st : PState) : State :=
  let n := s.host.drbg
  let h := s.links.ports.foldl (fun h e => max h (e.2.sent + 100)) 0
  let s := s.modPort p fun x => { x with
    st := st, rx := Dir.fresh n, tx := Dir.fresh (n + 1), open_ := true, hold := some (max h (x.hold.getD h)),
    askDue := none, resendDue := none }
  (s.modLinks fun l => { l with
    reqOut := l.reqOut.filter fun e => e.1 / 4096 != p
    reqIn := l.reqIn.filter fun e => e.1 / 4096 != p
    early := l.early.filter fun r => r.plane != p }).modHost fun h => { h with drbg := n + 2 }

/-- REATTEST (R442): Lodestar accepts the switch when both signatures verify, and otherwise tries again after a second. After a
level 3 alarm every port stays LOCKED (R447). -/
def execReattest (port : Nat) (rsaOk slhOk : Bool) (s : State) : Host.Outcome State Fault Refusal :=
  .next <|
    let x := s.links.port port
    if x.st ≠ .locked ∨ s.links.level3 = true ∨ s.chrono < x.attestFrom then s
    else if rsaOk && slhOk then s.renewPort port .attesting
    else s.modPort port fun x => { x with attestFrom := s.chrono + 10 ^ 9 }

/-- PORT_REOPEN (R442): what was sent under the reduced hash has passed its deadlines, and the port carries traffic again. -/
def execPortReopen (port : Nat) (s : State) : Host.Outcome State Fault Refusal :=
  .next <|
    let x := s.links.port port
    match x.hold with
    | none => s
    | some t =>
      if !x.open_ || decide (s.gtime < t) then s
      else (s.modPort port fun x => { x with st := .up, open_ := false, hold := none }).resendHeld

/-- PORT_LINK_CHANGE (R444): a link that comes up starts a session; one that is lost holds its lines as a lock does
(notes/assumptions/27.md). -/
def execPortLinkChange (port : Nat) (up : Bool) (s : State) : Host.Outcome State Fault Refusal :=
  .next <|
    let x := s.links.port port
    if 72 ≤ port ∨ s.links.level3 = true then s
    else
      match x.st, up with
      | .down, true => s.renewPort port .up
      | .up, false => s.modPort port fun x => { x.holdLines with st := .down }
      | .attesting, false => s.modPort port fun x => { x.holdLines with st := .down }
      | _, _ => s

/-! ### Flits (R440, R441, R443) -/

/-- A flit as the receiver checks it against the counter it expects (R441). -/
def flitOk (f : Flit) (ctr : Nat) : Bool := f.tagOk && f.ctrlo == BitVec.ofNat 16 ctr && f.rsv == 0 && f.vc != 3

/-- The flit is under the key of a new phase, and verifies: the first of that phase (R443). -/
def Dir.renews (d : Dir) (f : Flit) : Bool := f.keyph != d.phase && f.tagOk

/-- The counter a receiver expects of a flit: 0 for the first of a new phase (R441, R443). -/
def Dir.expects (d : Dir) (f : Flit) : Nat := if d.renews f then 0 else d.ctr

/-- The direction after a flit has been received; the first of a new phase brings its key (R443). -/
def Dir.take (d : Dir) (f : Flit) (chrono : Nat) : Dir :=
  let d := if d.renews f then
      { d with key := d.rekey.getD d.key, old := some (d.key, d.ctr), phase := f.keyph, rekey := none, ctr := 0, stopped := none }
    else d
  { d.count chrono with discarding := false, failed := none }

/-- A flit is the replay of the counter `m` that failed; the first of a new phase follows the last of the old one (R441, R443). -/
def Dir.replays (d : Dir) (f : Flit) (m : Nat) : Bool :=
  f.replay && (f.ctrlo == BitVec.ofNat 16 m || (f.keyph != d.phase && f.ctrlo == 0))

/-- Ask the sender of a port for a counter; a direction that has stopped asks once it goes on (R441, R443). -/
def State.askReplay (s : State) (port n : Nat) : State :=
  if (s.links.port port).tx.stopped.isSome then s.modPort port fun x => { x with askDue := some n } else s.sendFlit port (.replayAsk n)

/-- FLIT_RECEIVE (R441, R442): a flit is received; or it fails, is counted and asked for again, and later ones are discarded until
it has come; its second failure locks the port. -/
def execFlitReceive (port : Nat) (f : Flit) (s : State) : Host.Outcome State Fault Refusal :=
  .next <|
    let x := s.links.port port
    if x.st ≠ .up then s
    else
      let n := x.rx.expects f
      let bad := fun (s : State) => s.modPort port fun x => { x with err := x.err + 1 }
      match x.rx.failed with
      | some m =>
        if !x.rx.replays f m then s
        else if flitOk f (if x.rx.renews f then 0 else m) then s.modPort port fun x => { x with rx := x.rx.take f s.chrono }
        else (bad s).lockPort port
      | none =>
        if flitOk f n then s.modPort port fun x => { x with rx := x.rx.take f s.chrono }
        else ((bad s).modPort port fun x => { x with rx := { x.rx with failed := some n, discarding := true } }).askReplay port n

/-- The counter of a flit that was sent. -/
def SentFlit.ctr (f : SentFlit) : Nat := f.nonce.toNat % 2 ^ 64

/-- The kept flits from a counter on, oldest first: those sent since the latest flit of that counter (R441). -/
def Dir.keptFrom (d : Dir) (n : Nat) : List SentFlit :=
  ((d.kept.takeWhile fun f => f.ctr != n) ++ (d.kept.find? fun f => f.ctr == n).toList).reverse

/-- The counter that the receiver means: past the last flit of the old phase comes the first of the new one (R443). -/
def Dir.means (d : Dir) (n : Nat) : Nat :=
  match d.old with
  | some (_, e) => if n = e ∧ d.ctr ≤ n then 0 else n
  | none => n

/-- The sender keeps the flit of a counter (R441). -/
def Dir.keeps (d : Dir) (n : Nat) : Bool := d.kept.any fun f => f.ctr == d.means n

/-- The counter has been sent. -/
def Dir.hasSent (d : Dir) (n : Nat) : Bool :=
  decide (d.means n < d.ctr) || (match d.old with | some (_, e) => decide (n < e) | none => false)

/-- A flit is sent again: with REPLAY set, under the same nonce, as it was (R441). -/
def SentFlit.again (f : SentFlit) : SentFlit := { f with header := f.header ||| 2 ^ 60 }

/-- The kept flits of a port from a counter on are sent again, in their order (R441). -/
def State.resendFrom (s : State) (port n : Nat) : State :=
  let d := (s.links.port port).tx
  (d.keptFrom (d.means n)).foldl (fun s f => s.send (.flit port f.again)) s

/-- REPLAY_REQUEST (R441 to R443): the flits from a counter are sent again, or the port locks when they are no longer kept. A direction
that has stopped sends them once it goes on. A port that waits for a replay itself takes no request. -/
def execReplayRequest (port ctr : Nat) (s : State) : Host.Outcome State Fault Refusal :=
  .next <|
    let x := s.links.port port
    if !s.brings port ∨ !x.tx.hasSent ctr then s
    else if !x.tx.keeps ctr then s.lockPort port
    else if x.tx.stopped.isSome then s.modPort port fun x => { x with resendDue := some ctr }
    else s.resendFrom port ctr

/-- What a direction owes once it goes on under a new key: the replay that was asked of it, and its own demand for one (R441, R443). -/
def State.sendOwed (s : State) (port : Nat) : State :=
  let x := s.links.port port
  let s := match x.resendDue with | some n => s.resendFrom port n | none => s
  let s := match x.askDue with | some n => s.sendFlit port (.replayAsk n) | none => s
  s.modPort port fun x => { x with askDue := none, resendDue := none }

/-- REKEY (R443): a rekey of a direction begins; where one has begun, the sending direction changes to its new key. -/
def execRekey (port : Nat) (rx : Bool) (s : State) : Host.Outcome State Fault Refusal :=
  .next <|
    let x := s.links.port port
    if x.st ≠ .up then s
    else
      let n := s.host.drbg
      let draw := fun (s : State) => s.modHost fun h => { h with drbg := n + 1 }
      if rx then
        if x.rx.rekey.isSome then s
        else draw (s.modPort port fun x => { x with rx := { x.rx with rekey := some (Config.key n) } })
      else
        match x.tx.rekey with
        | none => draw (s.modPort port fun x => { x with tx := { x.tx with rekey := some (Config.key n) } })
        | some k =>
          (s.modPort port fun x => { x with tx := { x.tx with
            key := k, old := some (x.tx.key, x.tx.ctr), phase := !x.tx.phase, ctr := 0, rekey := none, stopped := none } }).sendOwed
            port |>.resendHeld

/-- REKEY_DEADLINE (R443): a direction that stopped at 2^40 and has not been rekeyed for 1 ms locks the port. -/
def execRekeyDeadline (port : Nat) (rx : Bool) (s : State) : Host.Outcome State Fault Refusal :=
  .next <|
    let x := s.links.port port
    match (if rx then x.rx else x.tx).stopped with
    | none => s
    | some t => if x.st ≠ .up ∨ s.chrono < t + 1000000 then s else s.lockPort port

/-! ### Security alarms (R445 to R448) -/

/-- A tenancy has a group on a die or a granule in its HBM (R445). -/
def State.onDie (s : State) (ten die : Nat) : Bool :=
  s.groups.any (fun e => dieOfCore (coreOfGroup e.1) == die && ((s.ctxAt? e.2.ctx).map Ctx.ten) == some ten) ||
    s.mem.owners.any fun e => e.2 == BitVec.ofNat 8 (64 + ten) && dieOfPa (e.1 * 2 ^ 21) == die

/-- A level 2 alarm acts on a tenancy (R446): its key and LLC lines are gone, its granules fault, and it is destroyed. -/
def State.stopTenancy (s : State) (ten : Nat) : State :=
  let mine := s.mem.granulesOf ten
  let s := s.modHost fun h => match h.tens.get? ten with
    | some t => { h with tens := h.tens.set ten { t with stopped := true, key := none } }
    | none => h
  (s.modMem fun m => { m with
    moving := m.moving ++ mine.filter fun g => !m.moving.contains g
    llc := m.llc.filter fun e => !inGrans mine (e.1 % 2 ^ 45 * 128) 128
    reps := m.reps.filter fun e => !inGrans mine (e.1 % 2 ^ 45 * 128) 128 }).destroyTenancy ten

/-- A level 3 alarm (R447): every tenancy is stopped, every key is erased, every Zonar port goes LOCKED and IDE streams stop. -/
def State.stopDevice (s : State) : State :=
  let s := s.modLinks fun l => { l with level3 := true }
  let s := s.host.tens.foldl (fun s e => s.stopTenancy e.1) s
  let s := s.modHost fun h => { h with
    spdm := h.spdm.mapVals fun _ (x : Spdm) => { x with pending := none, sessions := [] }
    tens := h.tens.mapVals fun _ (t : Tenancy) => { t with stream := [], ideKey := [] } }
  let erased := fun (d : Dir) => { d with key := 0, salt := 0, old := none, rekey := none, kept := [] }
  (List.range 72).foldl (fun s p => (if (s.links.port p).st = .locked then s else s.lockPort p).modPort p fun x =>
    { x with rx := erased x.rx, tx := erased x.tx, askDue := none, resendDue := none }) s

/-- An alarm is recorded (R448). -/
def State.recordAlarm (s : State) (die sensor level : Nat) : State :=
  s.modLinks fun l => { l with alarms := l.alarms.set (l.count.toNat % 16) ⟨s.chrono, die, sensor, level⟩, count := l.count + 1 }

/-- An alarm is recorded and acts by its level; during boot, one of level 2 or above ends it in RECOVERY (R445 to R450). -/
def State.alarm (s : State) (die sensor level : Nat) : State :=
  let s := s.recordAlarm die sensor level
  let booting := match s.links.boot with | .advancing _ => true | _ => false
  let s := if booting && decide (2 ≤ level) then s.modLinks fun l => { l with boot := .recovery } else s
  if level = 2 then ((s.host.tens.map fun e => e.1).filter fun t => s.onDie t die).foldl (fun s t => s.stopTenancy t) s
  else if level = 3 then s.stopDevice
  else s

/-- A glitch on a die: the third within a second is of level 2 (R445). -/
def State.glitch (s : State) (die sensor : Nat) : State :=
  let l := (die, s.chrono) :: s.links.events.filter fun e => decide (s.chrono < e.2 + 10 ^ 9)
  let n := (l.filter fun e => e.1 == die).length
  (s.modLinks fun x => { x with events := l }).alarm die sensor (if 3 ≤ n then 2 else 1)

/-- What a sensor event does. A mesh breach burns the revocation fuse (R445 to R448). -/
def State.sense (s : State) (a : Sensor) : State :=
  match a with
  | .supplyGlitch d => s.glitch d 1
  | .clockGlitch d => s.glitch d 2
  | .lodestarGlitch c => s.alarm 15 c.toNat 3
  | .temperature d t =>
    if 1250 < t ∨ t < -200 then s.alarm d 3 2 else if 1150 ≤ t then s.alarm d 3 1 else s
  | .meshBreach => (s.alarm 15 4 3).modLinks fun l => { l with revoked := true }
  | .faultInjection => s.alarm 15 5 3

/-- SECURITY_ALARM (R445 to R448): a sensor event. -/
def execSecurityAlarm (a : Sensor) (s : State) : Host.Outcome State Fault Refusal := .next (s.sense a)

/-! ### Boot (R449, R450) -/

/-- A device without power: what its fuses and its flash hold stays; `script`, `tick` and `outbox` are the model's own. -/
def State.unpowered (s : State) (rollback : Table (BitVec 64)) : State :=
  { State.reset with
    host := { HostSt.init with rollback := rollback }
    house := { House.init with flash := s.house.flash, fuses := s.house.fuses }
    links := { Links.init with boot := .off, revoked := s.links.revoked }
    outbox := s.outbox, script := s.script, tick := s.tick, nextId := s.nextId }

/-- The thermometer code, 64 fuses, of a rollback counter that has advanced to a version (R449; notes/assumptions/22.md). -/
def thermometer (version : Nat) : BitVec 64 := BitVec.ofNat 64 (2 ^ min version 64 - 1)

/-- The version a thermometer code stands for: how many of its fuses are blown (R449). -/
def codeLevel (c : BitVec 64) : Nat := ((List.range 64).filter fun i => c.getLsbD i).length

/-- POWER_LOSS (R449): the device stops. A rollback counter that was advancing holds its old or its new value. -/
def execPowerLoss (s : State) : Host.Outcome State Fault Refusal :=
  .next <|
    let r := s.host.rollback
    s.unpowered (match s.links.boot with
      | .advancing ((c, v) :: _) => if s.freeBit (2 ^ 41) then r.set c (thermometer v) else r
      | _ => r)

/-- An image passes both checks of R449: its signatures, and its version against a rollback counter. -/
def imagePasses (b : BootImage) (rollback : Nat) : Bool := b.rsaOk && b.slhOk && decide (rollback ≤ b.version)

/-- A fused remap entry (R428, R435). -/
def fusedEntry (x : BitVec 64) : Remap := ⟨bits x.toNat 29 26, bits x.toNat 25 12, bits x.toNat 11 6, true⟩

/-- The remap tables of a booting device (R428). -/
def House.loadTables (h : House) : House :=
  (distinct ((h.fuses ++ h.flash).map fun e => e.1)).foldl (fun x p => x.modPc p fun c => { c with remap := h.loadTable p }) h

/-- What block 4 measures: the signed configuration record, the partition mode included (R403). -/
def bootRecord (b : BootIn) : Nat := ((b.config.digest * 3 + b.mode.val) * 2 + b.owner.val) * 4096 + b.device.val

/-- The device boots (R449, R450): the images are checked and measured, and the rollback counters begin to advance; a failed check
or an alarm ends the boot in RECOVERY, and an alarm is recorded and acts as at any time (R446 to R448). The mode, the owner and the
number of the device come from the record that passed. `s` is the device before the boot, `t` what its power-on leaves. -/
def State.bootFrom (s t : State) (b : BootIn) : State :=
  let r := s.host.rollback
  let at_ := fun (i : Nat) => codeLevel (r.getD i 0)
  let one := imagePasses b.stage1 (at_ 0)
  let two := one && imagePasses b.cpfw (at_ 1)
  let three := two && imagePasses b.config (at_ 2)
  let measured := fun (t : Table Nat) (i n : Nat) (ok : Bool) => if ok then t.set i n else t
  let d := measured (measured (measured [] 2 b.stage1.digest one) 3 b.cpfw.digest two) 4 (bootRecord b) three
  let versions := [(0, b.stage1.version), (1, b.cpfw.version), (2, b.config.version)]
  let t := t.modHouse fun h => ({ h with fuses := b.fuses.map fun (e : Nat × BitVec 64) => (e.1, fusedEntry e.2) }).loadTables
  let t := t.modMem fun m => { m with owners := b.firmware.foldl (fun t g => if g < granuleCount then t.set g 0x80 else t) m.owners }
  let t := t.modLinks fun l => { l with boot := if three && !l.revoked then .advancing versions else .recovery }
  let t := b.alarms.foldl State.sense t
  t.modHost fun h =>
    if t.links.boot = .recovery then { h with digests := d }
    else { h with digests := d, mode := b.mode, owner := b.owner.val, device := b.device.val }

/-- POWER_ON (R449, R450). -/
def execPowerOn (b : BootIn) (s : State) : Host.Outcome State Fault Refusal :=
  .next <| if s.links.boot = .off then s.bootFrom (s.unpowered s.host.rollback) b else s

/-- The next rollback counter reaches its version; after the last the host ports come up (R449 steps 4 and 5). -/
def State.bootStep (s : State) : State :=
  match s.links.boot with
  | .advancing ((c, v) :: t) =>
    (s.modHost fun h => { h with rollback := h.rollback.set c (thermometer v) }).modLinks fun l => { l with boot := .advancing t }
  | .advancing [] => s.modLinks fun l => { l with boot := .running }
  | _ => s

/-- A device that boots anew without a power cycle: its alarms, with their count, and the chronometer stay (R413, R448;
notes/assumptions/33.md). -/
def State.reboot (s : State) : State :=
  let t := s.unpowered s.host.rollback
  { t with
    chrono := s.chrono
    cp := { t.cp with charged := s.cp.charged }
    house := { t.house with cleared := s.house.cleared }
    links := { t.links with alarms := s.links.alarms, count := s.links.count, events := s.links.events } }

/-- RECOVERY_LOAD (R450): a recovery image goes through the checks of R449; a revoked device never leaves RECOVERY, and one with a level 3
alarm takes no image before its next power cycle (R447). -/
def execRecoveryLoad (b : BootIn) (s : State) : Host.Outcome State Fault Refusal :=
  .next <| if s.links.boot ≠ .recovery ∨ s.links.revoked = true ∨ s.links.level3 = true then s else s.bootFrom s.reboot b

/-! ### Power (R451) -/

/-- Package power or a junction calls for an emergency drop (R451). -/
def Links.tripped (l : Links) : Bool :=
  decide (l.plim * 1100 < l.pkgPower) || l.dieTemp.any fun e => decide (1050 < e.2)

/-- The average package power of the last 1 ms is above PLIM, or a junction above 100 °C: the clock that runs is too high (R451). -/
def Links.overBudget (l : Links) : Bool :=
  (l.samples.length == 100 && decide (l.plim * 100000 < l.samples.sum)) || l.dieTemp.any fun e => decide (1000 < e.2)

/-- A member makes an emergency drop, of as many steps as its readings need, which no rule counts; its limit L follows with the next
revision (R416, R451; notes/assumptions/34.md). -/
def State.trip (s : State) : State :=
  let s := s.merSettle
  if s.mer.isMember then s.dropBy (1 + s.freeNum (2 ^ 42) % 3) else s

/-- TELEMETRY_UPDATE (R425, R451). Powers are in mW. -/
def execTelemetryUpdate (t : Telemetry) (s : State) : Host.Outcome State Fault Refusal :=
  .next <|
    let s := s.modLinks fun l => { l with
      diePower := t.diePower.zipIdx.map fun (e : BitVec 32 × Nat) => (e.2, e.1)
      dieTemp := t.dieTemp.zipIdx.map fun (e : Int × Nat) => (e.2, e.1)
      stackTemp := t.stackTemp.zipIdx.map fun (e : Int × Nat) => (e.2, e.1)
      pkgPower := t.pkgPower, coolant := t.coolant, samples := (t.pkgPower :: l.samples).take 100 }
    let s := s.modHouse fun h => (t.stackTemp.take 8).zipIdx.foldl (fun h e => h.heat e.2 e.1) h
    if s.links.tripped then s.trip else s

/-- A clock can be the highest at which the device stays within its budget, given the readings at the clock that it runs (R451;
notes/assumptions/72.md). -/
def State.fitsBudget (s : State) (mhz : Nat) : Bool :=
  if s.links.overBudget then decide (mhz < s.gclk) else decide (min s.gclk 2250 ≤ mhz)

/-- POWER_LIMIT_REVISION (R406, R451): at most once every 100 µs of group time; the highest clock within the budget enters L. -/
def execPowerLimitRevision (mhz : Nat) (s : State) : Host.Outcome State Fault Refusal :=
  .next <|
    let s := s.merSettle
    if mhz % 25 ≠ 0 ∨ 2250 < mhz ∨ s.gt < s.mer.revised + 100000 ∨ s.fitsBudget mhz = false then s
    else
      let l := s.mer.ownLimit
      let s := s.modMer fun m => { m with power := mhz, revised := s.gt }
      s.limitChanged l s.links.tripped

end Sys2Proof.Machine
end

