-- ==== Sys2Proof/Machine/Agenda.lean ====
section
/-! DEFINITION. What the device does next: the input that has come, the internal steps that can be taken and the cores
that can issue, of which one is taken (notes/assumptions/6.md). -/

namespace Sys2Proof.Machine

/-- The outcome of a step. -/
abbrev Out3 := Host.Outcome State Fault Refusal

/-- A step of the device that can be taken now. -/
abbrev Move := State → Out3

/-- What a step comes to: an outcome, or an instruction that is issued now. -/
inductive Todo where
  | did (o : Out3) | issues (i : Instr) (s : State)

/-- A candidate for the next step. -/
inductive Cand where
  | input (x : Input) | event (m : Move) | core (c : Nat)

/-- The next instruction of core `c` (R23, R70, R78, R360). -/
def State.issueOn (s : State) (c : Nat) : Todo :=
  let s := { s with focus := c }
  match s.issuer with
  | none => .did (.next s)
  | some (k, w, e) =>
    match w.dueTrap e with
    | some r => .did (.next ((s.setWave k (w.dropDue e)).takeTrap k r))
    | none =>
      match s.fetch c w e.pc.toNat with
      | .fault cs v a s => .did (.next (s.fetchFault k e cs v a))
      | .word n s =>
        match decode n with
        | .ok i => .issues i s
        | .error v => .did (execNonInstruction v s)

/-! ### Waves (R25, R36, R39, R158) -/

/-- A move taken on a condition. -/
def movesIf (b : Bool) (m : Move) : List Move := if b then [m] else []

/-- Lanes of a load that land together: those whose data has come, or fewer (R230). -/
def State.landing (s : State) (o : LOp) : Mask :=
  let m := o.ready &&& o.left
  let some_ := m &&& BitVec.ofNat 64 (s.freeNum (2 ^ 43 + o.id))
  if some_ = 0 then m else some_

/-- What can happen to a class L operation. -/
def State.opMoves (s : State) (k : Nat) (w : Wave) (o : LOp) : List Move :=
  let land : Move := execClassLLand k o.id
  let come := (o.ready &&& o.left) != 0
  match o.work with
  | .load _ _ _ => movesIf come (execLoadLand k o.id (s.landing o))
  | .fence _ _ => if o.done then movesIf come land else [execFenceComplete k o.id]
  | .cpy _ => movesIf come (execCpyComplete k o.id)
  | .wtest _ _ => [land]
  | .launch _ _ _ =>
    let first := w.lops.find? fun x => (match x.work with | .launch _ _ _ => !x.done | _ => false)
    movesIf (come || first.map (·.id) == some o.id) land
  | _ => movesIf come land

/-- What can happen to a waiting entry of its own accord. -/
def State.entryMoves (s : State) (k : Nat) (e : Entry) : List Move :=
  match e.st with
  | .wait (.sleep t) => movesIf (decide (t ≤ s.chrono)) (execSleepWake k (lowestLane e.mask))
  | .wait (.ticket _ _ (some d)) => movesIf (decide (d ≤ s.chrono)) (execLwaitTimeout k (lowestLane e.mask))
  | .wait (.promise _ _ _ t) => movesIf (decide (t ≤ s.chrono)) (execPwaitWake k (lowestLane e.mask))
  | _ => []

/-- A suspension or a trap wait may come to its end. -/
def Wave.mayResume (w : Wave) : Bool :=
  match w.trapWait, w.susp with
  | some t, _ => t.answer.isSome
  | none, some x => x.kind != .trying
  | none, none => false

/-- What can happen to a wave. -/
def State.waveMoves (s : State) (k : Nat) (w : Wave) : List Move :=
  movesIf w.mayResume (execSuspendResume k) ++
    movesIf (w.heldSince.isSome && (s.coreAt (coreOfWave k)).run == some k &&
      (match w.susp with | some x => x.kind != .trying | none => true)) (execSuspendSave k) ++
    w.lops.flatMap (s.opMoves k w) ++ w.frontier.flatMap (s.entryMoves k) ++
    (match w.handler with | some h => h.held.flatMap (s.entryMoves k) | none => []) ++
    (w.rdvq.map fun (p : RdvPend) => execRdvarrApply k p.id) ++
    movesIf (w.frontier.isEmpty && w.handler.isNone) (execWaveEnd k)

/-! ### Memory and other devices (R198 to R207, R220, R300) -/

/-- What can happen to an access. -/
def State.accMoves (s : State) (a : Acc) : List Move :=
  let visible := movesIf (a.due s.chrono) (if a.kind = .store then execStoreVisible a.id else execAtomicPerform a.id)
  match a.stage, a.tgt with
  | .travelling, .dev _ => [execHomeAccess a.id]
  | .travelling, .scratch .. => [execHomeAccess a.id]
  | .travelling, .param .. => [execHomeAccess a.id]
  | .pending _, _ => execWctReturn a.id :: visible
  | .performed _, _ => [execWctReturn a.id]
  | .returned _, _ => visible
  | _, _ => []

/-- A request has come to its deadline. -/
def State.pastDue (s : State) (r : SlotRef) : Bool :=
  decide ((s.rslot r).deadline ≤ s.chrono) || decide ((s.rslot r).gdeadline ≤ s.gtime)

/-- What the memory system and the reply slots can do. -/
def State.memMoves (s : State) : List Move :=
  s.mem.accs.flatMap s.accMoves ++
    ((s.busySlots.filter s.pastDue).map fun r => execRequestTimeout r) ++
    (s.mem.peers.map fun (p : PeerIn) => execRemoteAck p.key) ++
    ((s.mem.invals.filter fun x => !x.dropped || !(s.invalWaits x || s.house.pwInval == some x.id)).map fun (x : Inval) =>
      execTlbinvComplete x.id) ++
    movesIf s.windowSettled execPwChangeDone

/-! ### Quads (R252, R283 to R288) -/

/-- What can happen to an array instruction. -/
def State.aopMoves (s : State) (q : Nat) (o : AOp) : List Move :=
  match (s.quadAt q).aopDue o with
  | none => []
  | some _ =>
    match o.kind, o.stage with
    | .zero _, _ => [execZeroingDone q o.id]
    | .mma .., .filling _ => if o.aborted then [execOpComplete q o.id] else [execFillComplete q o.id]
    | .mmag .., .filling _ => if o.aborted then [execOpComplete q o.id] else [execFillComplete q o.id]
    | .aload .., .filling _ => if o.aborted then [execBankTransferDone q o.id] else [execFillComplete q o.id]
    | .mma .., _ => [execOpComplete q o.id]
    | .mmag .., _ => [execOpComplete q o.id]
    | _, _ => [execBankTransferDone q o.id]

/-- What can happen in a quad. -/
def State.quadMoves (s : State) (q : Nat) (x : Quad) : List Move :=
  (x.copies.map fun (c : Copy) => if c.accepted then execCopyComplete q c.id else execTceAccept q c.id) ++
    x.ops.flatMap (s.aopMoves q) ++ movesIf x.visiting (execArbiterVisit q)

/-! ### The command processor (R327 to R357, R381 to R385) -/

/-- What can happen at the head of a queue. -/
def State.queueMoves (s : State) (key : Nat) (x : Queue) : List Move :=
  let part := key / 64
  let q := key % 64
  if x.qstat ≠ 0 ∨ x.count = 0 then []
  else
    match s.head part q with
    | .idle => []
    | .desc d e =>
      if headKind d e = 1 then [execChainRecord part q] else if headKind d e = 2 then [execChainReplay part q] else [execAdmitDesc part q]
    | _ => [execAdmitDesc part q]

/-- What can happen to a launch. -/
def State.launchMoves (s : State) (lid : Nat) (l : Launch) : List Move :=
  movesIf (!l.opened) (execLaunchOpen lid) ++ movesIf (l.offered.isSome || (s.offerOf l).isSome) (execCoreReserve lid) ++
    movesIf (s.launchDone lid l || (s.launchOver lid l && !(s.postedOwners lid).isEmpty)) (execLaunchRetire lid)

/-- What can happen to a context. -/
def ctxMoves (n : Nat) (c : Ctx) : List Move :=
  movesIf (!c.prqPend.isEmpty) (execPrqPost n) ++
    (match c.st with
     | .live => []
     | .stopping => [execPreemptSaveDone n]
     | .draining => [execPreemptSaveDone n]
     | .saved => [execContextRestore n]
     | .killing => [execKillComplete n])

/-- The dispatch that comes next (R334, R336). -/
def State.dispatchMoves (s : State) : List Move :=
  if s.offers.isEmpty then []
  else
    match s.preemptNext, s.choose.2 with
    | some _, _ => [execGroupDispatch 0]
    | none, some (_, _, d) => [execGroupDispatch d]
    | none, none => [execGroupDispatch 0]

/-- What the command processor can do. -/
def State.cpMoves (s : State) : List Move :=
  s.cp.queues.flatMap (fun e => s.queueMoves e.1 e.2) ++ s.cp.launches.flatMap (fun e => s.launchMoves e.1 e.2) ++
    ((s.cp.pubs.filter fun p => !p.held).map fun (p : Pub) => execWpPublish p.id) ++ s.dispatchMoves ++
    s.cp.ctxs.flatMap (fun e => ctxMoves e.1 e.2) ++
    ((s.groups.filter fun e => s.groupDrained e.1).map fun (e : Nat × Group) => execGroupExit e.1) ++
    movesIf (decide (s.cp.charged + 1000 ≤ s.chrono)) execDeficitCharge ++
    ((s.cores.filter fun e => e.2.pendSplit.isSome).map fun (e : Nat × Core) => execCoreSplitApply e.1) ++
    ((distinct (s.waves.map fun e => coreOfWave e.1)).filter fun c => (s.coreAt c).run.isNone && (s.nextWave c).isSome).map
      fun c => execRunStart c

/-! ### Meridian, housekeeping, links and boot -/

/-- What the Meridian engine can do of its own accord (R405, R410 to R418). -/
def State.merMoves (s : State) : List Move :=
  let m := s.mer
  if m.st = .none then []
  else
    movesIf (m.st == .local_ || m.times.any (fun t => decide (t ≤ s.gt)) || (m.openBr.isSome && decide (m.dropEnd ≤ s.gt)))
      execMeridianEffective ++
    movesIf (m.isMember && decide (m.nextBeat ≤ s.gt)) execHeartbeatTimer ++
    ((s.others.filter fun n => m.isMember && s.silentNow n).map fun n => execSilenceTimeout n) ++
    movesIf (m.isMember && s.allSilent) execGroupSilence ++ movesIf m.epochFrom.isSome execEpochTimeout ++
    movesIf (m.st == .joining && m.aligned.isSome) execJoinListenEnd ++
    movesIf (m.st == .joining && decide (m.since + 200000 ≤ s.gt)) execFoundGroup

/-- A refresh of a pseudo-channel has ended. -/
def PChan.ended (x : PChan) (t : Nat) : Bool :=
  x.banks.any (fun e => match e.2.busy with | some n => decide (n ≤ t) | none => false) ||
    (match x.forced with | some (some n) => decide (n ≤ t) | _ => false)

/-- What memory housekeeping can do (R425 to R429). -/
def State.houseMoves (s : State) : List Move :=
  if s.chrono = 0 ∨ s.links.boot = .off then []
  else
    (((List.range 2048).filter fun p => decide (s.slotDue p ≤ s.now8)).map fun p => execRefreshSlot p) ++
      ((s.house.pcs.filter fun e => e.2.ended s.now8).map fun (e : Nat × PChan) => execRefreshDone e.1) ++
      movesIf (decide (s.house.cleared + 32000000 ≤ s.chrono)) execTrackerClear ++
      ((s.house.pend.filter fun e => !e.2.isEmpty).map fun (e : Nat × List (Nat × Remap)) => execRemapPersist e.1) ++
      ((s.house.pcs.filter fun e => e.2.blocked.isSome).map fun (e : Nat × PChan) => execRemapReloadDone e.1) ++
      ((s.house.pcs.filter fun e => e.2.fix.any fun f => e.2.open_ s.now8 f.bank).map fun (e : Nat × PChan) =>
        fun (s : State) => .next (s.scrubFix e.1)) ++
      ((s.house.pwAccs.filter fun w => !w.moved && (s.house.pc w.pc).open_ s.now8 w.bank).map fun (w : WinAcc) =>
        fun (s : State) => .next (s.serveWindow w))

/-- What can happen to a Zonar port (R299, R442, R443). -/
def State.portMoves (s : State) (p : Nat) (x : Port) : List Move :=
  (match x.hold with
   | none => []
   | some t => if s.gtime < t then [] else if x.open_ then [execPortReopen p] else [execPlaneRehash p]) ++
    movesIf x.tx.stopped.isSome (execRekeyDeadline p false) ++ movesIf x.rx.stopped.isSome (execRekeyDeadline p true)

/-- What links, boot and tenancies can do. -/
def State.linkMoves (s : State) : List Move :=
  s.links.ports.flatMap (fun e => s.portMoves e.1 e.2) ++
    (match s.links.boot with | .advancing _ => [fun s => .next s.bootStep] | _ => []) ++
    ((s.host.tens.filter fun e => s.tenancyGone e.1).map fun (e : Nat × Tenancy) => fun (s : State) => .next (s.settleTenancy e.1))

/-- The internal steps that can be taken now. -/
def State.events (s : State) : List Move :=
  s.waves.flatMap (fun e => s.waveMoves e.1 e.2) ++ s.memMoves ++ s.quads.flatMap (fun e => s.quadMoves e.1 e.2) ++ s.cpMoves ++
    s.merMoves ++ s.houseMoves ++ s.linkMoves

/-! ### The next step -/

/-- The cores that can issue an instruction now: their wave's run is open and nothing holds it. -/
def State.issuers (s : State) : List Nat :=
  (s.cores.filter fun e =>
    match e.2.run with
    | none => false
    | some k =>
      match s.waveAt? k with
      | none => false
      | some w => w.run.isOpen && !w.frontier.isEmpty && w.trapWait.isNone &&
        (match w.susp with | none => true | some x => x.kind == .trying)).map (·.1)

/-- Everything that can happen next. -/
def State.candidates (s : State) : List Cand :=
  (match s.script with
   | x :: _ => if x.time ≤ s.chrono then [Cand.input x] else []
   | [] => []) ++ s.events.map Cand.event ++ s.issuers.map Cand.core

/-- Carry out a candidate. -/
def State.carry (s : State) : Cand → Todo
  | .input x => .issues x.ev { s with script := s.script.tail }
  | .event m => .did (m s)
  | .core c => s.issueOn c

/-- What happens next: one of the candidates; with none, time passes. -/
def State.todo (s : State) : Todo :=
  match s.candidates with
  | [] => .did (.next s)
  | [c] => s.carry c
  | l => match l[Config.pick s.tick % l.length]? with
    | some c => s.carry c
    | none => .did (.next s)

/-- A step takes time (R9, R454), and ends the watches that what it did has met (R335). -/
def State.passTime (s : State) : State := { s with chrono := s.chrono + Config.dt s.tick, tick := s.tick + 1 }.unwatch

/-- A step's outcome once its time has passed. -/
def timed : Out3 → Out3
  | .next s => .next s.passTime
  | .fault f => .fault f
  | .refused r => .refused r

end Sys2Proof.Machine
end

