-- ==== Sys2Proof/Machine/Dispatch.lean ====
section
/-! DEFINITION. The dispatch: one arm per constructor of `Instr`, each one call of the instruction's meaning. -/

namespace Sys2Proof.Machine

/-- The meaning of an instruction or a step of the device. -/
def exec (i : Instr) (s : State) : Host.Outcome State Fault Refusal :=
  match i with
  | .iaddBv f => Sys2Proof.Machine.execIaddBv f s
  | .iaddXv f => Sys2Proof.Machine.execIaddXv f s
  | .isubBv f => Sys2Proof.Machine.execIsubBv f s
  | .isubXv f => Sys2Proof.Machine.execIsubXv f s
  | .iaddcBv f => Sys2Proof.Machine.execIaddcBv f s
  | .iaddcXv f => Sys2Proof.Machine.execIaddcXv f s
  | .imulBv f => Sys2Proof.Machine.execImulBv f s
  | .imulXv f => Sys2Proof.Machine.execImulXv f s
  | .imulhBv f => Sys2Proof.Machine.execImulhBv f s
  | .imulhXv f => Sys2Proof.Machine.execImulhXv f s
  | .imadBv f => Sys2Proof.Machine.execImadBv f s
  | .imadXv f => Sys2Proof.Machine.execImadXv f s
  | .iminBv f => Sys2Proof.Machine.execIminBv f s
  | .iminXv f => Sys2Proof.Machine.execIminXv f s
  | .imaxBv f => Sys2Proof.Machine.execImaxBv f s
  | .imaxXv f => Sys2Proof.Machine.execImaxXv f s
  | .iabsBv f => Sys2Proof.Machine.execIabsBv f s
  | .iabsXv f => Sys2Proof.Machine.execIabsXv f s
  | .idot4Bv f => Sys2Proof.Machine.execIdot4Bv f s
  | .idot4Xv f => Sys2Proof.Machine.execIdot4Xv f s
  | .andBv f => Sys2Proof.Machine.execAndBv f s
  | .andXv f => Sys2Proof.Machine.execAndXv f s
  | .orBv f => Sys2Proof.Machine.execOrBv f s
  | .orXv f => Sys2Proof.Machine.execOrXv f s
  | .xorBv f => Sys2Proof.Machine.execXorBv f s
  | .xorXv f => Sys2Proof.Machine.execXorXv f s
  | .andnBv f => Sys2Proof.Machine.execAndnBv f s
  | .andnXv f => Sys2Proof.Machine.execAndnXv f s
  | .lop3Xv f => Sys2Proof.Machine.execLop3Xv f s
  | .shlBv f => Sys2Proof.Machine.execShlBv f s
  | .shlXv f => Sys2Proof.Machine.execShlXv f s
  | .shrBv f => Sys2Proof.Machine.execShrBv f s
  | .shrXv f => Sys2Proof.Machine.execShrXv f s
  | .sarBv f => Sys2Proof.Machine.execSarBv f s
  | .sarXv f => Sys2Proof.Machine.execSarXv f s
  | .rotlBv f => Sys2Proof.Machine.execRotlBv f s
  | .rotlXv f => Sys2Proof.Machine.execRotlXv f s
  | .fshrBv f => Sys2Proof.Machine.execFshrBv f s
  | .fshrXv f => Sys2Proof.Machine.execFshrXv f s
  | .bfeBv f => Sys2Proof.Machine.execBfeBv f s
  | .bfeXv f => Sys2Proof.Machine.execBfeXv f s
  | .bfiBv f => Sys2Proof.Machine.execBfiBv f s
  | .bfiXv f => Sys2Proof.Machine.execBfiXv f s
  | .popcBv f => Sys2Proof.Machine.execPopcBv f s
  | .popcXv f => Sys2Proof.Machine.execPopcXv f s
  | .clzBv f => Sys2Proof.Machine.execClzBv f s
  | .clzXv f => Sys2Proof.Machine.execClzXv f s
  | .ctzBv f => Sys2Proof.Machine.execCtzBv f s
  | .ctzXv f => Sys2Proof.Machine.execCtzXv f s
  | .brevBv f => Sys2Proof.Machine.execBrevBv f s
  | .brevXv f => Sys2Proof.Machine.execBrevXv f s
  | .prmtBv f => Sys2Proof.Machine.execPrmtBv f s
  | .prmtXv f => Sys2Proof.Machine.execPrmtXv f s
  | .icmpXv f => Sys2Proof.Machine.execIcmpXv f s
  | .selBv f => Sys2Proof.Machine.execSelBv f s
  | .selXv f => Sys2Proof.Machine.execSelXv f s
  | .movBv f => Sys2Proof.Machine.execMovBv f s
  | .movXv f => Sys2Proof.Machine.execMovXv f s
  | .leaBv f => Sys2Proof.Machine.execLeaBv f s
  | .leaXv f => Sys2Proof.Machine.execLeaXv f s
  | .iadd3Bv f => Sys2Proof.Machine.execIadd3Bv f s
  | .iadd3Xv f => Sys2Proof.Machine.execIadd3Xv f s
  | .isadBv f => Sys2Proof.Machine.execIsadBv f s
  | .isadXv f => Sys2Proof.Machine.execIsadXv f s
  | .iadd2Bv f => Sys2Proof.Machine.execIadd2Bv f s
  | .iadd2Xv f => Sys2Proof.Machine.execIadd2Xv f s
  | .psetXv f => Sys2Proof.Machine.execPsetXv f s
  | .pmovXv f => Sys2Proof.Machine.execPmovXv f s
  | .icvtXv f => Sys2Proof.Machine.execIcvtXv f s
  | .faddBv f => Sys2Proof.Machine.execFaddBv f s
  | .faddXv f => Sys2Proof.Machine.execFaddXv f s
  | .fsubBv f => Sys2Proof.Machine.execFsubBv f s
  | .fsubXv f => Sys2Proof.Machine.execFsubXv f s
  | .fmulBv f => Sys2Proof.Machine.execFmulBv f s
  | .fmulXv f => Sys2Proof.Machine.execFmulXv f s
  | .ffmaBv f => Sys2Proof.Machine.execFfmaBv f s
  | .ffmaXv f => Sys2Proof.Machine.execFfmaXv f s
  | .fminBv f => Sys2Proof.Machine.execFminBv f s
  | .fminXv f => Sys2Proof.Machine.execFminXv f s
  | .fmaxBv f => Sys2Proof.Machine.execFmaxBv f s
  | .fmaxXv f => Sys2Proof.Machine.execFmaxXv f s
  | .fcmpXv f => Sys2Proof.Machine.execFcmpXv f s
  | .frndBv f => Sys2Proof.Machine.execFrndBv f s
  | .frndXv f => Sys2Proof.Machine.execFrndXv f s
  | .fclassBv f => Sys2Proof.Machine.execFclassBv f s
  | .fclassXv f => Sys2Proof.Machine.execFclassXv f s
  | .frcpBv f => Sys2Proof.Machine.execFrcpBv f s
  | .frcpXv f => Sys2Proof.Machine.execFrcpXv f s
  | .frsqBv f => Sys2Proof.Machine.execFrsqBv f s
  | .frsqXv f => Sys2Proof.Machine.execFrsqXv f s
  | .fsqrtBv f => Sys2Proof.Machine.execFsqrtBv f s
  | .fsqrtXv f => Sys2Proof.Machine.execFsqrtXv f s
  | .fexp2Bv f => Sys2Proof.Machine.execFexp2Bv f s
  | .fexp2Xv f => Sys2Proof.Machine.execFexp2Xv f s
  | .flog2Bv f => Sys2Proof.Machine.execFlog2Bv f s
  | .flog2Xv f => Sys2Proof.Machine.execFlog2Xv f s
  | .fsinBv f => Sys2Proof.Machine.execFsinBv f s
  | .fsinXv f => Sys2Proof.Machine.execFsinXv f s
  | .fcosBv f => Sys2Proof.Machine.execFcosBv f s
  | .fcosXv f => Sys2Proof.Machine.execFcosXv f s
  | .ftanhBv f => Sys2Proof.Machine.execFtanhBv f s
  | .ftanhXv f => Sys2Proof.Machine.execFtanhXv f s
  | .fdivBv f => Sys2Proof.Machine.execFdivBv f s
  | .fdivXv f => Sys2Proof.Machine.execFdivXv f s
  | .fcvtXv f => Sys2Proof.Machine.execFcvtXv f s
  | .ftoiXv f => Sys2Proof.Machine.execFtoiXv f s
  | .itofXv f => Sys2Proof.Machine.execItofXv f s
  | .npackXv f => Sys2Proof.Machine.execNpackXv f s
  | .nunpkXv f => Sys2Proof.Machine.execNunpkXv f s
  | .fdot2Xv f => Sys2Proof.Machine.execFdot2Xv f s
  | .fscaleBv f => Sys2Proof.Machine.execFscaleBv f s
  | .fscaleXv f => Sys2Proof.Machine.execFscaleXv f s
  | .xshfBv f => Sys2Proof.Machine.execXshfBv f s
  | .xshfXv f => Sys2Proof.Machine.execXshfXv f s
  | .xrotBv f => Sys2Proof.Machine.execXrotBv f s
  | .xrotXv f => Sys2Proof.Machine.execXrotXv f s
  | .xbflyBv f => Sys2Proof.Machine.execXbflyBv f s
  | .xbflyXv f => Sys2Proof.Machine.execXbflyXv f s
  | .xbcastBv f => Sys2Proof.Machine.execXbcastBv f s
  | .xbcastXv f => Sys2Proof.Machine.execXbcastXv f s
  | .xredBv f => Sys2Proof.Machine.execXredBv f s
  | .xredXv f => Sys2Proof.Machine.execXredXv f s
  | .xscanBv f => Sys2Proof.Machine.execXscanBv f s
  | .xscanXv f => Sys2Proof.Machine.execXscanXv f s
  | .ballotBv f => Sys2Proof.Machine.execBallotBv f s
  | .ballotXv f => Sys2Proof.Machine.execBallotXv f s
  | .voteBv f => Sys2Proof.Machine.execVoteBv f s
  | .voteXv f => Sys2Proof.Machine.execVoteXv f s
  | .matchBv f => Sys2Proof.Machine.execMatchBv f s
  | .matchXv f => Sys2Proof.Machine.execMatchXv f s
  | .electBv f => Sys2Proof.Machine.execElectBv f s
  | .electXv f => Sys2Proof.Machine.execElectXv f s
  | .nopBs rb => Sys2Proof.Machine.execNopBs rb s
  | .nopXt f => Sys2Proof.Machine.execNopXt f s
  | .braBb f => Sys2Proof.Machine.execBraBb f s
  | .bruBb f => Sys2Proof.Machine.execBruBb f s
  | .jmpiBs rb a pr => Sys2Proof.Machine.execJmpiBs rb a pr s
  | .jmpiXt f => Sys2Proof.Machine.execJmpiXt f s
  | .callBs rb d ofs => Sys2Proof.Machine.execCallBs rb d ofs s
  | .callXt f => Sys2Proof.Machine.execCallXt f s
  | .retBs rb a => Sys2Proof.Machine.execRetBs rb a s
  | .retXt f => Sys2Proof.Machine.execRetXt f s
  | .jmarkBs rb j ofs => Sys2Proof.Machine.execJmarkBs rb j ofs s
  | .jmarkXt f => Sys2Proof.Machine.execJmarkXt f s
  | .joinBs rb j => Sys2Proof.Machine.execJoinBs rb j s
  | .joinXt f => Sys2Proof.Machine.execJoinXt f s
  | .exitBs rb => Sys2Proof.Machine.execExitBs rb s
  | .exitXt f => Sys2Proof.Machine.execExitXt f s
  | .waitcBs rb l c x => Sys2Proof.Machine.execWaitcBs rb l c x s
  | .waitcXt f => Sys2Proof.Machine.execWaitcXt f s
  | .lwaitBs rb t ns => Sys2Proof.Machine.execLwaitBs rb t ns s
  | .lwaitXt f => Sys2Proof.Machine.execLwaitXt f s
  | .sleepBs rb ns => Sys2Proof.Machine.execSleepBs rb ns s
  | .sleepXt f => Sys2Proof.Machine.execSleepXt f s
  | .yieldBs rb => Sys2Proof.Machine.execYieldBs rb s
  | .yieldXt f => Sys2Proof.Machine.execYieldXt f s
  | .setprioBs rb pr => Sys2Proof.Machine.execSetprioBs rb pr s
  | .setprioXt f => Sys2Proof.Machine.execSetprioXt f s
  | .trapBs rb code => Sys2Proof.Machine.execTrapBs rb code s
  | .trapXt f => Sys2Proof.Machine.execTrapXt f s
  | .brkptBs rb code => Sys2Proof.Machine.execBrkptBs rb code s
  | .brkptXt f => Sys2Proof.Machine.execBrkptXt f s
  | .ldBm f => Sys2Proof.Machine.execLdBm f s
  | .ldXm f => Sys2Proof.Machine.execLdXm f s
  | .stBm f => Sys2Proof.Machine.execStBm f s
  | .stXm f => Sys2Proof.Machine.execStXm f s
  | .ldnfBm f => Sys2Proof.Machine.execLdnfBm f s
  | .ldnfXm f => Sys2Proof.Machine.execLdnfXm f s
  | .atomXm f => Sys2Proof.Machine.execAtomXm f s
  | .atomfXm f => Sys2Proof.Machine.execAtomfXm f s
  | .redXm f => Sys2Proof.Machine.execRedXm f s
  | .redfXm f => Sys2Proof.Machine.execRedfXm f s
  | .casXm f => Sys2Proof.Machine.execCasXm f s
  | .fenceXm f => Sys2Proof.Machine.execFenceXm f s
  | .prefBm f => Sys2Proof.Machine.execPrefBm f s
  | .prefXm f => Sys2Proof.Machine.execPrefXm f s
  | .cinvBm f => Sys2Proof.Machine.execCinvBm f s
  | .cinvXm f => Sys2Proof.Machine.execCinvXm f s
  | .cdemoteBm f => Sys2Proof.Machine.execCdemoteBm f s
  | .cdemoteXm f => Sys2Proof.Machine.execCdemoteXm f s
  | .pgreqXm f => Sys2Proof.Machine.execPgreqXm f s
  | .mcredXm f => Sys2Proof.Machine.execMcredXm f s
  | .sldBm f => Sys2Proof.Machine.execSldBm f s
  | .sldXm f => Sys2Proof.Machine.execSldXm f s
  | .sstBm f => Sys2Proof.Machine.execSstBm f s
  | .sstXm f => Sys2Proof.Machine.execSstXm f s
  | .tcopyXt f => Sys2Proof.Machine.execTcopyXt f s
  | .tstoreXt f => Sys2Proof.Machine.execTstoreXt f s
  | .tgatherXt f => Sys2Proof.Machine.execTgatherXt f s
  | .cpyXt f => Sys2Proof.Machine.execCpyXt f s
  | .cpywaitBs rb t n => Sys2Proof.Machine.execCpywaitBs rb t n s
  | .cpywaitXt f => Sys2Proof.Machine.execCpywaitXt f s
  | .rdvinitXt f => Sys2Proof.Machine.execRdvinitXt f s
  | .rdvarrXt f => Sys2Proof.Machine.execRdvarrXt f s
  | .rdvexpXt f => Sys2Proof.Machine.execRdvexpXt f s
  | .rdvwaitXt f => Sys2Proof.Machine.execRdvwaitXt f s
  | .rdvtestXt f => Sys2Proof.Machine.execRdvtestXt f s
  | .pwaitXt f => Sys2Proof.Machine.execPwaitXt f s
  | .tmapXt f => Sys2Proof.Machine.execTmapXt f s
  | .tunmapXt f => Sys2Proof.Machine.execTunmapXt f s
  | .tqueryXt f => Sys2Proof.Machine.execTqueryXt f s
  | .aclaimXt f => Sys2Proof.Machine.execAclaimXt f s
  | .arelXt f => Sys2Proof.Machine.execArelXt f s
  | .azeroXt f => Sys2Proof.Machine.execAzeroXt f s
  | .mmaXt f => Sys2Proof.Machine.execMmaXt f s
  | .mmagXt f => Sys2Proof.Machine.execMmagXt f s
  | .awaitBs rb b => Sys2Proof.Machine.execAwaitBs rb b s
  | .awaitXt f => Sys2Proof.Machine.execAwaitXt f s
  | .ardXt f => Sys2Proof.Machine.execArdXt f s
  | .adrainXt f => Sys2Proof.Machine.execAdrainXt f s
  | .aloadXt f => Sys2Proof.Machine.execAloadXt f s
  | .oprdyBs rb => Sys2Proof.Machine.execOprdyBs rb s
  | .oprdyXt f => Sys2Proof.Machine.execOprdyXt f s
  | .wpubXt f => Sys2Proof.Machine.execWpubXt f s
  | .wtestXt f => Sys2Proof.Machine.execWtestXt f s
  | .launchXt f => Sys2Proof.Machine.execLaunchXt f s
  | .lparmXt f => Sys2Proof.Machine.execLparmXt f s
  | .movsXt f => Sys2Proof.Machine.execMovsXt f s
  | .movswXt f => Sys2Proof.Machine.execMovswXt f s
  | .tretBs rb => Sys2Proof.Machine.execTretBs rb s
  | .tretXt f => Sys2Proof.Machine.execTretXt f s
  | .tlbinvXt f => Sys2Proof.Machine.execTlbinvXt f s
  | .perfrdXt f => Sys2Proof.Machine.execPerfrdXt f s
  | .dbgmarkBs rb code => Sys2Proof.Machine.execDbgmarkBs rb code s
  | .dbgmarkXt f => Sys2Proof.Machine.execDbgmarkXt f s
  | .haltwXt f => Sys2Proof.Machine.execHaltwXt f s
  | .syscallBs rb code => Sys2Proof.Machine.execSyscallBs rb code s
  | .syscallXt f => Sys2Proof.Machine.execSyscallXt f s
  | .pair f => Sys2Proof.Machine.execPair f s
  | .runStart core => Sys2Proof.Machine.execRunStart core s
  | .suspendResume wave => Sys2Proof.Machine.execSuspendResume wave s
  | .suspendSave wave => Sys2Proof.Machine.execSuspendSave wave s
  | .classLLand wave op => Sys2Proof.Machine.execClassLLand wave op s
  | .sleepWake wave lane => Sys2Proof.Machine.execSleepWake wave lane s
  | .lwaitTimeout wave lane => Sys2Proof.Machine.execLwaitTimeout wave lane s
  | .pwaitWake wave lane => Sys2Proof.Machine.execPwaitWake wave lane s
  | .waveEnd wave => Sys2Proof.Machine.execWaveEnd wave s
  | .groupExit group => Sys2Proof.Machine.execGroupExit group s
  | .homeAccess acc => Sys2Proof.Machine.execHomeAccess acc s
  | .storeVisible acc => Sys2Proof.Machine.execStoreVisible acc s
  | .atomicPerform acc => Sys2Proof.Machine.execAtomicPerform acc s
  | .wctReturn acc => Sys2Proof.Machine.execWctReturn acc s
  | .loadLand wave op lanes => Sys2Proof.Machine.execLoadLand wave op lanes s
  | .fenceComplete wave op => Sys2Proof.Machine.execFenceComplete wave op s
  | .remoteRequest r => Sys2Proof.Machine.execRemoteRequest r s
  | .remoteAck id => Sys2Proof.Machine.execRemoteAck id s
  | .remoteReply r => Sys2Proof.Machine.execRemoteReply r s
  | .requestTimeout slot => Sys2Proof.Machine.execRequestTimeout slot s
  | .hostCompletion acc body => Sys2Proof.Machine.execHostCompletion acc body s
  | .mcredApply r => Sys2Proof.Machine.execMcredApply r s
  | .mcredAck ack seq failed => Sys2Proof.Machine.execMcredAck ack seq failed s
  | .translationWalk core va => Sys2Proof.Machine.execTranslationWalk core va s
  | .prqPost ctx => Sys2Proof.Machine.execPrqPost ctx s
  | .tlbinvComplete id => Sys2Proof.Machine.execTlbinvComplete id s
  | .tceAccept quad copy => Sys2Proof.Machine.execTceAccept quad copy s
  | .copyComplete quad copy => Sys2Proof.Machine.execCopyComplete quad copy s
  | .cpyComplete wave op => Sys2Proof.Machine.execCpyComplete wave op s
  | .rdvarrApply wave op => Sys2Proof.Machine.execRdvarrApply wave op s
  | .fillComplete quad op => Sys2Proof.Machine.execFillComplete quad op s
  | .arbiterVisit quad => Sys2Proof.Machine.execArbiterVisit quad s
  | .opComplete quad op => Sys2Proof.Machine.execOpComplete quad op s
  | .zeroingDone quad op => Sys2Proof.Machine.execZeroingDone quad op s
  | .bankTransferDone quad op => Sys2Proof.Machine.execBankTransferDone quad op s
  | .doorbellWrite port q stream val => Sys2Proof.Machine.execDoorbellWrite port q stream val s
  | .admitDesc part q => Sys2Proof.Machine.execAdmitDesc part q s
  | .chainRecord part q => Sys2Proof.Machine.execChainRecord part q s
  | .chainReplay part q => Sys2Proof.Machine.execChainReplay part q s
  | .launchOpen launch => Sys2Proof.Machine.execLaunchOpen launch s
  | .wpPublish pub => Sys2Proof.Machine.execWpPublish pub s
  | .groupDispatch die => Sys2Proof.Machine.execGroupDispatch die s
  | .coreReserve launch => Sys2Proof.Machine.execCoreReserve launch s
  | .deficitCharge => Sys2Proof.Machine.execDeficitCharge s
  | .launchRetire launch => Sys2Proof.Machine.execLaunchRetire launch s
  | .preemptSaveDone ctx => Sys2Proof.Machine.execPreemptSaveDone ctx s
  | .contextRestore ctx => Sys2Proof.Machine.execContextRestore ctx s
  | .killComplete ctx => Sys2Proof.Machine.execKillComplete ctx s
  | .coreSplitApply core => Sys2Proof.Machine.execCoreSplitApply core s
  | .status r => Sys2Proof.Machine.execStatus r s
  | .takeover r => Sys2Proof.Machine.execTakeover r s
  | .tenCreate r ten policy => Sys2Proof.Machine.execTenCreate r ten policy s
  | .tenDestroy r ten => Sys2Proof.Machine.execTenDestroy r ten s
  | .grant r ten gran => Sys2Proof.Machine.execGrant r ten gran s
  | .reclaim r ten gran => Sys2Proof.Machine.execReclaim r ten gran s
  | .ways r ten ways => Sys2Proof.Machine.execWays r ten ways s
  | .ctxCreate r ctx desc => Sys2Proof.Machine.execCtxCreate r ctx desc s
  | .ctxKill r ctx => Sys2Proof.Machine.execCtxKill r ctx s
  | .queueCreate r q cfg => Sys2Proof.Machine.execQueueCreate r q cfg s
  | .queueReset r q => Sys2Proof.Machine.execQueueReset r q s
  | .pageRespRetry r ctx seq => Sys2Proof.Machine.execPageRespRetry r ctx seq s
  | .pageRespDeny r ctx seq => Sys2Proof.Machine.execPageRespDeny r ctx seq s
  | .tlbInv r ctx all va pages => Sys2Proof.Machine.execTlbInv r ctx all va pages s
  | .windowSet r win entry => Sys2Proof.Machine.execWindowSet r win entry s
  | .coreCfgDrain r arg => Sys2Proof.Machine.execCoreCfgDrain r arg s
  | .coreCfgForce r arg => Sys2Proof.Machine.execCoreCfgForce r arg s
  | .hostRequest r => Sys2Proof.Machine.execHostRequest r s
  | .tdiConfigChange port ten => Sys2Proof.Machine.execTdiConfigChange port ten s
  | .getVersion port => Sys2Proof.Machine.execGetVersion port s
  | .getCapabilities port => Sys2Proof.Machine.execGetCapabilities port s
  | .negotiateAlgorithms port => Sys2Proof.Machine.execNegotiateAlgorithms port s
  | .getDigests port => Sys2Proof.Machine.execGetDigests port s
  | .getCertificate port chain => Sys2Proof.Machine.execGetCertificate port chain s
  | .challenge port => Sys2Proof.Machine.execChallenge port s
  | .getMeasurements port sess index => Sys2Proof.Machine.execGetMeasurements port sess index s
  | .keyExchange port mlkem ecdh => Sys2Proof.Machine.execKeyExchange port mlkem ecdh s
  | .finish port ok => Sys2Proof.Machine.execFinish port ok s
  | .keyUpdate port sess => Sys2Proof.Machine.execKeyUpdate port sess s
  | .endSession port sess => Sys2Proof.Machine.execEndSession port sess s
  | .ideKm port sess ten stream => Sys2Proof.Machine.execIdeKm port sess ten stream s
  | .registerWrite port off val => Sys2Proof.Machine.execRegisterWrite port off val s
  | .mctlEnSet port => Sys2Proof.Machine.execMctlEnSet port s
  | .mctlEnClear port => Sys2Proof.Machine.execMctlEnClear port s
  | .mctlLeave port => Sys2Proof.Machine.execMctlLeave port s
  | .mlimitWrite port val => Sys2Proof.Machine.execMlimitWrite port val s
  | .heartbeat m => Sys2Proof.Machine.execHeartbeat m s
  | .announce m => Sys2Proof.Machine.execAnnounce m s
  | .drop m => Sys2Proof.Machine.execDrop m s
  | .join m => Sys2Proof.Machine.execJoin m s
  | .leave m => Sys2Proof.Machine.execLeave m s
  | .silent m => Sys2Proof.Machine.execSilent m s
  | .heartbeatTimer => Sys2Proof.Machine.execHeartbeatTimer s
  | .meridianEffective => Sys2Proof.Machine.execMeridianEffective s
  | .silenceTimeout n => Sys2Proof.Machine.execSilenceTimeout n s
  | .groupSilence => Sys2Proof.Machine.execGroupSilence s
  | .epochTimeout => Sys2Proof.Machine.execEpochTimeout s
  | .joinListenEnd => Sys2Proof.Machine.execJoinListenEnd s
  | .foundGroup => Sys2Proof.Machine.execFoundGroup s
  | .flitReceive port f => Sys2Proof.Machine.execFlitReceive port f s
  | .replayRequest port ctr => Sys2Proof.Machine.execReplayRequest port ctr s
  | .planeRehash port => Sys2Proof.Machine.execPlaneRehash port s
  | .reattest port rsaOk slhOk => Sys2Proof.Machine.execReattest port rsaOk slhOk s
  | .portReopen port => Sys2Proof.Machine.execPortReopen port s
  | .rekey port rx => Sys2Proof.Machine.execRekey port rx s
  | .rekeyDeadline port rx => Sys2Proof.Machine.execRekeyDeadline port rx s
  | .securityAlarm a => Sys2Proof.Machine.execSecurityAlarm a s
  | .powerOn b => Sys2Proof.Machine.execPowerOn b s
  | .recoveryLoad b => Sys2Proof.Machine.execRecoveryLoad b s
  | .telemetryUpdate t => Sys2Proof.Machine.execTelemetryUpdate t s
  | .powerLimitRevision mhz => Sys2Proof.Machine.execPowerLimitRevision mhz s
  | .refreshSlot pc => Sys2Proof.Machine.execRefreshSlot pc s
  | .refreshDone pc => Sys2Proof.Machine.execRefreshDone pc s
  | .stackTemperature stack deciC => Sys2Proof.Machine.execStackTemperature stack deciC s
  | .hbmAccess pc a => Sys2Proof.Machine.execHbmAccess pc a s
  | .trackerClear => Sys2Proof.Machine.execTrackerClear s
  | .remapPersist stack => Sys2Proof.Machine.execRemapPersist stack s
  | .remapReloadDone pc => Sys2Proof.Machine.execRemapReloadDone pc s
  | .scrubRead pc a => Sys2Proof.Machine.execScrubRead pc a s
  | .sramError e => Sys2Proof.Machine.execSramError e s
  | .hkpwWrite port val => Sys2Proof.Machine.execHkpwWrite port val s
  | .pwChangeDone => Sys2Proof.Machine.execPwChangeDone s
  | .nonInstruction opc => Sys2Proof.Machine.execNonInstruction opc s
  | .tdispRequest port sess ten rq => Sys2Proof.Machine.execTdispRequest port sess ten rq s
  | .portLinkChange port up => Sys2Proof.Machine.execPortLinkChange port up s
  | .powerLoss => Sys2Proof.Machine.execPowerLoss s
  | .meridianInvalidType m => Sys2Proof.Machine.execMeridianInvalidType m s

end Sys2Proof.Machine
end

