-- ==== Sys2Proof/Machine/Step.lean ====
section
/-! DEFINITION. One step of the device. -/

namespace Sys2Proof.Machine

/-- One step: what `State.todo` says is next happens, and time passes. -/
def step (s : State) : Host.Outcome State Fault Refusal :=
  match s.todo with
  | .did o => timed o
  | .issues i t => timed (exec i t)

/-- `s` with an instruction of `nbits` bits where `step` fetches next (notes/assumptions/2.md). -/
def State.withFetchWord (s : State) (nbits w : Nat) : State := s.place nbits w

end Sys2Proof.Machine
end

