-- ==== Sys2Proof/Safety.lean ====
section
/-! DEFINITION. What claims mean by a safe step and a good state: the conditions under which an instruction issues without
a trap, what its operands and results are, and what an instruction leaves as it was. -/

namespace Sys2Proof.Machine

/-! ### Steps and memory -/

/-- The step of an instruction completes: it answers a next state. -/
def Completes (i : Instr) (s : State) : Prop := ∃ t, exec i s = .next t

/-- Device memory keeps its canonical form. -/
def State.memWf (s : State) : Prop := s.mem.bytes.wf = true

/-- What the step takes next: its one candidate, or the one that is picked. -/
def State.chosen (s : State) : Option Cand :=
  match s.candidates with
  | [] => none
  | [c] => some c
  | l => l[Config.pick s.tick % l.length]?

/-! ### An instruction that may issue (R16, R22, R78) -/

/-- The instruction `i`, whose plan is `pl`, is next in wave `k`, and none of the checks of R78 stops it: the wave's
run is open on its core, its issuing entry is `e`, what must land before it has landed, no trap is due there, the run has a slot
left, the encoding is legal, the mode allows it, and the registers it names exist. -/
structure Ready (i : Instr) (pl : Plan) (s : State) (k : Nat) (w : Wave) (e : Entry) : Prop where
  issuer : s.issuer = some (k, w, e)
  home : coreOfWave k = s.focus
  isOpen : w.run.isOpen = true
  landed : s.overdue (coreOfWave k) (slotOf (s.coreAt (coreOfWave k)) w pl).t = []
  due : w.dueTrap e = none
  fence : w.fenceDue e = none
  room : w.run.slots < 24
  legal : bad i = none
  mode : privileged i = true → w.handler.isSome = true
  regs : regBad w (pl.srcs ++ pl.dsts) = none

/-- How the instruction stands as it issues: its wave, entry, executing lanes, length, RB and issue slot. -/
def issOf (i : Instr) (pl : Plan) (s : State) (k : Nat) (w : Wave) (e : Entry) : Iss :=
  ⟨k, w, e, s.execMask w e pl.p pl.pn, byteLen i, rbOf i, slotOf (s.coreAt (coreOfWave k)) w pl⟩

/-- The run ends after an instruction with RB (R21). -/
def State.closeIf (s : State) (rb : Bool) (k : Nat) : State := if rb then s.endRun k else s

/-- Reading the sources raises no DEADREAD trap (R34). -/
def readsOk (w : Wave) (x : Mask) (srcs : List Opnd) : Prop := w.strict = true → deadRead w x srcs = none

/-- No flag raised in the lanes of `x` is enabled (R141, R142). -/
def flagsOk (w : Wave) (x : Mask) (fl : List FFlags) : Prop := (enabledFlags w.enables x fl).1 = 0

/-! ### Registers as they stand (R4, R15, R32, R34) -/

/-- A lane of a vector register; a dead register reads as zero. -/
def Wave.vLane (w : Wave) (n L : Nat) : Word := if w.dead.contains n then 0 else (w.v.getD n []).getD L 0

/-- A scalar register; a dead register reads as zero. -/
def Wave.sReg (w : Wave) (n : Nat) : DWord := if w.dead.contains (128 + n) then 0 else w.s.getD n 0

/-- The lanes of a predicate; p0 reads as ones. -/
def Wave.pMask (w : Wave) (n : Nat) : Mask := if n = 0 then fullMask else w.p.getD n 0

/-- The codes of the registers that a source kills (R32). -/
def Opnd.kills (o : Opnd) : List Nat :=
  if !o.kill then []
  else
    match o.sel with
    | .v n => if o.rd.wide then [n.val, n.val + 1] else [n.val]
    | .s n => [128 + n.val]
    | _ => []

/-- The codes of the registers that an instruction's sources kill. -/
def killsOf (srcs : List Opnd) : List Nat := srcs.flatMap Opnd.kills

/-! ### What an instruction leaves as it was -/

/-- A pending operation without the marks of R38. -/
def LOp.bare (o : LOp) : LOp := { o with writes := o.writes.map fun x => { x with met := 0 } }

/-- Nothing outside wave `k` has changed but the issue cycle and pipes of its core: every byte of device memory and of every
partition, every other wave and core, the matrix array, the copy engines, the queues, launches and contexts, the hosts'
state, the Meridian registers, housekeeping, the links, and what the device has sent. -/
structure State.SameOutside (s t : State) (k : Nat) : Prop where
  bytes : ∀ a, Memory.get t.mem.bytes a = Memory.get s.mem.bytes a
  scratch : ∀ g x y, s.groupAt? g = some x → t.groupAt? g = some y → ∀ a, Memory.get y.scratch a = Memory.get x.scratch a
  mem : t.mem = s.mem
  groups : t.groups = s.groups
  quads : t.quads = s.quads
  cp : t.cp = s.cp
  host : t.host = s.host
  mer : t.mer = s.mer
  house : t.house = s.house
  links : t.links = s.links
  outbox : t.outbox = s.outbox
  script : t.script = s.script
  chrono : t.chrono = s.chrono
  waves : ∀ j, j ≠ k → t.waveAt? j = s.waveAt? j
  cores : ∀ c, c ≠ coreOfWave k → t.coreAt c = s.coreAt c
  core : t.coreAt (coreOfWave k) = { s.coreAt (coreOfWave k) with
    cycle := (t.coreAt (coreOfWave k)).cycle, pipeA := (t.coreAt (coreOfWave k)).pipeA,
    pipeB := (t.coreAt (coreOfWave k)).pipeB, pipeS := (t.coreAt (coreOfWave k)).pipeS }

/-- The entry past an instruction of `len` bytes. -/
def Entry.past (e : Entry) (len : Nat) : Entry := { e with pc := e.pc + BitVec.ofNat 64 len }

/-- The lanes of `m` wait for `o` at the instruction of `len` bytes (R158, R161). -/
def Entry.waiting (e : Entry) (m : Mask) (o : WaitObj) (len : Nat) : Entry :=
  { e with mask := m, starve := 0, st := .wait o, len := len }

/-- The lanes outside `m` stand past the instruction (R161). -/
def Entry.others (e : Entry) (m : Mask) (len : Nat) : Entry :=
  entryAt (e.mask &&& ~~~m) (e.pc + BitVec.ofNat 64 len) e.prio

/-- One more issue slot of the wave's run is used, and its performance counters have counted it and its stalls (R22, R373). -/
structure Wave.OneSlot (w w' : Wave) : Prop where
  slots : w'.run.slots = w.run.slots + 1
  isOpen : w'.run.isOpen = w.run.isOpen
  count : w'.perf.getD 1 0 = w.perf.getD 1 0 + 1
  perf : ∀ c, c ∉ [1, 3, 4, 5] → w'.perf.getD c 0 = w.perf.getD c 0

/-- The wave has issued one instruction and stands at the entries `fr`: of its fields only the registers, levels and due
cycles, the flags of WSTAT and the pending operations may have changed. -/
structure Wave.Ran (w w' : Wave) (fr : List Entry) : Prop where
  frontier : w'.frontier = fr
  slot : w.OneSlot w'
  wstat : w'.wstat &&& w.wstat = w.wstat
  rest : w' = { w with v := w'.v, s := w'.s, p := w'.p, dead := w'.dead, up := w'.up, time := w'.time, wstat := w'.wstat,
                       lops := w'.lops, perf := w'.perf, run := w'.run, frontier := w'.frontier, susp := none }

/-- The wave has issued one instruction and stands at the entries `fr`, and nothing else of it has changed. -/
structure Wave.Moved (w w' : Wave) (fr : List Entry) : Prop where
  frontier : w'.frontier = fr
  slot : w.OneSlot w'
  rest : w' = { w with frontier := w'.frontier, run := w'.run, perf := w'.perf, susp := none }

/-- The wave has issued one instruction that only adds to its pending operations, and stands at the entries `fr`: no
register (but those killed), predicate or special register has changed, and no unfinished operation is lost. -/
structure Wave.Queued (w w' : Wave) (fr : List Entry) : Prop where
  frontier : w'.frontier = fr
  slots : w'.run.slots = w.run.slots + 1
  kept : ∀ q ∈ w.lops, q.finished = false → q ∈ w'.lops
  rest : w' = { w with dead := w'.dead, up := w'.up, time := w'.time, wstat := w'.wstat, lops := w'.lops, perf := w'.perf,
                       run := w'.run, frontier := w'.frontier, susp := none }

/-- The instruction leaves the predicates as they were. -/
def Wave.SamePreds (w w' : Wave) : Prop := ∀ n, n < 16 → w'.pMask n = w.pMask n

/-- The instruction leaves the registers as they were, but for those it kills, which read as zero. -/
def Wave.SameRegs (w w' : Wave) (kills : List Nat) : Prop :=
  (∀ n L, n < 128 → L < 64 → w'.vLane n L = if kills.contains n then 0 else w.vLane n L) ∧
  (∀ n, n < 64 → w'.sReg n = if kills.contains (128 + n) then 0 else w.sReg n)

/-! ### Class A and W operations -/

/-- The predicate of each class A or W instruction that writes a register, and its operation. -/
def aluOf (s : State) : Instr → Option (Fin 16 × Bool × Alu)
  | .iaddBv f => some (0, false, intBv .iadd f)
  | .iaddXv f => some (f.p, f.pn, intXv .iadd f)
  | .isubBv f => some (0, false, intBv .isub f)
  | .isubXv f => some (f.p, f.pn, intXv .isub f)
  | .iaddcBv f => some (0, false, intBv .iaddc f)
  | .iaddcXv f => some (f.p, f.pn, intXv .iaddc f)
  | .imulBv f => some (0, false, intBv .imul f)
  | .imulXv f => some (f.p, f.pn, intXv .imul f)
  | .imulhBv f => some (0, false, intBv .imulh f)
  | .imulhXv f => some (f.p, f.pn, intXv .imulh f)
  | .imadBv f => some (0, false, intBv .imad f)
  | .imadXv f => some (f.p, f.pn, intXv .imad f)
  | .iminBv f => some (0, false, intBv .imin f)
  | .iminXv f => some (f.p, f.pn, intXv .imin f)
  | .imaxBv f => some (0, false, intBv .imax f)
  | .imaxXv f => some (f.p, f.pn, intXv .imax f)
  | .iabsBv f => some (0, false, intBv1 .iabs f)
  | .iabsXv f => some (f.p, f.pn, intXv .iabs f)
  | .idot4Bv f => some (0, false, intBv .idot4 f)
  | .idot4Xv f => some (f.p, f.pn, intXv .idot4 f)
  | .andBv f => some (0, false, intBv .and f)
  | .andXv f => some (f.p, f.pn, intXv .and f)
  | .orBv f => some (0, false, intBv .or f)
  | .orXv f => some (f.p, f.pn, intXv .or f)
  | .xorBv f => some (0, false, intBv .xor f)
  | .xorXv f => some (f.p, f.pn, intXv .xor f)
  | .andnBv f => some (0, false, intBv .andn f)
  | .andnXv f => some (f.p, f.pn, intXv .andn f)
  | .shlBv f => some (0, false, intBv .shl f)
  | .shlXv f => some (f.p, f.pn, intXv .shl f)
  | .shrBv f => some (0, false, intBv .shr f)
  | .shrXv f => some (f.p, f.pn, intXv .shr f)
  | .sarBv f => some (0, false, intBv .sar f)
  | .sarXv f => some (f.p, f.pn, intXv .sar f)
  | .rotlBv f => some (0, false, intBv .rotl f)
  | .rotlXv f => some (f.p, f.pn, intXv .rotl f)
  | .fshrBv f => some (0, false, intBv .fshr f)
  | .fshrXv f => some (f.p, f.pn, intXv .fshr f)
  | .bfeBv f => some (0, false, intBv .bfe f)
  | .bfeXv f => some (f.p, f.pn, intXv .bfe f)
  | .bfiBv f => some (0, false, intBv .bfi f)
  | .bfiXv f => some (f.p, f.pn, intXv .bfi f)
  | .popcBv f => some (0, false, intBv1 .popc f)
  | .popcXv f => some (f.p, f.pn, intXv .popc f)
  | .clzBv f => some (0, false, intBv1 .clz f)
  | .clzXv f => some (f.p, f.pn, intXv .clz f)
  | .ctzBv f => some (0, false, intBv1 .ctz f)
  | .ctzXv f => some (f.p, f.pn, intXv .ctz f)
  | .brevBv f => some (0, false, intBv1 .brev f)
  | .brevXv f => some (f.p, f.pn, intXv .brev f)
  | .prmtBv f => some (0, false, intBv .prmt f)
  | .prmtXv f => some (f.p, f.pn, intXv .prmt f)
  | .selBv f => some (0, false, intBv .sel f)
  | .selXv f => some (f.p, f.pn, intXv .sel f)
  | .movBv f => some (0, false, intBv1 .mov f)
  | .movXv f => some (f.p, f.pn, intXv .mov f)
  | .leaBv f => some (0, false, intBv .lea f)
  | .leaXv f => some (f.p, f.pn, intXv .lea f)
  | .iadd3Bv f => some (0, false, intBv .iadd3 f)
  | .iadd3Xv f => some (f.p, f.pn, intXv .iadd3 f)
  | .isadBv f => some (0, false, intBv .isad f)
  | .isadXv f => some (f.p, f.pn, intXv .isad f)
  | .iadd2Bv f => some (0, false, intBv .iadd2 f)
  | .iadd2Xv f => some (f.p, f.pn, intXv .iadd2 f)
  | .lop3Xv f => some (f.p, f.pn, lop3Alu f)
  | .icvtXv f => some (f.p, f.pn, icvtAlu f)
  | .faddBv f => some (0, false, fpBv .fadd f s)
  | .faddXv f => some (f.p, f.pn, fpXv .fadd f s)
  | .fsubBv f => some (0, false, fpBv .fsub f s)
  | .fsubXv f => some (f.p, f.pn, fpXv .fsub f s)
  | .fmulBv f => some (0, false, fpBv .fmul f s)
  | .fmulXv f => some (f.p, f.pn, fpXv .fmul f s)
  | .ffmaBv f => some (0, false, fpBv .ffma f s)
  | .ffmaXv f => some (f.p, f.pn, fpXv .ffma f s)
  | .fminBv f => some (0, false, fpBv .fmin f s)
  | .fminXv f => some (f.p, f.pn, fpXv .fmin f s)
  | .fmaxBv f => some (0, false, fpBv .fmax f s)
  | .fmaxXv f => some (f.p, f.pn, fpXv .fmax f s)
  | .frndBv f => some (0, false, fpBv1 .frnd f s)
  | .frndXv f => some (f.p, f.pn, fpXv .frnd f s)
  | .fclassBv f => some (0, false, fpBv1 .fclass f s)
  | .fclassXv f => some (f.p, f.pn, fpXv .fclass f s)
  | .fdot2Xv f => some (f.p, f.pn, fpXv .fdot2 f s)
  | .fscaleBv f => some (0, false, fpBv .fscale f s)
  | .fscaleXv f => some (f.p, f.pn, fpXv .fscale f s)
  | .fcvtXv f => some (f.p, f.pn, fcvtAlu f s)
  | .ftoiXv f => some (f.p, f.pn, ftoiAlu f s)
  | .itofXv f => some (f.p, f.pn, itofAlu f s)
  | .npackXv f => some (f.p, f.pn, npackAlu f)
  | .nunpkXv f => some (f.p, f.pn, nunpkAlu f)
  | _ => none

/-- The result of the operation in a lane, 64 bits. -/
def Alu.lane (a : Alu) (s : State) (w : Wave) (L : Nat) : DWord := (a.f (a.srcs.map fun o => s.readOpnd w a.lit o L)).1

/-- The part of a result that register `n` takes: bits [31:0] in the destination, [63:32] in the second register of a pair. -/
def destPart (d : Dst) (wide : Bool) (n : Nat) : Option Nat :=
  match d with
  | .v r => if n = r.val then some 0 else if wide ∧ n = r.val + 1 then some 32 else none
  | _ => none

/-- A lane of a latch or slot is as it was: its value, and whether it is valid. -/
def Latch.SameLane (l l' : Latch) (L : Nat) : Prop := inMask l'.valid L = inMask l.valid L ∧ l'.lane L = l.lane L

/-- The predicate of each instruction that writes a predicate, and its operation (R130). -/
def predOf (s : State) : Instr → Option (Fin 16 × Bool × Pred)
  | .icmpXv f => some (f.p, f.pn, icmpPred f)
  | .fcmpXv f => some (f.p, f.pn, fcmpPred f s)
  | .psetXv f => some (f.p, f.pn, psetPred f)
  | .pmovXv f => match f.dir with
    | .toPred pd a => some (f.p, f.pn, pmovPred f.lit pd a)
    | .toReg _ _ => none
  | _ => none

/-- The result of a predicate operation in a lane. -/
def Pred.lane (a : Pred) (s : State) (w : Wave) (L : Nat) : Bool :=
  (a.f L (a.srcs.map fun o => s.readOpnd w a.lit o L) (a.preds.map fun n => s.readP w n L)).1

/-! ### Class L operations -/

/-- The predicate of each class L function and the function (R148). -/
def funOf (s : State) : Instr → Option (Fin 16 × Bool × Fun)
  | .frcpBv f => some (0, false, sfBv1 .frcp f s)
  | .frcpXv f => some (f.p, f.pn, sfXv .frcp f s)
  | .frsqBv f => some (0, false, sfBv1 .frsq f s)
  | .frsqXv f => some (f.p, f.pn, sfXv .frsq f s)
  | .fsqrtBv f => some (0, false, sfBv1 .fsqrt f s)
  | .fsqrtXv f => some (f.p, f.pn, sfXv .fsqrt f s)
  | .fexp2Bv f => some (0, false, sfBv1 .fexp2 f s)
  | .fexp2Xv f => some (f.p, f.pn, sfXv .fexp2 f s)
  | .flog2Bv f => some (0, false, sfBv1 .flog2 f s)
  | .flog2Xv f => some (f.p, f.pn, sfXv .flog2 f s)
  | .fsinBv f => some (0, false, sfBv1 .fsin f s)
  | .fsinXv f => some (f.p, f.pn, sfXv .fsin f s)
  | .fcosBv f => some (0, false, sfBv1 .fcos f s)
  | .fcosXv f => some (f.p, f.pn, sfXv .fcos f s)
  | .ftanhBv f => some (0, false, sfBv1 .ftanh f s)
  | .ftanhXv f => some (f.p, f.pn, sfXv .ftanh f s)
  | .fdivBv f => some (0, false, sfBv .fdiv f s)
  | .fdivXv f => some (f.p, f.pn, sfXv .fdiv f s)
  | _ => none

/-- The result of a class L function in a lane, with its flags. -/
def Fun.lane (a : Fun) (s : State) (w : Wave) (L : Nat) : DWord × FFlags := a.f (a.srcs.map fun o => s.readOpnd w a.lit o L)

/-- The cross-lane instructions as they are read (R174). -/
def xlOf : Instr → Option Xl1
  | .xshfBv f => xlBv .xshf (.xshfBv f) f
  | .xshfXv f => xlXv .xshf (.xshfXv f) f
  | .xrotBv f => xlBv .xrot (.xrotBv f) f
  | .xrotXv f => xlXv .xrot (.xrotXv f) f
  | .xbflyBv f => xlBv .xbfly (.xbflyBv f) f
  | .xbflyXv f => xlXv .xbfly (.xbflyXv f) f
  | .xbcastBv f => xlBv .xbcast (.xbcastBv f) f
  | .xbcastXv f => xlXv .xbcast (.xbcastXv f) f
  | .xredBv f => xlBv1 .xred (.xredBv f) f
  | .xredXv f => xlXv .xred (.xredXv f) f
  | .xscanBv f => xlBv1 .xscan (.xscanBv f) f
  | .xscanXv f => xlXv .xscan (.xscanXv f) f
  | .ballotBv f => (xspecOf (.ballotBv f)).map fun sp => ⟨0, false, sp, none, [], f.pa.val, none⟩
  | .ballotXv f => xlPred (.ballotXv f) f
  | .voteBv f => (xspecOf (.voteBv f)).map fun sp => ⟨0, false, sp, none, [], f.pa.val, none⟩
  | .voteXv f => xlPred (.voteXv f) f
  | .matchBv f => xlBv1 .match (.matchBv f) f
  | .matchXv f => xlXv .match (.matchXv f) f
  | .electBv f => (xspecOf (.electBv f)).map fun sp => ⟨0, false, sp, none, [], 0, none⟩
  | .electXv f => xlPred (.electXv f) f
  | _ => none

/-- The part of an exchange's result that vector register `n` takes (R177). -/
def XSpec.part (x : XSpec) (n : Nat) : Option Nat :=
  match x.op with
  | .inl .match => destPart x.d true n
  | .inl _ => destPart x.d x.ty.wide n
  | .inr _ => none

/-- What an exchange among the lanes of `m` gives (R176, R177). -/
def Xl1.result (x : Xl1) (s : State) (w : Wave) (m : Mask) : XResult :=
  exchange x.spec m m m (s.operandIn w x.lit x.srcs.head? m) (s.operandIn w x.lit (x.srcs[1]?) m) (s.predMask w x.pa) w.flush

/-! ### Control instructions -/

/-- What a control instruction does. -/
inductive Ctl where
  | nop | yield | setprio (pr : Fin 4) | sleep (ns : Nat) | waitc (l c x : Nat) | lwait (t ns : Nat) | cpywait (t n : Nat)
  | await_ (b : Nat) (sd : Option (Fin 64)) | jmark (j : Nat) (ofs : DWord) | join (j : Nat) | exit | tret | oprdy
  | trap (c : Cause) (addr : Nat) | jump (a : Src) (prio : Option (Fin 4)) | call (d : Dst) (ofs : DWord)

/-- The plan and the operation of each control instruction, in its base form and in XT. -/
def ctlOf : Instr → Option (Plan × Ctl)
  | .nopBs _ => some (scalarPlan, .nop)
  | .nopXt _ => some (scalarPlan, .nop)
  | .yieldBs _ => some (plainPlan, .yield)
  | .yieldXt _ => some (plainPlan, .yield)
  | .setprioBs _ pr => some (scalarPlan, .setprio pr)
  | .setprioXt f => some (scalarPlan, .setprio (prioOf f.e8.toNat))
  | .sleepBs _ ns => some (plainPlan, .sleep ns.toNat)
  | .sleepXt f => some (plainPlan, .sleep f.imm.toNat)
  | .waitcBs _ l c x => some (plainPlan, .waitc l.val c.val x.val)
  | .waitcXt f => some (plainPlan, .waitc (bits f.imm.toNat 5 0) (bits f.imm.toNat 9 6) (bits f.imm.toNat 15 10))
  | .lwaitBs _ t ns => some (plainPlan, .lwait t.val ns.toNat)
  | .lwaitXt f => some (xtPlan f [] [] .none, .lwait (f.e8.toNat % 4) f.imm.toNat)
  | .cpywaitBs _ t n => some (plainPlan, .cpywait t.val n.val)
  | .cpywaitXt f => some (plainPlan, .cpywait (bits f.e8.toNat 1 0) (bits f.imm.toNat 5 0))
  | .awaitBs _ b => some (plainPlan, .await_ b.val none)
  | .awaitXt f => some (basePlan [] (dstNamed f.d true) .none, .await_ (bankOf f) (match f.d with | .s n => some n | _ => none))
  | .jmarkBs _ j ofs => some (scalarPlan, .jmark j.val (wordOfs ofs))
  | .jmarkXt f => some (xtPlan f [] [] .scalar, .jmark (f.e8.toNat % 4) (f.imm.signExtend 64))
  | .joinBs _ j => some (plainPlan, .join j.val)
  | .joinXt f => some (xtPlan f [] [] .none, .join (f.e8.toNat % 4))
  | .exitBs _ => some (plainPlan, .exit)
  | .exitXt f => some (xtPlan f [] [] .none, .exit)
  | .tretBs _ => some (plainPlan, .tret)
  | .tretXt _ => some (plainPlan, .tret)
  | .oprdyBs _ => some (plainPlan, .oprdy)
  | .oprdyXt _ => some (plainPlan, .oprdy)
  | .trapBs _ code => some (plainPlan, .trap .syscall (65536 + code.toNat))
  | .trapXt f => some (xtPlan f [] [] .none, .trap .syscall (65536 + f.imm.toNat % 65536))
  | .brkptBs _ code => some (plainPlan, .trap .brkpt code.toNat)
  | .brkptXt f => some (xtPlan f [] [] .none, .trap .brkpt (f.imm.toNat % 65536))
  | .syscallBs _ code => some (plainPlan, .trap .syscall code.toNat)
  | .syscallXt f => some (xtPlan f [] [] .none, .trap .syscall (f.imm.toNat % 65536))
  | .jmpiBs _ a pr => some (basePlan [targetSrc a] [] (readPipe a), .jump a (some pr))
  | .jmpiXt f => some (xtPlan f [targetSrc f.a] [] (readPipe f.a), .jump f.a (some (prioOf f.e8.toNat)))
  | .retBs _ a => some (basePlan [targetSrc a] [] (readPipe a), .jump a none)
  | .retXt f => some (xtPlan f [targetSrc f.a] [] (readPipe f.a), .jump f.a none)
  | .callBs _ d ofs => some (basePlan [] (dstNamed d true) (callPipe d), .call d (wordOfs ofs))
  | .callXt f => some (xtPlan f [] (dstNamed f.d true) (callPipe f.d), .call f.d (f.imm.signExtend 64))
  | _ => none

/-- A handler whose last live lane has gone ends; otherwise the run ends (R364). -/
def State.leave (s : State) (k : Nat) (w : Wave) : State :=
  if w.handler.isSome && w.liveHandler == 0 then s.leaveHandler k w.tretLanes else s.endRun k

/-- The handler of the wave's context, 0 when there is none (R358). -/
def State.handlerOf (s : State) (w : Wave) : Nat := ((s.ctxAt? w.ctx).map Ctx.handler).getD 0

/-- The wave `w'` has entered the handler at `h` from the entry `e` of `w`, `slots` issue slots into its run, with the trap
`r` (R361, R362): the trap registers hold what the trap says, the upper levels, the slot count and the other entries are
kept for TRET, and a new run of the trapping lanes starts at the handler. -/
structure Wave.Entered (w w' : Wave) (e : Entry) (slots h : Nat) (r : TrapRec) : Prop where
  cause : w'.trapcause = r.causeWord
  pc : w'.trappc = r.pc
  addr : w'.trapaddr = r.addr
  mask : w'.trapmask = r.mask
  ret : w'.retpc = r.ret
  run : w'.traprun = BitVec.ofNat 64 (slots + (if r.newRun then 32 else 0))
  saved : w'.handler = some ⟨w.up, slots, w.frontier.tail, e.prio, e.starve, e.mask, e.report, e.parkedOn⟩
  frontier : w'.frontier = [⟨BitVec.ofNat 64 h, e.mask, e.prio, 0, .ready, 0, []⟩]
  levels : w'.up = Upper.none
  newRun : w'.run = ⟨true, 0, 0⟩
  rest : w' = { w with trapcause := w'.trapcause, trappc := w'.trappc, trapaddr := w'.trapaddr, trapmask := w'.trapmask,
                       retpc := w'.retpc, traprun := w'.traprun, handler := w'.handler, frontier := w'.frontier,
                       up := w'.up, run := w'.run, perf := w'.perf, susp := none, trapWait := none }

/-! ### Memory instructions -/

/-- The memory instructions with accesses, as they are read (R55, R59, R60). -/
def accessOf : Instr → Option MemI
  | .ldBm f => some (memBm .ld f)
  | .ldXm f => some (memXm .ld f)
  | .stBm f => some (memBm .st f)
  | .stXm f => some (memXm .st f)
  | .ldnfBm f => some (memBm .ldnf f)
  | .ldnfXm f => some (memXm .ldnf f)
  | .atomXm f => some (memXm .atom f)
  | .atomfXm f => some (memXm .atomf f)
  | .redXm f => some (memXm .red f)
  | .redfXm f => some (memXm .redf f)
  | .casXm f => some (memXm .cas f)
  | .mcredXm f => some (memXm .mcred f)
  | .sldBm f => some (memBm .sld f)
  | .sldXm f => some (memXm .sld f)
  | .sstBm f => some (memBm .sst f)
  | .sstXm f => some (memXm .sst f)
  | _ => none

/-- The hints and PGREQ: how each is read, its plan, and what it does with a line (R233, R239). -/
def hintOf : Instr → Option (MemI × Plan × Option (Iss → Nat → State → State))
  | .prefBm f => some (memHint .pref f, (memHint .pref f).plan, some (prefAct 0))
  | .prefXm f => some (memXm .pref f, { (memXm .pref f).plan with dsts := [] }, some (prefAct f.cls.val))
  | .cinvBm f => some (memHint .cinv f, (memHint .cinv f).plan, some cinvAct)
  | .cinvXm f => some (memXm .cinv f, { (memXm .cinv f).plan with dsts := [] }, some cinvAct)
  | .cdemoteBm f => some (memHint .cdemote f, (memHint .cdemote f).plan, some cdemoteAct)
  | .cdemoteXm f => some (memXm .cdemote f, { (memXm .cdemote f).plan with dsts := [] }, some cdemoteAct)
  | .pgreqXm f => some (memXm .pgreq f, { (memXm .pgreq f).plan with dsts := [] }, none)
  | _ => none

/-- The checks of the access of every lane that performs one (R185, R228). -/
def MemI.checks (m : MemI) (u : Iss) (s : State) : State × Except (LaneRes × Nat) (List (Nat × Option Parts)) :=
  s.checkLanes u m.op.want m.op.priv (m.op == .ldnf) (m.accepts (s.swred u.w)) m.sz.bytes
    ((lanesIn (m.lanes u.exec)).map fun L => (L, (m.addr s u.w L).toNat))

/-- A target of this device: a partition, device memory or a parameter copy. -/
def Target.isLocal : Target → Bool
  | .scratch .. => true
  | .dev _ => true
  | .param .. => true
  | _ => false

/-- The line of another device that a target lies in, if it lies in one. -/
def Target.farLine : Target → Option (Bool × Nat × Nat × Nat)
  | .remote p w o => some (false, p, w, o / 128)
  | .mcast p w o => some (true, p, w, o / 128)
  | _ => none

/-- No byte of device memory or of a partition differs. -/
structure State.SameMemory (s t : State) : Prop where
  bytes : ∀ a, Memory.get t.mem.bytes a = Memory.get s.mem.bytes a
  scratch : ∀ g x y, s.groupAt? g = some x → t.groupAt? g = some y → ∀ a, Memory.get y.scratch a = Memory.get x.scratch a

/-- Beside the wave `k`, what an access or a translation does not touch: every other wave, the launches, queues and contexts,
the hosts' state, the Meridian registers, housekeeping and the chronometer; and no byte of memory differs. -/
structure State.SameElsewhere (s t : State) (k : Nat) : Prop where
  memory : s.SameMemory t
  waves : ∀ j, j ≠ k → t.waveAt? j = s.waveAt? j
  cp : t.cp = s.cp
  host : t.host = s.host
  mer : t.mer = s.mer
  house : t.house = s.house
  chrono : t.chrono = s.chrono

/-- The bytes that the part of lane `L` at `off`, of `n` bytes, sends (R225, R236). -/
def MemI.sent (m : MemI) (s : State) (w : Wave) (L off n : Nat) : List Byte :=
  if m.op.sends then (if m.op == .cas then m.data s w L else ((m.data s w L).drop off).take n) else []

/-- Nothing that is accepted is due to become visible: the steps that make it so have been taken (R204). -/
def State.Settled (s : State) : Prop := ∀ a ∈ s.mem.accs, a.due s.chrono = false

/-- The lanes of `m` stand READY past the instruction at which `e` waited (R161). -/
def Wave.Passed (w' : Wave) (e : Entry) (m : Mask) : Prop :=
  ∀ L, L < 64 → inMask m L = true →
    ∃ e' ∈ w'.frontier, inMask e'.mask L = true ∧ e'.st = .ready ∧ e'.pc = e.pc + BitVec.ofNat 64 e.len

/-! ### Completion -/

/-- The instruction completes: before its run may close with RB, the state and its wave are as `P` says. -/
def Issues (i : Instr) (s : State) (k : Nat) (P : State → Wave → Prop) : Prop :=
  ∃ (t : State) (w' : Wave), exec i s = .next (t.closeIf (rbOf i) k) ∧ t.waveAt? k = some w' ∧ P t w'

/-- One class L operation more is pending in `w'`, issued at `e` as the state's next number (R36, R39); its writes are `ws` but for
the marks of R38. -/
def Wave.Adds (w' : Wave) (s : State) (e : Entry) (c : Ctr) (work : LWork) (left ready : Mask) (ws : List LWrite) : Prop :=
  ∃ o ∈ w'.lops, o.id = s.nextId ∧ o.pc = e.pc ∧ o.ctr = c ∧ o.work = work ∧ o.left = left ∧ o.ready = ready ∧ o.bare.writes = ws

/-- The state once wave `k`'s instruction has read its sources (R32, R34). -/
def State.readBy (s : State) (k : Nat) (w : Wave) (x : Mask) (lit : Option DWord) (srcs : List Opnd) : State :=
  s.modWave k fun w0 => readEffects s w x lit srcs w0

/-- A step of the device has the effect that `P` says: it answers a next state, which has it. -/
def Steps (i : Instr) (s : State) (P : State → Prop) : Prop := ∃ t, exec i s = .next t ∧ P t

/-! ### Exact values -/

/-- `a` is at most `b`, exactly. -/
def Dy.le (a b : Dy) : Prop := 0 ≤ (b.add ⟨-a.z, a.e⟩).z

/-- `a` and `b` are the same number. -/
def Dy.same (a b : Dy) : Prop := a.le b ∧ b.le a

/-- The magnitude of a number. -/
def Dy.mag (a : Dy) : Dy := ⟨a.z.natAbs, a.e⟩

/-- How far two numbers are apart. -/
def Dy.far (a b : Dy) : Dy := (b.add ⟨-a.z, a.e⟩).mag

/-- The finite value that a code of a format names, if it names one (R93, R94). -/
def finiteOf (f : Fmt) (x : Nat) : Option Dy :=
  match decF f x with
  | .fin n m e => some (dyOf n m e)
  | _ => none

/-- `a` is at most `b`, as numbers with infinities, −0 below +0 (R99); no NaN is. -/
def FV.atMost : FV → FV → Prop
  | .inf n, .inf k => n = true ∨ k = false
  | .inf n, .fin _ _ _ => n = true
  | .fin _ _ _, .inf k => k = false
  | .fin n m e, .fin k m' e' =>
    (dyOf n m e).le (dyOf k m' e') ∧ ((dyOf k m' e').le (dyOf n m e) → n = true ∨ k = false)
  | _, _ => False

end Sys2Proof.Machine
end

