-- ==== Sys2Proof/Certificates/Slice0/Obligations.lean ====
section
/-! DEFINITION. The statements about the Tercor N9 for the provers, in the order of OBLIGATIONS.json. -/

open Sys2Proof Sys2Proof.Machine

/-! ### Encoding, decoding and stepping -/

/-- Decoding what the encoder writes for a well-formed instruction gives the instruction back, whatever bytes follow it: no
bit of an encoding is dropped (R40 to R62). -/
def Obligations.EncodeThenDecode : Prop :=
  ∀ (i : Instr) (rest : Nat), isWord i = true → bad i = none →
    decode (encodeBits i + 2 ^ (8 * byteLen i) * rest) = .ok i

/-- What decodes is the encoding of what it decodes to: each word has one meaning, and no reserved bit is passed over (R41,
R77 to R79). What decodes is a well-formed instruction word of 4, 12 or 20 bytes (R41, R79). -/
def Obligations.DecodedWordsAreEncodings : Prop :=
  (∀ (x : Nat) (i : Instr), decode x = .ok i → encodeBits i = x % 2 ^ (8 * byteLen i)) ∧
  (∀ (x : Nat) (i : Instr), decode x = .ok i →
      bad i = none ∧ isWord i = true ∧ (byteLen i = 4 ∨ byteLen i = 12 ∨ byteLen i = 20))

/-- A step runs the decoded instruction: when the step goes to a core whose wave has no trap due, and the bytes fetched at
the issuing entry's PC decode to an instruction, the step is that instruction's, after which time passes (R9, R23, R70). An
input from outside is taken as the step it names (R9; the script is the model's own, notes/assumptions/1.md). A fetch reads
the little-endian words of device memory at the PC's translation, where nothing has stored to the code word since the group's
dispatch (R6, R69, R70). -/
def Obligations.StepRunsDecoded : Prop :=
  (∀ (s t : State) (c k n : Nat) (w : Wave) (e : Entry) (i : Instr),
      s.chosen = some (.core c) → ({ s with focus := c } : State).issuer = some (k, w, e) → w.dueTrap e = none →
      ({ s with focus := c } : State).fetch c w e.pc.toNat = .word n t → decode n = .ok i →
      step s = timed (exec i t)) ∧
  (∀ (s : State) (x : Input), s.chosen = some (.input x) → step s = timed (exec x.ev { s with script := s.script.tail })) ∧
  (∀ (s t : State) (core pc pa : Nat) (w : Wave) (g : Group),
      pc < 2 ^ 57 → s.translateCore core w.ctx pc .fetch = (.to (.dev pa), t) → t.groupAt? w.group = some g →
      g.code.get? (pa / 4) = none →
      s.fetchWord core w pc = .word (Memory.num t.mem.bytes pa 4) t)

/-- Words that the spec encodes in its own examples decode to the instructions it gives them for (R41, R48, R53 to R62). -/
def Obligations.SpecWords : Prop :=
  -- fadd v9, la, o0
  decodeTableWord 32 0xC1A04980 = some (.faddBv ⟨false, .v 9, .la, .o 0, none⟩) ∧
  -- iadd v3, v1, 5
  decodeTableWord 32 0xE2041808 = some (.iaddBv ⟨false, .v 3, .v 1, .const 5, none⟩) ∧
  -- jmark j1, done, 10 words on
  decodeTableWord 32 0x00280BB0 = some (.jmarkBs false 1 10) ∧
  -- syscall 7
  decodeTableWord 32 0x3E78 = some (.syscallBs false 7) ∧
  -- tret
  decodeTableWord 32 0x650 = some (.tretBs false)

/-- The machine after reset: no wave, group, queue, launch, context or tenancy; device memory reads as zero and no granule
is owned or window valid; CHRONO and group time are 0; every core is split at 256 KiB with no handle mapped, each of
generation 1; every array's next visit is core 0; Meridian is off with its limit 2,250 MHz; each port is DOWN without errors
or locks; no alarm is recorded; PLIM is 3,200 W, SCRUBH 24, RDMTHR 1,024 and patrol scrub on (R14, R186, R190, R268, R287,
R393, R413, R421, R435, R444, R448, R451). -/
def Obligations.ResetState : Prop :=
  let s := State.reset
  s.memWf ∧ (∀ a, Memory.get s.mem.bytes a = 0) ∧ s.chrono = 0 ∧ s.gtime = 0 ∧
  (∀ k, s.waveAt? k = none ∧ s.groupAt? k = none ∧ s.ctxAt? k = none ∧ s.cp.queues.get? k = none ∧ s.cp.launches.get? k = none ∧
    s.host.tens.get? k = none) ∧
  (∀ g, s.mem.owner g = 0) ∧ (∀ n, (s.mem.windows.getD n 0).getLsbD 0 = false) ∧
  (∀ c, (s.coreAt c).split = 4 ∧ (s.coreAt c).run = none ∧
    ∀ i, ((s.coreAt c).handle i).st = .free ∧ ((s.coreAt c).handle i).gen = 1) ∧
  (∀ q, (s.quadAt q).next = 0 ∧ (s.quadAt q).ops = [] ∧ (s.quadAt q).copies = []) ∧
  s.mer.en = false ∧ s.mer.st = .none ∧ s.mer.limit = 2250 ∧ s.mer.group = 0 ∧ s.mer.delta = 0 ∧ s.mer.brcount = 0 ∧
  (∀ p, (s.links.port p).st = .down ∧ (s.links.port p).err = 0 ∧ (s.links.port p).locks = 0) ∧
  s.links.count = 0 ∧ s.links.alarms = [] ∧ s.links.plim = 3200 ∧
  s.house.scrubh = 24 ∧ s.house.scrub = true ∧ s.house.rdmthr = 1024 ∧ s.house.pwEn = false

/-! ### Memory -/

/-- A write leaves every byte outside it, and puts its own bytes in place, in a memory in canonical form (R6, R14). -/
def Obligations.ReadAfterWrite : Prop :=
  ∀ (m : Memory) (a b : Nat) (l : List Byte), m.wf = true →
    (Memory.write m a l).wf = true ∧
    Memory.get (Memory.write m a l) b = if a ≤ b ∧ b < a + l.length then l.getD (b - a) 0 else Memory.get m b

/-- Every step keeps device memory in canonical form: addresses strictly rising and no listed byte zero, so that equal
memories are equal data (R14; notes/assumptions/3.md). -/
def Obligations.StepKeepsMemory : Prop :=
 ∀ s t : State, s.memWf → step s = .next t → t.memWf

/-! ### Values -/

/-- The shifts and bit-field operations, bit by bit (R126, R127), and minimum and maximum (R99), in the sizes of their
types: what the operation of each gives for the operands of one lane. Bits above a 32-bit result are its extension (R119). -/
def Obligations.ShiftFieldMinMaxValues : Prop :=
  (∀ (t : ITy) (sat : Bool) (a b c : DWord) (i : Nat), i < t.bits →
    let w := t.bits
    let n := b.toNat % 2 ^ 32
    let m := min n w
    let pos := b.toNat % 256
    let len := b.toNat / 256 % 256
    let hi := min (pos + len) w - 1
    let r := fun (op : IOp) => (op.calc t sat [a, b, c]).getLsbD i
    r .shl = (decide (n ≤ i) && a.getLsbD (i - n)) ∧
    r .shr = (decide (i + n < w) && a.getLsbD (i + n)) ∧
    r .sar = a.getLsbD (min (i + n) (w - 1)) ∧
    r .rotl = a.getLsbD ((i + w - n % w) % w) ∧
    r .fshr = (if i + m < w then a.getLsbD (i + m) else c.getLsbD (i + m - w)) ∧
    r .bfe = (if len = 0 ∨ w ≤ pos then false else if pos + i ≤ hi then a.getLsbD (pos + i) else t.signed && a.getLsbD hi) ∧
    r .bfi = (if len = 0 ∨ w ≤ pos then c.getLsbD i
      else if pos ≤ i ∧ i ≤ hi then a.getLsbD (i - pos) else c.getLsbD i)) ∧
  (∀ (op : IOp) (t : ITy) (sat : Bool) (a b c : DWord) (i : Nat), t.bits ≤ i → i < 64 →
    op = .shl ∨ op = .shr ∨ op = .sar ∨ op = .rotl ∨ op = .fshr ∨ op = .bfe ∨ op = .bfi →
    (op.calc t sat [a, b, c]).getLsbD i = (decide (t = .s32) && (op.calc t sat [a, b, c]).getLsbD 31)) ∧
  (∀ (f : Fmt) (md : RMode) (mx : Bool) (a b : Nat),
    f = fmt64 ∨ f = fmt32 ∨ f = fmt16 ∨ f = fmtBf16 →
    let r := (if mx then FOp.fmax else FOp.fmin).elem f md [a, b]
    (∀ x y, decF f a = .nan x → decF f b = .nan y → r = (f.nan, if x || y then fNV else 0)) ∧
    (∀ x, decF f a = .nan x → (∀ y, decF f b ≠ .nan y) → r = (b, if x then fNV else 0)) ∧
    (∀ y, decF f b = .nan y → (∀ x, decF f a ≠ .nan x) → r = (a, if y then fNV else 0)) ∧
    ((∀ x, decF f a ≠ .nan x) → (∀ y, decF f b ≠ .nan y) →
      r.2 = 0 ∧ (r.1 = a ∨ r.1 = b) ∧
      (if mx then (decF f a).atMost (decF f r.1) ∧ (decF f b).atMost (decF f r.1)
        else (decF f r.1).atMost (decF f a) ∧ (decF f r.1).atMost (decF f b))))

/-- An exact value that is not zero is rounded once, as its mode says: toward zero the finite result is the greatest
magnitude that does not exceed the value's, downward the greatest value not above it, upward the least not below it, and to
nearest no finite value of the format is nearer, and on a tie the code is even; a result is an infinity only where the value
lies beyond every finite one in a mode that goes there; NX tells whether the result is inexact, and UF comes only with it
and below the smallest normal; an infinity comes with OF and NX (R12, R96, R100). -/
def Obligations.FloatRounding : Prop :=
  ∀ (f : Fmt) (md : RMode) (neg : Bool) (m : Nat) (e : Int), 2 ≤ f.eb → 1 ≤ f.fb → m ≠ 0 →
    let x := dyOf neg m e
    let r := roundF f md neg m e
    (r.1 / f.signBit % 2 = 1 ↔ neg = true) ∧ r.1 < 2 ^ f.width ∧
    (∀ v, finiteOf f r.1 = some v →
      (r.2 &&& fNX = 0 ↔ v.same x) ∧ (r.2 &&& fUF ≠ 0 → r.2 &&& fNX ≠ 0 ∧ ¬ (dyOf false 1 f.emin).le x.mag) ∧
      ∀ c u, finiteOf f c = some u →
        (md = .rtz → v.mag.le x.mag ∧ (u.mag.le x.mag → u.mag.le v.mag)) ∧
        (md = .rdn → v.le x ∧ (u.le x → u.le v)) ∧
        (md = .rup → x.le v ∧ (x.le u → v.le u)) ∧
        (md = .rne → (x.far v).le (x.far u) ∧ ((x.far u).le (x.far v) → u.same v ∨ r.1 % 2 = 0))) ∧
    (finiteOf f r.1 = none → r.1 = f.inf neg ∧ r.2 = fOF ||| fNX ∧
      (md = .rne ∨ (md = .rup ∧ neg = false) ∨ (md = .rdn ∧ neg = true)) ∧
      ∀ c u, finiteOf f c = some u → ¬ x.mag.le u.mag) ∧
    (md = .rne → (finiteOf f r.1 = none ↔
      ∀ u, finiteOf f (f.maxFin false) = some u → (u.add (dyOf false 1 (f.bias + 1))).le (x.mag.add x.mag)))

/-! ### Class A and W instructions -/

/-- A class A or W instruction that no check stops completes: each executing lane of its v destination holds the result of
its operation on the lane's operands, an s destination the result of the lowest executing lane; every other lane and
register holds what it held, or zero where a source killed it (R16, R27, R32, R33, R119, R140). The result of a class A or W
instruction on a vector pipe goes into the latch of the pipe, la or lb; on the scalar pipe into ls; and into the operand cache
slot it names, if any: in the executing lanes, which become valid (R26 to R29, R119). -/
def Obligations.ClassAWResult : Prop :=
  (∀ (i : Instr) (s : State) (p : Fin 16) (pn : Bool) (a : Alu) (k : Nat) (w : Wave) (e : Entry),
      aluOf s i = some (p, pn, a) → Ready i (a.plan p pn) s k w e → a.stops s w (s.execMask w e p pn) = none →
      ∃ (t : State) (w' : Wave), exec i s = .next (t.closeIf (rbOf i) k) ∧ t.waveAt? k = some w' ∧
        (∀ n L, n < 128 → L < 64 → w'.vLane n L =
          match (if inMask (s.execMask w e p pn) L then destPart a.d a.wide n else none) with
          | some sh => (a.lane s w L >>> sh).truncate 32
          | none => if (killsOf a.srcs).contains n then 0 else w.vLane n L) ∧
        (∀ n : Fin 64, w'.sReg n.val =
          if a.d = .s n ∧ s.execMask w e p pn ≠ 0 then a.lane s w (lowestLane (s.execMask w e p pn))
          else if (killsOf a.srcs).contains (128 + n.val) then 0 else w.sReg n.val)) ∧
  (∀ (i : Instr) (s : State) (p : Fin 16) (pn : Bool) (a : Alu) (k : Nat) (w : Wave) (e : Entry),
      aluOf s i = some (p, pn, a) → Ready i (a.plan p pn) s k w e → a.stops s w (s.execMask w e p pn) = none →
      ∃ (t : State) (w' : Wave), exec i s = .next (t.closeIf (rbOf i) k) ∧ t.waveAt? k = some w' ∧
        (a.scalar = true → s.execMask w e p pn ≠ 0 →
          w'.up.lsValid = true ∧ w'.up.ls = a.lane s w (lowestLane (s.execMask w e p pn)) ∧
          ∀ j, a.slot = some j → ∀ L, L < 64 → inMask (s.execMask w e p pn) L = true →
            inMask (w'.up.slot j.val).valid L = true ∧
              (w'.up.slot j.val).lane L = a.lane s w (lowestLane (s.execMask w e p pn))) ∧
        (a.scalar = false → ∀ L, L < 64 → inMask (s.execMask w e p pn) L = true →
          (∃ l, (l = w'.up.la ∨ l = w'.up.lb) ∧ (a.f64 = false → l = w'.up.la) ∧ inMask l.valid L = true ∧
            l.lane L = a.lane s w L) ∧
          (∀ j, a.slot = some j → inMask (w'.up.slot j.val).valid L = true ∧ (w'.up.slot j.val).lane L = a.lane s w L)))

/-- The frame of a class A or W instruction: it advances the PC by its length, uses one issue slot, leaves the predicates,
the special registers and every pending operation, sets in WSTAT the flags of its operation and of what it read, and changes
nothing outside its wave, no byte of memory among it (R20, R22, R34, R41, R141). Of the upper levels it leaves the latches of the
pipes it does not run on, and in its own and in its slot the lanes that do not execute; a fill puts the value read, unpermuted,
into every lane of its slot, all of them valid, and a slot that neither a fill nor DO names is as it was (R26, R28, R29; that a
32-bit read of an s register fills 32 bits is the model's reading, notes/assumptions/73.md). Where STRICT forbids a read or an
enabled flag is raised, it traps precisely and does nothing else (R34, R141): a dead register read by any executing lane sets
DEADREAD and an invalid latch or slot lane STALE, and DEADREAD names the first source in field order that does either, with bit
8 for a level (a permuted read of a dead register counts whatever lane it names: the model's reading,
notes/assumptions/68.md). -/
def Obligations.ClassAWFrame : Prop :=
  (∀ (i : Instr) (s : State) (p : Fin 16) (pn : Bool) (a : Alu) (k : Nat) (w : Wave) (e : Entry),
    aluOf s i = some (p, pn, a) → Ready i (a.plan p pn) s k w e → a.stops s w (s.execMask w e p pn) = none →
    ∃ (t : State) (w' : Wave), exec i s = .next (t.closeIf (rbOf i) k) ∧ t.waveAt? k = some w' ∧
      w.Ran w' (e.past (byteLen i) :: w.frontier.tail) ∧ w.SamePreds w' ∧ w'.lops.map LOp.bare = w.lops.map LOp.bare ∧
      w'.wstat = w.wstat ||| a.srcs.foldl (fun m o => m ||| srcStat w (s.execMask w e p pn) o) 0 |||
        flagBits (allFlags (s.execMask w e p pn) ((a.results s w (s.execMask w e p pn)).map (·.2))) ∧
      s.SameOutside t k) ∧
  (∀ (i : Instr) (s : State) (p : Fin 16) (pn : Bool) (a : Alu) (k : Nat) (w : Wave) (e : Entry),
    aluOf s i = some (p, pn, a) → Ready i (a.plan p pn) s k w e → a.stops s w (s.execMask w e p pn) = none →
    let x := s.execMask w e p pn
    ∃ (t : State) (w' : Wave), exec i s = .next (t.closeIf (rbOf i) k) ∧ t.waveAt? k = some w' ∧
      (a.scalar = true → w'.up.la = w.up.la ∧ w'.up.lb = w.up.lb ∧
        (x = 0 → w'.up.ls = w.up.ls ∧ w'.up.lsValid = w.up.lsValid)) ∧
      (a.scalar = false → w'.up.ls = w.up.ls ∧ w'.up.lsValid = w.up.lsValid ∧
        (w'.up.lb = w.up.lb ∨ (a.f64 = true ∧ w'.up.la = w.up.la)) ∧
        ∀ L, L < 64 → inMask x L = false → w.up.la.SameLane w'.up.la L ∧ w.up.lb.SameLane w'.up.lb L) ∧
      (∀ (j : Fin 8) (L : Nat), L < 64 → (a.slot = some j → inMask x L = false) →
        (∀ o ∈ a.srcs, o.fill = some j → (∀ q ∈ a.srcs, q.fill = some j → q = o) →
          inMask (w'.up.slot j.val).valid L = true ∧ (w'.up.slot j.val).lane L = s.readSel w a.lit o.rd o.sel L) ∧
        ((∀ o ∈ a.srcs, o.fill ≠ some j) → (w.up.slot j.val).SameLane (w'.up.slot j.val) L))) ∧
  (∀ (i : Instr) (s : State) (p : Fin 16) (pn : Bool) (a : Alu) (k : Nat) (w : Wave) (e : Entry) (c : Cause) (y : DWord),
    aluOf s i = some (p, pn, a) → Ready i (a.plan p pn) s k w e → a.stops s w (s.execMask w e p pn) = some (c, y) →
    exec i s = .next (s.takeTrap k (precise c y e (s.execMask w e p pn) false)) ∧
      ((w.strict = true ∧ c = .deadread ∧ deadRead w (s.execMask w e p pn) a.srcs = some y) ∨
        (readsOk w (s.execMask w e p pn) a.srcs ∧ c = .fpexc ∧ (a.raises s w (s.execMask w e p pn)).1 ≠ 0))) ∧
  (∀ (w : Wave) (x : Mask) (l : List Opnd) (y : DWord), deadRead w x l = some y ↔
    ∃ pre o post, l = pre ++ o :: post ∧ (∀ q ∈ pre, srcStat w x q = 0) ∧
      ((srcStat w x o &&& statDead ≠ 0 ∧ y = BitVec.ofNat 64 (srcCode o.sel)) ∨
        (srcStat w x o = statStale ∧ y = BitVec.ofNat 64 (256 + srcCode o.sel)))) ∧
  (∀ (w : Wave) (x : Mask) (o : Opnd),
    (srcStat w x o &&& statDead ≠ 0 ↔ x ≠ 0 ∧
      ((∃ r, o.sel = .v r ∧ (r.val ∈ w.dead ∨ (o.rd.wide = true ∧ r.val + 1 ∈ w.dead))) ∨
        ∃ r, o.sel = .s r ∧ 128 + r.val ∈ w.dead)) ∧
    (srcStat w x o &&& statStale ≠ 0 ↔ ∃ L, L < 64 ∧ inMask x L = true ∧
      let out := fun (l : Latch) => inMask w.launched (permLane o.perm o.amt L) = true ∧
        inMask l.valid (permLane o.perm o.amt L) = false
      ((o.sel = .la ∧ out w.up.la) ∨ (o.sel = .lb ∧ out w.up.lb) ∨ (∃ j, o.sel = .o j ∧ out (w.up.slot j.val)) ∨
        (o.sel = .ls ∧ w.up.lsValid = false))))

/-! ### Predicates, pairs and class L functions -/

/-- A comparison or predicate operation completes: its result in each executing lane goes to its predicate, the other lanes
keep theirs, a write to p0 is ignored, and neither a register (but those killed) nor anything outside the wave changes (R4,
R130 to R134, R145). PMOV from a predicate to a v register writes 1 or 0 in each executing lane (R134). -/
def Obligations.PredicateResults : Prop :=
  (∀ (i : Instr) (s : State) (p : Fin 16) (pn : Bool) (a : Pred) (k : Nat) (w : Wave) (e : Entry),
      predOf s i = some (p, pn, a) → Ready i (a.plan p pn) s k w e → readsOk w (s.execMask w e p pn) a.srcs →
      flagsOk w (s.execMask w e p pn) ((a.results s w (s.execMask w e p pn)).map (·.2)) →
      ∃ (t : State) (w' : Wave), exec i s = .next (t.closeIf (rbOf i) k) ∧ t.waveAt? k = some w' ∧
        w.Ran w' (e.past (byteLen i) :: w.frontier.tail) ∧
        (∀ n L, n < 16 → L < 64 → inMask (w'.pMask n) L =
          if n = a.pd ∧ n ≠ 0 ∧ inMask (s.execMask w e p pn) L = true then a.lane s w L else inMask (w.pMask n) L) ∧
        w.SameRegs w' (killsOf a.srcs) ∧ w'.lops.map LOp.bare = w.lops.map LOp.bare ∧ s.SameOutside t k) ∧
  (∀ (f : PmovXv) (r : Fin 128) (pa : Fin 16) (s : State) (k : Nat) (w : Wave) (e : Entry),
      (f.dir = .toReg (.v r) pa ∨ f.dir = .toReg .null pa) →
      Ready (.pmovXv f) ⟨f.p, f.pn, [], (match f.dir with | .toReg d _ => dstNamed d false | _ => []), [pa.val], .vec⟩ s k w e →
      ∃ (t : State) (w' : Wave), exec (.pmovXv f) s = .next (t.closeIf f.rb k) ∧ t.waveAt? k = some w' ∧
        w.Ran w' (e.past (byteLen (.pmovXv f)) :: w.frontier.tail) ∧ w.SamePreds w' ∧ s.SameOutside t k ∧
        (∀ n L, n < 128 → L < 64 → w'.vLane n L =
          if f.dir = .toReg (.v r) pa ∧ n = r.val ∧ inMask (s.execMask w e f.p f.pn) L = true then
            (if s.readP w pa.val L then 1 else 0)
          else w.vLane n L) ∧ (∀ n, n < 64 → w'.sReg n = w.sReg n))

/-- A PAIR completes: both operations read their operands before either writes; A's result goes to its v destination and la,
B's to its own and lb, each in the lanes where its own predicate holds (R65 to R68). -/
def Obligations.PairResult : Prop :=
  ∀ (f : Pair) (s : State) (k : Nat) (w : Wave) (e : Entry),
    let a := halfAlu f.x s.flushMode
    let b := halfAlu f.y s.flushMode
    let xa := s.execMask w e f.x.p f.x.pn
    let xb := s.execMask w e f.y.p f.y.pn
    Ready (.pair f) ⟨f.x.p, f.x.pn, (a.srcs ++ b.srcs).map Opnd.named, dstNamed a.d a.wide ++ dstNamed b.d b.wide, [f.y.p.val],
      .both⟩ s k w e → a.stops s w xa = none → b.stops s w xb = none →
    ∃ (t : State) (w' : Wave), exec (.pair f) s = .next (t.closeIf (rbOf (.pair f)) k) ∧ t.waveAt? k = some w' ∧
      w.Ran w' (e.past (byteLen (.pair f)) :: w.frontier.tail) ∧ w.SamePreds w' ∧ s.SameOutside t k ∧
      (∀ n L, n < 128 → L < 64 → w'.vLane n L =
        match (if inMask xb L then destPart b.d b.wide n else none), (if inMask xa L then destPart a.d a.wide n else none) with
        | some sh, _ => (b.lane s w L >>> sh).truncate 32
        | none, some sh => (a.lane s w L >>> sh).truncate 32
        | none, none => if (killsOf (a.srcs ++ b.srcs)).contains n then 0 else w.vLane n L) ∧
      (∀ L, L < 64 → (inMask xa L = true → w'.up.la.lane L = a.lane s w L) ∧ (inMask xb L = true → w'.up.lb.lane L = b.lane s w L))

/-- A class L function completes as it issues: it is counted in XC, with its results and flags
pending in its lanes (the lowest executing lane's result for an s destination), and no register, predicate, byte of memory
or anything else changes until it lands; with no executing lane it has no result (R36, R38, R39, R139, R148). That its flags stay
pending until its last lane lands, and that it is counted in XC with a null destination too, are the model's choices
(notes/assumptions/7.md, notes/assumptions/61.md). -/
def Obligations.ClassLFunction : Prop :=
  ∀ (i : Instr) (s : State) (p : Fin 16) (pn : Bool) (a : Fun) (k : Nat) (w : Wave) (e : Entry),
    funOf s i = some (p, pn, a) → Ready i (a.plan p pn) s k w e → readsOk w (s.execMask w e p pn) a.srcs →
    w.full .xc = false →
    flagsOk w (s.execMask w e p pn)
      (perLane fun L => if inMask (s.execMask w e p pn) L then (a.lane s w L).2 else 0) →
    Issues i s k fun t w' =>
      w.Queued w' (e.past (byteLen i) :: w.frontier.tail) ∧ w.SameRegs w' (killsOf a.srcs) ∧ s.SameOutside t k ∧
      (s.execMask w e p pn ≠ 0 → ∃ o ∈ w'.lops, o.id = s.nextId ∧ o.pc = e.pc ∧ o.ctr = .xc ∧
      o.left = landLanes a.d (s.execMask w e p pn) ∧ o.ready = o.left ∧
      o.flags = allFlags (s.execMask w e p pn) (perLane fun L => if inMask (s.execMask w e p pn) L then (a.lane s w L).2 else 0) ∧
      (∀ r n, a.d = .v r → n < (if a.wide then 2 else 1) → ∃ x ∈ o.writes, x.reg = .v (r.val + n) ∧ x.mask = s.execMask w e p pn ∧
        ∀ L, L < 64 → inMask (s.execMask w e p pn) L = true →
          x.vals.getD L 0 = ((a.lane s w L).1 >>> (32 * n)) &&& 0xFFFFFFFF) ∧
      (∀ r, a.d = .s r → o.bare.writes = [⟨.s r.val, 1, [(a.lane s w (lowestLane (s.execMask w e p pn))).1], 0⟩]))

/-! ### Cross-lane instructions -/

/-- A cross-lane instruction without a member mask completes as it issues: it is counted in XC and does not end the run (R39,
R179), with the results of the exchange among its executing lanes pending, with none where no lane executes; NOSRC is set where a
lane's source lies outside them (R176, R177). That it is counted with a null destination too is the model's choice
(notes/assumptions/61.md). -/
def Obligations.CrossLaneOpen : Prop :=
  ∀ (i : Instr) (s : State) (x : Xl1) (k : Nat) (w : Wave) (e : Entry),
    xlOf i = some x → x.mem = none → Ready i x.plan s k w e → readsOk w (s.execMask w e x.p x.pn) x.srcs →
    w.full .xc = false → flagsOk w (s.execMask w e x.p x.pn) (x.result s w (s.execMask w e x.p x.pn)).flags →
    Issues i s k fun t w' =>
      w.Queued w' (e.past (byteLen i) :: w.frontier.tail) ∧ w.SameRegs w' (killsOf x.srcs) ∧ s.SameOutside t k ∧
      ((x.result s w (s.execMask w e x.p x.pn)).nosrc = true → w'.wstat &&& 4 = 4) ∧
      (s.execMask w e x.p x.pn ≠ 0 → ∃ o ∈ w'.lops, o.id = s.nextId ∧ o.pc = e.pc ∧ o.ctr = .xc ∧
        o.left = x.spec.lanes (s.execMask w e x.p x.pn) ∧ o.ready = o.left ∧
        o.bare.writes = x.spec.writes (x.spec.lanes (s.execMask w e x.p x.pn)) (x.result s w (s.execMask w e x.p x.pn)).vals)

/-- The values of an exchange among the lanes of m (R177): XSHF takes the lane of its sub-group that b names, XROT the lane
of 64ths that b names further on, XBFLY the lane XOR b, XBCAST the lane of its sub-group that b names, each its own value
where that lane is not a member; MATCH the members of the sub-group with an equal value; VOTE ANY, ALL and UNIFORM whether
some, whether every, and whether every or no member of the sub-group holds the predicate; ELECT the lowest member; BALLOT the
members that hold the predicate. XRED and XSCAN start from the members' values and the operation's identity in the other
lanes. At step i XRED combines a lane's value with that of lane L XOR 2^i, and XSCAN the value of lane L - 2^i, where the
sub-group has one, with the lane's own; the integer operations add and wrap, take the least or the greatest, or work bit by
bit (R178). -/
def Obligations.ExchangeValues : Prop :=
  ∀ (x : XSpec) (m : Mask) (a b : List DWord) (pr : Mask) (fl : Bool) (L : Nat), L < 64 → inMask m L = true →
    (x.ws = 8 ∨ x.ws = 16 ∨ x.ws = 32 ∨ x.ws = 64) →
    let r := exchange x m m m a b pr fl
    let base := L / x.ws * x.ws
    let bl := (b.getD L 0).toNat % 2 ^ 32
    let from_ := fun (Q : Nat) => if inMask m Q then a.getD Q 0 else a.getD L 0
    let mates := fun (Q : Nat) => decide (Q / x.ws = L / x.ws) && inMask m Q
    (x.op = .inl .xshf → r.vals.getD L 0 = from_ (base + bl % x.ws)) ∧
    (x.op = .inl .xrot → r.vals.getD L 0 = from_ (base + (L - base + (b.getD L 0).toNat % 64 * x.ws / 64) % x.ws)) ∧
    (x.op = .inl .xbfly → r.vals.getD L 0 = from_ (L ^^^ (bl % x.ws))) ∧
    (x.op = .inl .xbcast → r.vals.getD L 0 = from_ (base + bl % x.ws)) ∧
    (x.op = .inl .match → ∀ Q, Q < 64 → inMask (r.vals.getD L 0) Q = (mates Q && a.getD Q 0 == a.getD L 0)) ∧
    (x.op = xVote → x.sub = 0 → (r.vals.getD L 0 = 1 ↔ ∃ Q, Q < 64 ∧ mates Q = true ∧ inMask pr Q = true)) ∧
    (x.op = xVote → x.sub = 1 → (r.vals.getD L 0 = 1 ↔ ∀ Q, Q < 64 → mates Q = true → inMask pr Q = true)) ∧
    (x.op = xVote → x.sub = 2 → (r.vals.getD L 0 = 1 ↔ (∀ Q, Q < 64 → mates Q = true → inMask pr Q = true) ∨
      ∀ Q, Q < 64 → mates Q = true → inMask pr Q = false)) ∧
    (x.op = xElect → (r.vals.getD L 0 = 1 ↔ ∀ Q, Q < L → mates Q = false)) ∧
    (x.op = xBallot → ∀ Q, Q < 64 → inMask (r.vals.getD 0 0) Q = (inMask m Q && inMask pr Q)) ∧
    let n := x.ty.bits
    let ident := if x.sub = 1 then (if x.ty.signed then 2 ^ (n - 1) - 1 else 2 ^ n - 1)
      else if x.sub = 2 then (if x.ty.signed then 2 ^ (n - 1) else 0)
      else if x.sub = 3 then 2 ^ n - 1 else if x.sub = 6 then 2 ^ 31 else 0
    let num := fun (v : Nat) => if x.ty.signed then signedOf n v else (v : Int)
    let op := redStep x.sub x.ty fl
    (∀ g : Nat → Nat → Nat × FFlags, (∀ Q, g 0 Q = (if inMask m Q then (a.getD Q 0).toNat else ident, 0)) →
      let v := g (Nat.log2 x.ws) L
      (x.op = .inl .xred → (∀ i Q, g (i + 1) Q = op (g i Q) (g i (Q ^^^ 2 ^ i))) →
        r.vals.getD L 0 = BitVec.ofNat 64 v.1 ∧ r.flags.getD L 0 = v.2) ∧
      (x.op = .inl .xscan →
        (∀ i Q, g (i + 1) Q = if 2 ^ i ≤ Q - Q / x.ws * x.ws then op (g i (Q - 2 ^ i)) (g i Q) else g i Q) →
        r.vals.getD L 0 = BitVec.ofNat 64 v.1 ∧ r.flags.getD L 0 = v.2)) ∧
    (∀ p q : Nat × FFlags, (x.sub = 0 → (op p q).1 = (p.1 + q.1) % 2 ^ n) ∧
      (x.sub = 1 → (op p q).1 = if num q.1 < num p.1 then q.1 else p.1) ∧
      (x.sub = 2 → (op p q).1 = if num p.1 < num q.1 then q.1 else p.1) ∧
      (x.sub = 3 → (op p q).1 = p.1 &&& q.1) ∧ (x.sub = 4 → (op p q).1 = p.1 ||| q.1) ∧
      (x.sub = 5 → (op p q).1 = p.1 ^^^ q.1) ∧ (x.sub < 6 → (op p q).2 = 0))

/-- A cross-lane instruction with a member mask M parks its executing lanes in M at the instruction and lets the others
pass: the run ends, the arrival record holds the parked lanes and the operands and predicates of every lane of M it has; an
executing lane outside M takes its own-value result at once (operand A; its own lane's bit for MATCH; its own predicate for VOTE
ANY and ALL, true for VOTE UNIFORM and ELECT; nothing for BALLOT), and every other lane, register (but those killed) and
predicate is as it was; nothing outside the wave changes (R176, R177, R179). When every member of the record has arrived, exited
or was never launched, and no enabled flag is raised, the parked lanes take the results of the exchange and go on: one whose source lane
lies outside M its own operand A, with NOSRC set (R176, R177, R179). -/
def Obligations.CrossLaneMasked : Prop :=
  (∀ (i : Instr) (s : State) (x : Xl1) (o : Opnd) (k : Nat) (w : Wave) (e : Entry),
    xlOf i = some x → x.mem = some o → Ready i x.plan s k w e → readsOk w (s.execMask w e x.p x.pn) (x.srcs ++ [o]) →
    (∀ y ∈ w.exch, y.pc ≠ e.pc) → w.exchClash e.pc (s.readOpnd w x.lit o 0) = false →
    let m : Mask := s.readOpnd w x.lit o 0
    let ex := s.execMask w e x.p x.pn
    let opA := fun (L : Nat) => (x.srcs.head?.map fun q => s.readOpnd w x.lit q L).getD 0
    let own := fun (L : Nat) => if x.spec.op = .inl .match then (laneBit L : DWord) else opA L
    let kills := killsOf (x.srcs ++ [o])
    ∃ (t : State) (w' : Wave), exec i s = .next (t.endRun k) ∧ t.waveAt? k = some w' ∧
      w'.frontier = e.waiting (ex &&& m) (.exch e.pc m) (byteLen i) ::
        { e with mask := e.mask &&& ~~~(ex &&& m), pc := e.pc + BitVec.ofNat 64 (byteLen i), starve := 0 } :: w.frontier.tail ∧
      s.SameOutside t k ∧ w.OneSlot w' ∧ w'.lops.map LOp.bare = w.lops.map LOp.bare ∧
      (ex &&& m ≠ 0 → ∃ y : Exch, w'.exch = w.exch ++ [y] ∧ y.pc = e.pc ∧ y.m = m ∧ y.arrived = e.mask &&& m ∧
        y.recv = ex &&& m ∧
        ∀ L, L < 64 → inMask (e.mask &&& m) L = true → (x.srcs.head?.isSome → y.a.getD L 0 = opA L) ∧
          (∀ q, x.srcs[1]? = some q → y.b.getD L 0 = s.readOpnd w x.lit q L) ∧ inMask y.pr L = s.readP w x.pa L) ∧
      (∀ n L, n < 128 → L < 64 → w'.vLane n L =
        match (if inMask (ex &&& ~~~m) L then x.spec.part n else none) with
        | some sh => (own L >>> sh).truncate 32
        | none => if kills.contains n then 0 else w.vLane n L) ∧
      (∀ n, n < 64 → w'.sReg n = if kills.contains (128 + n) then 0 else w.sReg n) ∧
      (∀ n L, n < 16 → L < 64 → inMask (w'.pMask n) L =
        if n ≠ 0 ∧ n = x.spec.pd ∧ (x.spec.op = xVote ∨ x.spec.op = xElect) ∧ inMask (ex &&& ~~~m) L = true then
          (if x.spec.op = xVote ∧ x.spec.sub < 2 then s.readP w x.pa L else true)
        else inMask (w.pMask n) L)) ∧
  (∀ (s : State) (k : Nat) (held : Bool) (w : Wave) (e : Entry) (x : Exch) (sp : XSpec),
    e.st = .wait (.exch x.pc x.m) → w.exch.find? (fun y => y.pc == x.pc && y.m == x.m) = some x → x.complete w = true →
    e.report = [] → xspecOf x.instr = some sp → bad x.instr = none → x.recv &&& ~~~w.exited ≠ 0 →
    let recv := x.recv &&& ~~~w.exited
    let r := exchange sp x.m x.arrived recv x.a x.b x.pr w.flush
    flagsOk w recv r.flags →
    ∃ w' : Wave, s.wakeEntry k held w e = (w', [e.passed []]) ∧ (∀ y ∈ w'.exch, y.pc ≠ x.pc ∨ y.m ≠ x.m) ∧
      (r.nosrc = true → w'.wstat &&& 4 = 4) ∧
      (∀ n L, n < 128 → L < 64 → w'.vLane n L =
        match (if inMask recv L then sp.part n else none) with
        | some sh => (r.vals.getD L 0 >>> sh).truncate 32
        | none => w.vLane n L) ∧
      (∀ n, n < 64 → w'.sReg n = if sp.op = xBallot ∧ (∃ h, sp.d = .s ⟨n, h⟩) then r.vals.getD 0 0 else w.sReg n) ∧
      (∀ n L, n < 16 → L < 64 → inMask (w'.pMask n) L =
        if n ≠ 0 ∧ n = sp.pd ∧ (sp.op = xVote ∨ sp.op = xElect) ∧ inMask recv L = true then r.vals.getD L 0 != 0
        else inMask (w.pMask n) L) ∧
      (∀ L, L < 64 → inMask recv L = true →
        let base := L / sp.ws * sp.ws
        let bl := (x.b.getD L 0).toNat % 2 ^ 32
        ∀ Q, (sp.op = .inl .xbfly ∧ Q = L ^^^ (bl % sp.ws)) ∨
            ((sp.op = .inl .xshf ∨ sp.op = .inl .xbcast) ∧ Q = base + bl % sp.ws) ∨
            (sp.op = .inl .xrot ∧ Q = base + (L - base + (x.b.getD L 0).toNat % 64 * sp.ws / 64) % sp.ws) →
          inMask x.m Q = false → r.vals.getD L 0 = x.a.getD L 0 ∧ r.nosrc = true))

/-! ### Control -/

/-- NOP advances the PC and does nothing else; SETPRIO gives the entry its priority; YIELD ends the run; SLEEP 0 is a YIELD,
and another SLEEP makes the entry wait until its time (R161, R168, R171). -/
def Obligations.StraightControl : Prop :=
  ∀ (i : Instr) (s : State) (pl : Plan) (c : Ctl) (k : Nat) (w : Wave) (e : Entry),
    ctlOf i = some (pl, c) → Ready i pl s k w e →
    (c = .nop → ∃ (t : State) (w' : Wave), exec i s = .next (t.closeIf (rbOf i) k) ∧ t.waveAt? k = some w' ∧
      w.Moved w' (e.past (byteLen i) :: w.frontier.tail) ∧ s.SameOutside t k) ∧
    (∀ pr, c = .setprio pr → ∃ (t : State) (w' : Wave), exec i s = .next (t.closeIf (rbOf i) k) ∧ t.waveAt? k = some w' ∧
      w.Moved w' ({ e.past (byteLen i) with prio := pr } :: w.frontier.tail) ∧ s.SameOutside t k) ∧
    (c = .yield ∨ c = .sleep 0 → ∃ (t : State) (w' : Wave), exec i s = .next (t.endRun k) ∧ t.waveAt? k = some w' ∧
      w.Moved w' (e.past (byteLen i) :: w.frontier.tail) ∧ s.SameOutside t k) ∧
    (∀ ns, c = .sleep ns → ns ≠ 0 → ∃ (t : State) (w' : Wave), exec i s = .next (t.endRun k) ∧ t.waveAt? k = some w' ∧
      w.Moved w' (e.waiting e.mask (.sleep (s.chrono + ns)) (byteLen i) :: e.others e.mask (byteLen i) :: w.frontier.tail) ∧
      s.SameOutside t k)

/-- A branch: BRA is taken by the entry's lanes whose predicate, as N inverts it, holds, and BRU by all of them or none, as
its s register is nonzero. With no lane taken the entry goes on and the run with it; otherwise the run ends with the taken
lanes at the target under the priority it names, and the others past the instruction (R54, R161, R162). That BRA takes pipe A and
BRU the scalar pipe is the model's reading of R27 (notes/assumptions/74.md). -/
def Obligations.Branches : Prop :=
  ∀ (f : Bb) (s : State) (k : Nat) (w : Wave) (e : Entry),
    let after := fun (i : Instr) (w0 : Wave) (m : Mask) => ∃ (t : State) (w' : Wave), t.waveAt? k = some w' ∧ s.SameOutside t k ∧
      (m = 0 → exec i s = .next (t.closeIf f.rb k) ∧ w0.Moved w' (e.past (byteLen i) :: w.frontier.tail)) ∧
      (m ≠ 0 → exec i s = .next (t.endRun k) ∧
        w0.Moved w' (entryAt m (bbTarget f e.pc) f.pr :: e.others m (byteLen i) :: w.frontier.tail))
    (Ready (.braBb f) ⟨0, false, [], [], [f.p.val], .vec⟩ s k w e →
      after (.braBb f) w (e.mask &&& maskOf fun L => s.readP w f.p.val L != f.n)) ∧
    (Ready (.bruBb f) (basePlan [bruSrc f] [] .scalar) s k w e → readsOk w (s.execMask w e 0 false) [bruSrc f] →
      after (.bruBb f) (w.stat (srcStat w (s.execMask w e 0 false) (bruSrc f)))
        (if ((s.readS w f.p.val != 0) != f.n) = true then e.mask else 0))

/-- JMPI and RET send each executing lane to the target its operand names, one entry for each distinct target, and the other
lanes past the instruction; with no executing lane they only advance (R161, R163). CALL writes the address after it to its
destination, a v pair in the executing lanes or an s register, and sends the executing lanes to the target; with no
executing lane it only advances (R161, R163). -/
def Obligations.JumpsAndCalls : Prop :=
  (∀ (i : Instr) (s : State) (pl : Plan) (a : Src) (pr : Option (Fin 4)) (k : Nat) (w : Wave) (e : Entry),
      ctlOf i = some (pl, .jump a pr) → Ready i pl s k w e → readsOk w (s.execMask w e pl.p pl.pn) [targetSrc a] →
      let x := s.execMask w e pl.p pl.pn
      let tgt := fun L => s.readOpnd w none (targetSrc a) L
      (∀ L, L < 64 → inMask x L = true → (tgt L).toNat % 4 = 0) →
      ∃ (t : State) (w' : Wave), t.waveAt? k = some w' ∧ s.SameOutside t k ∧
        (x = 0 → exec i s = .next (t.closeIf (rbOf i) k) ∧ w.Ran w' (e.past (byteLen i) :: w.frontier.tail)) ∧
        (x ≠ 0 → exec i s = .next (t.endRun k) ∧ ∃ es : List Entry,
          w.Ran w' (es ++ e.others x (byteLen i) :: w.frontier.tail) ∧ es.Pairwise (fun p q => p.pc ≠ q.pc) ∧
          (∀ L, L < 64 → inMask x L = true → ∃ en ∈ es, inMask en.mask L = true ∧ en.pc = tgt L) ∧
          (∀ en ∈ es, en.prio = pr.getD e.prio ∧ en.st = .ready ∧ en.starve = 0 ∧
            ∀ L, L < 64 → inMask en.mask L = true → inMask x L = true ∧ tgt L = en.pc)) ∧
        w.SameRegs w' [] ∧ w.SamePreds w') ∧
  (∀ (i : Instr) (s : State) (pl : Plan) (d : Dst) (ofs : DWord) (k : Nat) (w : Wave) (e : Entry),
      ctlOf i = some (pl, .call d ofs) → Ready i pl s k w e → (e.pc + ofs).toNat % 4 = 0 →
      let x := s.execMask w e pl.p pl.pn
      let link := e.pc + BitVec.ofNat 64 (byteLen i)
      ∃ (t : State) (w' : Wave), t.waveAt? k = some w' ∧ s.SameOutside t k ∧
        (x = 0 → exec i s = .next (t.closeIf (rbOf i) k) ∧ w.Ran w' (e.past (byteLen i) :: w.frontier.tail)) ∧
        (x ≠ 0 → exec i s = .next (t.endRun k) ∧
          w.Ran w' (entryAt x (e.pc + ofs) e.prio :: e.others x (byteLen i) :: w.frontier.tail)) ∧
        (∀ n L, n < 128 → L < 64 → w'.vLane n L =
          match (if inMask x L then destPart d true n else none) with
          | some sh => (link >>> sh).truncate 32
          | none => w.vLane n L) ∧
        (∀ n : Fin 64, w'.sReg n.val = if d = .s n ∧ x ≠ 0 then link else w.sReg n.val) ∧ w.SamePreds w')

/-- JMARK sets its join register to the address it names and the executing lanes with none arrived, and lets go any entry
that waited on the register's earlier record (R164). JOIN: at a record for its own address the executing lanes of the
record's mask arrive and wait for the others; the rest of the entry passes. Anywhere else the whole entry passes. The run
ends (R161, R165). -/
def Obligations.JoinRegisters : Prop :=
  (∀ (i : Instr) (s : State) (pl : Plan) (j : Nat) (ofs : DWord) (k : Nat) (w : Wave) (e : Entry),
      ctlOf i = some (pl, .jmark j ofs) → Ready i pl s k w e →
      let x := s.execMask w e pl.p pl.pn
      let release := fun (en : Entry) => if en.st = .wait (.join j) then en.passed [] else en
      ∃ (t : State) (w' : Wave), exec i s = .next (t.closeIf (rbOf i) k) ∧ t.waveAt? k = some w' ∧ s.SameOutside t k ∧
        ({ w with j := w.j.set j ⟨e.pc + ofs, x, 0⟩,
                  handler := w.handler.map fun (h : Handler) => { h with held := h.held.map release } } : Wave).Moved w'
          (e.past (byteLen i) :: mergeEntries (w.frontier.tail.map release)) ∧
        (∀ i', w'.j.get? i' = if i' = j then some ⟨e.pc + ofs, x, 0⟩ else w.j.get? i')) ∧
  (∀ (i : Instr) (s : State) (pl : Plan) (j : Nat) (k : Nat) (w : Wave) (e : Entry),
      ctlOf i = some (pl, .join j) → Ready i pl s k w e →
      let m := match w.j.get? j with
        | some r => if r.pc = e.pc then s.execMask w e pl.p pl.pn &&& r.mask else 0
        | none => 0
      ∃ (t : State) (w' : Wave), exec i s = .next (t.endRun k) ∧ t.waveAt? k = some w' ∧ s.SameOutside t k ∧
        (m = 0 → w.Moved w' (e.past (byteLen i) :: w.frontier.tail)) ∧
        (m ≠ 0 → ∀ r, w.j.get? j = some r →
          ({ w with j := w.j.set j { r with arrived := r.arrived ||| m } } : Wave).Moved w'
            (e.waiting m (.join j) (byteLen i) :: e.others m (byteLen i) :: w.frontier.tail)))

/-- WAITC, CPYWAIT and AWAIT make the whole entry wait: for counters, for a tag's copies, or for the array instructions
issued before it on a bank that its group holds; LWAIT makes the executing lanes wait that are late on its ticket, with its
timeout, and lets the others pass. The run ends (R161, R170, R172, R256, R288). -/
def Obligations.WaitsPark : Prop :=
  ∀ (i : Instr) (s : State) (pl : Plan) (c : Ctl) (k : Nat) (w : Wave) (e : Entry),
    ctlOf i = some (pl, c) → Ready i pl s k w e →
    let parks := fun (o : WaitObj) => ∃ (t : State) (w' : Wave), exec i s = .next (t.endRun k) ∧ t.waveAt? k = some w' ∧
      w.Moved w' (e.waiting e.mask o (byteLen i) :: e.others e.mask (byteLen i) :: w.frontier.tail) ∧ s.SameOutside t k
    (∀ l n x, c = .waitc l n x → parks (.counts l n x)) ∧
    (∀ tag n, c = .cpywait tag n → w.heldLater = false → parks (.copies tag n)) ∧
    (∀ b sd, c = .await_ b sd → w.heldLater = false →
      ((s.quadAt (quadOfCore (coreOfWave k))).bank b).ownedBy w.group = true → parks (.bank b s.nextId sd s.tick)) ∧
    (∀ tick ns, c = .lwait tick ns →
      let late := s.execMask w e pl.p pl.pn &&& w.lateOn tick
      let r := w.takeReports w.handler.isSome (lwaitCovers tick (s.execMask w e pl.p pl.pn &&& ~~~late))
      ∃ (t : State) (w' : Wave), exec i s = .next (t.endRun k) ∧ t.waveAt? k = some w' ∧ s.SameOutside t k ∧
        r.2.Moved w' (e.waiting late (.ticket tick s.nextId (if ns = 0 then none else some (s.chrono + ns))) (byteLen i) ::
          { e.others late (byteLen i) with
            report := trapsOf e.pc (e.pc + BitVec.ofNat 64 (byteLen i)) (s.execMask w e pl.p pl.pn &&& ~~~late) true r.1 } :: w.frontier.tail))

/-- EXIT ends its executing lanes: they join the exited ones and leave the entry; with the wave's last lanes it needs XC at
0 and every FENCE complete. A handler left without live lanes ends; otherwise the run ends (R169, R364). -/
def Obligations.ExitEndsLanes : Prop :=
  ∀ (i : Instr) (s : State) (pl : Plan) (k : Nat) (w : Wave) (e : Entry),
    ctlOf i = some (pl, .exit) → Ready i pl s k w e →
    let x := s.execMask w e pl.p pl.pn
    (x = 0 → ∃ (t : State) (w' : Wave), exec i s = .next (t.endRun k) ∧ t.waveAt? k = some w' ∧ s.SameOutside t k ∧
      w.Moved w' (e.past (byteLen i) :: w.frontier.tail)) ∧
    (x ≠ 0 → (w.lastLanes x = true → w.counter .xc = 0 ∧ w.fencing = false) → w.reports = [] →
      ∃ (t : State) (w' : Wave), exec i s = .next (t.leave k w') ∧ t.waveAt? k = some w' ∧ s.SameOutside t k ∧
        ({ w with exited := w.exited ||| x } : Wave).Moved w' (e.others x (byteLen i) :: w.frontier.tail))

/-! ### Traps -/

/-- TRAP, BRKPT and SYSCALL take their trap precisely, with RETPC the next instruction: outside handler mode, in a context
with a handler, the trap registers are written, the state is kept and a new run starts at the handler; nothing outside the
wave changes. With no executing lane they only advance (R173, R360 to R362, R368). That the handler's entry keeps the priority
and starts with the starvation count 0 is the model's choice (notes/assumptions/41.md). -/
def Obligations.TrapInstructions : Prop :=
  ∀ (i : Instr) (s : State) (pl : Plan) (c : Cause) (addr : Nat) (k : Nat) (w : Wave) (e : Entry),
    ctlOf i = some (pl, .trap c addr) → Ready i pl s k w e → w.handler = none → s.handlerOf w ≠ 0 →
    let x := s.execMask w e pl.p pl.pn
    (x = 0 → ∃ (t : State) (w' : Wave), exec i s = .next (t.closeIf (rbOf i) k) ∧ t.waveAt? k = some w' ∧ s.SameOutside t k ∧
      w.Moved w' (e.past (byteLen i) :: w.frontier.tail)) ∧
    (x ≠ 0 → ∃ (t : State) (w' : Wave), exec i s = .next t ∧ t.waveAt? k = some w' ∧ s.SameOutside t k ∧
      w.Entered w' e (w.run.slots + 1) (s.handlerOf w)
        ⟨c, false, false, e.pc, BitVec.ofNat 64 addr, x, e.pc + BitVec.ofNat 64 (byteLen i), rbOf i⟩)

/-- Taking a trap outside handler mode, in a context with a handler, enters it (R361, R362). A trap with no handler, and a
trap in handler mode, halts the launch: the trap registers are written, the wave's lanes end, and the launch has failed with
code 6 unless it had failed before (R363, R365, R369). That the handler's entry keeps the priority with the starvation count 0, and
that the trap registers hold the second cause of a double trap, are the model's choices (notes/assumptions/41.md). -/
def Obligations.TrapEntry : Prop :=
  (∀ (s : State) (k : Nat) (w : Wave) (e : Entry) (r : TrapRec),
      s.waveAt? k = some w → w.frontier = e :: w.frontier.tail → w.handler = none → s.handlerOf w ≠ 0 →
      (s.coreAt (coreOfWave k)).run = some k →
      ∃ w', (s.takeTrap k r).waveAt? k = some w' ∧ s.SameOutside (s.takeTrap k r) k ∧
        w.Entered w' e w.run.slots (s.handlerOf w) r) ∧
  (∀ (s : State) (k : Nat) (w : Wave) (r : TrapRec) (l : Launch),
      s.waveAt? k = some w → (w.handler.isSome = true ∨ s.handlerOf w = 0) → s.launchAt? w.launch = some l →
      ∃ w' l', (s.takeTrap k r).waveAt? k = some w' ∧ w'.frontier = [] ∧ w'.exited = w.launched ∧ w'.handler = none ∧
        w'.trapcause = r.causeWord ∧ w'.trappc = r.pc ∧ w'.trapaddr = r.addr ∧
        (s.takeTrap k r).launchAt? w.launch = some l' ∧ l'.fault = some (l.fault.getD 6))

/-- The checks before an instruction's own, in the order of R78, for every instruction word: a trap that is due is taken in
its place; after 24 issue slots it is RUNLEN, in a new run; a word that decodes to no legal encoding is ILLEGAL; a
privileged one outside handler mode is PRIV. None has another effect. A word that is no instruction raises ILLEGAL
precisely, with its opcode as TRAPADDR, when no earlier check of R78 stops it (R79, R138; the opcode as TRAPADDR is the
model's reading, notes/assumptions/14.md). That a due trap comes first and RUNLEN before the encoding is the model's order
(notes/assumptions/38.md, notes/assumptions/41.md). A class A or W instruction whose core has class L operations overdue at its
issue cycle issues once they have landed (R36). -/
def Obligations.ChecksBeforeIssue : Prop :=
  (∀ (i : Instr) (s : State) (k : Nat) (w : Wave) (e : Entry), isWord i = true → s.issuer = some (k, w, e) →
      (∀ t, s.overdue (coreOfWave k) t = []) →
      (∀ r, w.dueTrap e = some r → exec i s = .next ((s.setWave k (w.dropDue e)).takeTrap k r)) ∧
      (w.dueTrap e = none → w.fenceDue e = none →
        (24 ≤ w.run.slots → ∃ m, exec i s = .next (s.takeTrap k (precise .runlen s.anyAddr e m true))) ∧
        (w.run.slots < 24 → ∀ v, bad i = some v →
          ∃ m, exec i s = .next (s.takeTrap k (precise .illegal (v.zeroExtend 64) e m false))) ∧
        (w.run.slots < 24 → bad i = none → privileged i = true → w.handler = none →
          ∃ m, exec i s = .next (s.takeTrap k (precise .priv s.anyAddr e m false))))) ∧
  (∀ (s : State) (opc : BitVec 8) (k : Nat) (w : Wave) (e : Entry), s.issuer = some (k, w, e) →
      (∀ t, s.overdue (coreOfWave k) t = []) → w.dueTrap e = none → w.fenceDue e = none → w.run.slots < 24 →
      exec (.nonInstruction opc) s =
        .next (s.takeTrap k (precise .illegal (opc.zeroExtend 64) e (s.execMask w e 0 false) false))) ∧
  (∀ (i : Instr) (s : State) (p : Fin 16) (pn : Bool) (a : Alu) (k : Nat) (w : Wave) (e : Entry),
      aluOf s i = some (p, pn, a) → s.issuer = some (k, w, e) →
      let t := (slotOf (s.coreAt (coreOfWave k)) w (a.plan p pn)).t
      s.overdue (coreOfWave k) t ≠ [] → ∀ k' w' e', (s.landOverdue (coreOfWave k) t).issuer = some (k', w', e') →
        exec i s = .next (issueAt i (a.plan p pn) a.body k' w' e' (s.landOverdue (coreOfWave k) t)))

/-- TRET outside handler mode is ILLEGAL (its opcode as TRAPADDR is the model's reading, notes/assumptions/14.md). In handler
mode the entry's lanes wait for the handler's others; when every other entry with lanes waits on a TRET, or none is left, the
handler ends: the held entries return and the lanes of all its TRETs go on at RETPC as one entry with the
priority, count and reports kept for it (parked again where the trap came from the completion of its exchange, R179), in the
interrupted run with its upper levels and slot count, or in a new one where TRAPRUN.NEWRUN is 1 (R364). -/
def Obligations.TretReturns : Prop :=
  ∀ (i : Instr) (s : State) (k : Nat) (w : Wave) (e : Entry), ctlOf i = some (plainPlan, .tret) → Ready i plainPlan s k w e →
    (w.handler = none → exec i s =
      .next (s.takeTrap k (precise .illegal 0xCA e (s.execMask w e 0 false) false))) ∧
    (∀ h, w.handler = some h → (∃ q ∈ w.frontier.tail, q.st ≠ .wait .tret ∧ q.mask ≠ 0) →
      ∃ (t : State) (w' : Wave), exec i s = .next (t.endRun k) ∧ t.waveAt? k = some w' ∧ s.SameOutside t k ∧
        w.Moved w' ({ e with st := .wait .tret, len := byteLen i } :: w.frontier.tail)) ∧
    (∀ h, w.handler = some h → (∀ q ∈ w.frontier.tail, q.st = .wait .tret ∨ q.mask = 0) → e.mask ≠ 0 →
      let m := w.frontier.tail.foldl (fun m q => if q.st = .wait .tret then m ||| q.mask else m) e.mask
      ∃ (t : State) (w' : Wave), t.waveAt? k = some w' ∧ s.SameOutside t k ∧ w'.handler = none ∧
        w'.frontier = w.resumed h m :: h.held ∧
        (h.parked = none → w.resumed h m = ⟨w.retpc, m, h.prio, h.starve, .ready, 0, h.report⟩) ∧
        (w.traprun.getLsbD 5 = false → exec i s = .next (t.resumeRun k) ∧ w'.up = h.up ∧ w'.run = ⟨true, h.slots, 0⟩) ∧
        (w.traprun.getLsbD 5 = true → exec i s = .next (t.endRun k)) ∧
        w' = { w with handler := none, frontier := w'.frontier, up := w'.up, run := w'.run, perf := w'.perf, susp := none,
                       exch := (w.forsake h m).exch })

/-! ### Memory instructions, copies and rendezvous -/

/-- The checks of one lane's access, in their order (R185): alignment first; then the window: a partition address inside the
partition goes to it, past its end is APERTURE; a private address where the private window is not accepted, or past its end,
is APERTURE; an address in no window is APERTURE (R184, R188). A memory instruction whose lowest failing lane fails with a
trap takes it precisely, with the lane's address; nothing else happens (R185, R228, R360). -/
def Obligations.AccessChecks : Prop :=
  (∀ (s : State) (u : Iss) (want : Want) (priv : Bool) (size L va : Nat),
      (va % size ≠ 0 → s.laneAccess u want priv size L va = (s, .trap .misalign)) ∧
      (va % size = 0 → 0xFE00000000000000 ≤ va → va < 0xFF00000000000000 → ∀ g, s.groupAt? u.w.group = some g →
        s.laneAccess u want priv size L va =
          if va - 0xFE00000000000000 + size ≤ g.size then
            (s, .go [(0, size, .scratch u.w.group (va - 0xFE00000000000000), none)])
          else (s, .trap .aperture)) ∧
      (va % size = 0 → 0xFF00000000000000 ≤ va → ∀ l, s.launchAt? u.w.launch = some l →
        (priv = false ∨ l.pb < va - 0xFF00000000000000 + size) → s.laneAccess u want priv size L va = (s, .trap .aperture)) ∧
      (va % size = 0 → 2 ^ 57 ≤ va → va < 0xFE00000000000000 → s.laneAccess u want priv size L va = (s, .trap .aperture))) ∧
  (∀ (i : Instr) (s : State) (m : MemI) (k : Nat) (w : Wave) (e : Entry) (c : Cause) (va : Nat),
      accessOf i = some m → Ready i m.plan s k w e → m.dead w (s.execMask w e m.p m.pn) = none →
      (m.checks (issOf i m.plan s k w e) s).2 = .error (.trap c, va) →
      exec i s = .next (s.takeTrap k (precise c (BitVec.ofNat 64 va) e (s.execMask w e m.p m.pn) false)))

/-- LD, ST, LDNF, ATOM, ATOMF, RED, REDF, CAS, SLD and SST to this device's memory complete as they issue when their checks
pass, no earlier acquire or FENCE holds them, a release they carry is satisfied and their counter has room: one access for
each part of each lane enters the memory system, with the lane's bytes; an operation that returns data is counted and
pending; and no register (but those killed), predicate, byte of memory or anything elsewhere changes (R36, R39, R200, R209,
R228, R229, R232, R234 to R236). -/
def Obligations.MemoryIssue : Prop :=
  ∀ (i : Instr) (s : State) (m : MemI) (k : Nat) (w : Wave) (e : Entry) (ps : List (Nat × Option Parts)),
    accessOf i = some m → Ready i m.plan s k w e →
    let x := s.execMask w e m.p m.pn
    m.dead w x = none → (m.checks (issOf i m.plan s k w e) s).2 = .ok ps →
    (∀ q ∈ ps, ∀ p, q.2 = some p → ∀ y ∈ p, y.2.2.1.isLocal = true) →
    s.Settled → w.heldLater = false →
    (m.ord.releases = true → (m.checks (issOf i m.plan s k w e) s).1.released k m.scope = true) →
    (m.op.ctr ≠ .none → w.full m.op.ctr = false) → s.needsSlots (.wave k) = false →
    ∃ (t : State) (w' : Wave), exec i s = .next (t.closeIf (rbOf i) k) ∧ t.waveAt? k = some w' ∧
      w'.frontier = e.past (byteLen i) :: w.frontier.tail ∧ w'.run.slots = w.run.slots + 1 ∧
      w.SameRegs w' (killsOf (m.addrSrcs ++ m.dataSrcs)) ∧ w.SamePreds w' ∧ s.SameElsewhere t k ∧
      (m.ord.releases = false → t.groups = s.groups) ∧
      (∀ q ∈ ps, ∀ p, q.2 = some p → ∀ y ∈ p, ∃ a ∈ t.mem.accs, a.owner = .wave k ∧ a.lane = q.1 ∧ a.part = y.1 ∧
        a.size = y.2.1 ∧ a.tgt = y.2.2.1 ∧ a.kind = m.kind ∧ a.stage = .travelling ∧ a.data = m.sent s w q.1 y.1 y.2.1) ∧
      (m.op.ctr ≠ .none → m.lanes x ≠ 0 → ∃ o ∈ w'.lops, o.ctr = m.op.ctr ∧ o.mask = m.lanes x ∧ o.left = m.lanes x ∧
        o.work = .load m.sz m.sign m.op ∧ o.acquire = m.ord.acquires ∧ o.ticket = m.tk ∧ o.pc = e.pc)

/-- A memory instruction all of whose accesses lie in one line of another device, MCRED among them, completes as it issues
when the device is a Meridian member and a reply slot of its wave is free: its accesses are one request, which takes the
lowest free slot with the slot's next SEQ (R240, R294, R295). -/
def Obligations.RemoteIssue : Prop :=
  ∀ (i : Instr) (s : State) (m : MemI) (k : Nat) (w : Wave) (e : Entry) (ps : List (Nat × Option Parts))
    (line : Bool × Nat × Nat × Nat) (j : Nat),
    accessOf i = some m → Ready i m.plan s k w e →
    let x := s.execMask w e m.p m.pn
    m.dead w x = none → (m.checks (issOf i m.plan s k w e) s).2 = .ok ps → ps ≠ [] →
    (∀ q ∈ ps, ∃ p, q.2 = some p ∧ p ≠ [] ∧ ∀ y ∈ p, y.2.2.1.farLine = some line) →
    s.Settled → w.heldLater = false →
    (m.ord.releases = true → (m.checks (issOf i m.plan s k w e) s).1.released k m.scope = true) →
    (m.op.ctr ≠ .none → w.full m.op.ctr = false) → s.needsSlots (.wave k) = false → s.isMember = true →
    (∀ a ∈ s.mem.accs, a.id < s.nextId) → s.freeSlot false k 8 = some j →
    ∃ (t : State) (w' : Wave), exec i s = .next (t.closeIf (rbOf i) k) ∧ t.waveAt? k = some w' ∧
      w'.frontier = e.past (byteLen i) :: w.frontier.tail ∧ w.SameRegs w' (killsOf (m.addrSrcs ++ m.dataSrcs)) ∧
      w.SamePreds w' ∧ s.SameElsewhere t k ∧
      (∃ id, (w'.slots.getD j RSlot.init).busy = some id) ∧
      (w'.slots.getD j RSlot.init).seq = (w.slots.getD j RSlot.init).seq + 1 ∧
      (∀ q ∈ ps, ∀ p, q.2 = some p → ∀ y ∈ p, ∃ a ∈ t.mem.accs, a.owner = .wave k ∧ a.lane = q.1 ∧ a.part = y.1 ∧
        a.tgt = y.2.2.1 ∧ a.kind = m.kind ∧ a.slot = some j)

/-- PREF, CINV and CDEMOTE complete without a trap whatever they address, and change no register (but those killed), predicate
or byte of memory; where each address lies in no window of the device's memory, in a private window among them, they touch no copy
of a line either (R188, R228). That a dead base or index does not trap is the model's choice
(notes/assumptions/75.md). PGREQ completes likewise once its posts have room; a FENCE that nothing holds is pending until its conditions
hold, counted in SC where it has a status, and with no executing lane it does nothing, which is the model's choice too
(notes/assumptions/54.md) (R210, R233, R238, R239). -/
def Obligations.FencesAndHints : Prop :=
  ∀ (i : Instr) (s : State) (k : Nat) (w : Wave) (e : Entry),
    (∀ m pl act, hintOf i = some (m, pl, some act) → Ready i pl s k w e → w.heldLater = false → s.Settled →
      Issues i s k fun t w' => w'.frontier = e.past (byteLen i) :: w.frontier.tail ∧ w.SameRegs w' (killsOf m.addrSrcs) ∧
        w.SamePreds w' ∧ s.SameElsewhere t k ∧ t.groups = s.groups ∧ t.outbox = s.outbox ∧
        ((∀ L, L < 64 → inMask (s.execMask w e m.p m.pn) L = true → 2 ^ 57 ≤ (m.addr s w L).toNat) →
          t.mem = s.mem ∧ ∀ c, (t.coreAt c).l1 = (s.coreAt c).l1)) ∧
    (∀ m pl, hintOf i = some (m, pl, none) → Ready i pl s k w e → m.dead w (s.execMask w e m.p m.pn) = none →
      w.heldLater = false → s.Settled →
      let r := s.absentPages (issOf i pl s k w e) ((lanesIn (s.execMask w e m.p m.pn)).map fun L => (m.addr s w L).toNat)
      (r.1.postAll w.ctx w.launch (distinct r.2)).2 = [] →
      Issues i s k fun t w' => w'.frontier = e.past (byteLen i) :: w.frontier.tail ∧ w.SameRegs w' (killsOf m.addrSrcs) ∧
        w.SamePreds w' ∧ s.SameMemory t ∧ ∀ j, j ≠ k → t.waveAt? j = s.waveAt? j) ∧
    (∀ f, i = .fenceXm f → Ready i ⟨f.p, f.pn, [], dstNamed f.d true, [], .none⟩ s k w e →
      (s.execMask w e f.p f.pn = 0 → ∃ (t : State) (w' : Wave), exec i s = .next (t.closeIf (rbOf i) k) ∧
        t.waveAt? k = some w' ∧ w.Moved w' (e.past (byteLen i) :: w.frontier.tail) ∧ s.SameOutside t k) ∧
      (s.execMask w e f.p f.pn ≠ 0 → w.heldLater = false → (∀ n, f.d = .s n → w.full .sc = false) →
        ∃ (t : State) (w' : Wave) (o : LOp), exec i s = .next (t.closeIf (rbOf i) k) ∧ t.waveAt? k = some w' ∧
          ({ w with lops := w.lops ++ [o] } : Wave).Moved w' (e.past (byteLen i) :: w.frontier.tail) ∧ s.SameElsewhere t k ∧
          o.id = s.nextId ∧ o.pc = e.pc ∧ o.done = false ∧
          (∀ n, f.d = .s n → o.ctr = .sc ∧ o.work = .fence f.scope true ∧ o.left = 1 ∧ o.bare.writes = [⟨.s n.val, 1, [], 0⟩]) ∧
          (f.d = .null → o.ctr = .none ∧ o.work = .fence f.scope false ∧ o.left = 0 ∧ o.writes = [])))

/-- TCOPY, TSTORE and TGATHER that pass the checks of R245 enter the queue of their quad's TCE with their operands, at its
end and not yet accepted; a TCOPY that asks for a promise is counted in XC with it. They change no register and no byte of
memory (R242 to R253). A CPY whose lanes pass the checks of R255 completes as it issues: it is counted in its tag's BC with
every executing lane outstanding, and its accesses enter the memory system; with no executing lane it does nothing (R255,
R256). -/
def Obligations.CopyInstructions : Prop :=
  (∀ (i : Instr) (f : Xt) (m : EngI) (dsts : List (Src × Nat)) (s : State) (k : Nat) (w : Wave) (e : Entry) (off : Nat),
      ((i = .tcopyXt f ∧ m = tcopyI f ∧ dsts = dstNamed f.d true) ∨ (i = .tstoreXt f ∧ m = tstoreI f ∧ dsts = []) ∨
        (i = .tgatherXt f ∧ m = tgatherI f ∧ dsts = [])) →
      Ready i (basePlan m.srcs dsts .none) s k w e → readsOk w (s.execMask w e 0 false) m.srcs →
      let u := issOf i (basePlan m.srcs dsts .none) s k w e
      let q := quadOfCore (coreOfWave k)
      m.check u s = .ok off → w.heldLater = false → s.tceFull (coreOfWave k) = false →
      (m.kind.stores = true → s.oprdyHolds k w = false ∧ f.d = .null) →
      (∀ n, f.d = .s n → i = .tcopyXt f ∧ w.full .xc = false) →
      ∃ (t : State) (w' : Wave) (c : Copy), exec i s = .next (t.closeIf (rbOf i) k) ∧ t.waveAt? k = some w' ∧
        w'.frontier = e.past (byteLen i) :: w.frontier.tail ∧ w.SameRegs w' [] ∧ w.SamePreds w' ∧ s.SameElsewhere t k ∧
        (t.quadAt q).copies = (s.quadAt q).copies ++ [c] ∧ c.id = s.nextId ∧ c.kind = m.kind ∧ c.rdv = off ∧
        c.tile = (u.val f.lit f.a s).toNat % 65536 ∧ c.row0 = tileRow0 (u.val f.lit f.a s) ∧ c.rows = m.rows ∧
        c.mem = u.val f.lit f.b s ∧ c.stride = u.val f.lit f.c s ∧ c.accepted = false ∧ c.nextRow = 0 ∧ c.wave = k ∧
        (∀ n, f.d = .s n → ∃ o ∈ w'.lops, o.id = c.id ∧ o.ctr = .xc ∧ o.work = .tcopy c.id ∧ o.left = 1 ∧
          o.bare.writes = [⟨.s n.val, 1, [], 0⟩])) ∧
  (∀ (f : Xt) (s : State) (k : Nat) (w : Wave) (e : Entry) (l : List (Nat × Nat × Parts)),
      Ready (.cpyXt f) (xtPlan f (cpySrcs f) [] .none) s k w e →
      let x := s.execMask w e f.p f.pn
      let u := issOf (.cpyXt f) (xtPlan f (cpySrcs f) [] .none) s k w e
      let at_ := fun (a : Src) (rd : Rd) (L : Nat) => (s.readOpnd w f.lit (opnd a rd) L).toNat
      readsOk w x (cpySrcs f) → s.Settled →
      (x = 0 → ∃ (t : State) (w' : Wave), exec (.cpyXt f) s = .next (t.closeIf (rbOf (.cpyXt f)) k) ∧ t.waveAt? k = some w' ∧
        w.Moved w' (e.past (byteLen (.cpyXt f)) :: w.frontier.tail) ∧ s.SameOutside t k) ∧
      (x ≠ 0 → (s.cpyLanes u (cpySize f)
          ((lanesIn x).map fun L => (L, min (at_ f.c .i32 L) (cpySize f), at_ f.a .i64 L, at_ f.b .i64 L))).2 = .ok l →
        (∀ q ∈ l, ∀ y ∈ q.2.2, y.2.2.1.isLocal = true) → w.heldLater = false → w.full (.bc (cpyTag f)) = false →
        s.needsSlots (.wave k) = false →
        ∃ (t : State) (w' : Wave) (o : LOp), exec (.cpyXt f) s = .next (t.closeIf (rbOf (.cpyXt f)) k) ∧ t.waveAt? k = some w' ∧
          w'.frontier = e.past (byteLen (.cpyXt f)) :: w.frontier.tail ∧ w.SameRegs w' [] ∧ w.SamePreds w' ∧
          s.SameElsewhere t k ∧ w'.lops = w.lops ++ [o] ∧ o.ctr = .bc (cpyTag f) ∧ o.mask = x ∧ o.left = x ∧ o.done = false ∧
          (∀ q ∈ l, ∀ y ∈ q.2.2, ∃ a ∈ t.mem.accs, a.owner = .wave k ∧ a.op = o.id ∧ a.lane = q.1 ∧ a.part = y.1 ∧
            a.size = y.2.1 ∧ a.tgt = y.2.2.1 ∧ a.kind = .load)))

/-- RDVINIT stores 32 bytes, EXP = PEND = n and every other field 0; RDVARR queues an arrival of its executing lanes, or of
one, and does nothing without a lane; RDVEXP queues an expectation (R257, R259, R260). A wave that issues has no request that
still waits for a reply slot (R295). -/
def Obligations.RendezvousUpdates : Prop :=
  ∀ (f : Xt) (s : State) (k : Nat) (w : Wave) (e : Entry) (off : Nat), w.heldLater = false →
    (∀ pl, pl = basePlan [uni f.a, uni f.b] [] .none → Ready (.rdvinitXt f) pl s k w e →
      readsOk w (s.execMask w e 0 false) [uni f.a, uni f.b] →
      s.rdvCheck w.group (s.readOpnd w f.lit (uni f.a) 0) = .ok off → s.needsSlots (.wave k) = false →
      ∃ (t : State) (w' : Wave) (a : Acc), exec (.rdvinitXt f) s = .next (t.closeIf (rbOf (.rdvinitXt f)) k) ∧
        t.waveAt? k = some w' ∧ w.Ran w' (e.past (byteLen (.rdvinitXt f)) :: w.frontier.tail) ∧ w.SameRegs w' [] ∧
        w.SamePreds w' ∧ s.SameElsewhere t k ∧ a ∈ t.mem.accs ∧ a.owner = .wave k ∧ a.kind = .store ∧
        a.tgt = .scratch w.group off ∧ a.stage = .travelling ∧
        let n := (s.readOpnd w f.lit (uni f.b) 0).toNat % 65536
        a.data = bytesOf 32 (n + n * 65536)) ∧
    (Ready (.rdvarrXt f) (xtPlan f [uni f.a] [] .none) s k w e → readsOk w (s.execMask w e f.p f.pn) [uni f.a] →
      s.rdvCheck w.group (s.readOpnd w f.lit (uni f.a) 0) = .ok off →
      let x := s.execMask w e f.p f.pn
      ∃ (t : State) (w' : Wave), exec (.rdvarrXt f) s = .next (t.closeIf (rbOf (.rdvarrXt f)) k) ∧ t.waveAt? k = some w' ∧
        s.SameOutside t k ∧ w.SameRegs w' [] ∧ w.SamePreds w' ∧
        ({ w with rdvq := if x = 0 then w.rdvq else w.rdvq ++
            [⟨s.nextId, off, .arrive (if f.e8.getLsbD 0 then 1 else laneCount x)⟩] } : Wave).Ran w'
          (e.past (byteLen (.rdvarrXt f)) :: w.frontier.tail)) ∧
    (Ready (.rdvexpXt f) (basePlan [uni f.a, uni f.b] [] .none) s k w e →
      readsOk w (s.execMask w e 0 false) [uni f.a, uni f.b] →
      s.rdvCheck w.group (s.readOpnd w f.lit (uni f.a) 0) = .ok off →
      ∃ (t : State) (w' : Wave), exec (.rdvexpXt f) s = .next (t.closeIf (rbOf (.rdvexpXt f)) k) ∧ t.waveAt? k = some w' ∧
        s.SameOutside t k ∧ w.SameRegs w' [] ∧ w.SamePreds w' ∧
        ({ w with rdvq := w.rdvq ++ [⟨s.nextId, off, .expect (signedOf 32 (s.readOpnd w f.lit (uni f.b) 0).toNat)⟩] } : Wave).Ran
          w' (e.past (byteLen (.rdvexpXt f)) :: w.frontier.tail))

/-- RDVWAIT, and PWAIT with t = 0, on an object in another phase than the one they wait out complete at once: they adopt the
object's CWCT, write its status where they name a register, and the run ends; with no status register and ERR set RDVERR is due
where they go on, and with the group's error flag set, which is cleared, ECC too (R251, R262). In that phase they wait, and PWAIT with a
later time waits until then. RDVTEST is counted in XC with the object's status, read as it issues, which is the model's choice
(notes/assumptions/54.md). A malformed object raises RDVERR (R254, R257, R260 to R262). -/
def Obligations.RendezvousWaits : Prop :=
  ∀ (i : Instr) (f : Xt) (s : State) (k : Nat) (w : Wave) (e : Entry) (off : Nat) (g : Group) (srcs : List Opnd),
    ((i = .rdvwaitXt f ∧ srcs = [uni f.a, uni f.b]) ∨ (i = .rdvtestXt f ∧ srcs = [uni f.a]) ∨
      (i = .pwaitXt f ∧ srcs = [uni f.a, uni f.b, uni f.c])) →
    Ready i (basePlan srcs (dstNamed f.d true) .none) s k w e → readsOk w (s.execMask w e 0 false) srcs →
    s.rdvCheck w.group (s.readOpnd w f.lit (uni f.a) 0) = .ok off → w.heldLater = false → s.groupAt? w.group = some g →
    s.initPending k w.group off s.nextId = false →
    let o := g.rdv off
    let ph := (s.readOpnd w f.lit (uni f.b) 0).getLsbD 0
    let tm := (s.readOpnd w f.lit (uni f.c) 0).toNat
    let sd := match f.d with | .s n => some n | _ => none
    (i ≠ .rdvtestXt f → (i = .pwaitXt f → tm = 0) → o.malformed = false → o.phase ≠ ph → w.reports = [] →
      let ret := e.pc + BitVec.ofNat 64 (byteLen i)
      let due : List TrapRec := (if sd = none ∧ o.err = true then [⟨.rdverr, false, false, e.pc, scratchAddr off, e.mask, ret, true⟩]
          else []) ++
        (if g.err = true ∧ w.handler = none then [⟨.ecc, true, false, e.pc, 0, e.mask, ret, true⟩] else [])
      ∃ (t : State) (w' : Wave), exec i s = .next (t.endRun k) ∧ t.waveAt? k = some w' ∧
        w'.frontier = [({ e with len := byteLen i } : Entry).passed due] ++ w.frontier.tail ∧
        (t.groupAt? w.group).map (·.err) = some (g.err && w.handler.isSome) ∧
        w'.mwct = BitVec.ofNat 64 (max w.mwct.toNat o.cwct) ∧
        (∀ n : Fin 64, w'.sReg n.val = if sd = some n then o.status else w.sReg n.val) ∧
        (∀ n L, n < 128 → w'.vLane n L = w.vLane n L) ∧ w.SamePreds w' ∧ s.SameMemory t) ∧
    (i ≠ .rdvtestXt f → (i = .pwaitXt f → tm = 0) → o.malformed = false → o.phase = ph →
      ∃ (t : State) (w' : Wave), exec i s = .next (t.endRun k) ∧ t.waveAt? k = some w' ∧ s.SameOutside t k ∧
        w.Ran w' (e.waiting e.mask (.rdv off ph sd s.tick) (byteLen i) :: e.others e.mask (byteLen i) :: w.frontier.tail) ∧
        w.SameRegs w' [] ∧ w.SamePreds w') ∧
    (i = .pwaitXt f → tm ≠ 0 →
      ∃ (t : State) (w' : Wave), exec i s = .next (t.endRun k) ∧ t.waveAt? k = some w' ∧ s.SameOutside t k ∧
        w.Ran w' (e.waiting e.mask (.promise off ph sd tm) (byteLen i) :: e.others e.mask (byteLen i) :: w.frontier.tail) ∧
        w.SameRegs w' [] ∧ w.SamePreds w') ∧
    (i = .rdvtestXt f → o.malformed = false → ∀ n, f.d = .s n → w.full .xc = false →
      ∃ (t : State) (w' : Wave) (p : LOp), exec i s = .next (t.closeIf (rbOf i) k) ∧ t.waveAt? k = some w' ∧
        w.Queued w' (e.past (byteLen i) :: w.frontier.tail) ∧ w.SameRegs w' [] ∧ s.SameOutside t k ∧ p ∈ w'.lops ∧
        p.ctr = .xc ∧ p.left = 1 ∧ p.ready = 1 ∧ p.bare.writes = [⟨.s n.val, 1, [o.status], 0⟩]) ∧
    (o.malformed = true → w.handler = none → s.handlerOf w ≠ 0 → (i = .pwaitXt f → tm = 0) →
      ∃ (t : State) (w' : Wave), exec i s = .next t ∧ t.waveAt? k = some w' ∧ w'.trapcause.toNat % 256 = 0x0B ∧
        w'.trapaddr = scratchAddr off ∧ w'.frontier.map (·.pc) = [BitVec.ofNat 64 (s.handlerOf w)])

/-! ### Matrix instructions -/

/-- ACLAIM takes the banks of its mask that are free or its group's, AREL releases and AZERO zeroes banks of its group:
their state changes at issue, and a zeroing is queued on each; the other banks stay. A bank in another state raises ACCOWN,
with every such bank of the mask in TRAPADDR. The array decides it in its cycle unless a core that the arbiter visits later has
had a decision in that cycle and no cycle is free; then it is held, which is the model's reading of R277 (R277, R278;
notes/assumptions/39.md). -/
def Obligations.BankInstructions : Prop :=
  ∀ (i : Instr) (f : Xt) (m : BitVec 8) (ok : Bank → Bool) (act : Bank → Bank) (rel : Bool) (s : State) (k : Nat) (w : Wave)
    (e : Entry),
    ((i = .aclaimXt f ∧ m = f.e8 ∧ rel = false ∧ (∀ b, ok b = (b.st == .free || b.ownedBy w.group)) ∧
        ∀ b, act b = { b with st := .owned, owner := w.group }) ∨
      (i = .arelXt f ∧ m = f.e8 ∧ rel = true ∧ (∀ b, ok b = b.ownedBy w.group) ∧ ∀ b, act b = { b with st := .releasing }) ∨
      (i = .azeroXt f ∧ m = BitVec.twoPow 8 (f.e8.toNat % 8) ∧ rel = false ∧ (∀ b, ok b = b.ownedBy w.group) ∧
        ∀ b, act b = b)) →
    Ready i plainPlan s k w e →
    let q := s.quadAt (quadOfCore (coreOfWave k))
    (s.claimNow q (coreOfWave k) = none → exec i s = .next (s.suspend k .retry)) ∧
    (s.claimNow q (coreOfWave k) ≠ none → (∃ b, b < 8 ∧ m.getLsbD b = true ∧ ok (q.bank b) = false) →
      ∃ v, v < 256 ∧ (∀ b, b < 8 → v.testBit b = (m.getLsbD b && !ok (q.bank b))) ∧
        exec i s = .next (s.takeTrap k (precise .accown (BitVec.ofNat 64 v) e (s.execMask w e 0 false) false))) ∧
    (s.claimNow q (coreOfWave k) ≠ none → (∀ b, b < 8 → m.getLsbD b = true → ok (q.bank b) = true) → w.heldLater = false →
      s.arrayFull (coreOfWave k) = false →
      Issues i s k fun t w' => w.Moved w' (e.past (byteLen i) :: w.frontier.tail) ∧ s.SameElsewhere t k ∧ t.groups = s.groups ∧
        ∀ b, b < 8 →
          (t.quadAt (quadOfCore (coreOfWave k))).bank b = (if m.getLsbD b then act (q.bank b) else q.bank b) ∧
          (m.getLsbD b = true → ∃ o ∈ (t.quadAt (quadOfCore (coreOfWave k))).ops, s.nextId ≤ o.id ∧ o.bank = b ∧
            o.kind = .zero rel ∧ o.inst = s.nextId))

/-- MMA and MMAG take the first trap of the checks of R280, in their order; passing them, they queue an op on their bank
with their tiles and rendezvous, and change no register and no byte of memory (R280 to R285). -/
def Obligations.MatrixInstructions : Prop :=
  ∀ (f : Xt) (gather : Bool) (s : State) (k : Nat) (w : Wave) (e : Entry),
    let i := if gather then Instr.mmagXt f else Instr.mmaXt f
    let srcs := arraySrcs f (if gather then [f.a, f.b, f.c] else [f.a, f.b])
    let u := issOf i (basePlan srcs [] .none) s k w e
    Ready i (basePlan srcs [] .none) s k w e → readsOk w (s.execMask w e 0 false) srcs →
    (∀ c a, opCheck gather f u s = .error (c, a) →
      exec i s = .next (s.takeTrap k (precise c a e (s.execMask w e 0 false) false))) ∧
    (∀ rdv kind, opCheck gather f u s = .ok (rdv, kind) → s.arrayHeld u = false →
      (kind = (if gather then .mmag (bits f.imm.toNat 2 0) ((u.val f.lit f.a s).toNat % 65536)
          ((u.val f.lit f.b s).toNat % 65536) (u.val f.lit f.c s).toNat (bits f.imm.toNat 9 3 + 1)
        else .mma (bits f.imm.toNat 2 0) ((u.val f.lit f.a s).toNat % 65536) ((u.val f.lit f.b s).toNat % 65536))) ∧
      Issues i s k fun t w' => ({ w with oprdy := none } : Wave).Ran w' (e.past (byteLen i) :: w.frontier.tail) ∧
        w.SameRegs w' [] ∧ w.SamePreds w' ∧ s.SameElsewhere t k ∧
        ∃ o ∈ (t.quadAt (quadOfCore (coreOfWave k))).ops, o.id = s.nextId ∧ o.kind = kind ∧ o.bank = bankOf f ∧ o.rdv = rdv ∧
          o.wave = k ∧ o.group = w.group ∧ o.core = coreOfWave k)

/-- ARD, ADRAIN and ALOAD on a bank of their group queue their transfer; ARD is counted in XC with its v group pending.
OPRDY marks the scratchpad stores before it, and the core's next op refills both operands (R283, R284, R288). -/
def Obligations.BankTransfers : Prop :=
  ∀ (f : Xt) (s : State) (k : Nat) (w : Wave) (e : Entry), w.heldLater = false →
    let q := quadOfCore (coreOfWave k)
    let arow := bits f.imm.toNat 6 0
    (∀ r n, f.d = .v r → n = bits f.imm.toNat 10 7 + 1 → Ready (.ardXt f) (xtPlan f [] [(.v r, n)] .none) s k w e →
      ((s.quadAt q).bank (bankOf f)).ownedBy w.group = true → s.arrayFull (coreOfWave k) = false → w.full .xc = false →
      let x := s.execMask w e f.p f.pn
      Issues (.ardXt f) s k fun t w' => ∃ o, ({ w with lops := w.lops ++ [o] } : Wave).Moved w'
          (e.past (byteLen (.ardXt f)) :: w.frontier.tail) ∧ s.SameElsewhere t k ∧ o.id = s.nextId ∧ o.ctr = .xc ∧ o.left = x ∧
        o.bare.writes = ((List.range n).map fun j => ⟨.v (r.val + j), x, [], 0⟩) ∧
        ∃ a ∈ (t.quadAt q).ops, a.id = s.nextId ∧ a.bank = bankOf f ∧ a.kind = .ard r.val arow n x) ∧
    (∀ (i : Instr) (load : Bool) (rdv : Option Nat) (h : HandleEntry) (tile : DWord) (n : Nat),
      i = (if load then .aloadXt f else .adrainXt f) → n = bits f.imm.toNat 13 7 + 1 →
      Ready i (basePlan (arraySrcs f [f.a]) [] .none) s k w e → readsOk w (s.execMask w e 0 false) (arraySrcs f [f.a]) →
      let u := issOf i (basePlan (arraySrcs f [f.a]) [] .none) s k w e
      tile = u.val f.lit f.a s → s.rdvOpt u f (!load) = .ok rdv → s.tileCheck (coreOfWave k) w.group tile = .ok h →
      (load = true → h.fmt = 7 ∨ h.fmt = 8) → tileRow0 tile + (if load then 4 else rowsPer h.fmt) * n ≤ h.rows →
      ((s.quadAt q).bank (bankOf f)).ownedBy w.group = true → s.arrayHeld u = false →
      Issues i s k fun t w' => ({ w with oprdy := none } : Wave).Ran w' (e.past (byteLen i) :: w.frontier.tail) ∧
        w.SameRegs w' [] ∧ w.SamePreds w' ∧ s.SameElsewhere t k ∧
        ∃ a ∈ (t.quadAt q).ops, a.id = s.nextId ∧ a.bank = bankOf f ∧ a.rdv = rdv ∧
          a.kind = (if load then .aload (tile.toNat % 2 ^ 28) arow n else .adrain (tile.toNat % 2 ^ 28) arow n)) ∧
    (∀ i pl, ctlOf i = some (pl, .oprdy) → Ready i pl s k w e →
      Issues i s k fun t w' => ({ w with oprdy := some s.nextId } : Wave).Moved w' (e.past (byteLen i) :: w.frontier.tail) ∧
        s.SameElsewhere t k ∧ ((t.quadAt q).latchOf (coreOfWave k)).key = none)

/-- TMAP maps the lowest free entry of its core to the rows of its group's partition that it names, and writes its handle,
or 0 where none is free; TUNMAP lets an entry of its group retire, free at once where nothing uses it; TQUERY writes what it
finds. The offset's checks are MISALIGN and APERTURE, and a value that names no mapped entry of the group HANDLE (R267,
R268, R270 to R272, R274). Of these three and of ACLAIM, AREL and AZERO, a word whose P, PN or blank operand field is not zero is no
legal encoding (R453). -/
def Obligations.TileHandles : Prop :=
  (∀ (f : Xt) (i : Instr), i ∈ [.tmapXt f, .tunmapXt f, .tqueryXt f, .aclaimXt f, .arelXt f, .azeroXt f] →
    (f.p ≠ 0 ∨ f.pn = true ∨ f.b ≠ .v 0 ∨ f.c ≠ .v 0 ∨ f.x ≠ .v 0) → ∃ v, bad i = some v) ∧
  (∀ (f : Xt) (s : State) (k : Nat) (w : Wave) (e : Entry), readsOk w (s.execMask w e 0 false) [uni f.a] →
    let a := s.readOpnd w f.lit (uni f.a) 0
    let core := coreOfWave k
    let x := s.execMask w e 0 false
    let rows := bits f.imm.toNat 23 12 + 1
    (∀ g, Ready (.tmapXt f) (basePlan [uni f.a] (dstNamed f.d true) .none) s k w e → s.groupAt? w.group = some g →
      (a.toNat % 1024 ≠ 0 → exec (.tmapXt f) s = .next (s.takeTrap k (precise .misalign a e x false))) ∧
      (a.toNat % 1024 = 0 → g.size < a.toNat + 128 * rows →
        exec (.tmapXt f) s = .next (s.takeTrap k (precise .aperture a e x false))) ∧
      (a.toNat % 1024 = 0 → a.toNat + 128 * rows ≤ g.size → w.heldLater = false → w.full .xc = false →
        Issues (.tmapXt f) s k fun t w' => w.Queued w' (e.past (byteLen (.tmapXt f)) :: w.frontier.tail) ∧ w.SameRegs w' [] ∧
          s.SameElsewhere t k ∧
          ∃ v, (∀ n, f.d = .s n → w'.Adds s e .xc .value 1 1 [⟨.s n.val, 1, [BitVec.ofNat 64 v], 0⟩]) ∧
            (((∀ i, i < 64 → ((s.coreAt core).handle i).st ≠ .free) ∧ v = 0 ∧
              ∀ i, (t.coreAt core).handle i = (s.coreAt core).handle i) ∨
            ∃ i, i < 64 ∧ ((s.coreAt core).handle i).st = .free ∧ (∀ j, j < i → ((s.coreAt core).handle j).st ≠ .free) ∧
              v = handleVal core i ((s.coreAt core).handle i).gen ∧
              (t.coreAt core).handle i = ⟨.mapped, ((s.coreAt core).handle i).gen, w.group, a.toNat, rows,
                f.imm.toNat.testBit 11, f.imm.toNat.testBit 10, BitVec.ofNat 6 (bits f.imm.toNat 9 4), bits f.imm.toNat 3 0⟩ ∧
              ∀ j, j ≠ i → (t.coreAt core).handle j = (s.coreAt core).handle j))) ∧
    (Ready (.tunmapXt f) (basePlan [uni f.a] [] .none) s k w e →
      (s.handleFor core w.group a = none → exec (.tunmapXt f) s = .next (s.takeTrap k (precise .handle a e x false))) ∧
      (∀ i h, s.handleFor core w.group a = some (i, h) → w.heldLater = false → w.full .xc = false →
        (∀ y ∈ (s.coreAt core).handles, y.2.st = .retiring → s.users core (handleVal core y.1 y.2.gen) ≠ 0) →
        Issues (.tunmapXt f) s k fun t w' => s.SameMemory t ∧
          (s.users core (handleVal core i h.gen) ≠ 0 → (t.coreAt core).handle i = { h with st := .retiring } ∧
            w.Queued w' (e.past (byteLen (.tunmapXt f)) :: w.frontier.tail) ∧ w.SameRegs w' [] ∧ s.SameElsewhere t k ∧
            w'.Adds s e .xc (.tunmap i) 0 0 []) ∧
          (s.users core (handleVal core i h.gen) = 0 →
            (t.coreAt core).handle i = { h with st := .free, gen := bumpGen h.gen }))) ∧
    (∀ n, f.d = .s n → Ready (.tqueryXt f) (basePlan [uni f.a] [(.s n, 1)] .none) s k w e → w.heldLater = false →
      w.full .xc = false → Issues (.tqueryXt f) s k fun t w' => w.Queued w' (e.past (byteLen (.tqueryXt f)) :: w.frontier.tail) ∧
        w.SameRegs w' [] ∧ s.SameOutside t k ∧
        w'.Adds s e .xc .value 1 1 [⟨.s n.val, 1, [BitVec.ofNat 64 (s.queryVal core w.group a)], 0⟩]))

/-! ### System instructions -/

/-- WPUB enters the order of its wave's publications, counted in XC, with its key and generation; generation 0 is ILLEGAL.
WTEST is counted in XC and reads the entry it names as it lands. LAUNCH to an aligned address that it can read is counted in
SC; MISALIGN and APERTURE are its checks. LPARM is counted in SC with the parameter words it reads (R214, R339, R340, R348,
R351). The value of TRAPADDR for generation 0, and that WTEST and LAUNCH act at their landing, are the model's choices
(notes/assumptions/14.md, notes/assumptions/47.md). -/
def Obligations.WaypointsAndLaunches : Prop :=
  ∀ (f : Xt) (s : State) (k : Nat) (w : Wave) (e : Entry), w.heldLater = false →
    let x := s.execMask w e 0 false
    let a := s.readOpnd w f.lit (uni f.a) 0
    let b := s.readOpnd w f.lit (uni f.b) 0
    let next := fun (i : Instr) => e.past (byteLen i) :: w.frontier.tail
    (Ready (.wpubXt f) (basePlan [uni f.a, uni f.b] (dstNamed f.d true) .none) s k w e → readsOk w x [uni f.a, uni f.b] →
      s.released k .device = true →
      (b.toNat % 65536 = 0 → exec (.wpubXt f) s = .next (s.takeTrap k (precise .illegal 0xC0 e x false))) ∧
      (b.toNat % 65536 ≠ 0 → w.full .xc = false →
        Issues (.wpubXt f) s k fun t w' => w.Queued w' (next (.wpubXt f)) ∧ w.SameRegs w' [] ∧ s.SameMemory t ∧
          t.cp = { s.cp with pubs := s.cp.pubs ++ [⟨s.nextId, w.groupid * 16 + w.waveid, s.nextId, w.launch,
            (s.obase w + a.toNat) % 2 ^ 48, b.toNat % 65536, false⟩] } ∧
          (∀ n, f.d = .s n → w'.Adds s e .xc (.wpub s.nextId true) 1 0 [⟨.s n.val, 1, [0], 0⟩]) ∧
          (f.d = .null → w'.Adds s e .xc (.wpub s.nextId false) 0 0 []))) ∧
    (∀ n, f.d = .s n → Ready (.wtestXt f) (basePlan [uni f.a] [(.s n, 1)] .none) s k w e → readsOk w x [uni f.a] →
      w.full .xc = false →
      Issues (.wtestXt f) s k fun t w' => w.Queued w' (next (.wtestXt f)) ∧ w.SameRegs w' [] ∧ s.SameOutside t k ∧
        w'.Adds s e .xc (.wtest (((s.launchAt? w.launch).map (·.inst)).getD 0)
          (((if f.e8.toNat % 2 = 1 then s.obase w else 0) + a.toNat) % 2 ^ 48)) 1 0 [⟨.s n.val, 1, [0], 0⟩]) ∧
    (Ready (.launchXt f) (basePlan [uni f.a, uni f.b] (dstNamed f.d true) .none) s k w e → readsOk w x [uni f.a, uni f.b] →
      s.released k .device = true →
      (a.toNat % 64 ≠ 0 → exec (.launchXt f) s = .next (s.takeTrap k (precise .misalign a e x false))) ∧
      (a.toNat % 64 = 0 → 2 ^ 57 ≤ a.toNat → exec (.launchXt f) s = .next (s.takeTrap k (precise .aperture a e x false))) ∧
      (∀ pa pg l, s.Settled → a.toNat % 64 = 0 → a.toNat < 2 ^ 57 → w.full .sc = false →
        ((s.readBy k w x f.lit [uni f.a, uni f.b]).globalAccess
          (issOf (.launchXt f) (basePlan [uni f.a, uni f.b] (dstNamed f.d true) .none) s k w e) .load 64 a.toNat).2 = .go ((0, 64, .dev pa, pg) :: l) →
        Issues (.launchXt f) s k fun t w' => w.Queued w' (next (.launchXt f)) ∧ w.SameRegs w' [] ∧ s.SameElsewhere t k ∧
          (∀ n, f.d = .s n → w'.Adds s e .sc (.launch (some pa) 0 (b.toNat % 64)) 1 0 [⟨.s n.val, 1, [0], 0⟩]) ∧
          (f.d = .null → w'.Adds s e .sc (.launch (some pa) 0 (b.toNat % 64)) 0 0 []))) ∧
    (∀ n, f.d = .s n → Ready (.lparmXt f) (basePlan [uni f.a] [(.s n, lparmWords f)] .none) s k w e → readsOk w x [uni f.a] →
      (a.toNat % 8 ≠ 0 → exec (.lparmXt f) s = .next (s.takeTrap k (precise .misalign a e x false))) ∧
      (a.toNat % 8 = 0 → w.full .sc = false →
        Issues (.lparmXt f) s k fun t w' => w.Queued w' (next (.lparmXt f)) ∧ w.SameRegs w' [] ∧ s.SameOutside t k ∧
          w'.Adds s e .sc .value 1 1 ((List.range (lparmWords f)).map fun i =>
            ⟨.s (n.val + i), 1, [((((s.launchAt? w.launch).map (·.params)).getD []).getD (a.toNat / 8 + i) 0)], 0⟩)))

/-- MOVS writes a special register to its destination, LANEID each lane's number; PERFRD writes a performance counter. With an
s destination, and for PERFRD, the value goes into ls; with a v destination what each executing lane takes goes into la. They
change nothing else (R18, R372, R373). MOVSW writes FPMODE, RETPC (which makes TRET start a new run), HSAVE0 to HSAVE7,
CLEASE and CTIMEOUT, and clears the bits of WSTAT and PEERST that it names; a read-only index, a reserved bit and a value
out of range raise ILLEGAL with the index as TRAPADDR, and change nothing (R19, R20, R306, R370, R372). That the index is TRAPADDR,
and that a MOVSW of WSTAT clears flags of its own read too, are the model's choices (notes/assumptions/14.md,
notes/assumptions/51.md). -/
def Obligations.SystemRegisters : Prop :=
  (∀ (i : Instr) (f : Xt) (pl : Plan) (val : Iss → Nat → DWord) (s : State) (k : Nat) (w : Wave) (e : Entry),
      ((i = .movsXt f ∧ pl = xtPlan f [] (dstNamed f.d false) (dstPipe f.d) ∧
          val = fun u L => if f.e8.toNat = 1 then BitVec.ofNat 64 L else s.sreg u f.e8.toNat) ∨
        (i = .perfrdXt f ∧ pl = basePlan [] (dstNamed f.d true) .scalar ∧ (∀ r, f.d ≠ .v r) ∧
          val = fun u _ => perfVal u f.e8.toNat)) →
      Ready i pl s k w e →
      let u := issOf i pl s k w e
      let x := s.execMask w e pl.p pl.pn
      Issues i s k fun t w' => w.Ran w' (e.past (byteLen i) :: w.frontier.tail) ∧ w.SamePreds w' ∧ w'.wstat = w.wstat ∧
        w'.lops.map LOp.bare = w.lops.map LOp.bare ∧ s.SameOutside t k ∧
        (∀ n L, n < 128 → L < 64 → w'.vLane n L =
          if (∃ r, f.d = .v r ∧ r.val = n) ∧ inMask x L = true then (val u L).truncate 32 else w.vLane n L) ∧
        (∀ n : Fin 64, w'.sReg n.val = if f.d = .s n ∧ x ≠ 0 then val u (lowestLane x) else w.sReg n.val) ∧
        (∀ j L, L < 64 → (w.up.slot j).SameLane (w'.up.slot j) L ∧ w.up.lb.SameLane w'.up.lb L) ∧
        ((∃ r, f.d = .s r) ∨ i = .perfrdXt f → w'.up.la = w.up.la ∧ (x ≠ 0 → w'.up.lsValid = true ∧ w'.up.ls = val u (lowestLane x)) ∧
          (x = 0 → w'.up.lsValid = w.up.lsValid ∧ w'.up.ls = w.up.ls)) ∧
        ((∃ r, f.d = .v r) → w'.up.ls = w.up.ls ∧ w'.up.lsValid = w.up.lsValid ∧
          ∀ L, L < 64 → if inMask x L = true then inMask w'.up.la.valid L = true ∧ w'.up.la.lane L = val u L &&& 0xFFFFFFFF
            else w.up.la.SameLane w'.up.la L)) ∧
  (∀ (f : Xt) (s : State) (k : Nat) (w : Wave) (e : Entry),
      Ready (.movswXt f) (basePlan [uni f.a] [] .scalar) s k w e → readsOk w (s.execMask w e 0 false) [uni f.a] →
      let x := s.readOpnd w f.lit (uni f.a) 0
      let n := f.e8.toNat
      let st := w.wstat ||| srcStat w (s.execMask w e 0 false) (uni f.a)
      let sets := fun (w0 : Wave) => Issues (.movswXt f) s k fun t w' =>
        w0.Ran w' (e.past (byteLen (.movswXt f)) :: w.frontier.tail) ∧ w.SameRegs w' [] ∧ w.SamePreds w' ∧ s.SameOutside t k ∧
          w'.wstat = (if n = 0x0C then st &&& ~~~x else st)
      let setsCtx := fun (g : Ctx → Ctx) => Issues (.movswXt f) s k fun t w' =>
        w.Ran w' (e.past (byteLen (.movswXt f)) :: w.frontier.tail) ∧ w.SameRegs w' [] ∧ w.SamePreds w' ∧ s.SameMemory t ∧
          (∀ j, j ≠ k → t.waveAt? j = s.waveAt? j) ∧ ∀ c, t.ctxAt? c = (s.ctxAt? c).map (if c = w.ctx then g else id)
      let refuses := exec (.movswXt f) s =
        .next (s.takeTrap k (precise .illegal (f.e8.zeroExtend 64) e (s.execMask w e 0 false) false))
      (n = 0x0B → if fpmodeOk x then sets { w with fpmode := x } else refuses) ∧
      (n = 0x0C → if x &&& wstatRsv = 0 then sets { w with wstat := st &&& ~~~x } else refuses) ∧
      (n = 0x18 → if x &&& peerstRsv = 0 then sets { w with peerst := w.peerst &&& ~~~(x &&& 0xFF) } else refuses) ∧
      (n = 0x89 → if x.toNat % 4 = 0 then sets { w with retpc := x, traprun := w.traprun ||| 32 } else refuses) ∧
      (0x80 ≤ n → n ≤ 0x87 → sets { w with hsave := w.hsave.set (n - 0x80) x }) ∧
      (n = 0x8C → if 64 ≤ x.toNat ∧ x.toNat ≤ 4096 then setsCtx (fun c => { c with clease := x }) else refuses) ∧
      (n = 0x8D → if 10 ≤ x.toNat ∧ x.toNat ≤ 10000 then setsCtx (fun c => { c with cto := x }) else refuses) ∧
      (n ∉ [0x0B, 0x0C, 0x18, 0x89, 0x8C, 0x8D] → (n < 0x80 ∨ 0x87 < n) → refuses))

/-- TLBINV with pages to drop starts an invalidation, counted in XC; an address off a page boundary is MISALIGN, and a count
of 0 does nothing. DBGMARK appends its record to the context's trace ring and then advances its index, counts a drop where the
ring is full, and does nothing where the context has no ring; that the record and the index are two stores, and that it goes on
without a trap where the ring cannot be written, are the model's choices (notes/assumptions/20.md). HALTW ends the
wave's lanes, and with its launch bit halts the launch with code 6; that it writes no record with wave scope is the model's
reading (R369, R374, R375, R380; notes/assumptions/42.md). -/
def Obligations.SystemServices : Prop :=
  ∀ (s : State) (k : Nat) (w : Wave) (e : Entry),
    (∀ f all pl, all = (f.e8.toNat % 4 == 1) → pl = basePlan (if all then [] else [uni f.a, uni f.b]) [] .none →
      Ready (.tlbinvXt f) pl s k w e → readsOk w (s.execMask w e 0 false) (if all then [] else [uni f.a, uni f.b]) →
      let a := s.readOpnd w f.lit (uni f.a) 0
      let n := (s.readOpnd w f.lit (uni f.b) 0).toNat
      (all = false → a.toNat % 4096 ≠ 0 →
        exec (.tlbinvXt f) s = .next (s.takeTrap k (precise .misalign a e (s.execMask w e 0 false) false))) ∧
      ((all = true ∨ a.toNat % 4096 = 0 ∧ n ≠ 0) → w.full .xc = false →
        Issues (.tlbinvXt f) s k fun t w' => w.Queued w' (e.past (byteLen (.tlbinvXt f)) :: w.frontier.tail) ∧
          w.SameRegs w' [] ∧ s.SameElsewhere t k ∧ w'.Adds s e .xc (.tlbinv s.nextId) 0 0 [] ∧
          t.mem.invals = s.mem.invals ++ [⟨s.nextId, w.ctx, all, if all then 0 else a.toNat, if all then 0 else n, some k, none,
            false, [], [], none⟩]) ∧
      (all = false → a.toNat % 4096 = 0 → n = 0 →
        Issues (.tlbinvXt f) s k fun t w' => w.Ran w' (e.past (byteLen (.tlbinvXt f)) :: w.frontier.tail) ∧ w.SameRegs w' [] ∧
          w.SamePreds w' ∧ s.SameOutside t k)) ∧
    (∀ i pl code v s0, ((∃ rb c, i = .dbgmarkBs rb c ∧ pl = scalarPlan ∧ code = c.toNat ∧ v = 0 ∧ s0 = s) ∨
        ∃ f, i = .dbgmarkXt f ∧ pl = basePlan [uni f.a] [] .scalar ∧ readsOk w (s.execMask w e 0 false) [uni f.a] ∧
          code = f.imm.toNat ∧ v = s.readOpnd w f.lit (uni f.a) 0 ∧
          s0 = s.readBy k w (s.execMask w e 0 false) f.lit [uni f.a]) → Ready i pl s k w e → s.Settled →
      (Issues i s k fun t w' => w'.frontier = e.past (byteLen i) :: w.frontier.tail ∧ w.SameRegs w' [] ∧ w.SamePreds w' ∧
        s.SameMemory t ∧ (∀ j, j ≠ k → t.waveAt? j = s.waveAt? j) ∧ t.cp = s.cp ∧ t.host = s.host ∧ t.mer = s.mer ∧
        t.chrono = s.chrono ∧ (s.house.pwEn = false → t.house = s.house)) ∧
      (∀ c, s.ctxAt? w.ctx = some c → c.trbase = 0 ∨ c.traceCap = 0 → Issues i s k fun t _ => s.SameOutside t k) ∧
      (∀ c s1, s.ctxAt? w.ctx = some c → c.trbase ≠ 0 → c.traceCap ≠ 0 → s0.tracePa (issOf i pl s k w e) c.trbase 0 = (none, s1) →
        Issues i s k fun t _ => t.mem.accs = s1.mem.accs ∧ t.outbox = s1.outbox) ∧
      (∀ c hd s1, s.ctxAt? w.ctx = some c → c.trbase ≠ 0 → c.traceCap ≠ 0 →
        let u := issOf i pl s k w e
        s0.tracePa u c.trbase 0 = (some hd, s1) →
        let wr := s1.latest hd.1 8
        let full := (wr + 2 ^ 64 - s1.latest (hd.1 + 8) 8) % 2 ^ 64 = c.traceCap
        (full → Issues i s k fun t _ => ∃ x ∈ t.mem.accs, x.kind = .store ∧ x.tgt = .dev (hd.1 + 16) ∧
          x.data = bytesOf 4 ((s1.latest (hd.1 + 16) 4 + 1) % 2 ^ 32)) ∧
        ∀ pa s2, ¬ full → s1.tracePa u c.trbase (64 + 32 * (wr % c.traceCap)) = (some pa, s2) →
        Issues i s k fun t _ => (∃ x ∈ t.mem.accs, x.kind = .store ∧ x.tgt = .dev pa.1 ∧ x.data = bytesOf 32 (traceRecord s u code v)) ∧
          ∃ x ∈ t.mem.accs, x.kind = .store ∧ x.tgt = .dev hd.1 ∧ x.data = bytesOf 8 ((wr + 1) % 2 ^ 64))) ∧
    (∀ f, Ready (.haltwXt f) plainPlan s k w e → w.counter .xc = 0 → w.fencing = false →
      Steps (.haltwXt f) s fun t => ∃ w', t.waveAt? k = some w' ∧ w'.frontier = [] ∧ w'.exited = w.launched ∧
        (t.coreAt (coreOfWave k)).run ≠ some k ∧
        (f.e8.toNat % 2 = 0 → s.SameMemory t ∧ t.cp = s.cp) ∧
        (f.e8.toNat % 2 = 1 → ∀ l, s.launchAt? w.launch = some l →
          ∃ l', t.launchAt? w.launch = some l' ∧ l'.fault = some (l.fault.getD 6)))

/-! ### Steps of the device: runs, landings, accesses -/

/-- RUN_START takes the next wave in rotation that may run, and of its READY entries the one that R160 puts first, with
starvation count 0, while the others count up; the upper levels are invalid. SUSPEND_RESUME gives a suspended wave its core
and saved levels back: the instruction is tried again, goes on past its last requests, or takes XLATE after a DENY.
SUSPEND_SAVE saves the levels of a held wave and frees its core (R21 to R25, R160, R366). -/
def Obligations.RunSteps : Prop :=
  ∀ (s : State) (k : Nat) (w : Wave), s.waveAt? k = some w →
    let core := coreOfWave k
    let back := fun (saved : Option (Upper × Nat)) (t : State) (w1 : Wave) => s.SameMemory t ∧ (t.coreAt core).run = some k ∧
      t.waveAt? k = some { w1 with
        up := (saved.map (·.1)).getD w.up,
        run := (saved.map fun x => { w.run with isOpen := true, slots := x.2 }).getD w.run }
    (∀ i e, (s.coreAt core).run = none → i < 32 → k = core * 32 + ((s.coreAt core).last + 1 + i) % 32 →
      s.selectable w = true → (∀ x ∈ w.frontier, x.trapping = false) →
      (∀ j, j < i → ∀ x, s.waveAt? (core * 32 + ((s.coreAt core).last + 1 + j) % 32) = some x → s.selectable x = false) →
      e ∈ w.frontier → e.st = .ready → (∀ x ∈ w.frontier, x.st = .ready → x ≠ e → e.before x = true) →
      Steps (.runStart core) s fun t => s.SameMemory t ∧ t.cp = s.cp ∧ (∀ j, j ≠ k → t.waveAt? j = s.waveAt? j) ∧
        (t.coreAt core).run = some k ∧ ∃ w', t.waveAt? k = some w' ∧ w'.run.isOpen = true ∧ w'.run.slots = 0 ∧
          w' = { w with up := Upper.none, run := w'.run, perf := w'.perf, frontier := { e with starve := 0 } ::
            (w.frontier.erase e).map fun x => if x.st = .ready then { x with starve := min 127 (x.starve + 1) } else x }) ∧
    (s.canTake k = true →
      (∀ x, w.trapWait = none → w.susp = some x → x.kind = .retry → Steps (.suspendResume k) s fun t =>
        back x.saved t { w with susp := some { x with kind := .trying, saved := none } }) ∧
      (∀ x len e, w.trapWait = none → w.susp = some x → x.kind = .rest len false [] → s.needsSlots (.wave k) = false →
        w.frontier = e :: w.frontier.tail → Steps (.suspendResume k) s fun t => s.SameMemory t ∧
          (t.coreAt core).run = some k ∧ ∃ w', t.waveAt? k = some w' ∧ w'.susp = none ∧
            w'.frontier = e.past len :: w.frontier.tail ∧ w.SameRegs w' [] ∧ w.SamePreds w') ∧
      (∀ x, w.trapWait = some x → x.answer = some true → Steps (.suspendResume k) s fun t =>
        back x.saved t { w with trapWait := none }) ∧
      (∀ x e, w.trapWait = some x → x.answer = some false → w.frontier = e :: w.frontier.tail →
        ∃ t, back x.saved t { w with trapWait := none } ∧
          exec (.suspendResume k) s = .next (t.takeTrap k ⟨.xlate, false, x.fetch, e.pc, x.addr, x.mask, e.pc, false⟩))) ∧
    (w.heldSince.isSome = true → (s.coreAt core).run = some k → Steps (.suspendSave k) s fun t =>
      s.SameMemory t ∧ (t.coreAt core).run = none ∧ t.waveAt? k = some { w with
        susp := w.susp.map fun x => { x with saved := some (w.up, w.run.slots) },
        trapWait := w.trapWait.map fun x => { x with saved := some (w.up, w.run.slots) } })

/-- SLEEP_WAKE lets an entry go on at its time. LWAIT_TIMEOUT lets the lanes go on whose data has come and leaves the late
ones waiting without a timeout. PWAIT_WAKE lets an entry go on that finds its object in another phase, with the object's
CWCT adopted; in the same phase PROMISE is due where it goes on. A wave whose lanes have ended, its counters 0 and its
request slots free, gives up its registers and its private slot at once, and leaves when nothing of it is under way; a group whose
waves and work are gone leaves, its banks to be zeroed and its handles free (R169, R171, R172, R254, R263, R291, R330). That a wave
keeps its slot until its copies, arrivals, stores and other accesses are done, and gives up the private slot at once, are the model's
choices (notes/assumptions/45.md, notes/assumptions/49.md). -/
def Obligations.WaitAndEndSteps : Prop :=
  ∀ (s : State) (k : Nat) (w : Wave),  s.waveAt? k = some w →
    (∀ e L, e ∈ w.frontier → L < 64 → inMask e.mask L = true →
      (∀ x ∈ w.allEntries, inMask x.mask L = true → x = e) →
      (∀ d, e.st = .wait (.sleep d) → d ≤ s.chrono → Steps (.sleepWake k L) s fun t => s.SameMemory t ∧
        ∃ w', t.waveAt? k = some w' ∧ w'.Passed e e.mask ∧ w.SameRegs w' [] ∧ w.SamePreds w') ∧
      (∀ tk id d, e.st = .wait (.ticket tk id (some d)) → d ≤ s.chrono → Steps (.lwaitTimeout k L) s fun t =>
        s.SameMemory t ∧ ∃ w', t.waveAt? k = some w' ∧ w'.Passed e (e.mask &&& ~~~w.lateOn tk) ∧ w.SameRegs w' [] ∧
          w.SamePreds w' ∧ ∀ M, M < 64 → inMask (e.mask &&& w.lateOn tk) M = true →
            ∃ e' ∈ w'.frontier, inMask e'.mask M = true ∧ e'.st = .wait (.ticket tk id none) ∧ e'.pc = e.pc) ∧
      (∀ off ph sd d g, e.st = .wait (.promise off ph sd d) → d ≤ s.chrono → s.groupAt? w.group = some g →
        (g.rdv off).malformed = false → s.initPending k w.group off s.nextId = false → Steps (.pwaitWake k L) s fun t => s.SameMemory t ∧
          ∃ w', t.waveAt? k = some w' ∧ w'.Passed e e.mask ∧
            ((g.rdv off).phase ≠ ph → (g.rdv off).cwct < 2 ^ 64 → (g.rdv off).cwct ≤ w'.mwct.toNat) ∧
            ((g.rdv off).phase = ph → ∃ e' ∈ w'.frontier, inMask e'.mask L = true ∧
              ∃ r ∈ e'.report, r.cause = .promise ∧ r.pc = e.pc ∧ r.addr = scratchAddr off))) ∧
    (s.mayEnd k w = false → exec (.waveEnd k) s = .next s) ∧
    (s.mayEnd k w = true → Steps (.waveEnd k) s fun t => s.SameMemory t ∧
      (∀ j, j ≠ k → t.waveAt? j = s.waveAt? j) ∧
      (w.nv ≠ 0 → (t.coreAt (coreOfWave k)).run ≠ some k ∧
        ∀ l, s.launchAt? w.launch = some l → t.launchAt? w.launch = some { l with slots := l.slots.erase w.priv }) ∧
      t.waveAt? k = if s.waveDrained k w = true then none
        else some (if w.nv = 0 then w else { w with nv := 0, ns := 0, v := [], s := [] })) ∧
    (∀ g, s.groupAt? w.group = some g → s.groupDrained w.group = true → Steps (.groupExit w.group) s fun t =>
      s.mem = t.mem ∧ t.groups = s.groups.del w.group ∧
      (∀ l, s.launchAt? g.launch = some l → t.launchAt? g.launch = some { l with live := l.live - 1 }) ∧
      (∀ b, b < 8 → let q := quadOfCore (coreOfGroup w.group)
        (t.quadAt q).bank b = if ((s.quadAt q).bank b).ownedBy w.group then { (s.quadAt q).bank b with st := .releasing }
          else (s.quadAt q).bank b) ∧
      ∀ i, let h := (s.coreAt (coreOfGroup w.group)).handle i
        (t.coreAt (coreOfGroup w.group)).handle i =
          if h.st ≠ .free ∧ h.owner = w.group then { h with st := .free, gen := bumpGen h.gen } else h)

/-- The landing of lanes of an operation: each of its registers takes its value in the lanes that land (where no other write
has met it), its flags come with the last lane, and no other register, wave or byte of memory changes; waits may then end.
WTEST lands with what the table holds then; a LAUNCH that lands submits its descriptor, and gives the identity it took or
the code of its refusal (R36, R38, R39, R230, R339, R351). A FENCE whose conditions hold completes: its status register
takes the count and the first of the failures recorded, and a fabric or system FENCE clears the record; while they do not
hold it waits. CPY_COMPLETE writes the lanes whose bytes have come to the partition and takes them off the CPY. A wave's
arrival or expectation reaches its object once what it waits for is done: the object's 32 bytes take the update (R210, R213,
R238, R255 to R260, R303, R304). That flags come with the last lane (notes/assumptions/7.md), that WTEST reads and LAUNCH submits at
the landing (notes/assumptions/47.md), the order of LAUNCH's codes 2, 3 and 1 (notes/assumptions/46.md) and that a slot which cannot
be stored keeps its descriptor (notes/assumptions/64.md) are the model's choices. -/
def Obligations.LandingSteps : Prop :=
  (∀ (s : State) (k id : Nat) (w : Wave) (o : LOp), s.waveAt? k = some w → w.op? id = some o →
      let lands := fun (i : Instr) (P : State → Wave → Prop) =>
        ∃ (u : State) (w' : Wave), exec i s = .next (u.wakeWave k) ∧ u.waveAt? k = some w' ∧ P u w'
      (∀ i lanes, (i = .loadLand k id lanes ∧ (∃ sz sg op, o.work = .load sz sg op)) ∨
          (i = .classLLand k id ∧ lanes = fullMask ∧ (∀ sz sg op, o.work ≠ .load sz sg op) ∧ (∀ a b, o.work ≠ .wtest a b) ∧
            ∀ a b c, o.work = .launch a b c → o.done = true) →
        let m := lanes &&& o.ready &&& o.left
        lands i fun u w' => s.SameMemory u ∧ u.cp = s.cp ∧ (∀ j, j ≠ k → u.waveAt? j = s.waveAt? j) ∧
          w'.frontier = w.frontier ∧
          w'.wstat = (if o.left &&& ~~~m = 0 then w.wstat ||| flagBits o.flags else w.wstat) ∧
          (∀ n L, n < 128 → L < 64 → (∀ y ∈ o.writes, y.reg ≠ .v n) → w'.vLane n L = w.vLane n L) ∧
          (∀ n, n < 64 → (∀ y ∈ o.writes, y.reg ≠ .s n) → w'.sReg n = w.sReg n) ∧
          (∀ n, n < 16 → (∀ y ∈ o.writes, y.reg ≠ .p n) → w'.pMask n = w.pMask n) ∧
          (∀ x ∈ o.writes, x.met = 0 → (∀ y ∈ o.writes, y.reg = x.reg → y = x) →
            (∀ n L, n < 128 → L < 64 → x.reg = .v n → w'.vLane n L =
              if inMask m L = true ∧ inMask x.mask L = true then (x.vals.getD L 0).truncate 32 else w.vLane n L) ∧
            (∀ n, n < 64 → x.reg = .s n → w'.sReg n = if m &&& x.mask = 0 then w.sReg n else x.vals.getD 0 0) ∧
            (∀ n L, 0 < n → n < 16 → L < 64 → x.reg = .p n → inMask (w'.pMask n) L =
              if inMask m L = true ∧ inMask x.mask L = true then x.vals.getD L 0 != 0 else inMask (w.pMask n) L))) ∧
      (∀ n vs, n < 64 → o.left = 1 → o.mask = 1 → o.writes = [⟨.s n, 1, vs, 0⟩] →
        (∀ inst key, o.work = .wtest inst key → lands (.classLLand k id) fun u w' => s.SameMemory u ∧ u.cp = s.cp ∧
          w'.sReg n = BitVec.ofNat 64 (s.wpWord w inst key)) ∧
        (∀ pa d q, o.work = .launch pa d q → o.done = false →
          let part := ((s.ctxAt? w.ctx).map s.partOfCtx).getD 0
          let gives := fun (v : Nat) => lands (.classLLand k id) fun u w' => u.cp = s.cp ∧ w'.sReg n = BitVec.ofNat 64 (v * 2 ^ 56)
          (s.queueAt? part q = none → gives 2) ∧
          (∀ x, s.queueAt? part q = some x →
            (x.ctx ≠ w.ctx ∨ x.device = false → gives 2) ∧
            (x.ctx = w.ctx → x.device = true →
              (x.qstat ≠ 0 → gives 3) ∧ (x.qstat = 0 → 2 ^ x.k ≤ x.count → gives 1) ∧
              (x.qstat = 0 → x.count < 2 ^ x.k → lands (.classLLand k id) fun u w' => s.SameMemory u ∧
                w'.sReg n = BitVec.ofNat 64 (s.cp.nextLaunch % 2 ^ 32) ∧ u.cp.nextLaunch = nextLid s.cp.nextLaunch ∧
                u.queueAt? part q = some { x with
                  wridx := x.wridx + 1
                  ids := x.ids ++ [s.cp.nextLaunch]
                  held := match s.translateCp w.ctx (x.slotVa x.wridx) .load with
                    | .to (.dev _) => x.held
                    | _ => x.held.set x.wridx.toNat
                      (match pa with | some a => BitVec.ofNat 512 (Memory.num s.settle.mem.bytes a 64) | none => d) })))))) ∧
  (∀ (s : State) (k id : Nat) (w : Wave), s.waveAt? k = some w →
      (∀ o scope sd, w.op? id = some o → o.work = .fence scope sd → o.done = false →
        ((s.fenceHolds k w scope id = false ∨ w.failsLanded scope id = false) →
          exec (.fenceComplete k id) s = .next (s.pressHost k scope)) ∧
        (s.fenceHolds k w scope id = true → w.failsLanded scope id = true →
          let word := match scope.reads, w.fail.first with
            | true, some x => statusWord w.fail.n x
            | _, _ => 0
          ∃ (u : State) (w' : Wave), exec (.fenceComplete k id) s = .next (u.wakeWave k) ∧ u.waveAt? k = some w' ∧ s.SameMemory u ∧
            w'.frontier = w.frontier ∧ (scope.reads = true → w'.fail = ⟨0, none, none, 0, 0⟩) ∧
            (scope.reads = false → w'.fail = w.fail ∧ w'.peerst = w.peerst) ∧
            (∀ n vs, n < 64 → o.mask = 1 → o.left = 1 → o.writes = [⟨.s n, 1, vs, 0⟩] → w'.sReg n = word))) ∧
      (∀ o lanes tag g, w.op? id = some o → o.work = .cpy lanes → o.ctr = .bc tag → s.groupAt? w.group = some g →
        g.stale = [] → g.scratch.wf = true → o.ready &&& o.left ≠ 0 →
        ∃ (u : State) (w' : Wave) (g' : Group), exec (.cpyComplete k id) s = .next (u.wakeWave k) ∧ u.waveAt? k = some w' ∧
          u.groupAt? w.group = some g' ∧ u.mem = s.mem ∧ w.SameRegs w' [] ∧ w.SamePreds w' ∧
          (o.left &&& ~~~o.ready ≠ 0 → ∃ p ∈ w'.lops, p.id = id ∧ p.left = o.left &&& ~~~o.ready) ∧
          (∀ a, (∀ x ∈ lanes, inMask (o.ready &&& o.left) x.lane = true → a < x.off ∨ x.off + x.data.length ≤ a) →
            Memory.get g'.scratch a = Memory.get g.scratch a) ∧
          ∀ x ∈ lanes, inMask (o.ready &&& o.left) x.lane = true →
            (∀ y ∈ lanes, inMask (o.ready &&& o.left) y.lane = true → y ≠ x →
              y.off + y.data.length ≤ x.off ∨ x.off + x.data.length ≤ y.off) →
            ∀ j, j < x.data.length → Memory.get g'.scratch (x.off + j) = x.data.getD j 0) ∧
      (∀ p g, (w.rdvq.find? fun p => p.id == id) = some p → s.creditHeld k w.group p.off id = false →
        (∀ n, p.upd = .arrive n → s.arrivalReady k id = true) → s.groupAt? w.group = some g → g.scratch.wf = true →
        let r := (g.rdv p.off).wave p.upd w.mwct.toNat
        ∃ (u : State) (w' : Wave) (g' : Group), exec (.rdvarrApply k id) s =
            .next ((if r.2.1 then u.wakeRdv w.group p.off else u).flushCredits w.group) ∧ u.waveAt? k = some w' ∧ u.groupAt? w.group = some g' ∧ u.mem = s.mem ∧ w'.rdvq = (w.rdvq.filter fun q => q.id != id) ∧
          (r.2.2 = true → ∃ y ∈ w'.reports, y.cause = .rdverr ∧ y.addr = scratchAddr p.off) ∧
          ∀ a, Memory.get g'.scratch a =
            if p.off ≤ a ∧ a < p.off + 32 then (bytesOf 32 r.1.num).getD (a - p.off) 0 else Memory.get g.scratch a))

/-- An access that nothing earlier holds reaches its point. At the partition a store puts its bytes there and a load gives
its operation the bytes that stand there; a store or atomic is accepted at its home with the write completion time of R203
and changes no byte yet; a load that no copy serves reads device memory; one whose line belongs to another tenancy
completes with a PROT report (R187, R198, R200 to R206, R396). At its write completion time a store that stands alone at its line is visible:
its bytes stand in memory and nothing else has changed; an atomic or reduction has written its new value, and an atomic's
old value has gone to its operation. The WCT that returns raises the wave's MWCT (R203, R204, R206, R207, R218). That a wave's
access to a line of another tenancy is reported with its address, and that a partition access is performed by a step of its own, are
the model's choices (notes/assumptions/59.md, notes/assumptions/17.md). -/
def Obligations.AccessSteps : Prop :=
  (∀ (s : State) (a : Acc), s.mem.acc? a.id = some a → a.stage = .travelling → s.mem.accs.any (s.mustFollow a) = false →
      (∀ k g off x, a.owner = .wave k → a.tgt = .scratch g off → s.groupAt? g = some x → x.stale = [] → x.bad = [] →
        x.credits = [] → s.initHeld a off = false →
        (a.kind = .load → Steps (.homeAccess a.id) s fun t =>
          ∃ u : State, t = u.deliver a ((List.range a.size).map fun i => Memory.get x.scratch (off + i)) ∧ u.mem = s.mem ∧
            u.waves = s.waves ∧ u.chrono = s.chrono ∧ ∀ j, u.groupAt? j = s.groupAt? j) ∧
        (a.kind = .store → x.scratch.wf = true → Steps (.homeAccess a.id) s fun t =>
          t.mem = s.mem.dropAcc a.id ∧ t.waves = s.waves ∧ ∃ y, t.groupAt? g = some y ∧ ∀ b, Memory.get y.scratch b =
            if off ≤ b ∧ b < off + a.data.length then a.data.getD (b - off) 0 else Memory.get x.scratch b)) ∧
      (∀ pa, a.tgt = .dev pa → s.Settled →
        (s.tagMiss a pa = true → exec (.homeAccess a.id) s =
          .next (s.failAcc a .prot ⟨0, 0, false, 0, 0⟩ (a.vaddr pa))) ∧
        (s.tagMiss a pa = false → a.kind ≠ .load → inWindow s.house (lineOf pa * 128) = false →
          let v := max s.chrono (max ((s.mem.line (lineOf pa)).emax + 1) (s.mem.line (lineOf pa)).wprev)
          Steps (.homeAccess a.id) s fun t => t.mem.bytes = s.mem.bytes ∧ t.waves = s.waves ∧ t.groups = s.groups ∧
            (t.mem.line (lineOf pa)).wprev = v ∧
            ∃ b ∈ t.mem.accs, b.id = a.id ∧ b.stage = .pending v ∧ b.tgt = a.tgt ∧ b.data = a.data ∧ b.kind = a.kind) ∧
        (s.tagMiss a pa = false → a.kind = .load → inWindow s.house pa = false →
          (s.mem.accs.any fun b => s.sameSource a b && !b.kind.isLoad && b.wct?.isSome && a.meets b) = false →
          s.copyFor a pa (lineOf pa) = none → meetsPoison (s.linePoison (lineOf pa)) pa a.size = false →
          Steps (.homeAccess a.id) s fun t => ∃ u : State, t = u.deliver a (Memory.read s.mem.bytes pa a.size) ∧
            u.mem.bytes = s.mem.bytes ∧ u.mem.accs = s.mem.accs ∧ u.waves = s.waves))) ∧
  (∀ (s : State) (a : Acc) (pa : Nat), s.mem.acc? a.id = some a → a.tgt = .dev pa →
      let wrote := fun (t : State) (bs : List Byte) => s.mem.bytes.wf = true → ∀ b, Memory.get t.mem.bytes b =
        if pa ≤ b ∧ b < pa + bs.length then bs.getD (b - pa) 0 else Memory.get s.mem.bytes b
      let samePartitions := fun (t : State) => ∀ g, (t.groupAt? g).map (·.scratch) = (s.groupAt? g).map (·.scratch)
      (s.visibleWith a = [a] → a.due s.chrono = true →
        (a.kind = .store → Steps (.storeVisible a.id) s fun t => wrote t a.data ∧ t.waves = s.waves ∧ samePartitions t ∧
          t.cp.queues = s.cp.queues ∧ t.cp.launches = s.cp.launches) ∧
        (∀ op, (a.kind = .red op ∨ a.kind = .mcred op) → Steps (.atomicPerform a.id) s fun t =>
          wrote t (bytesOf a.size (atomNew op (8 * a.size) (Memory.num s.mem.bytes pa a.size) (ofBytes a.data))) ∧
          t.waves = s.waves ∧ samePartitions t) ∧
        (∀ op k w o, a.kind = .atom op → a.owner = .wave k → s.waveAt? k = some w → w.op? a.op = some o →
          Steps (.atomicPerform a.id) s fun t =>
            wrote t (bytesOf a.size (atomNew op (8 * a.size) (Memory.num s.mem.bytes pa a.size) (ofBytes a.data))) ∧
            ∃ w', t.waveAt? k = some w' ∧ w'.op? a.op = some (o.give a.lane 0 (Memory.read s.mem.bytes pa a.size) true))) ∧
      (∀ v k w, a.owner = .wave k → s.waveAt? k = some w →
        let adopts := fun (t : State) => t.waveAt? k = some { w with mwct := BitVec.ofNat 64 (max w.mwct.toNat v) } ∧
          t.mem.bytes = s.mem.bytes
        (a.stage = .pending v → Steps (.wctReturn a.id) s fun t => adopts t ∧
          ∃ b ∈ t.mem.accs, b = { a with stage := .returned v }) ∧
        (a.stage = .performed v → Steps (.wctReturn a.id) s fun t => adopts t ∧ ∀ b ∈ t.mem.accs, b.id ≠ a.id)))

/-- A walk fills translation caches and changes nothing a program sees; a page post that has found room gives its request to
the waves that wait for the page, and one without room waits on; an invalidation drops every translation it covers from the
TLBs of cores and quads, and once the accesses it waits for are done it completes, its command is answered where the device still
answers, and the granules that it moves can be reached again, but for those of a stopped tenancy and those that another one moves (R366,
R367, R378 to R380, R394, R446, R447). -/
def Obligations.TranslationSteps : Prop :=
  ∀ s : State,
    (∀ core va, s.Settled → Steps (.translationWalk core va) s fun t => s.SameMemory t ∧ t.waves = s.waves ∧ t.cp = s.cp ∧
      t.groups = s.groups) ∧
    (∀ ctx c p rest, s.ctxAt? ctx = some c → c.prqPend = p :: rest →
      ((s.postPage ctx p.1 p.2.1 p.2.2).1 = .waits → exec (.prqPost ctx) s = .next s) ∧
      (∀ q, (s.postPage ctx p.1 p.2.1 p.2.2).1 = .posted q → Steps (.prqPost ctx) s fun t => s.SameMemory t ∧
        (∀ c', t.ctxAt? ctx = some c' → ∀ x ∈ c'.prqPend, x.1 ≠ p.1) ∧
        ∀ k w x, s.waveAt? k = some w → w.ctx = ctx → w.trapWait = some x → x.vpn = p.1 → x.seq = none → x.answer = none →
          t.waveAt? k = some { w with trapWait := some { x with seq := some q } })) ∧
    (∀ x, (s.mem.invals.find? fun y => y.id == x.id) = some x →
      (x.dropped = false → Steps (.tlbinvComplete x.id) s fun t => s.SameMemory t ∧ t.waves = s.waves ∧
        (∀ c, ∀ e ∈ (t.coreAt c).tlb, x.covers e = false) ∧ (∀ q, ∀ e ∈ (t.quadAt q).tlb, x.covers e = false) ∧
        ∃ y ∈ t.mem.invals, y.id = x.id ∧ y.dropped = true) ∧
      (x.dropped = true → s.invalWaits x = false → s.house.pwInval ≠ some x.id → x.grans = [] →
        Steps (.tlbinvComplete x.id) s fun t => s.SameMemory t ∧ (∀ y ∈ t.mem.invals, y.id ≠ x.id) ∧
          ∀ p, x.port = some p → x.wave = none → t.outbox = s.outbox ++ (if s.answers = true then [.mb p .ok] else [])) ∧
      (x.dropped = true → s.invalWaits x = false → s.house.pwInval ≠ some x.id → x.wave = none →
        Steps (.tlbinvComplete x.id) s fun t => t.waves = s.waves ∧ (∀ y ∈ t.mem.invals, y.id ≠ x.id) ∧
          t.outbox = s.outbox ++ (match x.port with | none => [] | some p => if s.answers = true then [.mb p .ok] else []) ∧
          t.mem.bytes = s.mem.bytes ∧ t.mem.owners = s.mem.owners ∧
          ∀ g, t.mem.moving.contains g = (s.mem.moving.contains g && (!x.grans.contains g || s.shut g ||
            s.mem.invals.any fun y => y.id != x.id && y.grans.contains g))))

/-- TCE_ACCEPT completes for every copy that has not been accepted: the copy is accepted, and a TCOPY's promise is then known.
COPY_COMPLETE completes for every accepted copy that has nothing outstanding: it begins the next row when the row's addresses
translate; writes an open row (its bytes, or zeros where it failed, and none for a TSTORE or an aborted copy) and closes it after
the last; and, when none is left, credits the copy's rendezvous with one arrival, its bytes, its error and its flags unless earlier
updates hold it, and the copy leaves the queue (R247 to R253, R258, R259). That an earlier RDVEXP of the wave may or may not hold
it is the model's choice (notes/assumptions/70.md). -/
def Obligations.CopySteps : Prop :=
  ∀ (s : State) (q : Nat) (c : Copy), s.copy? q c.id = some c →
    (c.accepted = false → ∃ t : State, exec (.tceAccept q c.id) s = .next t ∧
      t.copy? q c.id = some { c with accepted := true } ∧ t.mem = s.mem ∧ t.groups = s.groups ∧
      ((∀ cv tr cl, c.kind ≠ .tcopy cv tr cl true) → t.waves = s.waves) ∧
      ∀ cv tr cl w o x, c.kind = .tcopy cv tr cl true → s.waveAt? c.wave = some w → w.op? c.id = some o → o.writes = [x] →
        ∃ w', t.waveAt? c.wave = some w' ∧
          w'.op? c.id = some { o with ready := 1, writes := [{ x with vals := [s.promise q c] }] }) ∧
    (c.accepted = true → exec (.tceAccept q c.id) s = .next s) ∧
    (c.accepted = true → s.parked c = false → (∀ a ∈ s.mem.accs, a.owner ≠ .tce q c.id) →
      (∀ p, c.rowsOpen = [] → c.aborted = false → c.nextRow < c.rows → c.wait = none → s.indexHeld c = false →
        s.rowLost c c.nextRow = false → (s.rowTargets q c (s.rowParts c c.nextRow)).2 = .ok p →
        ∃ t : State, exec (.copyComplete q c.id) s = .next t ∧
          ∃ c', t.copy? q c.id = some c' ∧ c'.nextRow = c.nextRow + 1 ∧ c'.wait = none) ∧
      (∀ i bs rest, c.rowsOpen = (i, bs) :: rest → c.nextRow = c.rows →
        ∃ t : State, exec (.copyComplete q c.id) s = .next t ∧ s.mem = t.mem ∧ t.waves = s.waves ∧
          (∃ c', t.copy? q c.id = some c' ∧ c'.rowsOpen = rest ∧ c'.nextRow = c.nextRow) ∧
          (c.kind.stores = true ∨ c.aborted = true → t.groups = s.groups) ∧
          (c.kind.stores = false → c.aborted = false → (c.bad.contains i = true ∨ c.kind.conv = 0) →
            t.groups = (s.writeRow c.group c.wave c.id .copy c.h (c.row0 + i)
              (if c.bad.contains i = true then List.replicate (fmtRow c.h.fmt) 0 else bs)).groups)) ∧
      (c.rowsOpen = [] → c.nextRow = c.rows →
        (s.creditWaits c.wave c.group c.rdv c.id = true → exec (.copyComplete q c.id) s = .next s) ∧
        (s.creditWaits c.wave c.group c.rdv c.id = false → ∃ t : State, exec (.copyComplete q c.id) s = .next t ∧
          (∀ y ∈ (t.quadAt q).copies, y.id ≠ c.id) ∧ t.mem = s.mem ∧
          ∀ g, s.groupAt? c.group = some g → g.scratch.wf = true →
            let r := (g.rdv c.rdv).credit (copyBytesOf c) (c.err || c.aborted) c.flags (if c.kind.stores then c.wct else 0)
            ∃ g', t.groupAt? c.group = some g' ∧ ∀ a, Memory.get g'.scratch a =
              if c.rdv ≤ a ∧ a < c.rdv + 32 then (bytesOf 32 r.1.num).getD (a - c.rdv) 0 else Memory.get g.scratch a)))

/-- The array at work, at a bank without a storage error and an instruction not aborted: a fill that reads what it began with ends
with the operands in its latch; the arbiter, when the array is free, starts the oldest startable op of the core it visits for 64 cycles (32 for
T6), and goes to the next core when none can start; an op's results stand in its bank when it completes, poisoned where the op
has met an error; a zeroing leaves +0
in every element and a released bank free; an ARD's values reach its operation, and an ALOAD's rows its bank. A completed
instruction leaves the array (R277, R278, R281 to R288). -/
def Obligations.ArraySteps : Prop :=
  ∀ (s : State) (q : Nat) (o : AOp) (t0 : Nat),
    let gone := fun (t : State) => ∀ x ∈ (t.quadAt q).ops, x.id ≠ o.id
    let met := fun (b : Bank) => if o.ecc = true then { b with poison := true } else b
    (s.aopNext q o.id = some (o, t0) → o.aborted = false →
      (∀ n, o.stage = .filling n → s.fillIx o = o.ix → s.fillLost o o.ix = false → s.fillRead o o.ix = (o.a, o.b) →
        Steps (.fillComplete q o.id) s fun t => t.groups = s.groups ∧ t.waves = s.waves ∧ t.mem = s.mem ∧
          ∃ x ∈ (t.quadAt q).ops, x.id = o.id ∧ x.stage = .filled ∧ x.a = o.a ∧ x.b = o.b) ∧
      (((s.quadAt q).bank o.bank).bad = false →
        (∀ n ty a b, o.stage = .running n → (o.kind = .mma ty a b ∨ ∃ i m, o.kind = .mmag ty a b i m) →
          Steps (.opComplete q o.id) s fun t => gone t ∧
            (t.quadAt q).bank o.bank = met (((s.quadAt q).bank o.bank).mma ty o.ha.scale o.hb.scale o.a o.b)) ∧
        (∀ n d arow m lanes w p, o.stage = .transfer n → o.kind = .ard d arow m lanes → s.waveAt? o.wave = some w →
          w.op? o.id = some p → p.left ≠ 0 →
          ∃ (u : State) (w' : Wave) (p' : LOp), exec (.bankTransferDone q o.id) s = .next (u.finishAop q o 0 false 0) ∧
            u.waveAt? o.wave = some w' ∧ p' ∈ w'.lops ∧ p'.id = o.id ∧ p'.ready = lanes ∧ p'.left = p.left ∧
            ∀ j x, j < m → p'.writes[j]? = some x → ∀ L, L < 64 → x.vals.getD L 0 =
              ((met ((s.quadAt q).bank o.bank)).read (arow + (j * 64 + L) / 128) ((j * 64 + L) % 128)).zeroExtend 64) ∧
        (∀ n tile arow m, o.stage = .transfer n → o.kind = .adrain tile arow m → Steps (.bankTransferDone q o.id) s gone)) ∧
      (∀ tile arow m, o.stage = .filled → o.kind = .aload tile arow m → Steps (.bankTransferDone q o.id) s fun t => gone t ∧
        ((t.quadAt q).bank o.bank).int = (o.ha.fmt == 8) ∧
        ∀ r c, r < 128 → c < 128 → ((t.quadAt q).bank o.bank).elem r c =
          if arow ≤ r ∧ r < arow + m then
            BitVec.ofNat 32 ((((pieces 4 m o.a).getD (r - arow) []).getD (c / 32) []).getD (c % 32) 0)
          else ((s.quadAt q).bank o.bank).elem r c)) ∧
    (∀ rel, s.aopNext q o.id = some (o, t0) → o.kind = .zero rel → Steps (.zeroingDone q o.id) s fun t => gone t ∧
      (∀ r c, ((t.quadAt q).bank o.bank).elem r c = 0) ∧ ((t.quadAt q).bank o.bank).poison = false ∧
      (rel = true → ((t.quadAt q).bank o.bank).st = .free) ∧
      (rel = false → ((t.quadAt q).bank o.bank).st = ((s.quadAt q).bank o.bank).st)) ∧
    ((∀ x n, x ∈ (s.quadAt q).ops → (s.quadAt q).aopDue x = some n → (s.quadAt q).visitAt < n) →
      ((s.quadAt q).ops.any (s.quadAt q).startable = false → (s.quadAt q).started ≠ 0 → Steps (.arbiterVisit q) s fun t =>
        (t.quadAt q).next = ((s.quadAt q).next + 1) % 4 ∧ (t.quadAt q).started = 0 ∧ (t.quadAt q).ops = (s.quadAt q).ops) ∧
      ((s.quadAt q).oldest (s.quadAt q).next = some o → (s.quadAt q).started < o.weight → Steps (.arbiterVisit q) s fun t =>
        (t.quadAt q).next = (s.quadAt q).next ∧ (t.quadAt q).started = (s.quadAt q).started + 1 ∧
        (t.quadAt q).busyUntil = (s.quadAt q).visitAt + opCycles o.kind ∧
        ∃ x ∈ (t.quadAt q).ops, x.id = o.id ∧ x.stage = .running ((s.quadAt q).visitAt + opCycles o.kind + 39)))

/-- What comes over a port that is not UP, or that waits for a replay, is dropped. A request of another device takes its turn
among those of its source on its plane: any number but the expected one is kept for its turn (that an order begins at 0, and begins
anew there, is the model's choice: notes/assumptions/66.md). One that has passed its deadline is discarded; one that the window check refuses is answered so; the
others are performed and, once their effects are visible, answered. A reply with another SEQ than its slot's, for a free slot, or
at the deadline is discarded; a matching one frees the slot, at once or when the registers it brings have landed. A request at
its deadline fails and its slot is free with the next SEQ. A host's answer frees the slot of its read in the same way (R191,
R220, R222, R223, R295, R298, R300, R301, R305, R309, R323). -/
def Obligations.RemoteSteps : Prop :=
  ∀ s : State,
    (∀ (r : PeerReq), s.brings r.plane = false →
      exec (.remoteRequest r) s = .next s ∧ exec (.mcredApply r) s = .next s) ∧
    (∀ (r : PeerReq) (i : Instr) (u : State), s.brings r.plane = true →
      (i = .mcredApply r ∧ u = s ∨
        i = .remoteRequest r ∧ u = s.expectNext (orderKey r) (r.pseq + 1) ∧ s.links.early = [] ∧
          (r.pseq = s.links.expected (orderKey r) ∨ r.pseq = 0)) →
      (r.deadline ≤ s.gtime → exec i s = .next u) ∧
      (s.gtime < r.deadline → s.windowCheck r = none → exec i s = .next (u.reply r.id r.src .refused)) ∧
      (∀ b ten, s.gtime < r.deadline → s.windowCheck r = some (b, ten) → Steps i s fun t =>
        ∃ p ∈ t.mem.peers, p.key = s.nextId ∧ p.req = r)) ∧
    (∀ r : PeerReq, s.brings r.plane = true → r.pseq ≠ s.links.expected (orderKey r) → r.pseq ≠ 0 →
      Steps (.remoteRequest r) s fun t => t.mem = s.mem ∧ t.outbox = s.outbox ∧ t.links.early = s.links.early ++ [r]) ∧
    (∀ p : PeerIn, (s.mem.peers.find? fun x => x.key == p.key) = some p →
      let mine := fun (a : Acc) => a.owner = .peer p.key
      ((∃ a ∈ s.mem.accs, mine a ∧ ∀ v, a.stage ≠ .performed v) → exec (.remoteAck p.key) s = .next s) ∧
      ((∀ a ∈ s.mem.accs, mine a → ∃ v, a.stage = .performed v) → Steps (.remoteAck p.key) s fun t =>
        (∀ x ∈ t.mem.peers, x.key ≠ p.key) ∧ (∀ a ∈ t.mem.accs, ¬ mine a) ∧
        ∀ pl, (((List.range 72).map fun i => (Config.hash (p.req.src * 2 ^ 64 + p.req.id) + i) % 72).find? fun x =>
            (s.links.port x).st == .up && (s.links.port x).tx.stopped.isNone) = some pl →
          t.outbox = s.outbox ++ [.flit pl (s.flitOf (s.links.port pl).tx (.reply p.req.id p.req.src p.reply))])) ∧
    (∀ r : PeerReply, (s.brings r.plane = false → exec (.remoteReply r) s = .next s) ∧
      (s.brings r.plane = true → ((s.rslot r.slot).busy = none ∨ (s.rslot r.slot).seq ≠ r.seq ∨
          (s.rslot r.slot).gdeadline ≤ s.gtime) →
        (s.hear r.peer).awaits r.slot r.seq = false ∧ exec (.remoteReply r) s = .next (s.hear r.peer))) ∧
    (∀ pl slot seq failed, (s.brings pl = false ∨ (s.rslot slot).busy = none ∨ (s.rslot slot).seq ≠ seq ∨
      (s.rslot slot).gdeadline ≤ s.gtime) → exec (.mcredAck ⟨pl, slot⟩ seq failed) s = .next s) ∧
    (∀ slot w, slot.tce = false → s.waveAt? slot.owner = some w → (s.rslot slot).busy ≠ none → (s.rslot slot).answered = none →
      let ends := fun (body : ReplyBody) (t : State) => ∃ u : State, t = u.wakeWave slot.owner ∧
        (s.replyOwes body (s.slotAccs slot) = none → (u.rslot slot).busy = none) ∧
        ∀ ans, s.replyOwes body (s.slotAccs slot) = some ans →
          (u.rslot slot).busy = none ∨ (u.rslot slot).answered = some ans
      (∀ r : PeerReply, r.slot = slot → r.seq = (s.rslot slot).seq → s.brings r.plane = true →
        s.gtime < (s.rslot slot).gdeadline → s.slotAccs slot ≠ [] → Steps (.remoteReply r) s (ends r.body)) ∧
      (∀ pl failed, s.brings pl = true → s.gtime < (s.rslot slot).gdeadline → s.slotAccs slot ≠ [] →
        Steps (.mcredAck ⟨pl, slot⟩ (s.rslot slot).seq failed) s fun t => ∃ u : State, t = u.wakeWave slot.owner ∧
          (u.rslot slot).busy = none) ∧
      (s.slotAccs slot ≠ [] → (∀ a ∈ s.slotAccs slot, ∃ p o n, a.tgt = .remote p o n) →
        (s.gtime < (s.rslot slot).gdeadline → exec (.requestTimeout slot) s = .next s) ∧
        ((s.rslot slot).gdeadline ≤ s.gtime → Steps (.requestTimeout slot) s fun t =>
          ∃ u : State, t = u.wakeWave slot.owner ∧ (u.rslot slot).busy = none ∧
            (u.rslot slot).seq = (s.rslot slot).seq + 1))) ∧
    (∀ (a : Acc) (k j port addr : Nat) (body : ReplyBody) (w : Wave), s.mem.acc? a.id = some a → a.tgt = .host port addr →
      a.owner = .wave k → s.waveAt? k = some w →
      (a.stage = .travelling → a.slot = some j →
        ((s.rslot ⟨false, k, j⟩).deadline ≤ s.chrono → exec (.hostCompletion a.id body) s = .next s) ∧
        (s.chrono < (s.rslot ⟨false, k, j⟩).deadline → Steps (.hostCompletion a.id body) s fun t =>
          ∃ u : State, t = u.wakeWave k ∧ (s.replyOwes body [a] = none → (u.rslot ⟨false, k, j⟩).busy = none) ∧
            ∀ ans, s.replyOwes body [a] = some ans →
              (u.rslot ⟨false, k, j⟩).busy = none ∨ (u.rslot ⟨false, k, j⟩).answered = some ans)) ∧
      (a.stage = .flushing → Steps (.hostCompletion a.id body) s fun t =>
        ∃ u : State, t = u.wakeWave k ∧ a ∉ u.mem.accs))

/-! ### Steps of the device: queues, launches, contexts, hosts -/

/-- DOORBELL_WRITE sets WRIDX, stops a queue whose count would be wrong or that only LAUNCH may fill, and is refused where
the tenancy is not reached. ADMIT takes the head of a queue: a descriptor that breaks R330 ends at once with its code,
another becomes a launch with its parameters copied. CHAIN_RECORD stores a valid chain, and CHAIN_REPLAY admits all its
launches as one instance (R325 to R331, R343 to R345, R355, R356, R399). The order of the failures BADDESC, NOFIT and MEMFAULT is
the model's choice (notes/assumptions/46.md), and so is the identity under which a record or a replay is admitted
(notes/assumptions/28.md). -/
def Obligations.QueueSteps : Prop :=
  ∀ (s : State) (part q : Nat) (x : Queue), s.answers = true → s.queueAt? part q = some x →
    let ten := ((s.ctxAt? x.ctx).map Ctx.ten).getD 0
    let taken := fun (t : State) => ∃ y, t.queueAt? part q = some y ∧ y.rdidx = x.rdidx + 1 ∧ y.ids = x.ids.tail ∧
      y.last = some (s.headLid x)
    (∀ port stream val, q < 64 → s.partOfPort port = some part →
      (s.reaches port ten stream = false → exec (.doorbellWrite port q stream val) s = .next (s.violate ten)) ∧
      (s.reaches port ten stream = true →
        let wr : BitVec 32 := val.truncate 32
        let n := (wr - x.rdidx).toNat
        Steps (.doorbellWrite port q stream val) s fun t => s.SameMemory t ∧ t.waves = s.waves ∧ t.queueAt? part q = some (
          if x.device = true then { x with qstat := 2 }
          else if 2 ^ x.k < n ∨ n < x.count then { x with qstat := 1 } else { x with wridx := wr }))) ∧
    ((s.head part q = .slotBad → Steps (.admitDesc part q) s fun t =>
        t.queueAt? part q = some { x with qstat := 4, wait := [] }) ∧
      (∀ d code, s.head part q = .fail d code → exec (.admitDesc part q) s = .next (s.failDesc part q x.ctx d code)) ∧
      (∀ d e, s.head part q = .desc d e → headKind d e = 0 →
        ((descBad d = true ∨ descWpx d ≠ 0 ∧ extLaunchBad e none = true) →
          exec (.admitDesc part q) s = .next (s.failDesc part q x.ctx d 1)) ∧
        (descBad d = false → (descWpx d = 0 ∨ extLaunchBad e none = false) →
          (s.noFit part d = true → exec (.admitDesc part q) s = .next (s.failDesc part q x.ctx d 2)) ∧
          (s.noFit part d = false → s.descChk x d = .bad →
            exec (.admitDesc part q) s = .next (s.failDesc part q x.ctx d 3)) ∧
          (∀ bs, s.noFit part d = false → s.descChk x d = .ok →
            s.cpBytes x (descParam d) (8 * descPwords d) = .ok bs →
            Steps (.admitDesc part q) s fun t => s.SameMemory t ∧ t.waves = s.waves ∧ taken t ∧
              t.cp.order = s.cp.order ++ [s.headLid x] ∧
              ∃ l, t.launchAt? (s.headLid x) = some l ∧ l.desc = d ∧ l.ctx = x.ctx ∧ l.part = part ∧ l.params = paramWords bs ∧
                l.opened = true ∧ l.fault = none ∧ l.next = 0 ∧ l.dispatched = [] ∧
                l.pred = (if descConc d = true then none else x.last.filter s.outstanding))))) ∧
    (∀ d e, s.head part q = .desc d e → headKind d e = 1 →
      (extChainBad d e = true → exec (.chainRecord part q) s = .next (s.failDesc part q x.ctx d 1)) ∧
      (∀ bs rs, extChainBad d e = false → (s.cp.chains.any fun c => c.1 % 64 == extChain e && c.1 / 64 != x.ctx) = false →
        (s.cp.instances.any fun i => i.chain == extChain e && i.ctx == x.ctx) = false →
        s.cpBytes x (extAddr e) (192 * extCount e + 16 * extNrange e) = .ok bs →
        let entries := (List.range (extCount e)).map (recordEntry bs)
        (entries.zipIdx.any fun y => descBad y.1.1 || descWpx y.1.1 != 0 || extLaunchBad y.1.2 (some y.2) || s.noFit part y.1.1) =
          false →
        firstChk (entries.map fun y => s.descChk x y.1) = .ok →
        s.recordRanges x.ctx (bs.drop (192 * extCount e)) (List.range (extNrange e)) = some rs →
        (s.mem.ranges.filter fun r => !(r.ctx == x.ctx && r.chain == extChain e)).length + rs.length ≤ 256 →
        ∃ u : State, exec (.chainRecord part q) s = .next (u.failDesc part q x.ctx d 0) ∧ u.mem.bytes = s.mem.bytes ∧
          u.waves = s.waves ∧ u.cp.chains.get? (chainKey x.ctx (extChain e)) = some ⟨e.getLsbD 96, entries, none⟩)) ∧
    (∀ d e, s.head part q = .desc d e → headKind d e = 2 →
      (s.cp.chains.get? (chainKey x.ctx (extChain e)) = none →
        exec (.chainReplay part q) s = .next (s.failDesc part q x.ctx d 1)) ∧
      (∀ c bs inst params, s.cp.chains.get? (chainKey x.ctx (extChain e)) = some c → extChainBad d e = false →
        s.cpBytes x (extAddr e) (16 * extCount e) = .ok bs →
        let ps := (List.range (extCount e)).map (patchOf bs)
        (ps.all fun p => match p with
          | none => false
          | some (l, w, _) => match c.entries[l]? with | none => false | some y => decide (w < descPwords y.1)) = true →
        s.cp.freeInst x.ctx = some inst → s.cp.launches.length + c.entries.length ≤ 1024 →
        s.chainParams x c.entries = .ok params →
        Steps (.chainReplay part q) s fun t => s.SameMemory t ∧ t.waves = s.waves ∧ taken t ∧
          ∃ i, t.cp.instances = s.cp.instances ++ [i] ∧ i.lid = s.headLid x ∧ i.ctx = x.ctx ∧ i.chain = extChain e ∧ i.id = inst ∧
            i.launches.length = c.entries.length ∧ i.codes = [] ∧
            ∀ n y, c.entries[n]? = some y → ∃ l, t.launchAt? (i.launches.getD n 0) = some l ∧ l.desc = y.1 ∧ l.inst = inst ∧
              l.index = n ∧ l.opened = false ∧
              ∀ pw, params.getD n none = some pw → l.fault = none ∧ l.params = patched n (ps.filterMap id) pw))

/-- LAUNCH_OPEN registers a launch's needs, or fails it where a generation is stale. WP_PUBLISH makes a generation current,
holds it while consumers remain, or answers 2. GROUP_DISPATCH pre-empts for a higher class, or puts the chosen group on its
core with its partition zero and its waves at ENTRY. CORE_RESERVE watches a group that fits nowhere, and after 1 ms reserves
a core. DEFICIT_CHARGE charges each context its resident waves, and one with nothing to offer keeps no positive deficit.
LAUNCH_RETIRE flushes the posted host writes of a launch that is over, and writes the completion word of a finished
launch. CORE_SPLIT_APPLY gives an empty core its new split (R14, R186, R329, R332 to R337, R346 to R353, R357). That the 1 ms is
counted from the first CORE_RESERVE that finds no room, that a core may hold several reservations, and when a positive deficit is
cut to 0 are the model's choices (notes/assumptions/45.md). -/
def Obligations.LaunchSteps : Prop :=
  ∀ s : State,
    (∀ launch l, s.launchAt? launch = some l →
      (l.opened = false → s.mayOpen l = true → l.fault = none →
        let r := Cp.registerAll launch l.ctx l.inst l.wants [] { s.cp with opens := s.cp.opens ++ [launch] }
        (r.2.2 = false → (∀ n ∈ r.2.1, s.needLost l n = false) →
          ∃ u : State, exec (.launchOpen launch) s = .next u.wpSettled ∧
            u.launchAt? launch = some { l with opened := true, needs := r.2.1 }) ∧
        (r.2.2 = true → ∃ (u : State) (l' : Launch), exec (.launchOpen launch) s = .next u.wpSettled ∧
          u.launchAt? launch = some l' ∧ l'.opened = true ∧ l'.fault = some 4)) ∧
      (∀ gid, s.offerOf l = some gid →
        ((s.dieFor launch l gid []).isSome = true → Steps (.coreReserve launch) s fun t =>
          t.launchAt? launch = some { l with offered := none } ∧ t.cores = s.cores) ∧
        (s.dieFor launch l gid [] = none → (∀ x, l.offered = some x → x.1 ≠ gid) → Steps (.coreReserve launch) s fun t =>
          t.launchAt? launch = some { l with offered := some (gid, s.chrono) } ∧ t.cores = s.cores) ∧
        (∀ since d core, s.dieFor launch l gid [] = none → l.offered = some (gid, since) → since + 1000000 ≤ s.chrono →
          (s.cores.any fun e => e.2.reserve.contains (launch, gid)) = false →
          leastBy s.residentDie (s.diesOf l.part) = some d →
          leastBy s.resident ((coresOfDie d).filter (s.holdsEmpty l.desc)) = some core →
          Steps (.coreReserve launch) s fun t =>
            t.coreAt core = { s.coreAt core with reserve := (s.coreAt core).reserve ++ [(launch, gid)] } ∧
            t.waves = s.waves ∧ t.cp = s.cp)) ∧
      (s.launchDone launch l = false → exec (.launchRetire launch) s =
        .next (if s.launchOver launch l = true then (s.postedOwners launch).foldl State.flushHost s else s)) ∧
      (s.launchDone launch l = true → ∃ u : State, exec (.launchRetire launch) s = .next u.wpSettled.clampDeficits ∧
        launch ∉ u.cp.order ∧ (∀ c, ∀ r ∈ (u.coreAt c).reserve, r.1 ≠ launch) ∧
        ∀ pa, descDone l.desc ≠ 0 → s.settle.translateCp l.ctx (descDone l.desc) .store = .to (.dev pa) →
          ∃ a ∈ u.mem.accs, a.kind = .store ∧ a.tgt = .dev pa ∧
            a.data = bytesOf 8 ((descDoneVal l.desc).toNat + l.fault.getD 0 * 2 ^ 32))) ∧
    (∀ (p : Pub) (x : Launch), (s.cp.pubs.find? fun y => y.id == p.id && !y.held) = some p →
      ((s.cp.pubs.takeWhile fun y => y.id != p.id).filter fun y => y.launch == p.launch && y.who == p.who) = [] →
      s.launchAt? p.launch = some x →
      let goes := fun (code gen : Nat) (P : State → Prop) =>
        ∃ u : State, exec (.wpPublish p.id) s = .next (u.giveCode p code gen).wpSettled ∧ P u
      let done := fun (u : State) => ∀ y ∈ u.cp.pubs, y.id ≠ p.id
      (s.cp.wpGet x.ctx x.inst p.key = none →
        (s.cp.wpRoom = true → goes 0 0 fun u => done u ∧
          u.cp.wp = s.cp.wp ++ [⟨x.ctx, x.inst, p.key, p.gen, 0, 0, false, none, p.launch⟩]) ∧
        (s.cp.wpRoom = false → goes 1 0 fun u => done u ∧ u.cp.wp = s.cp.wp ∧ u.launchAt? p.launch = some { x with ovf := true })) ∧
      (∀ e, s.cp.wpGet x.ctx x.inst p.key = some e →
        (p.gen ≠ e.gen + 1 → goes 2 e.gen fun u => done u ∧ u.cp.wp = s.cp.wp) ∧
        (p.gen = e.gen + 1 → e.cur = 0 → goes 0 e.gen fun u => done u ∧ ∃ e', u.cp.wpGet x.ctx x.inst p.key = some e' ∧
          e'.gen = e.gen + 1 ∧ e.next ≤ e'.cur ∧ e'.held = none) ∧
        (p.gen = e.gen + 1 → e.cur ≠ 0 → e.held = none → goes 3 e.gen fun u =>
          u.cp.wpGet x.ctx x.inst p.key = some { e with held := some p.id } ∧ ∃ y ∈ u.cp.pubs, y.id = p.id ∧ y.held = true))) ∧
    (∀ die,
      (∀ c x, s.preemptNext = some c → s.ctxAt? c = some x → Steps (.groupDispatch die) s fun t =>
        (∃ d : Int, d ≤ x.deficit ∧ t.ctxAt? c = some { x with st := .stopping, deficit := d }) ∧ t.waves = s.waves ∧
          s.SameMemory t) ∧
      (∀ lid gid l core, s.preemptNext = none → s.choose.2 = some (lid, gid, die) → s.launchAt? lid = some l →
        s.choose.1.coreFor lid l gid die = some core →
        ∃ (u : State) (g : Nat) (y : Group), exec (.groupDispatch die) s = .next u.wpSettled.clampDeficits ∧ coreOfGroup g = core ∧
          s.groupAt? g = none ∧ u.groupAt? g = some y ∧ y.launch = lid ∧ y.gid = gid ∧ y.size = descScr l.desc ∧ y.scratch = [] ∧
          y.prio.val = descPrio l.desc % 4 ∧
          (∀ i, i < descWaves l.desc → ∃ k w, s.waveAt? k = none ∧ u.waveAt? k = some w ∧ coreOfWave k = core ∧ w.group = g ∧
            w.launch = lid ∧ w.waveid = i ∧ w.groupid = gid ∧ w.v = [] ∧ w.s = [] ∧ w.p = [] ∧
            w.launched = launchedLanes l.desc (i + 1 == descWaves l.desc) ∧
            w.frontier = [⟨BitVec.ofNat 64 (descEntry l.desc), w.launched, 0, 0, .ready, 0, []⟩]) ∧
          ∀ k, coreOfWave k ≠ core → u.waveAt? k = s.settle.waveAt? k)) ∧
    ((s.chrono < s.cp.charged + 1000 → exec .deficitCharge s = .next s) ∧
      (s.cp.charged + 1000 ≤ s.chrono → Steps .deficitCharge s fun t => t.cp.charged = s.cp.charged + 1000 ∧
        t.waves = s.waves ∧ s.SameMemory t ∧ ∀ c, t.ctxAt? c = (s.ctxAt? c).map fun x =>
          let d : Int := x.deficit - ((s.waves.filter fun e => e.2.ctx == c).length : Nat)
          { x with deficit := if s.offers.any (fun o => o.2.1.ctx == c) then d else min d 0 })) ∧
    (∀ core n, (s.coreAt core).pendSplit = some n →
      (s.groupsOn core (fun _ => true) ≠ [] → exec (.coreSplitApply core) s = .next s) ∧
      (s.groupsOn core (fun _ => true) = [] → Steps (.coreSplitApply core) s fun t =>
        t.coreAt core = { s.coreAt core with split := n, pendSplit := none, l1 := [] } ∧ t.waves = s.waves ∧ t.mem = s.mem))

/-- A context being pre-empted has its waves brought to rest, then its work drained, then its groups saved and taken off
their cores, with their banks, handles, array work and copies in the image and device memory untouched. A saved group
returns to the core it left, into slots free there, with everything its image holds; with the last the context runs again. A
killed context that has nothing left is gone with its queues, chains and instances (R291, R381 to R383, R385). That the image is held
as data beside device memory, and that a restored group takes the lowest free slots, are the model's choices
(notes/assumptions/30.md and 49.md). -/
def Obligations.PreemptSteps : Prop :=
  ∀ (s : State) (ctx : Nat) (c : Ctx), s.ctxAt? ctx = some c →
    (c.st = .stopping →
      ((s.ctxWaves ctx).all (fun e => e.2.atRest) = false → exec (.preemptSaveDone ctx) s = .next s) ∧
      ((s.ctxWaves ctx).all (fun e => e.2.atRest) = true → Steps (.preemptSaveDone ctx) s fun t =>
        t.ctxAt? ctx = some { c with st := .draining } ∧ t.mem = s.mem ∧ t.groups = s.groups)) ∧
    (c.st = .draining → (s.ctxWaves ctx).all (fun e => s.waveSaved e.1 e.2) = true →
      (s.ctxGroups ctx).all (fun e => s.groupSaved e.1) = true → Steps (.preemptSaveDone ctx) s fun t =>
        t.ctxAt? ctx = some { c with st := .saved, saves := (s.ctxGroups ctx).map fun e => s.imageOf e.1 e.2 } ∧ t.mem = s.mem ∧
        ∀ e ∈ t.waves, ∀ g ∈ s.ctxGroups ctx, e.2.group ≠ g.1) ∧
    (∀ g, c.st = .saved → s.higherWaits c = false →
      c.saves.find? s.roomBack = some g → (g.waves.map fun e => e.1).Nodup →
      Steps (.contextRestore ctx) s fun t => t.mem = s.mem ∧
        t.ctxAt? ctx = some { c with saves := c.saves.erase g, st := if c.saves.erase g = [] then .live else .saved } ∧
        ∃ k y, coreOfGroup k = g.core ∧ s.groupAt? k = none ∧ t.groupAt? k = some y ∧ y.scratch = g.group.scratch ∧
          y.size = g.group.size ∧ y.launch = g.group.launch ∧ y.gid = g.group.gid ∧
          ∀ e ∈ g.waves, ∃ j, coreOfWave j = g.core ∧ s.waveAt? j = none ∧ t.waveAt? j = some { e.2 with group := k }) ∧
    (c.st = .killing → s.waves.any (fun e => e.2.ctx == ctx) = false → s.groups.any (fun e => e.2.ctx == ctx) = false →
      s.cp.launches.any (fun e => e.2.ctx == ctx) = false → s.settle.enginePending ctx = false →
      Steps (.killComplete ctx) s fun t =>
        t.cp.ctxs = s.cp.ctxs.del ctx ∧ t.waves = s.waves ∧ (∀ e ∈ t.cp.queues, e.2.ctx ≠ ctx) ∧
        (∀ e ∈ t.cp.chains, e.1 / 64 ≠ ctx) ∧ (∀ i ∈ t.cp.instances, i.ctx ≠ ctx) ∧ ∀ r ∈ t.mem.ranges, r.ctx ≠ ctx)

/-- The commands on tenancies and granules: STATUS and TAKEOVER answer at once, TAKEOVER after it has begun to kill every
context; TEN_CREATE, TEN_DESTROY and WAYS need the SPDM session, and a destroyed tenancy is gone and its granules are zeroed
and free; GRANT of a free granule and RECLAIM of an owned one zero it and change its owner entry, and it can be reached, and the
command is answered, when its translations are dropped; WAYS, WINDOW_SET and CORE_CFG check their arguments and take effect at once
(R186, R190, R369, R392 to R400). Which status a refused command returns and which commands reply at once are the model's choices
(notes/assumptions/31.md), and so is what becomes of a destroyed tenancy's granules (notes/assumptions/22.md). -/
def Obligations.TenancyCommands : Prop :=
  ∀ (s : State) (r : MbReq) (part : Nat), s.answers = true → s.partOfPort r.port = some part →
    let answers := fun (i : Instr) (st : MbStatus) => exec i s = .next (s.send (.mb r.port st))
    let does := fun (i : Instr) (P : State → Prop) => ∃ u : State, exec i s = .next (u.send (.mb r.port .ok)) ∧ P u
    let moves := fun (grans : List Nat) (owner : BitVec 8) (port : Option Nat) (u : State) =>
      u.mem.moving = s.mem.moving ++ (grans.filter fun g => !s.mem.moving.contains g) ∧
      u.mem.invals = s.mem.invals ++ [⟨s.nextId, 64, false, 0, 0, none, port, false, [], grans, some owner⟩] ∧
      (∀ g, u.mem.owner g = if grans.contains g then owner else s.mem.owner g) ∧
      (∀ a, grans.contains (a / 2 ^ 21) = true → Memory.get u.mem.bytes a = 0) ∧
      ((∀ a ∈ s.mem.accs, a.heldIn grans = false) → ∀ a, grans.contains (a / 2 ^ 21) = false →
        Memory.get u.mem.bytes a = Memory.get s.mem.bytes a)
    (s.links.boot = .running → r.port < 2 → exec (.status r) s = .next (s.send (.mbStatus r.port s.host.mode.val
      ((List.range 2).filter fun p => (s.partOfPort p).isSome)
      ((s.host.tens.filter fun e => e.2.policy.getLsbD 0).map fun (e : Nat × Tenancy) => (e.1, e.2.tdi.getD r.port .unlocked))))) ∧
    (∀ r2 : MbReq, r2.port < 2 → s.host.mode.val = 0 → r2.port ≠ s.host.owner → s.host.takeover = none →
      ∃ u : State, exec (.takeover r2) s = .next (u.send (.mb r2.port .ok)) ∧ (∀ c x, u.ctxAt? c = some x → x.st = .killing) ∧
        (s.cp.ctxs = [] → u.host.owner = r2.port) ∧ (s.cp.ctxs ≠ [] → u.host.takeover = some r2.port)) ∧
    (∀ ten policy,
      (r.sess = none → answers (.tenCreate r ten policy) .denied) ∧
      (∀ sess, r.sess = some sess → s.hasSession r.port sess = true → ten ≤ 15 → bits policy.toNat 31 3 = 0 →
        s.host.tens.get? ten = none → bits policy.toNat 63 32 ≠ 0 →
        s.host.tens.any (fun e => bits e.2.policy.toNat 63 32 == bits policy.toNat 63 32) = false →
        does (.tenCreate r ten policy) fun u => u.mem = s.mem ∧ ∃ t, u.host.tens.get? ten = some t ∧ t.policy = policy ∧
          t.part = part ∧ t.session = sess ∧ t.key = some (Config.key s.host.drbg) ∧ t.dying = false ∧ t.stopped = false)) ∧
    (∀ ten t, s.host.tens.get? ten = some t → s.accepts r part ten = true →
      ((r.sess ≠ some t.session ∨ s.hasSession r.port t.session = false) → answers (.tenDestroy r ten) .denied) ∧
      (r.sess = some t.session → s.hasSession r.port t.session = true → does (.tenDestroy r ten) fun u =>
        (∀ c x y, s.ctxAt? c = some x → x.ten = ten → u.ctxAt? c = some y → y.st = .killing) ∧
        (ten ≤ 15 → s.cp.ctxs.any (fun e => e.2.ten == ten) = false → s.mem.invals = [] →
          u.host.tens.get? ten = none ∧
          (s.mem.granulesOf ten = [] → u.mem.bytes = s.mem.bytes) ∧
          (s.mem.granulesOf ten ≠ [] → moves (s.mem.granulesOf ten) 0 none u))) ∧
      (∀ gran, s.granuleOf part gran = true → (s.mem.owner gran ≠ 0 ∨ s.mem.moving.contains gran = true) →
        answers (.grant r ten gran) .busy) ∧
      (∀ gran, s.granuleOf part gran = true → s.mem.owner gran = 0 → s.mem.moving.contains gran = false →
        Steps (.grant r ten gran) s fun u => u.outbox = s.outbox ∧
          moves [gran] (BitVec.ofNat 8 (64 + ten)) (some r.port) u) ∧
      (∀ gran, s.mem.moving.contains gran = false → s.mem.owner gran = BitVec.ofNat 8 (64 + ten) →
        (s.granuleLive ten gran = true → answers (.reclaim r ten gran) .busy) ∧
        (s.granuleLive ten gran = false → Steps (.reclaim r ten gran) s fun u => u.outbox = s.outbox ∧
          moves [gran] 0 (some r.port) u)) ∧
      (∀ m : BitVec 16, bits m.toNat 15 12 = 0 →
        ((m = 0 ∨ s.inSession r t = false) → answers (.ways r ten m) .denied) ∧
        (m ≠ 0 → s.inSession r t = true → does (.ways r ten m) fun u => u.mem.ways.get? ten = some (m.truncate 12) ∧ u.mem.bytes = s.mem.bytes ∧
          u.mem.owners = s.mem.owners)) ∧
      (∀ win (e : BitVec 128), winTen e = ten → winValid (s.mem.windows.getD win 0) = false → win < 4096 →
        bits e.toNat 127 104 = 0 → bits e.toNat 7 5 = 0 →
        ((s.policy ten).getLsbD 1 = false → answers (.windowSet r win e) .denied) ∧
        ((s.policy ten).getLsbD 1 = true → (e.getLsbD 4 = true → (s.policy ten).getLsbD 2 = true) →
          does (.windowSet r win e) fun u => u.mem.windows.get? win = some e ∧ u.mem.bytes = s.mem.bytes))) ∧
    (∀ (arg : DWord) (force : Bool),
      let i : Instr := if force then .coreCfgForce r arg else .coreCfgDrain r arg
      let scr := bits arg.toNat 21 18
      let first := bits arg.toNat 8 0
      let n := bits arg.toNat 17 9
      (scr ≤ 7 → n ≠ 0 → first + n ≤ 512 → bits arg.toNat 63 23 = 0 →
        (∀ c, first ≤ c → c < first + n → (s.diesOf part).contains (dieOfCore c) = true) →
        (∀ e ∈ s.groups, first ≤ coreOfGroup e.1 → coreOfGroup e.1 < first + n →
          ∃ x, s.ctxAt? e.2.ctx = some x ∧ s.partOfCtx x = part) →
        does i fun u => s.SameMemory u ∧
          (∀ c, first ≤ c → c < first + n → (u.coreAt c).pendSplit = some scr ∧
            (force = true → ∀ h, ((u.coreAt c).handle h).st = .free)) ∧
          (force = true → ∀ e ∈ s.groups, first ≤ coreOfGroup e.1 → coreOfGroup e.1 < first + n →
            ∀ l, s.launchAt? e.2.launch = some l → ∃ l', u.launchAt? e.2.launch = some l' ∧ l'.fault = some (l.fault.getD 7))))

/-- The commands on contexts and queues, each of a tenancy that the partition created: CTX_CREATE makes the context its
descriptor describes; CTX_KILL ends its lanes and work and fails its launches with KILLED; QUEUE_CREATE makes an empty queue
and QUEUE_RESET empties a stopped one; PAGE_RESP answers every wait on its request; TLB_INV begins an invalidation and
answers when it ends; an absent context is NOCTX. HOST_REQUEST reads and writes what the tenancy owns, over its stream, and
nothing else (R325, R326, R358, R366, R380, R385, R396, R399, R400, R430). The statuses BADARG, BUSY and OK where R400 does not give
them are the model's choice (notes/assumptions/31.md), and so is the Completer Abort for a granule that the tenancy does not own
(notes/assumptions/59.md). -/
def Obligations.ContextCommands : Prop :=
  ∀ (s : State) (r : MbReq) (part : Nat), s.answers = true → s.partOfPort r.port = some part →
    let answers := fun (i : Instr) (st : MbStatus) => exec i s = .next (s.send (.mb r.port st))
    let does := fun (i : Instr) (P : State → Prop) => ∃ u : State, exec i s = .next (u.send (.mb r.port .ok)) ∧ P u
    (∀ ctx (d : BitVec 512), s.accepts r part (bits d.toNat 194 191) = true → ctx ≤ 63 →
      (s.ctxDescBad ctx d = true → answers (.ctxCreate r ctx d) .badarg) ∧
      (s.ctxDescBad ctx d = false → (s.ctxAt? ctx).isSome = true → answers (.ctxCreate r ctx d) .busy) ∧
      (s.ctxDescBad ctx d = false → s.ctxAt? ctx = none → s.host.takeover = none → does (.ctxCreate r ctx d) fun u =>
        u.mem = s.mem ∧ u.waves = s.waves ∧ ∃ c, u.ctxAt? ctx = some c ∧ c.desc = d ∧ c.st = .live ∧
          c.cto = BitVec.ofNat 64 (if bits d.toNat 231 218 = 0 then 100 else bits d.toNat 231 218) ∧
          c.clease = BitVec.ofNat 64 (if bits d.toNat 217 205 = 0 then 256 else bits d.toNat 217 205))) ∧
    (∀ ctx q seq cfg all va pages, s.ctxAt? ctx = none →
      answers (.ctxKill r ctx) .noctx ∧ answers (.pageRespRetry r ctx seq) .noctx ∧ answers (.pageRespDeny r ctx seq) .noctx ∧
      answers (.tlbInv r ctx all va pages) .noctx ∧ (cfg.ctx = ctx → answers (.queueCreate r q cfg) .noctx)) ∧
    (∀ ctx c, s.ctxAt? ctx = some c → c.st ≠ .killing → s.accepts r part c.ten = true →
      does (.ctxKill r ctx) (fun u => s.SameMemory u ∧ (∃ x, u.ctxAt? ctx = some x ∧ x.st = .killing ∧ x.saves = []) ∧
        (∀ k w, u.waveAt? k = some w → w.ctx = ctx → w.frontier = [] ∧ w.exited = w.launched ∧ w.lops = [] ∧ w.rdvq = []) ∧
        (∀ n l, u.launchAt? n = some l → l.ctx = ctx → l.fault = some 5 ∧ l.needs = []) ∧
        (∀ e ∈ u.cp.wp, e.ctx ≠ ctx) ∧ ∀ e ∈ u.cp.queues, e.2.ctx = ctx → e.2.count = 0) ∧
      (∀ q cfg, cfg.ctx = ctx → q ≤ 63 → 6 ≤ cfg.k → cfg.k ≤ 16 → cfg.base % 64 = 0 →
        (s.queueAt? part q = none → does (.queueCreate r q cfg) fun u => u.mem = s.mem ∧
          u.queueAt? part q = some ⟨ctx, cfg.device, cfg.base, cfg.k, 0, 0, 0, none, [], [], []⟩) ∧
        ((s.queueAt? part q).isSome = true → answers (.queueCreate r q cfg) .busy)) ∧
      (∀ q x, s.queueAt? part q = some x → x.ctx = ctx →
        (x.qstat = 0 → answers (.queueReset r q) .busy) ∧
        (x.qstat ≠ 0 → does (.queueReset r q) fun u => u.mem = s.mem ∧
          u.queueAt? part q = some { x with wridx := 0, rdidx := 0, qstat := 0, ids := [], wait := [], held := [] })) ∧
      (∀ seq (retry : Bool), let i : Instr := if retry then .pageRespRetry r ctx seq else .pageRespDeny r ctx seq
        (c.prq.any (fun p => p.seq == seq) = false → answers i .ok) ∧
        (c.prq.any (fun p => p.seq == seq) = true → does i fun u => u.mem = s.mem ∧
          (∀ x, u.ctxAt? ctx = some x → ∀ p ∈ x.prq, p.seq ≠ seq) ∧
          ∀ k w x, s.waveAt? k = some w → w.ctx = ctx → w.trapWait = some x → x.seq = some seq → x.answer = none →
            u.waveAt? k = some { w with trapWait := some { x with answer := some retry } })) ∧
      (∀ all va pages, (all = true ∨ va % 4096 = 0 ∧ pages ≠ 0) → Steps (.tlbInv r ctx all va pages) s fun u =>
        u.outbox = s.outbox ∧ u.waves = s.waves ∧ u.mem.bytes = s.mem.bytes ∧ u.mem.invals = s.mem.invals ++
          [⟨s.nextId, ctx, all, if all then 0 else va, if all then 0 else pages, none, some r.port, false, [], [], none⟩])) ∧
    (∀ h : HostReq, h.port = r.port → s.carries h.port h.ten = true →
      let n := if h.write then h.data.length else h.size
      ((s.reaches h.port h.ten h.stream = false ∨ s.hostOwns h.ten h.addr n = false) →
        (h.write = true → Steps (.hostRequest h) s fun t => t.mem = s.mem ∧ t.outbox = s.outbox) ∧
        (h.write = false → Steps (.hostRequest h) s fun t => t.mem = s.mem ∧ t.outbox = s.outbox ++ [.hostReply h.port .abort])) ∧
      (s.reaches h.port h.ten h.stream = true → s.hostOwns h.ten h.addr n = true →
        (h.write = true → exec (.hostRequest h) s = .next (s.engineStores h.addr h.data (h.data.length / 128 + 2))) ∧
        (h.write = false → s.poisoned h.addr h.size = true →
          exec (.hostRequest h) s = .next (s.send (.hostReply h.port .poisoned))) ∧
        (h.write = false → s.poisoned h.addr h.size = false → exec (.hostRequest h) s =
          .next (s.send (.hostReply h.port (.data (Memory.read s.settle.mem.bytes h.addr h.size)))))))

/-- An SPDM request is answered once the connection has come so far, with both signatures where R401 says so; KEY_EXCHANGE
draws a secret from both shared secrets, FINISH with a good proof establishes the session, KEY_UPDATE and END_SESSION change
it. Over a tenancy's session, TDISP moves its TDI from CONFIG_UNLOCKED to LOCKED to RUN and back, and IDE_KM binds a stream
to it, a change of which puts a locked or running TDI in ERROR (R399, R401 to R403). The order of the connection's stages and
the response codes are the model's choice (notes/assumptions/24.md), and so are CONFIG_UNLOCKED, STOP from every state and the refusal
of START outside LOCKED (notes/assumptions/19.md). -/
def Obligations.Attestation : Prop :=
  ∀ (s : State) (port : Nat), s.answers = true → port < 2 →
    let stage := (s.spdmAt port).stage
    let sends := fun (i : Instr) (code : Nat) (body : List Nat) (P : State → Prop) =>
      ∃ u : State, exec i s = .next (u.send (.spdm port code body)) ∧ u.waves = s.waves ∧ u.mem = s.mem ∧ P u
    let sessions := fun (u : State) => (u.spdmAt port).sessions
    sends (.getVersion port) 4 [0x13] (fun u => (u.spdmAt port).stage = max stage 1) ∧
    (stage = 0 → ∀ i, i ∈ [Instr.getCapabilities port, .negotiateAlgorithms port, .getDigests port, .challenge port] →
      exec i s = .next (s.send (.spdm port spdmError []))) ∧
    (1 ≤ stage → sends (.getCapabilities port) 0x61 [] fun u => (u.spdmAt port).stage = max stage 2) ∧
    (2 ≤ stage → sends (.negotiateAlgorithms port) 0x63 [] fun u => (u.spdmAt port).stage = max stage 3) ∧
    (3 ≤ stage →
      sends (.getDigests port) 1 [Config.digest 100 0, Config.digest 101 0] (fun u => (u.spdmAt port) = s.spdmAt port) ∧
      (∀ c, c < 2 → sends (.getCertificate port c) 2 [c, Config.digest (100 + c) 0] fun u => (u.spdmAt port) = s.spdmAt port) ∧
      sends (.challenge port) 3 [384, 7856] (fun u => (u.spdmAt port) = s.spdmAt port) ∧
      (∀ sess n l, s.measure (sess.filter fun x => s.hasSession port x) n = some l →
        sends (.getMeasurements port sess n) 0x60 (n :: l ++ [384, 7856]) fun u => (u.spdmAt port) = s.spdmAt port) ∧
      (∀ a b, let n := s.host.drbg
        Steps (.keyExchange port a b) s fun t => (t.spdmAt port).pending = some (n, handshakeSecret n a b) ∧
          t.host.drbg = n + 1 ∧ (t.spdmAt port).sessions = sessions s ∧ t.outbox = s.outbox ++
            [.spdm port 0x64 [Config.digest 200 (2 ^ 64 * a + n), Config.digest 201 n, n, 384, 7856]]) ∧
      (∀ n secret, (s.spdmAt port).pending = some (n, secret) →
        sends (.finish port true) 0x65 [n]
          (fun u => (sessions u).get? n = some (secret, 0) ∧ (u.spdmAt port).pending = none) ∧
        sends (.finish port false) spdmError [] (fun u => sessions u = sessions s ∧ (u.spdmAt port).pending = none)) ∧
      (∀ sess, s.hasSession port sess = true →
        sends (.keyUpdate port sess) 0x69 [sess] 
          (fun u => (sessions u).get? sess = ((sessions s).get? sess).map fun y => (y.1, y.2 + 1)) ∧
        sends (.endSession port sess) 0x6C [sess] (fun u => sessions u = (sessions s).del sess)) ∧
      (∀ sess ten, s.overSession port sess ten = true →
        (s.tdiAt port ten = .unlocked → sends (.tdispRequest port sess ten .lock) 0xFD [ten] fun u => u.tdiAt port ten = .locked) ∧
        (s.tdiAt port ten = .locked → sends (.tdispRequest port sess ten .start) 0xFD [ten] fun u => u.tdiAt port ten = .run) ∧
        sends (.tdispRequest port sess ten .stop) 0xFD [ten] (fun u => u.tdiAt port ten = .unlocked) ∧
        (s.tdiAt port ten ≠ .locked → exec (.tdispRequest port sess ten .start) s = .next (s.spdm port 3 spdmError [] id)) ∧
        (∀ stream key, s.host.tens.any (fun e => e.1 != ten && e.2.stream.get? port == some stream) = false →
          sends (.ideKm port sess ten ⟨stream, key⟩) 0xFE [stream] fun u =>
            ∃ t x, u.host.tens.get? ten = some t ∧ s.host.tens.get? ten = some x ∧ t.stream.get? port = some stream ∧
              t.ideKey.get? port = some key ∧
              (x.stream.get? port ≠ some stream → (s.tdiAt port ten = .locked ∨ s.tdiAt port ten = .run) →
                u.tdiAt port ten = .error)))) ∧
    (∀ ten t, s.host.tens.get? ten = some t → Steps (.tdiConfigChange port ten) s fun u =>
      u.tdiAt port ten = (if s.tdiAt port ten = .locked ∨ s.tdiAt port ten = .run then .error else s.tdiAt port ten))

/-! ### Steps of the device: group clock, links, housekeeping -/

/-- A message on a port that does not bring it does nothing. One of another group, of a device that is not admitted, invalid (its
TYPE among others) or older than one that has come is discarded and counted; a copy of one that has come is dropped. One in time acts by
its type on a member, a leaving and a joining device: ANNOUNCE and DROP leave a pending announcement; JOIN, LEAVE and SILENT a pending
membership change, and a SILENT about a member itself makes it leave; a HEARTBEAT of a member whose number pending changes explain
clears the epoch watch, one of a stranger in a group with a lower founder makes the device leave, and a joining device adds it to its
view, aligning with the first (R404, R405, R407 to R412, R414 to R417). That a valid message on a device in no group is noted and does
nothing, and that a message for another state is discarded, is the model's choice (notes/assumptions/43.md); so is which messages are
duplicates, which differences of MNUM pending changes explain, and what a joiner makes of a late heartbeat (notes/assumptions/65.md). -/
def Obligations.MeridianMessages : Prop :=
  ∀ (s : State) (port : Nat) (m : MMsg),
    let q := s.merSettle
    let sender := m.sender.toNat
    let sent := m.sent.toNat
    let forms := [Instr.heartbeat ⟨port, m⟩, .announce ⟨port, m⟩, .drop ⟨port, m⟩, .join ⟨port, m⟩, .leave ⟨port, m⟩, .silent ⟨port, m⟩,
      .meridianInvalidType ⟨port, m⟩]
    let came := (q.mer.seen.getD (msgKey m) []).contains sent || (q.mer.seen.getD (2 ^ 20 + msgKey m) []).contains sent
    let foreign := m.group ≠ q.mer.group ∨ q.mer.admit_.getD sender false = false
    let old := ∃ x ∈ q.mer.seen.getD (msgKey m) [], sent ≤ x
    let valid := m.group = q.mer.group ∧ q.mer.admit_.getD sender false = true ∧ mmsgOk m = true ∧ ¬ old
    let takes := q.mer.isMember = true ∨ q.mer.st = .joining
    ((m.type = 0 ∨ 6 < m.type.toNat) → mmsgOk m = false) ∧
    (s.brings port = false → ∀ i ∈ forms, exec i s = .next q) ∧
    (s.brings port = true →
      (came = true → ∀ i ∈ forms, exec i s = .next q) ∧
      (came = false → (foreign ∨ mmsgOk m = false ∨ old) → ∀ i ∈ forms, exec i s = .next (q.discardM m) ∧
        (q.discardM m).mer.invalid = q.mer.invalid + 1 ∧ (q.discardM m).mer.members = q.mer.members ∧
        (q.discardM m).mer.changes = q.mer.changes ∧ (q.discardM m).mer.anns = q.mer.anns) ∧
      (came = false → valid → (q.mer.st = .none ∨ q.mer.st = .local_) → ∀ i ∈ forms,
        ∃ late, exec i s = .next (q.noteM m s.gt late) ∧ (q.noteM m s.gt late).mer.members = q.mer.members ∧
          (q.noteM m s.gt late).mer.changes = q.mer.changes ∧ (q.noteM m s.gt late).mer.anns = q.mer.anns) ∧
      (came = false → valid → takes → s.gt ≤ sent + 20000 →
        let announced := fun (t : State) => t.mer.heard.get? sender = some s.gt ∧
          ⟨sender, m.ceiling.toNat, m.effective.toNat, sent⟩ ∈ t.mer.anns ∧ t.mer.members = q.mer.members
        let changing := fun (subject : Nat) (join : Bool) (ceiling : Nat) (t : State) =>
          ⟨sender, subject, join, m.effective.toNat, ceiling, sent⟩ ∈ t.mer.changes ∧ t.mer.members = q.mer.members
        (m.type = 2 → Steps (.announce ⟨port, m⟩) s announced) ∧
        (m.type = 3 → Steps (.drop ⟨port, m⟩) s announced) ∧
        (m.type = 4 → (q.mer.follows s.host.device = true ∨ sender ≠ s.host.device) → Steps (.join ⟨port, m⟩) s (changing sender true m.ceiling.toNat)) ∧
        (m.type = 5 → Steps (.leave ⟨port, m⟩) s (changing sender false 0)) ∧
        (m.type = 6 →
          (m.subject.toNat = s.host.device → q.mer.isMember = true → Steps (.silent ⟨port, m⟩) s fun t =>
            t.mer.st = .local_ ∧ t.mer.members = []) ∧
          (¬ (m.subject.toNat = s.host.device ∧ q.mer.isMember = true) → (m.mnum = q.mer.mnum ∨ q.mer.follows s.host.device = false) →
            Steps (.silent ⟨port, m⟩) s (changing m.subject.toNat false 0))) ∧
        (m.type = 1 → q.mer.isMember = true →
          ((q.mer.members.get? sender).isSome = true → q.mer.explains m.mnum = true → Steps (.heartbeat ⟨port, m⟩) s fun t =>
            t.mer.epochFrom = none ∧ t.mer.members = q.mer.members ∧ t.mer.heard.get? sender = some s.gt) ∧
          (q.mer.members.get? sender = none → m.subject.toNat < q.mer.founder → Steps (.heartbeat ⟨port, m⟩) s fun t =>
            t.mer.st = .local_ ∧ t.mer.members = []))) ∧
      (came = false → valid → q.mer.st = .joining → m.type = 1 →
        ((s.gt ≤ sent + 20000 ∨ q.mer.aligned = none) → Steps (.heartbeat ⟨port, m⟩) s fun t => t.mer.st = .joining ∧
          t.mer.aligned.isSome = true ∧ t.mer.since = t.gt ∧ t.mer.view = (t.gt, m) :: q.mer.view ∧ t.mer.members = q.mer.members) ∧
        (sent + 20000 < s.gt → q.mer.aligned.isSome = true → Steps (.heartbeat ⟨port, m⟩) s fun t => t.mer.st = .joining ∧
          t.mer.since = s.gt ∧ t.mer.view = q.mer.view ∧ t.mer.late = q.mer.late + 1)))

/-- What the engine does by itself and what its owner writes: every 20 µs a member sends HEARTBEAT; a device that left on
its own joins again; a member not heard for 200 µs is announced SILENT, and a member that hears nobody, or foreign numbers
for 100 µs, leaves; a joining device sends JOIN 40 µs after alignment, or founds the group after 200 µs of silence. MCTL
joins and leaves, MLIMIT announces a new limit with 100 µs of lead, and the other registers take their values within their
ranges (R405, R406, R410 to R412, R414, R416 to R421, R435, R451). That a value with bits above a field is out of range for MGROUP,
MLIMIT, PLIM and HKCTL as a whole, and only cut for HKSEL, is the model's choice (notes/assumptions/57.md), and so is that the 100 µs of
EPOCH are those of an unbroken series (notes/assumptions/65.md). -/
def Obligations.MeridianEngine : Prop :=
  ∀ s : State,
    let q := s.merSettle
    let self := s.host.device
    let sent := max s.gt (q.mer.sentAt + 1)
    (q.mer.isMember = true → q.mer.nextBeat ≤ s.gt → s.links.level3 = false → Steps .heartbeatTimer s fun t =>
      t.mer.nextBeat = q.mer.nextBeat + 20000 ∧ ∃ m, t.outbox = s.outbox ++
        (q.merPorts.map fun p => .flit p (q.flitOf (q.links.port p).tx (.meridian (wireOf m)))) ∧
        m.type = 1 ∧ m.sender = BitVec.ofNat 12 self ∧ m.subject = BitVec.ofNat 12 q.mer.founder ∧ m.group = q.mer.group ∧
        m.mnum = q.mer.mnum ∧ m.sent = BitVec.ofNat 64 sent) ∧
    (q.mer.st = .local_ → Steps .meridianEffective s fun t => t.mer.st = .joining ∧ t.mer.members = []) ∧
    (q.mer.st ≠ .local_ → exec .meridianEffective s = .next q) ∧
    (∀ n, q.mer.isMember = true → q.others.contains n = true → q.silentNow n = true → q.allSilent = false →
      (q.mer.changes.any fun c => c.subject == n && !c.join && c.by_ == self) = false → Steps (.silenceTimeout n) s fun t =>
        ⟨self, n, false, sent + 100000, 0, sent⟩ ∈ t.mer.changes ∧ t.mer.members = q.mer.members) ∧
    (q.mer.isMember = true → q.allSilent = true → Steps .groupSilence s fun t => t.mer.st = .local_ ∧ t.mer.members = []) ∧
    (∀ first last, q.mer.isMember = true → q.mer.epochFrom = some (first, last) → first + 100000 < last → Steps .epochTimeout s fun t =>
      t.mer.st = .local_ ∧ t.mer.members = []) ∧
    (∀ a, s.mer.st = .joining → s.mer.aligned = some a → a + 40000 ≤ s.gt → s.mer.changes = [] →
      latestBeats (s.mer.view.filter fun e => decide (a ≤ e.1)) ≠ [] → Steps .joinListenEnd s fun t => t.mer.st = .joining ∧
        ∃ c ∈ t.mer.changes, c.by_ = self ∧ c.subject = self ∧ c.join = true ∧ c.ceiling = s.mer.ownLimit ∧
          c.effective = c.sent + 100000 ∧ s.gt ≤ c.sent) ∧
    (q.mer.st = .joining → q.mer.since + 200000 ≤ s.gt → Steps .foundGroup s fun t => t.mer.st = .member ∧ t.mer.mnum = 1 ∧
      t.mer.founder = self ∧ t.mer.members = [(self, (q.mer.ownLimit, s.gt))]) ∧
    (q.mer.st ≠ .joining → exec .foundGroup s = .next q) ∧
    (∀ port val, q.ownerWrites port = false →
      exec (.mctlEnSet port) s = .next q ∧ exec (.mctlEnClear port) s = .next q ∧ exec (.mctlLeave port) s = .next q ∧
      exec (.mlimitWrite port val) s = .next q ∧ ∀ off, exec (.registerWrite port off val) s = .next q) ∧
    (∀ port, q.ownerWrites port = true →
      let leaves := fun (t : State) => t.mer.st = .leaving ∧ ⟨self, self, false, sent + 100000, 0, sent⟩ ∈ t.mer.changes
      (q.mer.st = .none → Steps (.mctlEnSet port) s fun t => t.mer.en = true ∧ t.mer.st = .joining) ∧
      (q.mer.st = .member → Steps (.mctlEnClear port) s fun t => t.mer.en = false ∧ leaves t) ∧
      (q.mer.st ≠ .member → Steps (.mctlEnClear port) s fun t => t.mer.en = false ∧ t.mer.st = .none ∧ t.mer.members = []) ∧
      (q.mer.st = .member → Steps (.mctlLeave port) s fun t => t.mer.en = q.mer.en ∧ leaves t) ∧
      (∀ val : DWord, (val.toNat % 25 ≠ 0 ∨ val.toNat < 1000 ∨ 2250 < val.toNat) → exec (.mlimitWrite port val) s = .next q) ∧
      (∀ val : DWord, val.toNat % 25 = 0 → 1000 ≤ val.toNat → val.toNat ≤ 2250 → Steps (.mlimitWrite port val) s fun t =>
        t.mer.limit = val.toNat ∧ (q.mer.isMember = true → min val.toNat q.mer.power ≠ q.mer.ownLimit →
          1000 ≤ min val.toNat q.mer.power →
          ⟨self, min val.toNat q.mer.power, sent + 100000, sent⟩ ∈ t.mer.anns)) ∧
      (∀ val : DWord,
        (q.mer.en = false → val.toNat < 2 ^ 32 → Steps (.registerWrite port 8 val) s fun t =>
          t.mer.group = BitVec.ofNat 32 val.toNat) ∧
        ((q.mer.en = true ∨ 2 ^ 32 ≤ val.toNat) → exec (.registerWrite port 8 val) s = .next q) ∧
        (1 ≤ bits val.toNat 31 24 → bits val.toNat 31 24 ≤ 168 → 256 ≤ bits val.toNat 12 0 → bits val.toNat 12 0 ≤ 4096 →
          Steps (.registerWrite port 0x2000 val) s fun t => t.house.scrubh = bits val.toNat 31 24 ∧
            t.house.rdmthr = bits val.toNat 12 0 ∧ t.house.scrub = val.getLsbD 13) ∧
        Steps (.registerWrite port 0x2008 val) s (fun t => t.house.sel = bits val.toNat 10 0) ∧
        (500 ≤ val.toNat → val.toNat ≤ 3200 → Steps (.registerWrite port 0x3680 val) s fun t => t.links.plim = val.toNat)))

/-- A flit that passes R441 is received and counted; one that fails is counted and asked for again, and locks the port when
it fails again. Flits still kept are sent again, and others lock the port. A port is re-attested with both signatures,
reopens once old deadlines are past, rekeys one direction at a time, and locks when a stopped direction is not rekeyed for 1
ms (R299, R441 to R444). That a message is one flit (notes/assumptions/26.md), how long lines are held when a port comes up
(notes/assumptions/27.md), that REKEY of the sending direction is an event of two stages, and that a stopped direction sends what it owes
once it goes on (notes/assumptions/58.md) are the model's choices. -/
def Obligations.LinkSteps : Prop :=
  ∀ (s : State) (port : Nat),
    let x := s.links.port port
    let now := fun (t : State) => t.links.port port
    (∀ f : Flit, x.st = .up →
      (x.rx.failed = none → flitOk f (x.rx.expects f) = true → Steps (.flitReceive port f) s fun t =>
        now t = { x with rx := x.rx.take f s.chrono } ∧ t.outbox = s.outbox) ∧
      (x.rx.failed = none → flitOk f (x.rx.expects f) = false → Steps (.flitReceive port f) s fun t =>
        (now t).st = .up ∧ (now t).err = x.err + 1 ∧ (now t).rx.failed = some (x.rx.expects f) ∧ (now t).rx.discarding = true ∧
          (x.tx.stopped = none → t.outbox = s.outbox ++ [.flit port (s.flitOf x.tx (.replayAsk (x.rx.expects f)))]) ∧
          (x.tx.stopped.isSome = true → t.outbox = s.outbox ∧ (now t).askDue = some (x.rx.expects f))) ∧
      (∀ n, x.rx.failed = some n →
        let m := if x.rx.renews f = true then 0 else n
        (x.rx.replays f n = false → exec (.flitReceive port f) s = .next s) ∧
        (x.rx.replays f n = true →
          (flitOk f m = true → Steps (.flitReceive port f) s fun t => now t = { x with rx := x.rx.take f s.chrono }) ∧
          (flitOk f m = false → Steps (.flitReceive port f) s fun t => (now t).st = .locked ∧ (now t).err = x.err + 1 ∧
            (now t).locks = x.locks + 1)))) ∧
    (∀ ctr, (s.brings port = false ∨ x.tx.hasSent ctr = false) → exec (.replayRequest port ctr) s = .next s) ∧
    (∀ ctr, s.brings port = true → x.tx.hasSent ctr = true →
      (x.tx.keeps ctr = true → x.tx.stopped = none → Steps (.replayRequest port ctr) s fun t => t.links = s.links ∧
        t.outbox = s.outbox ++ ((x.tx.keptFrom (x.tx.means ctr)).map fun f => .flit port f.again)) ∧
      (x.tx.keeps ctr = true → x.tx.stopped.isSome = true → Steps (.replayRequest port ctr) s fun t => t.outbox = s.outbox ∧
        now t = { x with resendDue := some ctr }) ∧
      (x.tx.keeps ctr = false → Steps (.replayRequest port ctr) s fun t => (now t).st = .locked ∧ (now t).locks = x.locks + 1)) ∧
    (∀ t0, x.hold = some t0 → t0 ≤ s.gtime →
      (x.open_ = false → Steps (.planeRehash port) s fun t => (now t).hold = none ∧ (now t).st = x.st) ∧
      (x.open_ = true → Steps (.portReopen port) s fun t => (now t).hold = none ∧ (now t).st = .up ∧ (now t).open_ = false)) ∧
    (x.st = .locked → s.links.level3 = false → x.attestFrom ≤ s.chrono →
      (Steps (.reattest port true true) s fun t => (now t).st = .attesting ∧ (now t).rx = Dir.fresh s.host.drbg ∧
        (now t).tx = Dir.fresh (s.host.drbg + 1) ∧ (now t).open_ = true) ∧
      (∀ a b, (a && b) = false → Steps (.reattest port a b) s fun t => now t = { x with attestFrom := s.chrono + 1000000000 })) ∧
    (x.st = .up →
      (x.rx.rekey = none → Steps (.rekey port true) s fun t => now t =
        { x with rx := { x.rx with rekey := some (Config.key s.host.drbg) } } ∧ t.host.drbg = s.host.drbg + 1) ∧
      (x.tx.rekey = none → Steps (.rekey port false) s fun t => now t =
        { x with tx := { x.tx with rekey := some (Config.key s.host.drbg) } } ∧ t.host.drbg = s.host.drbg + 1) ∧
      (∀ k, x.tx.rekey = some k → Steps (.rekey port false) s fun t => (now t).tx.key = k ∧ (now t).tx.phase = !x.tx.phase ∧
        (now t).tx.rekey = none ∧ (now t).rx = x.rx) ∧
      (∀ (rx : Bool) t0, (if rx then x.rx else x.tx).stopped = some t0 →
        (s.chrono < t0 + 1000000 → exec (.rekeyDeadline port rx) s = .next s) ∧
        (t0 + 1000000 ≤ s.chrono → Steps (.rekeyDeadline port rx) s fun t => (now t).st = .locked))) ∧
    (port < 72 → s.links.level3 = false →
      (x.st = .down → Steps (.portLinkChange port true) s fun t => (now t).st = .up ∧ (now t).rx = Dir.fresh s.host.drbg) ∧
      (x.st = .up → Steps (.portLinkChange port false) s fun t => (now t).st = .down ∧ t.outbox = s.outbox))

/-- A sensor event of R445 is recorded in the alarm ring with its level. At level 2 every tenancy on the die is stopped; at
level 3 every tenancy is stopped, every Zonar port is LOCKED and its keys are gone, and a mesh breach revokes the device.
POWER_ON boots with images that pass R449 and fails into RECOVERY otherwise, also for an alarm of level 2 or 3 during the boot;
POWER_LOSS leaves what fuses and flash hold; a good recovery image boots. Telemetry is what was read, and a power limit revision takes
effect at most every 100 µs (R445 to R451). The model's choices: which granules the firmware owns, and that a rollback counter is the
number of its fuses that are blown (notes/assumptions/22.md); that a recovery image boots as flash does (notes/assumptions/33.md); that
glitches of both kinds on a die count together, and that the revised limit comes with the input (notes/assumptions/34.md); that a
revision that the readings contradict is ignored (notes/assumptions/72.md). -/
def Obligations.AlarmBootPowerSteps : Prop :=
  ∀ s : State,
    let records := fun (t : State) (die sensor level : Nat) => t.links.count = s.links.count + 1 ∧
      t.links.alarms.get? (s.links.count.toNat % 16) = some ⟨s.chrono, die, sensor, level⟩
    let stops := fun (t : State) => t.links.level3 = true ∧ (∀ p, p < 72 → (t.links.port p).st = .locked ∧
      (t.links.port p).rx.key = 0 ∧ (t.links.port p).tx.key = 0) ∧
      (Table.sorted s.host.tens = true → ∀ n x, t.host.tens.get? n = some x → x.stopped = true ∧ x.key = none)
    let passes := fun (b : BootIn) => imagePasses b.stage1 (codeLevel (s.host.rollback.getD 0 0)) &&
      imagePasses b.cpfw (codeLevel (s.host.rollback.getD 1 0)) && imagePasses b.config (codeLevel (s.host.rollback.getD 2 0))
    let mild := fun (a : Sensor) => ∃ d c, a = .temperature d c ∧ -200 ≤ c ∧ c ≤ 1250
    let grave := fun (a : Sensor) => (∃ d c, a = .temperature d c ∧ (1250 < c ∨ c < -200)) ∨ (∃ c, a = .lodestarGlitch c) ∨
      a = .meshBreach ∨ a = .faultInjection
    let boots := fun (b : BootIn) (good : Bool) (t : State) =>
      (good = true → (∀ a ∈ b.alarms, mild a) →
        t.links.boot = .advancing [(0, b.stage1.version), (1, b.cpfw.version), (2, b.config.version)] ∧
        t.host.mode = b.mode ∧ t.host.owner = b.owner.val ∧ t.host.device = b.device.val) ∧
      ((good = false ∨ ∃ a ∈ b.alarms, grave a) → t.links.boot = .recovery)
    (∀ d c,
      (1250 < c ∨ c < -200 → Steps (.securityAlarm (.temperature d c)) s fun t => records t d 3 2 ∧
        (Table.sorted s.host.tens = true → ∀ n x, t.host.tens.get? n = some x → s.onDie n d = true →
          x.stopped = true ∧ x.key = none)) ∧
      (1150 ≤ c → c ≤ 1250 → Steps (.securityAlarm (.temperature d c)) s fun t => records t d 3 1 ∧ t.host = s.host) ∧
      (-200 ≤ c → c < 1150 → exec (.securityAlarm (.temperature d c)) s = .next s)) ∧
    (∀ d (clk : Bool), let i := Instr.securityAlarm (if clk then .clockGlitch d else .supplyGlitch d)
      let n := (s.links.events.filter fun e => decide (s.chrono < e.2 + 1000000000) && e.1 == d).length
      Steps i s fun t => records t d (if clk then 2 else 1) (if 2 ≤ n then 2 else 1) ∧ (n < 2 → t.host = s.host)) ∧
    (∀ c, Steps (.securityAlarm (.lodestarGlitch c)) s fun t => records t 15 c.toNat 3 ∧ stops t) ∧
    (Steps (.securityAlarm .meshBreach) s fun t => records t 15 4 3 ∧ stops t ∧ t.links.revoked = true) ∧
    (Steps (.securityAlarm .faultInjection) s fun t => records t 15 5 3 ∧ stops t) ∧
    (∀ b : BootIn, s.links.boot = .off →
      Steps (.powerOn b) s fun t => t.waves = [] ∧ t.mem = { MemSys.init with owners := t.mem.owners } ∧
        (∀ g, t.mem.owner g = if b.firmware.contains g && decide (g < granuleCount) then 0x80 else 0) ∧ t.cp = Cp.init ∧ t.host.rollback = s.host.rollback ∧
        boots b (passes b && !s.links.revoked) t) ∧
    (Steps .powerLoss s fun t => t.links.boot = .off ∧ t.waves = [] ∧ t.mem = MemSys.init ∧ t.house.flash = s.house.flash ∧
      t.house.fuses = s.house.fuses ∧ t.links.revoked = s.links.revoked ∧ t.host.tens = [] ∧
      ((∀ c v l, s.links.boot ≠ .advancing ((c, v) :: l)) → t.host.rollback = s.host.rollback)) ∧
    (∀ b : BootIn,
      ((s.links.boot ≠ .recovery ∨ s.links.revoked = true ∨ s.links.level3 = true) → exec (.recoveryLoad b) s = .next s) ∧
      (s.links.boot = .recovery → s.links.revoked = false → s.links.level3 = false →
        Steps (.recoveryLoad b) s fun t => t.host.rollback = s.host.rollback ∧ t.chrono = s.chrono ∧
          (b.alarms = [] → t.links.alarms = s.links.alarms ∧ t.links.count = s.links.count) ∧ boots b (passes b) t)) ∧
    (∀ y : Telemetry, y.pkgPower ≤ s.links.plim * 1100 → (∀ c ∈ y.dieTemp, c ≤ 1050) → Steps (.telemetryUpdate y) s fun t =>
      t.mer = s.mer ∧ t.links.pkgPower = y.pkgPower ∧ t.links.coolant = y.coolant ∧
        (∀ i v, y.diePower[i]? = some v → t.links.diePower.get? i = some v) ∧
        ∀ i v, y.dieTemp[i]? = some v → t.links.dieTemp.get? i = some v) ∧
    (∀ mhz, s.merSettle.fitsBudget mhz = false → exec (.powerLimitRevision mhz) s = .next s.merSettle) ∧
    (∀ mhz, mhz % 25 = 0 → mhz ≤ 2250 → s.merSettle.fitsBudget mhz = true →
      (s.gt < s.mer.revised + 100000 → exec (.powerLimitRevision mhz) s = .next s.merSettle) ∧
      (s.mer.revised + 100000 ≤ s.gt → Steps (.powerLimitRevision mhz) s fun t => t.mer.power = mhz ∧ t.mer.revised = s.gt))

/-- A refresh slot refreshes its bank, defers it behind pending accesses, or at debt 8 forces an all-bank refresh. A stack
above 85 °C is hot, below 83 °C no longer. An access arrives, is issued to a bank that no refresh holds, and moves its data.
The trackers are cleared every 32 ms; a pending remap is written to flash; a reload takes the table of fuses and flash; the
scrub reads the next mapped burst only where nothing is pending, and is to write back one that it corrects; SRAM errors are counted and
met by their structure; a write of HKPW that changes the placement window zeroes its granules, one that changes nothing leaves them, and
one it cannot take sets ERR (R425 to R433). The time of the first slot (notes/assumptions/23.md), that accesses of the controllers come
as inputs, with the map from addresses to bursts (notes/assumptions/32.md), and the course of a scrub pass (notes/assumptions/25.md) are
the model's choices. -/
def Obligations.HousekeepingSteps : Prop :=
  ∀ (s : State) (pc : Nat),
    let x := s.house.pc pc
    let now := fun (t : State) => t.house.pc pc
    let due := s.slotDue pc
    let quiet := fun (t : State) => t.waves = s.waves ∧ t.mem = s.mem ∧ t.cp = s.cp
    (pc < 2048 → due ≤ s.now8 → Steps (.refreshSlot pc) s fun t => quiet t ∧ (now t).slot = x.slot + 1 ∧
      (now t).due = some (due + x.period) ∧
      (x.debt = 8 → (now t).debt = 0 ∧ (now t).owed = []) ∧
      (x.debt ≠ 8 → (x.bank (x.slot % 16)).pending = 0 → x.owed = [] → (now t).debt = x.debt ∧
        (now t).bank (x.slot % 16) = (x.bank (x.slot % 16)).refresh due 1040 ∧
        ∀ b, b ≠ x.slot % 16 → (now t).bank b = x.bank b) ∧
      (x.debt ≠ 8 → (x.bank (x.slot % 16)).pending ≠ 0 → (∀ b ∈ x.owed, (x.bank b).pending ≠ 0) →
        (now t).debt = x.debt + 1 ∧ (now t).owed = x.owed ++ [x.slot % 16] ∧ ∀ b, (now t).bank b = x.bank b)) ∧
    (Steps (.refreshDone pc) s fun t => quiet t ∧ ∀ b, (now t).bank b =
      { x.bank b with busy := (x.bank b).busy.filter fun e => decide (s.now8 < e) }) ∧
    (∀ c, pc / 256 < 8 → Steps (.stackTemperature (pc / 256) c) s fun t => quiet t ∧
      now t = { x with hot := if 850 < c then true else if c < 830 then false else x.hot }) ∧
    (∀ a : HbmAcc, hbmExists a = false → exec (.hbmAccess pc a) s = .next s) ∧
    (∀ a : HbmAcc, pc < 2048 → hbmExists a = true →
      let k := x.bank a.bank
      (a.phase = .arrives → x.overtaken a = x → Steps (.hbmAccess pc a) s fun t => quiet t ∧
        (now t).bank a.bank = { k with pending := k.pending + 1 } ∧ ∀ b, b ≠ a.bank → (now t).bank b = x.bank b) ∧
      (a.phase = .issued → (k.pending ≤ k.issued ∨ x.open_ s.now8 a.bank = false) → exec (.hbmAccess pc a) s = .next s) ∧
      (a.phase = .issued → k.issued < k.pending → x.open_ s.now8 a.bank = true → a.opens = false →
        k.openRow = some (x.trueRow a) → (a.write = true ∨ a.err = .clean) → Steps (.hbmAccess pc a) s fun t => quiet t ∧
          (now t).bank a.bank = { k with issued := k.issued + 1 }) ∧
      (a.phase = .moved → k.issued ≠ 0 → x.forced ≠ some none → Steps (.hbmAccess pc a) s fun t => quiet t ∧
        (now t).bank a.bank = { k with pending := k.pending - 1, issued := k.issued - 1 }) ∧
      (s.house.scrub = true → x.open_ s.now8 a.bank = true → (∀ b, b < 16 → (x.bank b).pending = 0) → a.opens = false →
        k.openRow = some (x.trueRow a) → a.spare = false → burstIndex a = x.scrub → x.scrub < mappedBursts →
        (a.err = .clean → Steps (.scrubRead pc a) s fun t => quiet t ∧ (now t).scrub = x.scrub + 1 ∧
          (now t).bank a.bank = { k with pending := 1, issued := k.issued + 1 } ∧ ∀ b, b ≠ a.bank → (now t).bank b = x.bank b) ∧
        (a.err = .corrected → Steps (.scrubRead pc a) s fun t => quiet t ∧ (now t).scrub = x.scrub + 1 ∧
          (now t).fix = some { a with write := true, err := .clean } ∧ ((now t).bank a.bank).pending = 2))) ∧
    ((s.chrono < s.house.cleared + 32000000 → exec .trackerClear s = .next s) ∧
      (s.house.cleared + 32000000 ≤ s.chrono → Steps .trackerClear s fun t => quiet t ∧
        t.house.cleared = s.house.cleared + 32000000 ∧ ∀ b, ((now t).bank b) = { x.bank b with tracker := [] })) ∧
    (∀ stack p r l, s.house.pend.getD stack [] = (p, r) :: l → Steps (.remapPersist stack) s fun t => quiet t ∧
      t.house.flash = s.house.flash ++ [(p, { r with persist := true })] ∧ t.house.pend.getD stack [] = l) ∧
    (∀ t0, x.blocked = some t0 → ((s.house.pend.getD (pc / 256) []).filter fun e => e.1 == pc) = [] →
      Steps (.remapReloadDone pc) s fun t => quiet t ∧ now t = { x with remap := s.house.loadTable pc, blocked := none }) ∧
    ((Steps (.sramError .corrected) s fun t => quiet t ∧ t.house.sramCe = s.house.sramCe + 1) ∧
      (Steps (.sramError (.remap pc)) s fun t => quiet t ∧ t.house.sramUe = s.house.sramUe + 1 ∧
        now t = { x with blocked := some (x.blocked.getD s.chrono), remap := [] }) ∧
      (∀ g y off, s.groupAt? g = some y → off < y.size → y.bad.contains off = false →
        Steps (.sramError (.scratch g off)) s fun t => quiet t ∧ t.groupAt? g = some { y with bad := off :: y.bad }) ∧
      (∀ q b, Steps (.sramError (.accum q b)) s fun t => quiet t ∧
        (t.quadAt q).bank b = { (s.quadAt q).bank b with bad := ((s.quadAt q).bank b).st != .free }) ∧
      (∀ line, Steps (.sramError (.llc line)) s fun t => t.waves = s.waves ∧ t.mem.bytes = s.mem.bytes ∧
        (∀ x, s.mem.llc.get? line = some x → t.mem.llc.get? line = some { x with poison := 3 }) ∧
        (s.mem.llc.get? line = none → t.mem = s.mem))) ∧
    (∀ port part (val : DWord), s.partOfPort port = some part → s.ownerWrites port = true →
      let gran := bits val.toNat 63 33
      let en := val.getLsbD 15
      let same := en = true ∧ s.house.pwGran = gran ∧ s.house.pwPc = bits val.toNat 10 0 ∧ s.house.pwBg = bits val.toNat 14 13
      let written := { s.house with pwGran := gran, pwEn := en, pwBg := bits val.toNat 14 13, pwPc := bits val.toNat 10 0,
                                    pwErr := s.house.pwErr && !val.getLsbD 16 }
      let moves := fun (grans : List Nat) (t : State) =>
        t.house = { written with pwBusy := true, pwInval := some s.nextId } ∧ t.mem.owners = s.mem.owners ∧
        (∀ g, t.mem.moving.contains g = (s.mem.moving.contains g || grans.contains g)) ∧
        (∀ a, grans.contains (a / 2 ^ 21) = true → Memory.get t.mem.bytes a = 0) ∧
        ((∀ a ∈ s.mem.accs, a.heldIn grans = false) → ∀ a, grans.contains (a / 2 ^ 21) = false →
          Memory.get t.mem.bytes a = Memory.get s.mem.bytes a)
      ((s.house.pwBusy = true ∨ en = true ∧ s.windowable part gran = false) → Steps (.hkpwWrite port val) s fun t => quiet t ∧
        t.house = { s.house with pwErr := true }) ∧
      (s.house.pwBusy = false → (en = true → s.windowable part gran = true) →
        (s.house.pwEn = false → en = true → Steps (.hkpwWrite port val) s (moves [gran])) ∧
        (s.house.pwEn = true → en = false → Steps (.hkpwWrite port val) s (moves [s.house.pwGran])) ∧
        (s.house.pwEn = true → en = true → ¬ same → Steps (.hkpwWrite port val) s (moves [s.house.pwGran, gran])) ∧
        ((s.house.pwEn = false ∧ en = false ∨ s.house.pwEn = true ∧ same) → Steps (.hkpwWrite port val) s fun t =>
          quiet t ∧ t.house = written))) ∧
    ((s.windowSettled = false → exec .pwChangeDone s = .next s) ∧
      (s.windowSettled = true → Steps .pwChangeDone s fun t => t.house.pwBusy = false ∧ t.house.pwInval = none ∧
        t.waves = s.waves))
end

