-- ==== Sys2Proof/Laws/Table.lean ====
section
/-! SUPPORT. Reading sparse tables, memory and masks after they are written, and the canonical form of memory. -/

namespace Sys2Proof

/-- Reading a table after an entry is set. -/
theorem Table.get?_set {α : Type} (t : Table α) (k j : Nat) (x : α) :
    (Table.set t k x).get? j = if k = j then some x else t.get? j := by
  induction t with
  | nil => simp [Table.set, Table.get?]
  | cons e t ih =>
    obtain ⟨i, y⟩ := e
    unfold Table.set
    split
    · simp [Table.get?]
    · split
      · rename_i h; subst h
        simp only [Table.get?]; split <;> rfl
      · rename_i h
        by_cases e : i = j
        · subst e; simp [Table.get?, h]
        · simp [Table.get?, e, ih]

/-- Reading a table with a default after an entry is set. -/
theorem Table.getD_set {α : Type} (t : Table α) (k j : Nat) (x d : α) :
    (Table.set t k x).getD j d = if k = j then x else t.getD j d := by
  unfold Table.getD
  rw [Table.get?_set]
  by_cases h : k = j <;> simp [h]

end Sys2Proof

namespace Sys2Proof.Machine

/-! ### Memory -/

/-- An address below every listed one reads as zero. -/
theorem Memory.get_below (m : Memory) (lo a : Nat) (h : Memory.wfAbove (some lo) m = true) (ha : a ≤ lo) :
    Memory.get m a = 0 := by
  induction m generalizing lo with
  | nil => rfl
  | cons e t ih =>
    obtain ⟨b, x⟩ := e
    simp only [Memory.wfAbove, Bool.and_eq_true, decide_eq_true_eq] at h
    have : b ≠ a := by omega
    simp [Memory.get, this, ih b h.2 (by omega)]

/-- The canonical form without a lower bound follows from that with one. -/
theorem Memory.wfAbove_none (m : Memory) (lo : Nat) (h : Memory.wfAbove (some lo) m = true) :
    Memory.wfAbove none m = true := by
  cases m with
  | nil => rfl
  | cons e t => obtain ⟨b, x⟩ := e; simp_all [Memory.wfAbove]

/-- A write keeps the canonical form, above a bound. -/
theorem Memory.wfAbove_set (m : Memory) (lo : Option Nat) (a : Nat) (x : Byte) (h : Memory.wfAbove lo m = true)
    (ha : ∀ l, lo = some l → l < a) : Memory.wfAbove lo (Memory.set m a x) = true := by
  induction m generalizing lo with
  | nil =>
    unfold Memory.set
    split
    · cases lo <;> rfl
    · cases lo <;> simp_all [Memory.wfAbove]
  | cons e t ih =>
    obtain ⟨b, y⟩ := e
    simp only [Memory.wfAbove, Bool.and_eq_true, decide_eq_true_eq] at h
    unfold Memory.set
    split
    · split
      · simp_all [Memory.wfAbove]
      · simp only [Memory.wfAbove, Bool.and_eq_true, decide_eq_true_eq]
        refine ⟨⟨?_, by assumption⟩, ⟨by assumption, h.1.2⟩, h.2⟩
        cases lo <;> simp_all
    · split
      · rename_i h1 h2
        subst h2
        split
        · cases lo with
          | none => exact Memory.wfAbove_none t a h.2
          | some l =>
            have hl := ha l rfl
            cases t with
            | nil => rfl
            | cons e t' =>
              obtain ⟨c, z⟩ := e
              simp only [Memory.wfAbove, Bool.and_eq_true, decide_eq_true_eq] at h ⊢
              exact ⟨⟨by omega, h.2.1.2⟩, h.2.2⟩
        · simp only [Memory.wfAbove, Bool.and_eq_true, decide_eq_true_eq]
          exact ⟨⟨h.1.1, by assumption⟩, h.2⟩
      · simp only [Memory.wfAbove, Bool.and_eq_true, decide_eq_true_eq]
        refine ⟨h.1, ih _ h.2 ?_⟩
        intro l hl; cases hl; omega

/-- A write of one byte keeps the canonical form. -/
theorem Memory.wf_set (m : Memory) (a : Nat) (x : Byte) (h : m.wf = true) : (Memory.set m a x).wf = true :=
  Memory.wfAbove_set m none a x h (by simp)

/-- A write of bytes keeps the canonical form. -/
theorem Memory.wf_write (m : Memory) (a : Nat) (l : List Byte) (h : m.wf = true) : (Memory.write m a l).wf = true := by
  induction l generalizing m a with
  | nil => exact h
  | cons x t ih => exact ih _ _ (Memory.wf_set m a x h)

/-- Dropping listed bytes keeps the canonical form, above a bound. -/
theorem Memory.wfAbove_filter (m : Memory) (lo : Option Nat) (p : Host.Cell → Bool) (h : Memory.wfAbove lo m = true) :
    Memory.wfAbove lo (m.filter p) = true := by
  induction m generalizing lo with
  | nil => exact h
  | cons e t ih =>
    obtain ⟨b, y⟩ := e
    simp only [Memory.wfAbove, Bool.and_eq_true, decide_eq_true_eq] at h
    rw [List.filter_cons]
    split
    · simp only [Memory.wfAbove, Bool.and_eq_true, decide_eq_true_eq]
      exact ⟨h.1, ih _ h.2⟩
    · cases lo with
      | none => exact Memory.wfAbove_none _ b (ih _ h.2)
      | some l =>
        have hb : l < b := by simpa using h.1.1
        have := ih _ h.2
        cases hf : t.filter p with
        | nil => rfl
        | cons e t' =>
          obtain ⟨c, z⟩ := e
          rw [hf] at this
          simp only [Memory.wfAbove, Bool.and_eq_true, decide_eq_true_eq] at this ⊢
          exact ⟨⟨by omega, this.1.2⟩, this.2⟩

/-- Clearing a range keeps the canonical form. -/
theorem Memory.wf_clear (m : Memory) (a n : Nat) (h : m.wf = true) : (Memory.clear m a n).wf = true :=
  Memory.wfAbove_filter m none _ h

/-- Reading a byte after a byte is written, above a bound. -/
theorem Memory.get_setAbove (m : Memory) (lo : Option Nat) (a b : Nat) (x : Byte) (h : Memory.wfAbove lo m = true) :
    Memory.get (Memory.set m a x) b = if a = b then x else Memory.get m b := by
  induction m generalizing lo with
  | nil =>
    unfold Memory.set
    split <;> simp_all [Memory.get]
  | cons e t ih =>
    obtain ⟨c, y⟩ := e
    simp only [Memory.wfAbove, Bool.and_eq_true, decide_eq_true_eq] at h
    unfold Memory.set
    split
    · rename_i hlt
      split
      · by_cases e : a = b
        · subst e
          have : c ≠ a := by omega
          simp [Memory.get, *, Memory.get_below t c a h.2 (by omega)]
        · simp [e]
      · simp [Memory.get]
    · split
      · rename_i h1 h2
        subst h2
        split
        · by_cases e : a = b
          · subst e; simp [*, Memory.get_below t a a h.2 (by omega)]
          · simp [Memory.get, e]
        · simp only [Memory.get]; split <;> simp_all
      · rename_i h1 h2
        simp only [Memory.get, ih _ h.2]
        by_cases e : c = b
        · subst e; simp [h2]
        · simp [e]

/-- Reading a byte after a byte is written. -/
theorem Memory.get_set (m : Memory) (a b : Nat) (x : Byte) (h : m.wf = true) :
    Memory.get (Memory.set m a x) b = if a = b then x else Memory.get m b := Memory.get_setAbove m none a b x h

/-- Reading a byte outside the bytes written. -/
theorem Memory.get_write_outside (m : Memory) (a b : Nat) (l : List Byte) (h : m.wf = true)
    (hb : b < a ∨ a + l.length ≤ b) : Memory.get (Memory.write m a l) b = Memory.get m b := by
  induction l generalizing m a with
  | nil => rfl
  | cons x t ih =>
    simp only [List.length_cons] at hb
    have hab : a ≠ b := by omega
    rw [Memory.write, ih _ _ (Memory.wf_set m a x h) (by omega), Memory.get_set m a b x h]
    simp [hab]

/-- Reading a byte among the bytes written. -/
theorem Memory.get_write_inside (m : Memory) (a i : Nat) (l : List Byte) (h : m.wf = true) (hi : i < l.length) :
    Memory.get (Memory.write m a l) (a + i) = l.getD i 0 := by
  induction l generalizing m a i with
  | nil => simp at hi
  | cons x t ih =>
    cases i with
    | zero =>
      rw [Memory.write, Memory.get_write_outside _ _ _ _ (Memory.wf_set m a x h) (by omega)]
      simp [Memory.get_set m a a x h]
    | succ i =>
      have hi' : i < t.length := by simpa using hi
      rw [Memory.write, show a + (i + 1) = (a + 1) + i by omega, ih _ _ _ (Memory.wf_set m a x h) hi']
      simp

end Sys2Proof.Machine
end

