-- ==== Sys2Proof/Laws/State.lean ====
section
/-! SUPPORT. One lemma per field and update of the state, so that no later proof unfolds a record update, and what
reading one wave, core, group or quad gives after an update. -/

namespace Sys2Proof.Machine

/-! ### setWave -/

@[simp] theorem State.setWave_chrono (s : State) (k : Nat) (w : Wave) : (s.setWave k w).chrono = s.chrono := rfl
@[simp] theorem State.setWave_waves (s : State) (k : Nat) (w : Wave) : (s.setWave k w).waves = s.waves.set k w := rfl
@[simp] theorem State.setWave_groups (s : State) (k : Nat) (w : Wave) : (s.setWave k w).groups = s.groups := rfl
@[simp] theorem State.setWave_cores (s : State) (k : Nat) (w : Wave) : (s.setWave k w).cores = s.cores := rfl
@[simp] theorem State.setWave_quads (s : State) (k : Nat) (w : Wave) : (s.setWave k w).quads = s.quads := rfl
@[simp] theorem State.setWave_mem (s : State) (k : Nat) (w : Wave) : (s.setWave k w).mem = s.mem := rfl
@[simp] theorem State.setWave_cp (s : State) (k : Nat) (w : Wave) : (s.setWave k w).cp = s.cp := rfl
@[simp] theorem State.setWave_host (s : State) (k : Nat) (w : Wave) : (s.setWave k w).host = s.host := rfl
@[simp] theorem State.setWave_mer (s : State) (k : Nat) (w : Wave) : (s.setWave k w).mer = s.mer := rfl
@[simp] theorem State.setWave_house (s : State) (k : Nat) (w : Wave) : (s.setWave k w).house = s.house := rfl
@[simp] theorem State.setWave_links (s : State) (k : Nat) (w : Wave) : (s.setWave k w).links = s.links := rfl
@[simp] theorem State.setWave_outbox (s : State) (k : Nat) (w : Wave) : (s.setWave k w).outbox = s.outbox := rfl
@[simp] theorem State.setWave_script (s : State) (k : Nat) (w : Wave) : (s.setWave k w).script = s.script := rfl
@[simp] theorem State.setWave_focus (s : State) (k : Nat) (w : Wave) : (s.setWave k w).focus = s.focus := rfl
@[simp] theorem State.setWave_tick (s : State) (k : Nat) (w : Wave) : (s.setWave k w).tick = s.tick := rfl
@[simp] theorem State.setWave_nextId (s : State) (k : Nat) (w : Wave) : (s.setWave k w).nextId = s.nextId := rfl

/-! ### modCore -/

@[simp] theorem State.modCore_chrono (s : State) (c : Nat) (f : Core → Core) : (s.modCore c f).chrono = s.chrono := rfl
@[simp] theorem State.modCore_waves (s : State) (c : Nat) (f : Core → Core) : (s.modCore c f).waves = s.waves := rfl
@[simp] theorem State.modCore_groups (s : State) (c : Nat) (f : Core → Core) : (s.modCore c f).groups = s.groups := rfl
@[simp] theorem State.modCore_cores (s : State) (c : Nat) (f : Core → Core) : (s.modCore c f).cores = s.cores.set c (f (s.coreAt c)) := rfl
@[simp] theorem State.modCore_quads (s : State) (c : Nat) (f : Core → Core) : (s.modCore c f).quads = s.quads := rfl
@[simp] theorem State.modCore_mem (s : State) (c : Nat) (f : Core → Core) : (s.modCore c f).mem = s.mem := rfl
@[simp] theorem State.modCore_cp (s : State) (c : Nat) (f : Core → Core) : (s.modCore c f).cp = s.cp := rfl
@[simp] theorem State.modCore_host (s : State) (c : Nat) (f : Core → Core) : (s.modCore c f).host = s.host := rfl
@[simp] theorem State.modCore_mer (s : State) (c : Nat) (f : Core → Core) : (s.modCore c f).mer = s.mer := rfl
@[simp] theorem State.modCore_house (s : State) (c : Nat) (f : Core → Core) : (s.modCore c f).house = s.house := rfl
@[simp] theorem State.modCore_links (s : State) (c : Nat) (f : Core → Core) : (s.modCore c f).links = s.links := rfl
@[simp] theorem State.modCore_outbox (s : State) (c : Nat) (f : Core → Core) : (s.modCore c f).outbox = s.outbox := rfl
@[simp] theorem State.modCore_script (s : State) (c : Nat) (f : Core → Core) : (s.modCore c f).script = s.script := rfl
@[simp] theorem State.modCore_focus (s : State) (c : Nat) (f : Core → Core) : (s.modCore c f).focus = s.focus := rfl
@[simp] theorem State.modCore_tick (s : State) (c : Nat) (f : Core → Core) : (s.modCore c f).tick = s.tick := rfl
@[simp] theorem State.modCore_nextId (s : State) (c : Nat) (f : Core → Core) : (s.modCore c f).nextId = s.nextId := rfl

/-! ### modQuad -/

@[simp] theorem State.modQuad_chrono (s : State) (q : Nat) (f : Quad → Quad) : (s.modQuad q f).chrono = s.chrono := rfl
@[simp] theorem State.modQuad_waves (s : State) (q : Nat) (f : Quad → Quad) : (s.modQuad q f).waves = s.waves := rfl
@[simp] theorem State.modQuad_groups (s : State) (q : Nat) (f : Quad → Quad) : (s.modQuad q f).groups = s.groups := rfl
@[simp] theorem State.modQuad_cores (s : State) (q : Nat) (f : Quad → Quad) : (s.modQuad q f).cores = s.cores := rfl
@[simp] theorem State.modQuad_quads (s : State) (q : Nat) (f : Quad → Quad) : (s.modQuad q f).quads = s.quads.set q (f (s.quadAt q)) := rfl
@[simp] theorem State.modQuad_mem (s : State) (q : Nat) (f : Quad → Quad) : (s.modQuad q f).mem = s.mem := rfl
@[simp] theorem State.modQuad_cp (s : State) (q : Nat) (f : Quad → Quad) : (s.modQuad q f).cp = s.cp := rfl
@[simp] theorem State.modQuad_host (s : State) (q : Nat) (f : Quad → Quad) : (s.modQuad q f).host = s.host := rfl
@[simp] theorem State.modQuad_mer (s : State) (q : Nat) (f : Quad → Quad) : (s.modQuad q f).mer = s.mer := rfl
@[simp] theorem State.modQuad_house (s : State) (q : Nat) (f : Quad → Quad) : (s.modQuad q f).house = s.house := rfl
@[simp] theorem State.modQuad_links (s : State) (q : Nat) (f : Quad → Quad) : (s.modQuad q f).links = s.links := rfl
@[simp] theorem State.modQuad_outbox (s : State) (q : Nat) (f : Quad → Quad) : (s.modQuad q f).outbox = s.outbox := rfl
@[simp] theorem State.modQuad_script (s : State) (q : Nat) (f : Quad → Quad) : (s.modQuad q f).script = s.script := rfl
@[simp] theorem State.modQuad_focus (s : State) (q : Nat) (f : Quad → Quad) : (s.modQuad q f).focus = s.focus := rfl
@[simp] theorem State.modQuad_tick (s : State) (q : Nat) (f : Quad → Quad) : (s.modQuad q f).tick = s.tick := rfl
@[simp] theorem State.modQuad_nextId (s : State) (q : Nat) (f : Quad → Quad) : (s.modQuad q f).nextId = s.nextId := rfl

/-! ### modCp -/

@[simp] theorem State.modCp_chrono (s : State) (f : Cp → Cp) : (s.modCp f).chrono = s.chrono := rfl
@[simp] theorem State.modCp_waves (s : State) (f : Cp → Cp) : (s.modCp f).waves = s.waves := rfl
@[simp] theorem State.modCp_groups (s : State) (f : Cp → Cp) : (s.modCp f).groups = s.groups := rfl
@[simp] theorem State.modCp_cores (s : State) (f : Cp → Cp) : (s.modCp f).cores = s.cores := rfl
@[simp] theorem State.modCp_quads (s : State) (f : Cp → Cp) : (s.modCp f).quads = s.quads := rfl
@[simp] theorem State.modCp_mem (s : State) (f : Cp → Cp) : (s.modCp f).mem = s.mem := rfl
@[simp] theorem State.modCp_cp (s : State) (f : Cp → Cp) : (s.modCp f).cp = f s.cp := rfl
@[simp] theorem State.modCp_host (s : State) (f : Cp → Cp) : (s.modCp f).host = s.host := rfl
@[simp] theorem State.modCp_mer (s : State) (f : Cp → Cp) : (s.modCp f).mer = s.mer := rfl
@[simp] theorem State.modCp_house (s : State) (f : Cp → Cp) : (s.modCp f).house = s.house := rfl
@[simp] theorem State.modCp_links (s : State) (f : Cp → Cp) : (s.modCp f).links = s.links := rfl
@[simp] theorem State.modCp_outbox (s : State) (f : Cp → Cp) : (s.modCp f).outbox = s.outbox := rfl
@[simp] theorem State.modCp_script (s : State) (f : Cp → Cp) : (s.modCp f).script = s.script := rfl
@[simp] theorem State.modCp_focus (s : State) (f : Cp → Cp) : (s.modCp f).focus = s.focus := rfl
@[simp] theorem State.modCp_tick (s : State) (f : Cp → Cp) : (s.modCp f).tick = s.tick := rfl
@[simp] theorem State.modCp_nextId (s : State) (f : Cp → Cp) : (s.modCp f).nextId = s.nextId := rfl

/-! ### modMem -/

@[simp] theorem State.modMem_chrono (s : State) (f : MemSys → MemSys) : (s.modMem f).chrono = s.chrono := rfl
@[simp] theorem State.modMem_waves (s : State) (f : MemSys → MemSys) : (s.modMem f).waves = s.waves := rfl
@[simp] theorem State.modMem_groups (s : State) (f : MemSys → MemSys) : (s.modMem f).groups = s.groups := rfl
@[simp] theorem State.modMem_cores (s : State) (f : MemSys → MemSys) : (s.modMem f).cores = s.cores := rfl
@[simp] theorem State.modMem_quads (s : State) (f : MemSys → MemSys) : (s.modMem f).quads = s.quads := rfl
@[simp] theorem State.modMem_mem (s : State) (f : MemSys → MemSys) : (s.modMem f).mem = f s.mem := rfl
@[simp] theorem State.modMem_cp (s : State) (f : MemSys → MemSys) : (s.modMem f).cp = s.cp := rfl
@[simp] theorem State.modMem_host (s : State) (f : MemSys → MemSys) : (s.modMem f).host = s.host := rfl
@[simp] theorem State.modMem_mer (s : State) (f : MemSys → MemSys) : (s.modMem f).mer = s.mer := rfl
@[simp] theorem State.modMem_house (s : State) (f : MemSys → MemSys) : (s.modMem f).house = s.house := rfl
@[simp] theorem State.modMem_links (s : State) (f : MemSys → MemSys) : (s.modMem f).links = s.links := rfl
@[simp] theorem State.modMem_outbox (s : State) (f : MemSys → MemSys) : (s.modMem f).outbox = s.outbox := rfl
@[simp] theorem State.modMem_script (s : State) (f : MemSys → MemSys) : (s.modMem f).script = s.script := rfl
@[simp] theorem State.modMem_focus (s : State) (f : MemSys → MemSys) : (s.modMem f).focus = s.focus := rfl
@[simp] theorem State.modMem_tick (s : State) (f : MemSys → MemSys) : (s.modMem f).tick = s.tick := rfl
@[simp] theorem State.modMem_nextId (s : State) (f : MemSys → MemSys) : (s.modMem f).nextId = s.nextId := rfl

/-! ### modMer -/

@[simp] theorem State.modMer_chrono (s : State) (f : Meridian → Meridian) : (s.modMer f).chrono = s.chrono := rfl
@[simp] theorem State.modMer_waves (s : State) (f : Meridian → Meridian) : (s.modMer f).waves = s.waves := rfl
@[simp] theorem State.modMer_groups (s : State) (f : Meridian → Meridian) : (s.modMer f).groups = s.groups := rfl
@[simp] theorem State.modMer_cores (s : State) (f : Meridian → Meridian) : (s.modMer f).cores = s.cores := rfl
@[simp] theorem State.modMer_quads (s : State) (f : Meridian → Meridian) : (s.modMer f).quads = s.quads := rfl
@[simp] theorem State.modMer_mem (s : State) (f : Meridian → Meridian) : (s.modMer f).mem = s.mem := rfl
@[simp] theorem State.modMer_cp (s : State) (f : Meridian → Meridian) : (s.modMer f).cp = s.cp := rfl
@[simp] theorem State.modMer_host (s : State) (f : Meridian → Meridian) : (s.modMer f).host = s.host := rfl
@[simp] theorem State.modMer_mer (s : State) (f : Meridian → Meridian) : (s.modMer f).mer = f s.mer := rfl
@[simp] theorem State.modMer_house (s : State) (f : Meridian → Meridian) : (s.modMer f).house = s.house := rfl
@[simp] theorem State.modMer_links (s : State) (f : Meridian → Meridian) : (s.modMer f).links = s.links := rfl
@[simp] theorem State.modMer_outbox (s : State) (f : Meridian → Meridian) : (s.modMer f).outbox = s.outbox := rfl
@[simp] theorem State.modMer_script (s : State) (f : Meridian → Meridian) : (s.modMer f).script = s.script := rfl
@[simp] theorem State.modMer_focus (s : State) (f : Meridian → Meridian) : (s.modMer f).focus = s.focus := rfl
@[simp] theorem State.modMer_tick (s : State) (f : Meridian → Meridian) : (s.modMer f).tick = s.tick := rfl
@[simp] theorem State.modMer_nextId (s : State) (f : Meridian → Meridian) : (s.modMer f).nextId = s.nextId := rfl

/-! ### modHouse -/

@[simp] theorem State.modHouse_chrono (s : State) (f : House → House) : (s.modHouse f).chrono = s.chrono := rfl
@[simp] theorem State.modHouse_waves (s : State) (f : House → House) : (s.modHouse f).waves = s.waves := rfl
@[simp] theorem State.modHouse_groups (s : State) (f : House → House) : (s.modHouse f).groups = s.groups := rfl
@[simp] theorem State.modHouse_cores (s : State) (f : House → House) : (s.modHouse f).cores = s.cores := rfl
@[simp] theorem State.modHouse_quads (s : State) (f : House → House) : (s.modHouse f).quads = s.quads := rfl
@[simp] theorem State.modHouse_mem (s : State) (f : House → House) : (s.modHouse f).mem = s.mem := rfl
@[simp] theorem State.modHouse_cp (s : State) (f : House → House) : (s.modHouse f).cp = s.cp := rfl
@[simp] theorem State.modHouse_host (s : State) (f : House → House) : (s.modHouse f).host = s.host := rfl
@[simp] theorem State.modHouse_mer (s : State) (f : House → House) : (s.modHouse f).mer = s.mer := rfl
@[simp] theorem State.modHouse_house (s : State) (f : House → House) : (s.modHouse f).house = f s.house := rfl
@[simp] theorem State.modHouse_links (s : State) (f : House → House) : (s.modHouse f).links = s.links := rfl
@[simp] theorem State.modHouse_outbox (s : State) (f : House → House) : (s.modHouse f).outbox = s.outbox := rfl
@[simp] theorem State.modHouse_script (s : State) (f : House → House) : (s.modHouse f).script = s.script := rfl
@[simp] theorem State.modHouse_focus (s : State) (f : House → House) : (s.modHouse f).focus = s.focus := rfl
@[simp] theorem State.modHouse_tick (s : State) (f : House → House) : (s.modHouse f).tick = s.tick := rfl
@[simp] theorem State.modHouse_nextId (s : State) (f : House → House) : (s.modHouse f).nextId = s.nextId := rfl

/-! ### modLinks -/

@[simp] theorem State.modLinks_chrono (s : State) (f : Links → Links) : (s.modLinks f).chrono = s.chrono := rfl
@[simp] theorem State.modLinks_waves (s : State) (f : Links → Links) : (s.modLinks f).waves = s.waves := rfl
@[simp] theorem State.modLinks_groups (s : State) (f : Links → Links) : (s.modLinks f).groups = s.groups := rfl
@[simp] theorem State.modLinks_cores (s : State) (f : Links → Links) : (s.modLinks f).cores = s.cores := rfl
@[simp] theorem State.modLinks_quads (s : State) (f : Links → Links) : (s.modLinks f).quads = s.quads := rfl
@[simp] theorem State.modLinks_mem (s : State) (f : Links → Links) : (s.modLinks f).mem = s.mem := rfl
@[simp] theorem State.modLinks_cp (s : State) (f : Links → Links) : (s.modLinks f).cp = s.cp := rfl
@[simp] theorem State.modLinks_host (s : State) (f : Links → Links) : (s.modLinks f).host = s.host := rfl
@[simp] theorem State.modLinks_mer (s : State) (f : Links → Links) : (s.modLinks f).mer = s.mer := rfl
@[simp] theorem State.modLinks_house (s : State) (f : Links → Links) : (s.modLinks f).house = s.house := rfl
@[simp] theorem State.modLinks_links (s : State) (f : Links → Links) : (s.modLinks f).links = f s.links := rfl
@[simp] theorem State.modLinks_outbox (s : State) (f : Links → Links) : (s.modLinks f).outbox = s.outbox := rfl
@[simp] theorem State.modLinks_script (s : State) (f : Links → Links) : (s.modLinks f).script = s.script := rfl
@[simp] theorem State.modLinks_focus (s : State) (f : Links → Links) : (s.modLinks f).focus = s.focus := rfl
@[simp] theorem State.modLinks_tick (s : State) (f : Links → Links) : (s.modLinks f).tick = s.tick := rfl
@[simp] theorem State.modLinks_nextId (s : State) (f : Links → Links) : (s.modLinks f).nextId = s.nextId := rfl

/-! ### modHost -/

@[simp] theorem State.modHost_chrono (s : State) (f : HostSt → HostSt) : (s.modHost f).chrono = s.chrono := rfl
@[simp] theorem State.modHost_waves (s : State) (f : HostSt → HostSt) : (s.modHost f).waves = s.waves := rfl
@[simp] theorem State.modHost_groups (s : State) (f : HostSt → HostSt) : (s.modHost f).groups = s.groups := rfl
@[simp] theorem State.modHost_cores (s : State) (f : HostSt → HostSt) : (s.modHost f).cores = s.cores := rfl
@[simp] theorem State.modHost_quads (s : State) (f : HostSt → HostSt) : (s.modHost f).quads = s.quads := rfl
@[simp] theorem State.modHost_mem (s : State) (f : HostSt → HostSt) : (s.modHost f).mem = s.mem := rfl
@[simp] theorem State.modHost_cp (s : State) (f : HostSt → HostSt) : (s.modHost f).cp = s.cp := rfl
@[simp] theorem State.modHost_host (s : State) (f : HostSt → HostSt) : (s.modHost f).host = f s.host := rfl
@[simp] theorem State.modHost_mer (s : State) (f : HostSt → HostSt) : (s.modHost f).mer = s.mer := rfl
@[simp] theorem State.modHost_house (s : State) (f : HostSt → HostSt) : (s.modHost f).house = s.house := rfl
@[simp] theorem State.modHost_links (s : State) (f : HostSt → HostSt) : (s.modHost f).links = s.links := rfl
@[simp] theorem State.modHost_outbox (s : State) (f : HostSt → HostSt) : (s.modHost f).outbox = s.outbox := rfl
@[simp] theorem State.modHost_script (s : State) (f : HostSt → HostSt) : (s.modHost f).script = s.script := rfl
@[simp] theorem State.modHost_focus (s : State) (f : HostSt → HostSt) : (s.modHost f).focus = s.focus := rfl
@[simp] theorem State.modHost_tick (s : State) (f : HostSt → HostSt) : (s.modHost f).tick = s.tick := rfl
@[simp] theorem State.modHost_nextId (s : State) (f : HostSt → HostSt) : (s.modHost f).nextId = s.nextId := rfl

/-! ### modWave -/

@[simp] theorem State.modWave_chrono (s : State) (k : Nat) (f : Wave → Wave) : (s.modWave k f).chrono = s.chrono := by
  unfold State.modWave; split <;> rfl
@[simp] theorem State.modWave_groups (s : State) (k : Nat) (f : Wave → Wave) : (s.modWave k f).groups = s.groups := by
  unfold State.modWave; split <;> rfl
@[simp] theorem State.modWave_cores (s : State) (k : Nat) (f : Wave → Wave) : (s.modWave k f).cores = s.cores := by
  unfold State.modWave; split <;> rfl
@[simp] theorem State.modWave_quads (s : State) (k : Nat) (f : Wave → Wave) : (s.modWave k f).quads = s.quads := by
  unfold State.modWave; split <;> rfl
@[simp] theorem State.modWave_mem (s : State) (k : Nat) (f : Wave → Wave) : (s.modWave k f).mem = s.mem := by
  unfold State.modWave; split <;> rfl
@[simp] theorem State.modWave_cp (s : State) (k : Nat) (f : Wave → Wave) : (s.modWave k f).cp = s.cp := by
  unfold State.modWave; split <;> rfl
@[simp] theorem State.modWave_host (s : State) (k : Nat) (f : Wave → Wave) : (s.modWave k f).host = s.host := by
  unfold State.modWave; split <;> rfl
@[simp] theorem State.modWave_mer (s : State) (k : Nat) (f : Wave → Wave) : (s.modWave k f).mer = s.mer := by
  unfold State.modWave; split <;> rfl
@[simp] theorem State.modWave_house (s : State) (k : Nat) (f : Wave → Wave) : (s.modWave k f).house = s.house := by
  unfold State.modWave; split <;> rfl
@[simp] theorem State.modWave_links (s : State) (k : Nat) (f : Wave → Wave) : (s.modWave k f).links = s.links := by
  unfold State.modWave; split <;> rfl
@[simp] theorem State.modWave_outbox (s : State) (k : Nat) (f : Wave → Wave) : (s.modWave k f).outbox = s.outbox := by
  unfold State.modWave; split <;> rfl
@[simp] theorem State.modWave_script (s : State) (k : Nat) (f : Wave → Wave) : (s.modWave k f).script = s.script := by
  unfold State.modWave; split <;> rfl
@[simp] theorem State.modWave_focus (s : State) (k : Nat) (f : Wave → Wave) : (s.modWave k f).focus = s.focus := by
  unfold State.modWave; split <;> rfl
@[simp] theorem State.modWave_tick (s : State) (k : Nat) (f : Wave → Wave) : (s.modWave k f).tick = s.tick := by
  unfold State.modWave; split <;> rfl
@[simp] theorem State.modWave_nextId (s : State) (k : Nat) (f : Wave → Wave) : (s.modWave k f).nextId = s.nextId := by
  unfold State.modWave; split <;> rfl

/-! ### modGroup -/

@[simp] theorem State.modGroup_chrono (s : State) (g : Nat) (f : Group → Group) : (s.modGroup g f).chrono = s.chrono := by
  unfold State.modGroup; split <;> rfl
@[simp] theorem State.modGroup_waves (s : State) (g : Nat) (f : Group → Group) : (s.modGroup g f).waves = s.waves := by
  unfold State.modGroup; split <;> rfl
@[simp] theorem State.modGroup_cores (s : State) (g : Nat) (f : Group → Group) : (s.modGroup g f).cores = s.cores := by
  unfold State.modGroup; split <;> rfl
@[simp] theorem State.modGroup_quads (s : State) (g : Nat) (f : Group → Group) : (s.modGroup g f).quads = s.quads := by
  unfold State.modGroup; split <;> rfl
@[simp] theorem State.modGroup_mem (s : State) (g : Nat) (f : Group → Group) : (s.modGroup g f).mem = s.mem := by
  unfold State.modGroup; split <;> rfl
@[simp] theorem State.modGroup_cp (s : State) (g : Nat) (f : Group → Group) : (s.modGroup g f).cp = s.cp := by
  unfold State.modGroup; split <;> rfl
@[simp] theorem State.modGroup_host (s : State) (g : Nat) (f : Group → Group) : (s.modGroup g f).host = s.host := by
  unfold State.modGroup; split <;> rfl
@[simp] theorem State.modGroup_mer (s : State) (g : Nat) (f : Group → Group) : (s.modGroup g f).mer = s.mer := by
  unfold State.modGroup; split <;> rfl
@[simp] theorem State.modGroup_house (s : State) (g : Nat) (f : Group → Group) : (s.modGroup g f).house = s.house := by
  unfold State.modGroup; split <;> rfl
@[simp] theorem State.modGroup_links (s : State) (g : Nat) (f : Group → Group) : (s.modGroup g f).links = s.links := by
  unfold State.modGroup; split <;> rfl
@[simp] theorem State.modGroup_outbox (s : State) (g : Nat) (f : Group → Group) : (s.modGroup g f).outbox = s.outbox := by
  unfold State.modGroup; split <;> rfl
@[simp] theorem State.modGroup_script (s : State) (g : Nat) (f : Group → Group) : (s.modGroup g f).script = s.script := by
  unfold State.modGroup; split <;> rfl
@[simp] theorem State.modGroup_focus (s : State) (g : Nat) (f : Group → Group) : (s.modGroup g f).focus = s.focus := by
  unfold State.modGroup; split <;> rfl
@[simp] theorem State.modGroup_tick (s : State) (g : Nat) (f : Group → Group) : (s.modGroup g f).tick = s.tick := by
  unfold State.modGroup; split <;> rfl
@[simp] theorem State.modGroup_nextId (s : State) (g : Nat) (f : Group → Group) : (s.modGroup g f).nextId = s.nextId := by
  unfold State.modGroup; split <;> rfl

/-! ### modCtx -/

@[simp] theorem State.modCtx_chrono (s : State) (c : Nat) (f : Ctx → Ctx) : (s.modCtx c f).chrono = s.chrono := by
  unfold State.modCtx; split <;> rfl
@[simp] theorem State.modCtx_waves (s : State) (c : Nat) (f : Ctx → Ctx) : (s.modCtx c f).waves = s.waves := by
  unfold State.modCtx; split <;> rfl
@[simp] theorem State.modCtx_groups (s : State) (c : Nat) (f : Ctx → Ctx) : (s.modCtx c f).groups = s.groups := by
  unfold State.modCtx; split <;> rfl
@[simp] theorem State.modCtx_cores (s : State) (c : Nat) (f : Ctx → Ctx) : (s.modCtx c f).cores = s.cores := by
  unfold State.modCtx; split <;> rfl
@[simp] theorem State.modCtx_quads (s : State) (c : Nat) (f : Ctx → Ctx) : (s.modCtx c f).quads = s.quads := by
  unfold State.modCtx; split <;> rfl
@[simp] theorem State.modCtx_mem (s : State) (c : Nat) (f : Ctx → Ctx) : (s.modCtx c f).mem = s.mem := by
  unfold State.modCtx; split <;> rfl
@[simp] theorem State.modCtx_host (s : State) (c : Nat) (f : Ctx → Ctx) : (s.modCtx c f).host = s.host := by
  unfold State.modCtx; split <;> rfl
@[simp] theorem State.modCtx_mer (s : State) (c : Nat) (f : Ctx → Ctx) : (s.modCtx c f).mer = s.mer := by
  unfold State.modCtx; split <;> rfl
@[simp] theorem State.modCtx_house (s : State) (c : Nat) (f : Ctx → Ctx) : (s.modCtx c f).house = s.house := by
  unfold State.modCtx; split <;> rfl
@[simp] theorem State.modCtx_links (s : State) (c : Nat) (f : Ctx → Ctx) : (s.modCtx c f).links = s.links := by
  unfold State.modCtx; split <;> rfl
@[simp] theorem State.modCtx_outbox (s : State) (c : Nat) (f : Ctx → Ctx) : (s.modCtx c f).outbox = s.outbox := by
  unfold State.modCtx; split <;> rfl
@[simp] theorem State.modCtx_script (s : State) (c : Nat) (f : Ctx → Ctx) : (s.modCtx c f).script = s.script := by
  unfold State.modCtx; split <;> rfl
@[simp] theorem State.modCtx_focus (s : State) (c : Nat) (f : Ctx → Ctx) : (s.modCtx c f).focus = s.focus := by
  unfold State.modCtx; split <;> rfl
@[simp] theorem State.modCtx_tick (s : State) (c : Nat) (f : Ctx → Ctx) : (s.modCtx c f).tick = s.tick := by
  unfold State.modCtx; split <;> rfl
@[simp] theorem State.modCtx_nextId (s : State) (c : Nat) (f : Ctx → Ctx) : (s.modCtx c f).nextId = s.nextId := by
  unfold State.modCtx; split <;> rfl

/-! ### modLaunch -/

@[simp] theorem State.modLaunch_chrono (s : State) (l : Nat) (f : Launch → Launch) : (s.modLaunch l f).chrono = s.chrono := by
  unfold State.modLaunch; split <;> rfl
@[simp] theorem State.modLaunch_waves (s : State) (l : Nat) (f : Launch → Launch) : (s.modLaunch l f).waves = s.waves := by
  unfold State.modLaunch; split <;> rfl
@[simp] theorem State.modLaunch_groups (s : State) (l : Nat) (f : Launch → Launch) : (s.modLaunch l f).groups = s.groups := by
  unfold State.modLaunch; split <;> rfl
@[simp] theorem State.modLaunch_cores (s : State) (l : Nat) (f : Launch → Launch) : (s.modLaunch l f).cores = s.cores := by
  unfold State.modLaunch; split <;> rfl
@[simp] theorem State.modLaunch_quads (s : State) (l : Nat) (f : Launch → Launch) : (s.modLaunch l f).quads = s.quads := by
  unfold State.modLaunch; split <;> rfl
@[simp] theorem State.modLaunch_mem (s : State) (l : Nat) (f : Launch → Launch) : (s.modLaunch l f).mem = s.mem := by
  unfold State.modLaunch; split <;> rfl
@[simp] theorem State.modLaunch_host (s : State) (l : Nat) (f : Launch → Launch) : (s.modLaunch l f).host = s.host := by
  unfold State.modLaunch; split <;> rfl
@[simp] theorem State.modLaunch_mer (s : State) (l : Nat) (f : Launch → Launch) : (s.modLaunch l f).mer = s.mer := by
  unfold State.modLaunch; split <;> rfl
@[simp] theorem State.modLaunch_house (s : State) (l : Nat) (f : Launch → Launch) : (s.modLaunch l f).house = s.house := by
  unfold State.modLaunch; split <;> rfl
@[simp] theorem State.modLaunch_links (s : State) (l : Nat) (f : Launch → Launch) : (s.modLaunch l f).links = s.links := by
  unfold State.modLaunch; split <;> rfl
@[simp] theorem State.modLaunch_outbox (s : State) (l : Nat) (f : Launch → Launch) : (s.modLaunch l f).outbox = s.outbox := by
  unfold State.modLaunch; split <;> rfl
@[simp] theorem State.modLaunch_script (s : State) (l : Nat) (f : Launch → Launch) : (s.modLaunch l f).script = s.script := by
  unfold State.modLaunch; split <;> rfl
@[simp] theorem State.modLaunch_focus (s : State) (l : Nat) (f : Launch → Launch) : (s.modLaunch l f).focus = s.focus := by
  unfold State.modLaunch; split <;> rfl
@[simp] theorem State.modLaunch_tick (s : State) (l : Nat) (f : Launch → Launch) : (s.modLaunch l f).tick = s.tick := by
  unfold State.modLaunch; split <;> rfl
@[simp] theorem State.modLaunch_nextId (s : State) (l : Nat) (f : Launch → Launch) : (s.modLaunch l f).nextId = s.nextId := by
  unfold State.modLaunch; split <;> rfl

/-! ### modQueue -/

@[simp] theorem State.modQueue_chrono (s : State) (p q : Nat) (f : Queue → Queue) : (s.modQueue p q f).chrono = s.chrono := by
  unfold State.modQueue; split <;> rfl
@[simp] theorem State.modQueue_waves (s : State) (p q : Nat) (f : Queue → Queue) : (s.modQueue p q f).waves = s.waves := by
  unfold State.modQueue; split <;> rfl
@[simp] theorem State.modQueue_groups (s : State) (p q : Nat) (f : Queue → Queue) : (s.modQueue p q f).groups = s.groups := by
  unfold State.modQueue; split <;> rfl
@[simp] theorem State.modQueue_cores (s : State) (p q : Nat) (f : Queue → Queue) : (s.modQueue p q f).cores = s.cores := by
  unfold State.modQueue; split <;> rfl
@[simp] theorem State.modQueue_quads (s : State) (p q : Nat) (f : Queue → Queue) : (s.modQueue p q f).quads = s.quads := by
  unfold State.modQueue; split <;> rfl
@[simp] theorem State.modQueue_mem (s : State) (p q : Nat) (f : Queue → Queue) : (s.modQueue p q f).mem = s.mem := by
  unfold State.modQueue; split <;> rfl
@[simp] theorem State.modQueue_host (s : State) (p q : Nat) (f : Queue → Queue) : (s.modQueue p q f).host = s.host := by
  unfold State.modQueue; split <;> rfl
@[simp] theorem State.modQueue_mer (s : State) (p q : Nat) (f : Queue → Queue) : (s.modQueue p q f).mer = s.mer := by
  unfold State.modQueue; split <;> rfl
@[simp] theorem State.modQueue_house (s : State) (p q : Nat) (f : Queue → Queue) : (s.modQueue p q f).house = s.house := by
  unfold State.modQueue; split <;> rfl
@[simp] theorem State.modQueue_links (s : State) (p q : Nat) (f : Queue → Queue) : (s.modQueue p q f).links = s.links := by
  unfold State.modQueue; split <;> rfl
@[simp] theorem State.modQueue_outbox (s : State) (p q : Nat) (f : Queue → Queue) : (s.modQueue p q f).outbox = s.outbox := by
  unfold State.modQueue; split <;> rfl
@[simp] theorem State.modQueue_script (s : State) (p q : Nat) (f : Queue → Queue) : (s.modQueue p q f).script = s.script := by
  unfold State.modQueue; split <;> rfl
@[simp] theorem State.modQueue_focus (s : State) (p q : Nat) (f : Queue → Queue) : (s.modQueue p q f).focus = s.focus := by
  unfold State.modQueue; split <;> rfl
@[simp] theorem State.modQueue_tick (s : State) (p q : Nat) (f : Queue → Queue) : (s.modQueue p q f).tick = s.tick := by
  unfold State.modQueue; split <;> rfl
@[simp] theorem State.modQueue_nextId (s : State) (p q : Nat) (f : Queue → Queue) : (s.modQueue p q f).nextId = s.nextId := by
  unfold State.modQueue; split <;> rfl

/-! ### fresh and send -/

@[simp] theorem State.fresh_chrono (s : State) : s.fresh.2.chrono = s.chrono := rfl
@[simp] theorem State.fresh_waves (s : State) : s.fresh.2.waves = s.waves := rfl
@[simp] theorem State.fresh_groups (s : State) : s.fresh.2.groups = s.groups := rfl
@[simp] theorem State.fresh_cores (s : State) : s.fresh.2.cores = s.cores := rfl
@[simp] theorem State.fresh_quads (s : State) : s.fresh.2.quads = s.quads := rfl
@[simp] theorem State.fresh_mem (s : State) : s.fresh.2.mem = s.mem := rfl
@[simp] theorem State.fresh_cp (s : State) : s.fresh.2.cp = s.cp := rfl
@[simp] theorem State.fresh_host (s : State) : s.fresh.2.host = s.host := rfl
@[simp] theorem State.fresh_mer (s : State) : s.fresh.2.mer = s.mer := rfl
@[simp] theorem State.fresh_house (s : State) : s.fresh.2.house = s.house := rfl
@[simp] theorem State.fresh_links (s : State) : s.fresh.2.links = s.links := rfl
@[simp] theorem State.fresh_outbox (s : State) : s.fresh.2.outbox = s.outbox := rfl
@[simp] theorem State.fresh_script (s : State) : s.fresh.2.script = s.script := rfl
@[simp] theorem State.fresh_focus (s : State) : s.fresh.2.focus = s.focus := rfl
@[simp] theorem State.fresh_tick (s : State) : s.fresh.2.tick = s.tick := rfl
@[simp] theorem State.fresh_nextId (s : State) : s.fresh.2.nextId = s.nextId + 1 := rfl
@[simp] theorem State.fresh_number (s : State) : s.fresh.1 = s.nextId := rfl
@[simp] theorem State.send_chrono (s : State) (m : Out) : (s.send m).chrono = s.chrono := rfl
@[simp] theorem State.send_waves (s : State) (m : Out) : (s.send m).waves = s.waves := rfl
@[simp] theorem State.send_groups (s : State) (m : Out) : (s.send m).groups = s.groups := rfl
@[simp] theorem State.send_cores (s : State) (m : Out) : (s.send m).cores = s.cores := rfl
@[simp] theorem State.send_quads (s : State) (m : Out) : (s.send m).quads = s.quads := rfl
@[simp] theorem State.send_mem (s : State) (m : Out) : (s.send m).mem = s.mem := rfl
@[simp] theorem State.send_cp (s : State) (m : Out) : (s.send m).cp = s.cp := rfl
@[simp] theorem State.send_host (s : State) (m : Out) : (s.send m).host = s.host := rfl
@[simp] theorem State.send_mer (s : State) (m : Out) : (s.send m).mer = s.mer := rfl
@[simp] theorem State.send_house (s : State) (m : Out) : (s.send m).house = s.house := rfl
@[simp] theorem State.send_script (s : State) (m : Out) : (s.send m).script = s.script := rfl
@[simp] theorem State.send_focus (s : State) (m : Out) : (s.send m).focus = s.focus := rfl
@[simp] theorem State.send_tick (s : State) (m : Out) : (s.send m).tick = s.tick := rfl
@[simp] theorem State.send_nextId (s : State) (m : Out) : (s.send m).nextId = s.nextId := rfl
@[simp] theorem State.send_outbox (s : State) (m : Out) : (s.send m).outbox = s.outbox ++ [m] := rfl

/-! ### Reading one entry after an update -/

@[simp] theorem State.waveAt?_setWave (s : State) (k j : Nat) (w : Wave) :
    (s.setWave k w).waveAt? j = if k = j then some w else s.waveAt? j := Table.get?_set ..

theorem State.modWave_of (s : State) (k : Nat) (f : Wave → Wave) (w : Wave) (h : s.waveAt? k = some w) :
    s.modWave k f = s.setWave k (f w) := by simp [State.modWave, h]

theorem State.waveAt?_modWave (s : State) (k j : Nat) (f : Wave → Wave) :
    (s.modWave k f).waveAt? j = if k = j then (s.waveAt? k).map f else s.waveAt? j := by
  unfold State.modWave
  split <;> rename_i h <;> by_cases e : k = j <;> simp_all [State.waveAt?_setWave]

@[simp] theorem State.coreAt_modCore (s : State) (c d : Nat) (f : Core → Core) :
    (s.modCore c f).coreAt d = if c = d then f (s.coreAt c) else s.coreAt d := by
  simp only [State.coreAt, State.modCore_cores, Table.getD_set]

@[simp] theorem State.quadAt_modQuad (s : State) (q r : Nat) (f : Quad → Quad) :
    (s.modQuad q f).quadAt r = if q = r then f (s.quadAt q) else s.quadAt r := by
  simp only [State.quadAt, State.modQuad_quads, Table.getD_set]

theorem State.groupAt?_modGroup (s : State) (g h : Nat) (f : Group → Group) :
    (s.modGroup g f).groupAt? h = if g = h then (s.groupAt? g).map f else s.groupAt? h := by
  unfold State.modGroup
  cases e : s.groupAt? g with
  | none => by_cases i : g = h <;> simp_all
  | some x => by_cases i : g = h <;> simp [i, State.groupAt?, Table.get?_set]

@[simp] theorem State.coreAt_setWave (s : State) (k : Nat) (w : Wave) (j : Nat) : (s.setWave k w).coreAt j = s.coreAt j := by
  simp [State.coreAt]
@[simp] theorem State.groupAt?_setWave (s : State) (k : Nat) (w : Wave) (j : Nat) : (s.setWave k w).groupAt? j = s.groupAt? j := by
  simp [State.groupAt?]
@[simp] theorem State.quadAt_setWave (s : State) (k : Nat) (w : Wave) (j : Nat) : (s.setWave k w).quadAt j = s.quadAt j := by
  simp [State.quadAt]
@[simp] theorem State.ctxAt?_setWave (s : State) (k : Nat) (w : Wave) (j : Nat) : (s.setWave k w).ctxAt? j = s.ctxAt? j := by
  simp [State.ctxAt?]
@[simp] theorem State.launchAt?_setWave (s : State) (k : Nat) (w : Wave) (j : Nat) : (s.setWave k w).launchAt? j = s.launchAt? j := by
  simp [State.launchAt?]
@[simp] theorem State.waveAt?_modCore (s : State) (c : Nat) (f : Core → Core) (j : Nat) : (s.modCore c f).waveAt? j = s.waveAt? j := by
  simp [State.waveAt?]
@[simp] theorem State.groupAt?_modCore (s : State) (c : Nat) (f : Core → Core) (j : Nat) : (s.modCore c f).groupAt? j = s.groupAt? j := by
  simp [State.groupAt?]
@[simp] theorem State.quadAt_modCore (s : State) (c : Nat) (f : Core → Core) (j : Nat) : (s.modCore c f).quadAt j = s.quadAt j := by
  simp [State.quadAt]
@[simp] theorem State.ctxAt?_modCore (s : State) (c : Nat) (f : Core → Core) (j : Nat) : (s.modCore c f).ctxAt? j = s.ctxAt? j := by
  simp [State.ctxAt?]
@[simp] theorem State.launchAt?_modCore (s : State) (c : Nat) (f : Core → Core) (j : Nat) : (s.modCore c f).launchAt? j = s.launchAt? j := by
  simp [State.launchAt?]
@[simp] theorem State.waveAt?_modQuad (s : State) (q : Nat) (f : Quad → Quad) (j : Nat) : (s.modQuad q f).waveAt? j = s.waveAt? j := by
  simp [State.waveAt?]
@[simp] theorem State.coreAt_modQuad (s : State) (q : Nat) (f : Quad → Quad) (j : Nat) : (s.modQuad q f).coreAt j = s.coreAt j := by
  simp [State.coreAt]
@[simp] theorem State.groupAt?_modQuad (s : State) (q : Nat) (f : Quad → Quad) (j : Nat) : (s.modQuad q f).groupAt? j = s.groupAt? j := by
  simp [State.groupAt?]
@[simp] theorem State.ctxAt?_modQuad (s : State) (q : Nat) (f : Quad → Quad) (j : Nat) : (s.modQuad q f).ctxAt? j = s.ctxAt? j := by
  simp [State.ctxAt?]
@[simp] theorem State.launchAt?_modQuad (s : State) (q : Nat) (f : Quad → Quad) (j : Nat) : (s.modQuad q f).launchAt? j = s.launchAt? j := by
  simp [State.launchAt?]
@[simp] theorem State.waveAt?_modCp (s : State) (f : Cp → Cp) (j : Nat) : (s.modCp f).waveAt? j = s.waveAt? j := by
  simp [State.waveAt?]
@[simp] theorem State.coreAt_modCp (s : State) (f : Cp → Cp) (j : Nat) : (s.modCp f).coreAt j = s.coreAt j := by
  simp [State.coreAt]
@[simp] theorem State.groupAt?_modCp (s : State) (f : Cp → Cp) (j : Nat) : (s.modCp f).groupAt? j = s.groupAt? j := by
  simp [State.groupAt?]
@[simp] theorem State.quadAt_modCp (s : State) (f : Cp → Cp) (j : Nat) : (s.modCp f).quadAt j = s.quadAt j := by
  simp [State.quadAt]
@[simp] theorem State.waveAt?_modMem (s : State) (f : MemSys → MemSys) (j : Nat) : (s.modMem f).waveAt? j = s.waveAt? j := by
  simp [State.waveAt?]
@[simp] theorem State.coreAt_modMem (s : State) (f : MemSys → MemSys) (j : Nat) : (s.modMem f).coreAt j = s.coreAt j := by
  simp [State.coreAt]
@[simp] theorem State.groupAt?_modMem (s : State) (f : MemSys → MemSys) (j : Nat) : (s.modMem f).groupAt? j = s.groupAt? j := by
  simp [State.groupAt?]
@[simp] theorem State.quadAt_modMem (s : State) (f : MemSys → MemSys) (j : Nat) : (s.modMem f).quadAt j = s.quadAt j := by
  simp [State.quadAt]
@[simp] theorem State.ctxAt?_modMem (s : State) (f : MemSys → MemSys) (j : Nat) : (s.modMem f).ctxAt? j = s.ctxAt? j := by
  simp [State.ctxAt?]
@[simp] theorem State.launchAt?_modMem (s : State) (f : MemSys → MemSys) (j : Nat) : (s.modMem f).launchAt? j = s.launchAt? j := by
  simp [State.launchAt?]
@[simp] theorem State.waveAt?_modMer (s : State) (f : Meridian → Meridian) (j : Nat) : (s.modMer f).waveAt? j = s.waveAt? j := by
  simp [State.waveAt?]
@[simp] theorem State.coreAt_modMer (s : State) (f : Meridian → Meridian) (j : Nat) : (s.modMer f).coreAt j = s.coreAt j := by
  simp [State.coreAt]
@[simp] theorem State.groupAt?_modMer (s : State) (f : Meridian → Meridian) (j : Nat) : (s.modMer f).groupAt? j = s.groupAt? j := by
  simp [State.groupAt?]
@[simp] theorem State.quadAt_modMer (s : State) (f : Meridian → Meridian) (j : Nat) : (s.modMer f).quadAt j = s.quadAt j := by
  simp [State.quadAt]
@[simp] theorem State.ctxAt?_modMer (s : State) (f : Meridian → Meridian) (j : Nat) : (s.modMer f).ctxAt? j = s.ctxAt? j := by
  simp [State.ctxAt?]
@[simp] theorem State.launchAt?_modMer (s : State) (f : Meridian → Meridian) (j : Nat) : (s.modMer f).launchAt? j = s.launchAt? j := by
  simp [State.launchAt?]
@[simp] theorem State.waveAt?_modHouse (s : State) (f : House → House) (j : Nat) : (s.modHouse f).waveAt? j = s.waveAt? j := by
  simp [State.waveAt?]
@[simp] theorem State.coreAt_modHouse (s : State) (f : House → House) (j : Nat) : (s.modHouse f).coreAt j = s.coreAt j := by
  simp [State.coreAt]
@[simp] theorem State.groupAt?_modHouse (s : State) (f : House → House) (j : Nat) : (s.modHouse f).groupAt? j = s.groupAt? j := by
  simp [State.groupAt?]
@[simp] theorem State.quadAt_modHouse (s : State) (f : House → House) (j : Nat) : (s.modHouse f).quadAt j = s.quadAt j := by
  simp [State.quadAt]
@[simp] theorem State.ctxAt?_modHouse (s : State) (f : House → House) (j : Nat) : (s.modHouse f).ctxAt? j = s.ctxAt? j := by
  simp [State.ctxAt?]
@[simp] theorem State.launchAt?_modHouse (s : State) (f : House → House) (j : Nat) : (s.modHouse f).launchAt? j = s.launchAt? j := by
  simp [State.launchAt?]
@[simp] theorem State.waveAt?_modLinks (s : State) (f : Links → Links) (j : Nat) : (s.modLinks f).waveAt? j = s.waveAt? j := by
  simp [State.waveAt?]
@[simp] theorem State.coreAt_modLinks (s : State) (f : Links → Links) (j : Nat) : (s.modLinks f).coreAt j = s.coreAt j := by
  simp [State.coreAt]
@[simp] theorem State.groupAt?_modLinks (s : State) (f : Links → Links) (j : Nat) : (s.modLinks f).groupAt? j = s.groupAt? j := by
  simp [State.groupAt?]
@[simp] theorem State.quadAt_modLinks (s : State) (f : Links → Links) (j : Nat) : (s.modLinks f).quadAt j = s.quadAt j := by
  simp [State.quadAt]
@[simp] theorem State.ctxAt?_modLinks (s : State) (f : Links → Links) (j : Nat) : (s.modLinks f).ctxAt? j = s.ctxAt? j := by
  simp [State.ctxAt?]
@[simp] theorem State.launchAt?_modLinks (s : State) (f : Links → Links) (j : Nat) : (s.modLinks f).launchAt? j = s.launchAt? j := by
  simp [State.launchAt?]
@[simp] theorem State.waveAt?_modHost (s : State) (f : HostSt → HostSt) (j : Nat) : (s.modHost f).waveAt? j = s.waveAt? j := by
  simp [State.waveAt?]
@[simp] theorem State.coreAt_modHost (s : State) (f : HostSt → HostSt) (j : Nat) : (s.modHost f).coreAt j = s.coreAt j := by
  simp [State.coreAt]
@[simp] theorem State.groupAt?_modHost (s : State) (f : HostSt → HostSt) (j : Nat) : (s.modHost f).groupAt? j = s.groupAt? j := by
  simp [State.groupAt?]
@[simp] theorem State.quadAt_modHost (s : State) (f : HostSt → HostSt) (j : Nat) : (s.modHost f).quadAt j = s.quadAt j := by
  simp [State.quadAt]
@[simp] theorem State.ctxAt?_modHost (s : State) (f : HostSt → HostSt) (j : Nat) : (s.modHost f).ctxAt? j = s.ctxAt? j := by
  simp [State.ctxAt?]
@[simp] theorem State.launchAt?_modHost (s : State) (f : HostSt → HostSt) (j : Nat) : (s.modHost f).launchAt? j = s.launchAt? j := by
  simp [State.launchAt?]
@[simp] theorem State.coreAt_modWave (s : State) (k : Nat) (f : Wave → Wave) (j : Nat) : (s.modWave k f).coreAt j = s.coreAt j := by
  simp [State.coreAt]
@[simp] theorem State.groupAt?_modWave (s : State) (k : Nat) (f : Wave → Wave) (j : Nat) : (s.modWave k f).groupAt? j = s.groupAt? j := by
  simp [State.groupAt?]
@[simp] theorem State.quadAt_modWave (s : State) (k : Nat) (f : Wave → Wave) (j : Nat) : (s.modWave k f).quadAt j = s.quadAt j := by
  simp [State.quadAt]
@[simp] theorem State.ctxAt?_modWave (s : State) (k : Nat) (f : Wave → Wave) (j : Nat) : (s.modWave k f).ctxAt? j = s.ctxAt? j := by
  simp [State.ctxAt?]
@[simp] theorem State.launchAt?_modWave (s : State) (k : Nat) (f : Wave → Wave) (j : Nat) : (s.modWave k f).launchAt? j = s.launchAt? j := by
  simp [State.launchAt?]
@[simp] theorem State.waveAt?_modGroup (s : State) (g : Nat) (f : Group → Group) (j : Nat) : (s.modGroup g f).waveAt? j = s.waveAt? j := by
  simp [State.waveAt?]
@[simp] theorem State.coreAt_modGroup (s : State) (g : Nat) (f : Group → Group) (j : Nat) : (s.modGroup g f).coreAt j = s.coreAt j := by
  simp [State.coreAt]
@[simp] theorem State.quadAt_modGroup (s : State) (g : Nat) (f : Group → Group) (j : Nat) : (s.modGroup g f).quadAt j = s.quadAt j := by
  simp [State.quadAt]
@[simp] theorem State.ctxAt?_modGroup (s : State) (g : Nat) (f : Group → Group) (j : Nat) : (s.modGroup g f).ctxAt? j = s.ctxAt? j := by
  simp [State.ctxAt?]
@[simp] theorem State.launchAt?_modGroup (s : State) (g : Nat) (f : Group → Group) (j : Nat) : (s.modGroup g f).launchAt? j = s.launchAt? j := by
  simp [State.launchAt?]
@[simp] theorem State.waveAt?_modCtx (s : State) (c : Nat) (f : Ctx → Ctx) (j : Nat) : (s.modCtx c f).waveAt? j = s.waveAt? j := by
  simp [State.waveAt?]
@[simp] theorem State.coreAt_modCtx (s : State) (c : Nat) (f : Ctx → Ctx) (j : Nat) : (s.modCtx c f).coreAt j = s.coreAt j := by
  simp [State.coreAt]
@[simp] theorem State.groupAt?_modCtx (s : State) (c : Nat) (f : Ctx → Ctx) (j : Nat) : (s.modCtx c f).groupAt? j = s.groupAt? j := by
  simp [State.groupAt?]
@[simp] theorem State.quadAt_modCtx (s : State) (c : Nat) (f : Ctx → Ctx) (j : Nat) : (s.modCtx c f).quadAt j = s.quadAt j := by
  simp [State.quadAt]
@[simp] theorem State.waveAt?_modLaunch (s : State) (l : Nat) (f : Launch → Launch) (j : Nat) : (s.modLaunch l f).waveAt? j = s.waveAt? j := by
  simp [State.waveAt?]
@[simp] theorem State.coreAt_modLaunch (s : State) (l : Nat) (f : Launch → Launch) (j : Nat) : (s.modLaunch l f).coreAt j = s.coreAt j := by
  simp [State.coreAt]
@[simp] theorem State.groupAt?_modLaunch (s : State) (l : Nat) (f : Launch → Launch) (j : Nat) : (s.modLaunch l f).groupAt? j = s.groupAt? j := by
  simp [State.groupAt?]
@[simp] theorem State.quadAt_modLaunch (s : State) (l : Nat) (f : Launch → Launch) (j : Nat) : (s.modLaunch l f).quadAt j = s.quadAt j := by
  simp [State.quadAt]
@[simp] theorem State.waveAt?_modQueue (s : State) (p q : Nat) (f : Queue → Queue) (j : Nat) : (s.modQueue p q f).waveAt? j = s.waveAt? j := by
  simp [State.waveAt?]
@[simp] theorem State.coreAt_modQueue (s : State) (p q : Nat) (f : Queue → Queue) (j : Nat) : (s.modQueue p q f).coreAt j = s.coreAt j := by
  simp [State.coreAt]
@[simp] theorem State.groupAt?_modQueue (s : State) (p q : Nat) (f : Queue → Queue) (j : Nat) : (s.modQueue p q f).groupAt? j = s.groupAt? j := by
  simp [State.groupAt?]
@[simp] theorem State.quadAt_modQueue (s : State) (p q : Nat) (f : Queue → Queue) (j : Nat) : (s.modQueue p q f).quadAt j = s.quadAt j := by
  simp [State.quadAt]
@[simp] theorem State.waveAt?_send (s : State) (m : Out) (j : Nat) : (s.send m).waveAt? j = s.waveAt? j := rfl
@[simp] theorem State.waveAt?_fresh (s : State) (j : Nat) : s.fresh.2.waveAt? j = s.waveAt? j := rfl
@[simp] theorem State.coreAt_send (s : State) (m : Out) (j : Nat) : (s.send m).coreAt j = s.coreAt j := rfl
@[simp] theorem State.coreAt_fresh (s : State) (j : Nat) : s.fresh.2.coreAt j = s.coreAt j := rfl
@[simp] theorem State.groupAt?_send (s : State) (m : Out) (j : Nat) : (s.send m).groupAt? j = s.groupAt? j := rfl
@[simp] theorem State.groupAt?_fresh (s : State) (j : Nat) : s.fresh.2.groupAt? j = s.groupAt? j := rfl
@[simp] theorem State.quadAt_send (s : State) (m : Out) (j : Nat) : (s.send m).quadAt j = s.quadAt j := rfl
@[simp] theorem State.quadAt_fresh (s : State) (j : Nat) : s.fresh.2.quadAt j = s.quadAt j := rfl
@[simp] theorem State.ctxAt?_send (s : State) (m : Out) (j : Nat) : (s.send m).ctxAt? j = s.ctxAt? j := rfl
@[simp] theorem State.ctxAt?_fresh (s : State) (j : Nat) : s.fresh.2.ctxAt? j = s.ctxAt? j := rfl
@[simp] theorem State.launchAt?_send (s : State) (m : Out) (j : Nat) : (s.send m).launchAt? j = s.launchAt? j := rfl
@[simp] theorem State.launchAt?_fresh (s : State) (j : Nat) : s.fresh.2.launchAt? j = s.launchAt? j := rfl

end Sys2Proof.Machine
end

