-- ==== Sys2Proof/Laws/Issue.lean ====
section
/-! SUPPORT. What issuing an instruction comes to when no check of R78 stops it, and what taking the issue slot and
advancing the entry leave. -/

namespace Sys2Proof.Machine

/-- A ready instruction runs its body. -/
theorem issue_ready {i : Instr} {pl : Plan} {s : State} {k : Nat} {w : Wave} {e : Entry} (h : Ready i pl s k w e)
    (body : Iss → State → Res) :
    issue i pl body s =
      .next (settleRes k e (issOf i pl s k w e) pl.pipe s (body (issOf i pl s k w e) s)) := by
  have h1 : (24 ≤ w.run.slots) = False := by have := h.room; simp; omega
  have h2 : (privileged i && w.handler.isNone) = false := by
    cases hp : privileged i
    · rfl
    · have := h.mode hp; simp [Option.isNone_eq_false_iff, this]
  simp only [issue, h.issuer, issueAt, h.landed, h.due, h.fence, ite_self, h1, h.legal, h2, h.regs, issOf, if_false, if_true]
  rfl

/-- The issuing wave is the one in the table, and its entry stands first. -/
theorem Ready.wave {i : Instr} {pl : Plan} {s : State} {k : Nat} {w : Wave} {e : Entry} (h : Ready i pl s k w e) :
    s.waveAt? k = some w := by
  have h := h.issuer
  unfold State.issuer at h
  split at h
  · simp at h
  · split at h
    · simp at h
    · split at h
      · simp at h
      · simp only [Option.some.injEq, Prod.mk.injEq] at h
        obtain ⟨rfl, rfl, _⟩ := h
        assumption

theorem Ready.entry {i : Instr} {pl : Plan} {s : State} {k : Nat} {w : Wave} {e : Entry} (h : Ready i pl s k w e) :
    w.frontier = e :: w.frontier.tail := by
  have h := h.issuer
  unfold State.issuer at h
  split at h
  · simp at h
  · split at h
    · simp at h
    · split at h
      · simp at h
      · simp only [Option.some.injEq, Prod.mk.injEq] at h
        obtain ⟨rfl, rfl, rfl⟩ := h
        simp [*]

/-- The registers that a ready instruction names exist. -/
theorem regBad_append (w : Wave) (l m : List (Src × Nat)) (h : regBad w (l ++ m) = none) :
    regBad w l = none ∧ regBad w m = none := by
  induction l with
  | nil => exact ⟨rfl, h⟩
  | cons x t ih =>
    simp only [List.cons_append, regBad] at h ⊢
    split at h
    · split at h
      · simp at h
      · rename_i h1
        simp only [h1]
        exact ih h
    · split at h
      · simp at h
      · rename_i h1
        simp only [h1]
        exact ih h
    · simp only [Bool.false_eq_true, if_false] at h ⊢
      exact ih h

theorem regBad_v (w : Wave) (r : Fin 128) (n : Nat) (h : regBad w [(.v r, n)] = none) :
    r.val + n ≤ 128 ∧ r.val + n ≤ w.nv := by
  simp only [regBad] at h
  split at h
  · simp at h
  · simp_all

/-- The wave once its issue slot is taken (R22, R373). -/
def Wave.slotted (w : Wave) (u : Iss) : Wave :=
  let w := (((w.count 1 1).count 3 u.slot.bank).count 4 u.slot.ilk)
  let w := match w.susp with
    | some x => w.count 5 (u.slot.t - x.since)
    | none => w
  { w with run := { w.run with slots := w.run.slots + 1, prev := u.slot.t }, susp := none }

/-- Taking the issue slot changes the wave and its core's issue cycle and pipes. -/
theorem State.waveAt?_takeSlot (s : State) (u : Iss) (p : Pipe) (j : Nat) :
    (s.takeSlot u p).waveAt? j = if u.k = j then (s.waveAt? u.k).map fun w => w.slotted u else s.waveAt? j := by
  simp only [State.takeSlot, State.waveAt?_modCore, State.waveAt?_modWave]
  rfl

theorem State.coreAt_takeSlot (s : State) (u : Iss) (p : Pipe) (c : Nat) :
    (s.takeSlot u p).coreAt c = if coreOfWave u.k = c then
      { s.coreAt c with
        cycle := u.slot.t + 1
        pipeA := if p = .f64 ∧ !u.slot.pipeB then u.slot.t + 4 else (s.coreAt c).pipeA
        pipeB := if p = .f64 ∧ u.slot.pipeB then u.slot.t + 4 else (s.coreAt c).pipeB
        pipeS := if p = .scalar64 then u.slot.t + 4 else (s.coreAt c).pipeS } else s.coreAt c := by
  simp only [State.takeSlot, State.coreAt_modCore, State.coreAt_modWave]
  split
  · rename_i h; subst h
    cases p <;> by_cases h2 : u.slot.pipeB <;> simp [h2]
  · rfl

@[simp] theorem State.takeSlot_chrono (s : State) (u : Iss) (p : Pipe) : (s.takeSlot u p).chrono = s.chrono := by simp [State.takeSlot]
@[simp] theorem State.takeSlot_groups (s : State) (u : Iss) (p : Pipe) : (s.takeSlot u p).groups = s.groups := by simp [State.takeSlot]
@[simp] theorem State.takeSlot_quads (s : State) (u : Iss) (p : Pipe) : (s.takeSlot u p).quads = s.quads := by simp [State.takeSlot]
@[simp] theorem State.takeSlot_mem (s : State) (u : Iss) (p : Pipe) : (s.takeSlot u p).mem = s.mem := by simp [State.takeSlot]
@[simp] theorem State.takeSlot_cp (s : State) (u : Iss) (p : Pipe) : (s.takeSlot u p).cp = s.cp := by simp [State.takeSlot]
@[simp] theorem State.takeSlot_host (s : State) (u : Iss) (p : Pipe) : (s.takeSlot u p).host = s.host := by simp [State.takeSlot]
@[simp] theorem State.takeSlot_mer (s : State) (u : Iss) (p : Pipe) : (s.takeSlot u p).mer = s.mer := by simp [State.takeSlot]
@[simp] theorem State.takeSlot_house (s : State) (u : Iss) (p : Pipe) : (s.takeSlot u p).house = s.house := by simp [State.takeSlot]
@[simp] theorem State.takeSlot_links (s : State) (u : Iss) (p : Pipe) : (s.takeSlot u p).links = s.links := by simp [State.takeSlot]
@[simp] theorem State.takeSlot_outbox (s : State) (u : Iss) (p : Pipe) : (s.takeSlot u p).outbox = s.outbox := by simp [State.takeSlot]
@[simp] theorem State.takeSlot_script (s : State) (u : Iss) (p : Pipe) : (s.takeSlot u p).script = s.script := by simp [State.takeSlot]
@[simp] theorem State.takeSlot_focus (s : State) (u : Iss) (p : Pipe) : (s.takeSlot u p).focus = s.focus := by simp [State.takeSlot]
@[simp] theorem State.takeSlot_tick (s : State) (u : Iss) (p : Pipe) : (s.takeSlot u p).tick = s.tick := by simp [State.takeSlot]
@[simp] theorem State.takeSlot_nextId (s : State) (u : Iss) (p : Pipe) : (s.takeSlot u p).nextId = s.nextId := by simp [State.takeSlot]

/-- The wave of an instruction that goes on to the next: its slot is taken and its entry advanced. -/
theorem State.after_seq (s : State) (u : Iss) (p : Pipe) :
    (s.takeSlot u p).after u .seq = ((s.takeSlot u p).modWave u.k fun w => w.advance u.len).closeIf u.rb u.k := by
  simp only [State.after, State.closeIf]

theorem State.after_stop (s : State) (u : Iss) (p : Pipe) :
    (s.takeSlot u p).after u .stop = ((s.takeSlot u p).modWave u.k fun w => w.advance u.len).endRun u.k := rfl

/-! ### What the issue of an instruction that writes only its own wave leaves -/

/-- Putting a wave back, taking its slot and changing it leave everything outside it. -/
theorem State.sameOutside_issue (s : State) (u : Iss) (p : Pipe) (w1 : Wave) (f : Wave → Wave) :
    s.SameOutside (((s.setWave u.k w1).takeSlot u p).modWave u.k f) u.k := by
  constructor
  · intro a; simp
  · intro g x y hx hy
    simp only [State.groupAt?, State.modWave_groups, State.takeSlot_groups, State.setWave_groups] at hx hy
    simp_all
  all_goals try simp
  · intro j hj
    rw [State.waveAt?_modWave, if_neg (Ne.symm hj), State.waveAt?_takeSlot, if_neg (Ne.symm hj)]
    simp [Ne.symm hj]
  · intro c hc
    rw [State.coreAt_takeSlot, if_neg (Ne.symm hc)]; simp
  · rw [State.coreAt_takeSlot, if_pos rfl]; simp

theorem State.waveAt?_issue (s : State) (u : Iss) (p : Pipe) (w1 : Wave) (f : Wave → Wave) :
    (((s.setWave u.k w1).takeSlot u p).modWave u.k f).waveAt? u.k = some (f (w1.slotted u)) := by
  simp [State.waveAt?_modWave, State.waveAt?_takeSlot]

/-- An effect on the wave alone, after which the entry goes on. -/
theorem settle_seq {i : Instr} {pl : Plan} {s : State} {k : Nat} {w : Wave} {e : Entry} {body : Iss → State → Res}
    {w1 : Wave} (hr : Ready i pl s k w e) (hb : body (issOf i pl s k w e) s = .ok (s.setWave k w1) .seq) :
    ∃ t, issue i pl body s = .next (t.closeIf (rbOf i) k) ∧
      t.waveAt? k = some ((w1.slotted (issOf i pl s k w e)).advance (byteLen i)) ∧ s.SameOutside t k := by
  refine ⟨((s.setWave k w1).takeSlot (issOf i pl s k w e) pl.pipe).modWave k fun w => w.advance (byteLen i), ?_, ?_, ?_⟩
  · rw [issue_ready hr, hb, settleRes, State.after_seq]; rfl
  · exact State.waveAt?_issue s (issOf i pl s k w e) pl.pipe w1 _
  · exact State.sameOutside_issue s (issOf i pl s k w e) pl.pipe w1 _

theorem Wave.slotted_frontier (w : Wave) (u : Iss) : (w.slotted u).frontier = w.frontier := by
  unfold Wave.slotted; simp only [Wave.count]; cases w.susp <;> rfl
theorem Wave.slotted_v (w : Wave) (u : Iss) : (w.slotted u).v = w.v := by
  unfold Wave.slotted; simp only [Wave.count]; cases w.susp <;> rfl
theorem Wave.slotted_s (w : Wave) (u : Iss) : (w.slotted u).s = w.s := by
  unfold Wave.slotted; simp only [Wave.count]; cases w.susp <;> rfl
theorem Wave.slotted_p (w : Wave) (u : Iss) : (w.slotted u).p = w.p := by
  unfold Wave.slotted; simp only [Wave.count]; cases w.susp <;> rfl
theorem Wave.slotted_dead (w : Wave) (u : Iss) : (w.slotted u).dead = w.dead := by
  unfold Wave.slotted; simp only [Wave.count]; cases w.susp <;> rfl
theorem Wave.slotted_wstat (w : Wave) (u : Iss) : (w.slotted u).wstat = w.wstat := by
  unfold Wave.slotted; simp only [Wave.count]; cases w.susp <;> rfl
theorem Wave.slotted_lops (w : Wave) (u : Iss) : (w.slotted u).lops = w.lops := by
  unfold Wave.slotted; simp only [Wave.count]; cases w.susp <;> rfl
theorem Wave.slotted_up (w : Wave) (u : Iss) : (w.slotted u).up = w.up := by
  unfold Wave.slotted; simp only [Wave.count]; cases w.susp <;> rfl

/-- Advancing changes the frontier alone. -/
theorem Wave.advance_rest (w : Wave) (len : Nat) : w.advance len = { w with frontier := (w.advance len).frontier } := by
  unfold Wave.advance; cases w.frontier <;> rfl

theorem Wave.advance_entry (w : Wave) (e : Entry) (t : List Entry) (len : Nat) (h : w.frontier = e :: t) :
    (w.advance len).frontier = { e with pc := e.pc + BitVec.ofNat 64 len } :: t := by
  unfold Wave.advance; rw [h]

/-- The registers of a wave that issues are those its effect left. -/
theorem Wave.issued_vLane (w : Wave) (u : Iss) (len n L : Nat) : ((w.slotted u).advance len).vLane n L = w.vLane n L := by
  rw [Wave.advance_rest]; simp only [Wave.vLane, Wave.slotted_v, Wave.slotted_dead]
theorem Wave.issued_sReg (w : Wave) (u : Iss) (len n : Nat) : ((w.slotted u).advance len).sReg n = w.sReg n := by
  rw [Wave.advance_rest]; simp only [Wave.sReg, Wave.slotted_s, Wave.slotted_dead]
theorem Wave.issued_pMask (w : Wave) (u : Iss) (len n : Nat) : ((w.slotted u).advance len).pMask n = w.pMask n := by
  rw [Wave.advance_rest]; simp only [Wave.pMask, Wave.slotted_p]
theorem Wave.issued_wstat (w : Wave) (u : Iss) (len : Nat) : ((w.slotted u).advance len).wstat = w.wstat := by
  rw [Wave.advance_rest]; simp only [Wave.slotted_wstat]
theorem Wave.issued_lops (w : Wave) (u : Iss) (len : Nat) : ((w.slotted u).advance len).lops = w.lops := by
  rw [Wave.advance_rest]; simp only [Wave.slotted_lops]
theorem Wave.issued_up (w : Wave) (u : Iss) (len : Nat) : ((w.slotted u).advance len).up = w.up := by
  rw [Wave.advance_rest]; simp only [Wave.slotted_up]

/-- Taking the slot counts one instruction. -/
theorem Wave.oneSlot_slotted (w w1 : Wave) (u : Iss) (fr : List Entry) (hr : w1.run = w.run) (hp : w1.perf = w.perf) :
    w.OneSlot { w1.slotted u with frontier := fr } := by
  constructor
  · simp only [Wave.slotted, Wave.count]; cases w1.susp <;> simp [hr]
  · simp only [Wave.slotted, Wave.count]; cases w1.susp <;> simp [hr]
  · simp only [Wave.slotted, Wave.count]; cases w1.susp <;> simp [Table.getD_set, hp]
  · intro c hc
    simp only [List.mem_cons, List.not_mem_nil, or_false, not_or] at hc
    obtain ⟨h1, h3, h4, h5⟩ := hc
    simp only [Wave.slotted, Wave.count]
    cases w1.susp <;> simp [Table.getD_set, hp, Ne.symm h1, Ne.symm h3, Ne.symm h4, Ne.symm h5]

/-- A wave whose effect changed only registers, levels, flags and pending marks has issued one instruction, wherever it
goes on. -/
theorem Wave.ran_of (w w1 : Wave) (u : Iss) (fr : List Entry) (hst : w1.wstat &&& w.wstat = w.wstat)
    (h : w1 = { w with v := w1.v, s := w1.s, p := w1.p, dead := w1.dead, up := w1.up, time := w1.time, wstat := w1.wstat,
                       lops := w1.lops }) : w.Ran { w1.slotted u with frontier := fr } fr := by
  have hr : w1.run = w.run := by rw [h]
  have hp : w1.perf = w.perf := by rw [h]
  refine ⟨rfl, Wave.oneSlot_slotted w w1 u fr hr hp, ?_, ?_⟩
  · rw [show ({ w1.slotted u with frontier := fr } : Wave).wstat = w1.wstat from Wave.slotted_wstat ..]; exact hst
  · rw [h]
    simp only [Wave.slotted, Wave.count]; cases w1.susp <;> cases w.susp <;> rfl

/-- A wave that only moves has issued one instruction. -/
theorem Wave.moved_of (w : Wave) (u : Iss) (fr : List Entry) : w.Moved { w.slotted u with frontier := fr } fr := by
  refine ⟨rfl, Wave.oneSlot_slotted w w u fr rfl rfl, ?_⟩
  simp only [Wave.slotted, Wave.count]; cases w.susp <;> rfl

/-- Advancing is going on past the instruction. -/
theorem Wave.advance_eq (w : Wave) (e : Entry) (t : List Entry) (len : Nat) (h : w.frontier = e :: t) :
    w.advance len = { w with frontier := e.past len :: t } := by
  unfold Wave.advance; rw [h]; rfl

end Sys2Proof.Machine
end

