-- ==== Sys2Proof/Laws/Registers.lean ====
section
/-! SUPPORT. Masks, lanes, and what writing, killing and filling registers leave in each register of a wave. -/

namespace Sys2Proof.Machine

/-! ### Lanes -/

theorem perLane_getD {α : Type} (f : Nat → α) (L : Nat) (d : α) (h : L < 64) : (perLane f).getD L d = f L := by
  simp [perLane, allLanes, List.getD, h]

theorem mergeLanes_getD {α : Type} (d : α) (m : Mask) (old new : List α) (L : Nat) (h : L < 64) :
    (mergeLanes d m old new).getD L d = if inMask m L then new.getD L d else old.getD L d := by
  rw [mergeLanes, perLane_getD _ _ _ h]

theorem mem_lanesIn (m : Mask) (L : Nat) : L ∈ lanesIn m ↔ L < 64 ∧ inMask m L = true := by
  simp [lanesIn, allLanes]

/-- A mask with a lane has a lowest one. -/
theorem lowestLane_mem (m : Mask) (h : m ≠ 0) : lowestLane m < 64 ∧ inMask m (lowestLane m) = true := by
  have : lanesIn m ≠ [] := by
    intro e
    apply h
    apply BitVec.eq_of_getLsbD_eq
    intro i hi
    have : i ∉ lanesIn m := by simp [e]
    rw [mem_lanesIn] at this
    simp [inMask] at this
    simp [this hi]
  unfold lowestLane
  cases e : lanesIn m with
  | nil => exact absurd e this
  | cons x t =>
    have : x ∈ lanesIn m := by simp [e]
    rw [mem_lanesIn] at this
    simpa using this

theorem inMask_zero (L : Nat) : inMask 0 L = false := by simp [inMask]

/-! ### Writing registers -/

@[simp] theorem Wave.meet_v (w : Wave) (r : RegRef) (m : Mask) : (w.meet r m).v = w.v := rfl
@[simp] theorem Wave.meet_s (w : Wave) (r : RegRef) (m : Mask) : (w.meet r m).s = w.s := rfl
@[simp] theorem Wave.meet_p (w : Wave) (r : RegRef) (m : Mask) : (w.meet r m).p = w.p := rfl
@[simp] theorem Wave.meet_dead (w : Wave) (r : RegRef) (m : Mask) : (w.meet r m).dead = w.dead := rfl

theorem LOp.bare_meet (o : LOp) (r : RegRef) (m : Mask) :
    LOp.bare { o with writes := o.writes.map fun x => if x.reg = r then { x with met := x.met ||| (m &&& o.left) } else x }
      = o.bare := by
  simp only [LOp.bare, List.map_map]
  congr 1
  apply List.map_congr_left
  intro x _
  simp only [Function.comp]
  split <;> rfl

theorem Wave.meet_bare (w : Wave) (r : RegRef) (m : Mask) : (w.meet r m).lops.map LOp.bare = w.lops.map LOp.bare := by
  simp only [Wave.meet, List.map_map]
  apply List.map_congr_left
  intro o _
  exact LOp.bare_meet o r m

theorem Wave.putV_zero (w : Wave) (n : Nat) (vals : List DWord) : w.putV n 0 vals = w := by simp [Wave.putV]

/-- A vector register after lanes of one are written. -/
theorem Wave.vLane_putV (w : Wave) (n j L : Nat) (m : Mask) (vals : List DWord) (hL : L < 64) :
    (w.putV n m vals).vLane j L =
      if j = n ∧ inMask m L = true then (vals.getD L 0).truncate 32 else w.vLane j L := by
  unfold Wave.putV
  by_cases hm : m = 0
  · subst hm
    rw [if_pos rfl, inMask_zero]
    simp
  · rw [if_neg hm]
    by_cases hj : j = n
    · subst hj
      simp only [Wave.vLane, Wave.meet_dead, Wave.meet_v, Table.getD_set, if_true, true_and]
      have : (w.dead.filter fun d => d != j).contains j = false := by simp
      rw [if_neg (by simp)]
      have h2 : ((mergeLanes 0 m (if w.dead.contains j then [] else w.v.getD j []) (vals.map fun x => x.truncate 32)).getD L 0 : Word)
          = if inMask m L then (vals.map fun x => x.truncate 32).getD L 0 else (if w.dead.contains j then [] else w.v.getD j []).getD L 0 :=
        mergeLanes_getD 0 m _ _ L hL
      rw [h2]
      split
      · simp only [List.getD_eq_getElem?_getD, List.getElem?_map]
        cases vals[L]? <;> simp
      · split <;> simp
    · have h1 : (w.dead.filter fun d => d != n).contains j = w.dead.contains j := by
        rw [Bool.eq_iff_iff]; simp [hj]
      have h2 : ¬ n = j := fun e => hj e.symm
      simp [Wave.vLane, Table.getD_set, hj, h2]

theorem Wave.sReg_putV (w : Wave) (n j : Nat) (m : Mask) (vals : List DWord) (hn : n < 128) :
    (w.putV n m vals).sReg j = w.sReg j := by
  unfold Wave.putV
  split
  · rfl
  · have h1 : (w.dead.filter fun d => d != n).contains (128 + j) = w.dead.contains (128 + j) := by
      rw [Bool.eq_iff_iff]; simp; intro _; omega
    simp only [Wave.sReg, Wave.meet_dead, Wave.meet_s, h1]

theorem Wave.pMask_putV (w : Wave) (n j : Nat) (m : Mask) (vals : List DWord) : (w.putV n m vals).pMask j = w.pMask j := by
  unfold Wave.putV; split <;> rfl

/-- A scalar register after one is written. -/
theorem Wave.sReg_putS (w : Wave) (n j : Nat) (x : DWord) : (w.putS n x).sReg j = if j = n then x else w.sReg j := by
  by_cases hj : j = n
  · subst hj; simp [Wave.putS, Wave.sReg, Table.getD_set]
  · have h2 : ¬ n = j := fun e => hj e.symm
    simp [Wave.putS, Wave.sReg, Table.getD_set, hj, h2]

theorem Wave.vLane_putS (w : Wave) (n j L : Nat) (x : DWord) (hj : j < 128) : (w.putS n x).vLane j L = w.vLane j L := by
  have h1 : (w.dead.filter fun d => d != 128 + n).contains j = w.dead.contains j := by
    rw [Bool.eq_iff_iff]; simp; intro _; omega
  simp only [Wave.putS, Wave.vLane, Wave.meet_dead, Wave.meet_v, h1]

theorem Wave.pMask_putS (w : Wave) (n j : Nat) (x : DWord) : (w.putS n x).pMask j = w.pMask j := rfl

theorem Wave.vLane_putP (w : Wave) (n : Nat) (m vals : Mask) (j L : Nat) : (w.putP n m vals).vLane j L = w.vLane j L := by
  unfold Wave.putP; split <;> rfl
theorem Wave.sReg_putP (w : Wave) (n : Nat) (m vals : Mask) (j : Nat) : (w.putP n m vals).sReg j = w.sReg j := by
  unfold Wave.putP; split <;> rfl

/-- A predicate after lanes of one are written; a write to p0 is ignored (R4). -/
theorem Wave.pMask_putP (w : Wave) (n : Nat) (m vals : Mask) (j : Nat) :
    (w.putP n m vals).pMask j = if j = n ∧ n ≠ 0 then (w.pMask j &&& ~~~m) ||| (vals &&& m) else w.pMask j := by
  unfold Wave.putP
  by_cases h : n = 0
  · simp [h]
  · by_cases hj : j = n
    · subst hj; simp [h, Wave.pMask, Table.getD_set]
    · have h2 : ¬ n = j := fun e => hj e.symm
      simp [h, hj, h2, Wave.pMask, Table.getD_set]

/-! ### Kills, fills and flags of reading -/

theorem Wave.mem_killReg (w : Wave) (c d : Nat) : d ∈ (w.killReg c).dead ↔ d = c ∨ d ∈ w.dead := by
  unfold Wave.killReg
  by_cases h : d = c
  · subst h; split <;> simp_all
  · split <;> simp [h]

/-- A kill adds the source's registers to the dead ones, and changes nothing else. -/
theorem Wave.mem_killSrc (w : Wave) (o : Opnd) (d : Nat) : d ∈ (w.killSrc o).dead ↔ d ∈ o.kills ∨ d ∈ w.dead := by
  unfold Wave.killSrc Opnd.kills
  cases o.kill
  · simp
  · cases o.sel <;> simp only [Bool.not_true, Bool.false_eq_true, if_false, List.not_mem_nil, false_or]
    · split <;> simp only [Wave.mem_killReg, List.mem_cons, List.not_mem_nil, or_false]
      tauto
    · simp only [Wave.mem_killReg, List.mem_cons, List.not_mem_nil, or_false]

theorem Wave.killReg_rest (w : Wave) (c : Nat) : w.killReg c = { w with dead := (w.killReg c).dead } := by
  unfold Wave.killReg; split <;> rfl

theorem Wave.killSrc_rest (w : Wave) (o : Opnd) : w.killSrc o = { w with dead := (w.killSrc o).dead } := by
  unfold Wave.killSrc
  split
  · rfl
  · split
    · split
      · rw [Wave.killReg_rest, Wave.killReg_rest w]
      · exact Wave.killReg_rest ..
    · exact Wave.killReg_rest ..
    · rfl

theorem Wave.mem_killAll (w : Wave) (l : List Opnd) (d : Nat) :
    d ∈ (l.foldl Wave.killSrc w).dead ↔ d ∈ killsOf l ∨ d ∈ w.dead := by
  induction l generalizing w with
  | nil => simp [killsOf]
  | cons o t ih =>
    rw [List.foldl_cons, ih, Wave.mem_killSrc]
    simp only [killsOf, List.flatMap_cons, List.mem_append]
    tauto

theorem Wave.killAll_rest (w : Wave) (l : List Opnd) :
    l.foldl Wave.killSrc w = { w with dead := (l.foldl Wave.killSrc w).dead } := by
  induction l generalizing w with
  | nil => rfl
  | cons o t ih => rw [List.foldl_cons, ih, Wave.killSrc_rest w o]

theorem State.fillAll_rest (s : State) (before : Wave) (lit : Option DWord) (w : Wave) (l : List Opnd) :
    l.foldl (s.fillSrc before lit) w =
      { w with up := (l.foldl (s.fillSrc before lit) w).up, time := (l.foldl (s.fillSrc before lit) w).time } := by
  induction l generalizing w with
  | nil => rfl
  | cons o t ih =>
    rw [List.foldl_cons, ih]
    unfold State.fillSrc
    split <;> rfl

/-- Reading operands changes the slots filled, the registers killed and the flags of WSTAT. -/
theorem readEffects_rest (s : State) (before : Wave) (exec : Mask) (lit : Option DWord) (srcs : List Opnd) (w : Wave) :
    readEffects s before exec lit srcs w =
      { w with
        up := (readEffects s before exec lit srcs w).up
        time := (readEffects s before exec lit srcs w).time
        dead := (readEffects s before exec lit srcs w).dead
        wstat := w.wstat ||| srcs.foldl (fun m o => m ||| srcStat before exec o) 0 } := by
  simp only [readEffects, Wave.stat]
  rw [Wave.killAll_rest, State.fillAll_rest]

theorem mem_readEffects (s : State) (before : Wave) (exec : Mask) (lit : Option DWord) (srcs : List Opnd) (w : Wave)
    (d : Nat) : d ∈ (readEffects s before exec lit srcs w).dead ↔ d ∈ killsOf srcs ∨ d ∈ w.dead := by
  simp only [readEffects, Wave.stat, Wave.mem_killAll]
  rw [State.fillAll_rest]

theorem readEffects_vLane (s : State) (before : Wave) (exec : Mask) (lit : Option DWord) (srcs : List Opnd) (w : Wave)
    (n L : Nat) : (readEffects s before exec lit srcs w).vLane n L = if (killsOf srcs).contains n then 0 else w.vLane n L := by
  unfold Wave.vLane
  have h := mem_readEffects s before exec lit srcs w n
  have hv : (readEffects s before exec lit srcs w).v = w.v := by rw [readEffects_rest]
  simp only [List.contains_iff_mem, h, hv]
  by_cases h1 : n ∈ killsOf srcs <;> simp [h1]

theorem readEffects_pMask (s : State) (before : Wave) (exec : Mask) (lit : Option DWord) (srcs : List Opnd) (w : Wave)
    (n : Nat) : (readEffects s before exec lit srcs w).pMask n = w.pMask n := by
  unfold Wave.pMask
  rw [readEffects_rest]

theorem readEffects_sReg (s : State) (before : Wave) (exec : Mask) (lit : Option DWord) (srcs : List Opnd) (w : Wave)
    (n : Nat) : (readEffects s before exec lit srcs w).sReg n = if (killsOf srcs).contains (128 + n) then 0 else w.sReg n := by
  unfold Wave.sReg
  have h := mem_readEffects s before exec lit srcs w (128 + n)
  have hv : (readEffects s before exec lit srcs w).s = w.s := by rw [readEffects_rest]
  simp only [List.contains_iff_mem, h, hv]
  by_cases h1 : 128 + n ∈ killsOf srcs <;> simp [h1]

/-! ### Results (R26 to R29, R119, R140) -/

/-- A wave that differs from another in its registers, levels, due cycles, flags and the marks of pending writes alone. -/
def Wave.Computed (w w1 : Wave) : Prop :=
  w1 = { w with v := w1.v, s := w1.s, p := w1.p, dead := w1.dead, up := w1.up, time := w1.time, wstat := w1.wstat,
                lops := w1.lops }

theorem Wave.Computed.trans {a b c : Wave} (h : a.Computed b) (g : b.Computed c) : a.Computed c := by
  unfold Wave.Computed at *
  rw [g, h]

theorem Wave.computed_self (w : Wave) : w.Computed w := rfl
theorem Wave.computed_stat (w : Wave) (x : DWord) : w.Computed (w.stat x) := rfl
theorem Wave.computed_putV (w : Wave) (n : Nat) (m : Mask) (vals : List DWord) : w.Computed (w.putV n m vals) := by
  unfold Wave.Computed Wave.putV; split <;> rfl
theorem Wave.computed_putS (w : Wave) (n : Nat) (x : DWord) : w.Computed (w.putS n x) := rfl
theorem Wave.computed_putP (w : Wave) (n : Nat) (m vals : Mask) : w.Computed (w.putP n m vals) := by
  unfold Wave.Computed Wave.putP; split <;> rfl
theorem Wave.computed_putLatch (w : Wave) (exec : Mask) (t : Nat) (c : TClass) (b : Bool) (vals : List DWord) :
    w.Computed (w.putLatch exec t c b vals) := by
  unfold Wave.Computed Wave.putLatch; split <;> rfl
theorem Wave.computed_putSlot (w : Wave) (exec : Mask) (t : Nat) (c : TClass) (j : Option (Fin 8)) (vals : List DWord) :
    w.Computed (w.putSlot exec t c j vals) := by
  unfold Wave.Computed Wave.putSlot; split <;> rfl
theorem Wave.computed_putLs (w : Wave) (t : Nat) (c : TClass) (x : DWord) : w.Computed (w.putLs t c x) := rfl
theorem Wave.computed_dueAt (w : Wave) (n t d : Nat) (m : Mask) : w.Computed (w.dueAt n t d m) := rfl
theorem Wave.computed_readEffects (s : State) (before : Wave) (exec : Mask) (lit : Option DWord) (srcs : List Opnd) (w : Wave) :
    w.Computed (readEffects s before exec lit srcs w) := by
  unfold Wave.Computed
  rw [readEffects_rest]

theorem Wave.computed_putResult (w : Wave) (exec : Mask) (t : Nat) (c : TClass) (pipeB scalar : Bool) (d : Dst)
    (slot : Option (Fin 8)) (wide : Bool) (vals : List DWord) :
    w.Computed (w.putResult exec t c pipeB scalar d slot wide vals) := by
  unfold Wave.putResult
  split
  · split
    · exact w.computed_self
    · have h := (w.computed_putLs t c (vals.getD (lowestLane exec) 0)).trans
        (Wave.computed_putSlot _ exec t c slot (perLane fun _ => vals.getD (lowestLane exec) 0))
      cases d
      · exact h
      · exact (h.trans (Wave.computed_putS ..)).trans (Wave.computed_dueAt ..)
      · exact h
  · have h := (w.computed_putLatch exec t c pipeB vals).trans (Wave.computed_putSlot _ exec t c slot vals)
    cases d
    · dsimp only
      split
      · exact (((h.trans (Wave.computed_putV ..)).trans (Wave.computed_dueAt ..)).trans (Wave.computed_putV ..)).trans
          (Wave.computed_dueAt ..)
      · exact (h.trans (Wave.computed_putV ..)).trans (Wave.computed_dueAt ..)
    · exact h
    · exact h

/-- The pending operations of two waves differ in the marks of R38 alone. -/
def Wave.SameOps (w w1 : Wave) : Prop := w1.lops.map LOp.bare = w.lops.map LOp.bare

theorem Wave.SameOps.trans {a b c : Wave} (h : a.SameOps b) (g : b.SameOps c) : a.SameOps c := Eq.trans g h
theorem Wave.sameOps_putV (w : Wave) (n : Nat) (m : Mask) (vals : List DWord) : w.SameOps (w.putV n m vals) := by
  unfold Wave.SameOps Wave.putV
  split
  · rfl
  · exact Wave.meet_bare ..
theorem Wave.sameOps_putS (w : Wave) (n : Nat) (x : DWord) : w.SameOps (w.putS n x) := Wave.meet_bare ..
theorem Wave.sameOps_putP (w : Wave) (n : Nat) (m vals : Mask) : w.SameOps (w.putP n m vals) := by
  unfold Wave.SameOps Wave.putP
  split
  · rfl
  · exact Wave.meet_bare ..
theorem Wave.putLatch_lops (w : Wave) (exec : Mask) (t : Nat) (c : TClass) (b : Bool) (vals : List DWord) :
    (w.putLatch exec t c b vals).lops = w.lops := by unfold Wave.putLatch; split <;> rfl
theorem Wave.putSlot_lops (w : Wave) (exec : Mask) (t : Nat) (c : TClass) (j : Option (Fin 8)) (vals : List DWord) :
    (w.putSlot exec t c j vals).lops = w.lops := by unfold Wave.putSlot; split <;> rfl

theorem Wave.sameOps_putResult (w : Wave) (exec : Mask) (t : Nat) (c : TClass) (pipeB scalar : Bool) (d : Dst)
    (slot : Option (Fin 8)) (wide : Bool) (vals : List DWord) :
    w.SameOps (w.putResult exec t c pipeB scalar d slot wide vals) := by
  unfold Wave.putResult
  split
  · split
    · rfl
    · have h : w.SameOps ((w.putLs t c (vals.getD (lowestLane exec) 0)).putSlot exec t c slot
          (perLane fun _ => vals.getD (lowestLane exec) 0)) := by
        unfold Wave.SameOps; rw [Wave.putSlot_lops]; rfl
      cases d
      · exact h
      · rename_i r
        exact h.trans (Wave.sameOps_putS _ r.val (vals.getD (lowestLane exec) 0))
      · exact h
  · have h : w.SameOps ((w.putLatch exec t c pipeB vals).putSlot exec t c slot vals) := by
      unfold Wave.SameOps; rw [Wave.putSlot_lops, Wave.putLatch_lops]
    cases d
    · rename_i r
      have h2 : w.SameOps ((((w.putLatch exec t c pipeB vals).putSlot exec t c slot vals).putV r.val exec vals).dueAt r.val t (t + c.file) exec) :=
        h.trans (Wave.sameOps_putV _ _ exec vals)
      dsimp only
      split
      · exact h2.trans (Wave.sameOps_putV _ (r.val + 1) exec (vals.map fun (x : DWord) => (x >>> 32 : DWord)))
      · exact h2
    · exact h
    · exact h

theorem Wave.wstat_putV (w : Wave) (n : Nat) (m : Mask) (vals : List DWord) : (w.putV n m vals).wstat = w.wstat := by
  unfold Wave.putV; split <;> rfl
theorem Wave.wstat_putP (w : Wave) (n : Nat) (m vals : Mask) : (w.putP n m vals).wstat = w.wstat := by
  unfold Wave.putP; split <;> rfl
theorem Wave.wstat_putLatch (w : Wave) (exec : Mask) (t : Nat) (c : TClass) (b : Bool) (vals : List DWord) :
    (w.putLatch exec t c b vals).wstat = w.wstat := by unfold Wave.putLatch; split <;> rfl
theorem Wave.wstat_putSlot (w : Wave) (exec : Mask) (t : Nat) (c : TClass) (j : Option (Fin 8)) (vals : List DWord) :
    (w.putSlot exec t c j vals).wstat = w.wstat := by unfold Wave.putSlot; split <;> rfl
theorem Wave.wstat_putS (w : Wave) (n : Nat) (x : DWord) : (w.putS n x).wstat = w.wstat := rfl
theorem Wave.wstat_putLs (w : Wave) (t : Nat) (c : TClass) (x : DWord) : (w.putLs t c x).wstat = w.wstat := rfl
theorem Wave.wstat_dueAt (w : Wave) (n t d : Nat) (m : Mask) : (w.dueAt n t d m).wstat = w.wstat := rfl

theorem Wave.wstat_putResult (w : Wave) (exec : Mask) (t : Nat) (c : TClass) (pipeB scalar : Bool) (d : Dst)
    (slot : Option (Fin 8)) (wide : Bool) (vals : List DWord) :
    (w.putResult exec t c pipeB scalar d slot wide vals).wstat = w.wstat := by
  unfold Wave.putResult
  cases d <;> (repeat' split) <;>
    simp only [Wave.wstat_putV, Wave.wstat_putLatch, Wave.wstat_putSlot, Wave.wstat_putS, Wave.wstat_putLs, Wave.wstat_dueAt]

theorem Wave.pMask_putLatch (w : Wave) (exec : Mask) (t : Nat) (c : TClass) (b : Bool) (vals : List DWord) (n : Nat) :
    (w.putLatch exec t c b vals).pMask n = w.pMask n := by unfold Wave.putLatch; split <;> rfl
theorem Wave.pMask_putSlot (w : Wave) (exec : Mask) (t : Nat) (c : TClass) (j : Option (Fin 8)) (vals : List DWord) (n : Nat) :
    (w.putSlot exec t c j vals).pMask n = w.pMask n := by unfold Wave.putSlot; split <;> rfl
theorem Wave.pMask_putLs (w : Wave) (t : Nat) (c : TClass) (x : DWord) (n : Nat) : (w.putLs t c x).pMask n = w.pMask n := rfl
theorem Wave.pMask_dueAt (w : Wave) (i t d : Nat) (m : Mask) (n : Nat) : (w.dueAt i t d m).pMask n = w.pMask n := rfl

theorem Wave.pMask_putResult (w : Wave) (exec : Mask) (t : Nat) (c : TClass) (pipeB scalar : Bool) (d : Dst)
    (slot : Option (Fin 8)) (wide : Bool) (vals : List DWord) (n : Nat) :
    (w.putResult exec t c pipeB scalar d slot wide vals).pMask n = w.pMask n := by
  unfold Wave.putResult
  cases d <;> (repeat' split) <;>
    simp only [Wave.pMask_putV, Wave.pMask_putLatch, Wave.pMask_putSlot, Wave.pMask_putS, Wave.pMask_putLs, Wave.pMask_dueAt]

theorem Wave.vLane_putLatch (w : Wave) (exec : Mask) (t : Nat) (c : TClass) (b : Bool) (vals : List DWord) (n L : Nat) :
    (w.putLatch exec t c b vals).vLane n L = w.vLane n L := by unfold Wave.putLatch; split <;> rfl
theorem Wave.vLane_putSlot (w : Wave) (exec : Mask) (t : Nat) (c : TClass) (j : Option (Fin 8)) (vals : List DWord) (n L : Nat) :
    (w.putSlot exec t c j vals).vLane n L = w.vLane n L := by unfold Wave.putSlot; split <;> rfl
theorem Wave.vLane_dueAt (w : Wave) (i t d : Nat) (m : Mask) (n L : Nat) : (w.dueAt i t d m).vLane n L = w.vLane n L := rfl
theorem Wave.vLane_putLs (w : Wave) (t : Nat) (c : TClass) (x : DWord) (n L : Nat) : (w.putLs t c x).vLane n L = w.vLane n L := rfl
theorem Wave.sReg_putLatch (w : Wave) (exec : Mask) (t : Nat) (c : TClass) (b : Bool) (vals : List DWord) (n : Nat) :
    (w.putLatch exec t c b vals).sReg n = w.sReg n := by unfold Wave.putLatch; split <;> rfl
theorem Wave.sReg_putSlot (w : Wave) (exec : Mask) (t : Nat) (c : TClass) (j : Option (Fin 8)) (vals : List DWord) (n : Nat) :
    (w.putSlot exec t c j vals).sReg n = w.sReg n := by unfold Wave.putSlot; split <;> rfl
theorem Wave.sReg_dueAt (w : Wave) (i t d : Nat) (m : Mask) (n : Nat) : (w.dueAt i t d m).sReg n = w.sReg n := rfl
theorem Wave.sReg_putLs (w : Wave) (t : Nat) (c : TClass) (x : DWord) (n : Nat) : (w.putLs t c x).sReg n = w.sReg n := rfl

/-- A wave that differs in fields other than the register files reads its registers alike. -/
theorem Wave.vLane_congr {a b : Wave} (hv : a.v = b.v) (hd : a.dead = b.dead) (n L : Nat) : a.vLane n L = b.vLane n L := by
  unfold Wave.vLane; rw [hv, hd]
theorem Wave.sReg_congr {a b : Wave} (hv : a.s = b.s) (hd : a.dead = b.dead) (n : Nat) : a.sReg n = b.sReg n := by
  unfold Wave.sReg; rw [hv, hd]
theorem Wave.pMask_congr {a b : Wave} (hv : a.p = b.p) (n : Nat) : a.pMask n = b.pMask n := by
  unfold Wave.pMask; rw [hv]

theorem getD_map_shift (vals : List DWord) (L : Nat) :
    (vals.map fun (x : DWord) => (x >>> 32 : DWord)).getD L 0 = vals.getD L 0 >>> 32 := by
  simp only [List.getD_eq_getElem?_getD, List.getElem?_map]
  cases vals[L]? <;> simp

/-- A vector register after a result. -/
theorem Wave.vLane_putResult (w : Wave) (exec : Mask) (t : Nat) (c : TClass) (pipeB scalar : Bool) (d : Dst)
    (slot : Option (Fin 8)) (wide : Bool) (vals : List DWord) (n L : Nat) (hn : n < 128) (hL : L < 64)
    (hs : ∀ r, d = .v r → scalar = false) :
    (w.putResult exec t c pipeB scalar d slot wide vals).vLane n L =
      match (if inMask exec L then destPart d wide n else none) with
      | some sh => (vals.getD L 0 >>> sh).truncate 32
      | none => w.vLane n L := by
  unfold Wave.putResult
  cases d with
  | v r =>
    have hs' := hs r rfl
    subst hs'
    cases wide
    · simp only [Bool.false_eq_true, if_false, destPart, false_and, Wave.vLane_dueAt, Wave.vLane_putV _ _ _ _ _ _ hL,
        Wave.vLane_putSlot, Wave.vLane_putLatch]
      by_cases h1 : inMask exec L = true <;> by_cases h2 : n = r.val <;> simp [h1, h2]
    · simp only [Bool.false_eq_true, if_false, if_true, destPart, true_and, Wave.vLane_dueAt,
        Wave.vLane_putV _ _ _ _ _ _ hL, Wave.vLane_putSlot, Wave.vLane_putLatch, getD_map_shift]
      by_cases h1 : inMask exec L = true <;> by_cases h2 : n = r.val <;> by_cases h3 : n = r.val + 1 <;> simp [h1, h2, h3]
  | s r =>
    have hd : (if inMask exec L then destPart (.s r) wide n else none) = none := by simp [destPart]
    rw [hd]
    dsimp only
    (repeat' split) <;>
      simp only [Wave.vLane_dueAt, Wave.vLane_putS _ _ _ _ _ hn, Wave.vLane_putSlot, Wave.vLane_putLatch, Wave.vLane_putLs]
  | null =>
    have hd : (if inMask exec L then destPart .null wide n else none) = none := by simp [destPart]
    rw [hd]
    dsimp only
    (repeat' split) <;> simp only [Wave.vLane_putSlot, Wave.vLane_putLatch, Wave.vLane_putLs]

/-- A scalar register after a result. -/
theorem Wave.sReg_putResult (w : Wave) (exec : Mask) (t : Nat) (c : TClass) (pipeB scalar : Bool) (d : Dst)
    (slot : Option (Fin 8)) (wide : Bool) (vals : List DWord) (n : Fin 64) (hs : ∀ r, d = .s r → scalar = true)
    (hw : ∀ r, d = .v r → wide = true → r.val + 1 < 128) :
    (w.putResult exec t c pipeB scalar d slot wide vals).sReg n.val =
      if d = .s n ∧ exec ≠ 0 then vals.getD (lowestLane exec) 0 else w.sReg n.val := by
  unfold Wave.putResult
  cases d with
  | v r =>
    have hn : ¬ (Dst.v r = .s n ∧ exec ≠ 0) := by simp
    rw [if_neg hn]
    dsimp only
    split
    · split <;> simp only [Wave.sReg_putSlot, Wave.sReg_putLs]
    · split
      · rename_i h2
        simp only [Wave.sReg_dueAt, Wave.sReg_putV _ _ _ _ _ (hw r rfl h2), Wave.sReg_putV _ _ _ _ _ r.isLt,
          Wave.sReg_putSlot, Wave.sReg_putLatch]
      · simp only [Wave.sReg_dueAt, Wave.sReg_putV _ _ _ _ _ r.isLt, Wave.sReg_putSlot, Wave.sReg_putLatch]
  | s r =>
    have hs' := hs r rfl
    subst hs'
    by_cases h : exec = 0
    · simp [h]
    · simp only [h, if_true, if_false, Wave.sReg_dueAt, Wave.sReg_putS, Wave.sReg_putSlot, Wave.sReg_putLs]
      by_cases e : n = r
      · subst e
        rw [if_pos rfl, if_pos ⟨rfl, h⟩]
      · have e2 : ¬ n.val = r.val := fun x => e (Fin.ext x)
        have e3 : ¬ r = n := fun x => e x.symm
        simp [e2, e3]
  | null =>
    have hn : ¬ (Dst.null = .s n ∧ exec ≠ 0) := by simp
    rw [if_neg hn]
    dsimp only
    (repeat' split) <;> simp only [Wave.sReg_putSlot, Wave.sReg_putLatch, Wave.sReg_putLs]

/-! ### Predicate results (R130, R131) -/

theorem Wave.computed_putPred (w : Wave) (exec : Mask) (t : Nat) (c : TClass) (b : Bool) (pd : Nat) (vals : Mask) :
    w.Computed (w.putPred exec t c b pd vals) := by
  unfold Wave.putPred
  have h := (w.computed_putP pd exec vals).trans (Wave.computed_putLatch _ exec t c b (perLane fun L => if inMask vals L then (1 : DWord) else 0))
  dsimp only
  split
  · exact h
  · exact h.trans (Wave.computed_dueAt ..)

theorem Wave.sameOps_putPred (w : Wave) (exec : Mask) (t : Nat) (c : TClass) (b : Bool) (pd : Nat) (vals : Mask) :
    w.SameOps (w.putPred exec t c b pd vals) := by
  unfold Wave.putPred
  have h := w.sameOps_putP pd exec vals
  unfold Wave.SameOps at *
  dsimp only
  split
  · rw [Wave.putLatch_lops]; exact h
  · exact (congrArg (List.map LOp.bare) (Wave.putLatch_lops ..)).trans h

theorem Wave.pMask_putPred (w : Wave) (exec : Mask) (t : Nat) (c : TClass) (b : Bool) (pd : Nat) (vals : Mask) (n : Nat) :
    (w.putPred exec t c b pd vals).pMask n =
      if n = pd ∧ pd ≠ 0 then (w.pMask n &&& ~~~exec) ||| (vals &&& exec) else w.pMask n := by
  unfold Wave.putPred
  dsimp only
  split <;> simp only [Wave.pMask_dueAt, Wave.pMask_putLatch, Wave.pMask_putP]

theorem Wave.vLane_putPred (w : Wave) (exec : Mask) (t : Nat) (c : TClass) (b : Bool) (pd : Nat) (vals : Mask) (n L : Nat) :
    (w.putPred exec t c b pd vals).vLane n L = w.vLane n L := by
  unfold Wave.putPred
  dsimp only
  split <;> simp only [Wave.vLane_dueAt, Wave.vLane_putLatch, Wave.vLane_putP]

theorem Wave.sReg_putPred (w : Wave) (exec : Mask) (t : Nat) (c : TClass) (b : Bool) (pd : Nat) (vals : Mask) (n : Nat) :
    (w.putPred exec t c b pd vals).sReg n = w.sReg n := by
  unfold Wave.putPred
  dsimp only
  split <;> simp only [Wave.sReg_dueAt, Wave.sReg_putLatch, Wave.sReg_putP]

theorem Wave.wstat_putPred (w : Wave) (exec : Mask) (t : Nat) (c : TClass) (b : Bool) (pd : Nat) (vals : Mask) :
    (w.putPred exec t c b pd vals).wstat = w.wstat := by
  unfold Wave.putPred
  dsimp only
  split <;> simp only [Wave.wstat_dueAt, Wave.wstat_putLatch, Wave.wstat_putP]

end Sys2Proof.Machine
end

