-- ==== Sys2Proof/Tests/Slice0.lean ====
section
/-! SUPPORT. Tests: words written out from the spec's encodings, ill-formed terms that each check refuses, states and operands
that meet the hypotheses of every obligation, and single steps against the spec's worked examples and hand calculation. -/

namespace Sys2Proof.Tests

open Sys2Proof Sys2Proof.Machine

set_option Elab.async false

/-! ### Words written out from the spec's encodings

Each word is its fields at their lowest bits, as R41, R52 to R62, R65 and R90 place them; LEN is bits [1:0], RB bit 2 and
OPC bits [10:3]. -/

/-- A word from the lowest bit and the value of each of its fields. -/
def word (fs : List (Nat × Nat)) : Nat := fs.foldl (fun a f => a + f.2 * 2 ^ f.1) 0

/-- The word of `nbits` bits with these fields decodes to `i`. -/
def reads (nbits : Nat) (fs : List (Nat × Nat)) (i : Instr) : Bool := decide (decodeTableWord nbits (word fs) = some i)

/-- A source field of XV without fill, kill or permutation. -/
def only (x : Src) : SrcX := { SrcX.unused with sel := x }

/-- BV (R52): op v9, s2, 5 in every opcode with two sources, with RB. -/
theorem test_words_bv : (([(0x01, Instr.iaddBv), (0x02, Instr.isubBv), (0x04, Instr.imulBv), (0x05, Instr.imulhBv),
    (0x06, Instr.imadBv), (0x07, Instr.iminBv), (0x08, Instr.imaxBv), (0x0A, Instr.idot4Bv),
    (0x0B, Instr.andBv), (0x0C, Instr.orBv), (0x0D, Instr.xorBv), (0x0E, Instr.andnBv), (0x10, Instr.shlBv),
    (0x11, Instr.shrBv), (0x12, Instr.sarBv), (0x13, Instr.rotlBv), (0x14, Instr.fshrBv), (0x15, Instr.bfeBv),
    (0x16, Instr.bfiBv), (0x1B, Instr.prmtBv), (0x1D, Instr.selBv), (0x1F, Instr.leaBv),
    (0x20, Instr.iadd3Bv), (0x21, Instr.isadBv), (0x22, Instr.iadd2Bv), (0x30, Instr.faddBv),
    (0x31, Instr.fsubBv), (0x32, Instr.fmulBv), (0x33, Instr.ffmaBv), (0x34, Instr.fminBv),
    (0x35, Instr.fmaxBv), (0x41, Instr.fdivBv), (0x48, Instr.fscaleBv), (0x60, Instr.xshfBv),
    (0x61, Instr.xrotBv), (0x62, Instr.xbflyBv), (0x63, Instr.xbcastBv)] : List (Nat × (Bv → Instr))).all fun e =>
    reads 32 [(2, 1), (3, e.1), (11, 9), (18, 66), (25, 113)] (e.2 ⟨true, .v 9, .s 2, .const 5, none⟩)) = true ∧
    -- iaddc writes an even pair
    reads 32 [(3, 3), (11, 8), (18, 1), (25, 2)] (.iaddcBv ⟨false, .v 8, .v 1, .v 2, none⟩) = true := by decide +kernel

/-- BV with one source: op v9, v63; MATCH writes s2. -/
theorem test_words_bv1 : (([(0x09, Instr.iabsBv), (0x17, Instr.popcBv), (0x18, Instr.clzBv), (0x19, Instr.ctzBv),
    (0x1A, Instr.brevBv), (0x1E, Instr.movBv), (0x37, Instr.frndBv), (0x38, Instr.fclassBv),
    (0x39, Instr.frcpBv), (0x3A, Instr.frsqBv), (0x3B, Instr.fsqrtBv), (0x3C, Instr.fexp2Bv),
    (0x3D, Instr.flog2Bv), (0x3E, Instr.fsinBv), (0x3F, Instr.fcosBv), (0x40, Instr.ftanhBv),
    (0x64, Instr.xredBv), (0x65, Instr.xscanBv)] : List (Nat × (Bv1 → Instr))).all fun e =>
    reads 32 [(3, e.1), (11, 9), (18, 63)] (e.2 ⟨false, .v 9, .v 63⟩)) = true := by decide +kernel

/-- The XV fields of op.f64/…: P 5 with PN, D v20 into slot o1, A bfly(v16>o2, 4), B v17 killed. -/
def xvWord (opc func6 : Nat) : List (Nat × Nat) :=
  [(0, 1), (3, opc), (11, 20), (19, 1), (22, 1), (23, 5), (27, 1), (32, 16), (41, 2), (44, 1), (45, 3), (48, 4), (54, 17),
   (62, 1), (90, func6)]

/-- What these fields say. -/
def xvRec (func6 : Fin 64) : Xv :=
  ⟨false, .v 20, some 1, 5, true, 0, func6, ⟨.v 16, some 2, false, .bfly, 4⟩, ⟨.v 17, none, true, .none, 0⟩, SrcX.unused, none⟩

/-- XV (R57, R58, R62) with two sources. -/
theorem test_words_xv2 : (([(0x01, Instr.iaddXv), (0x02, Instr.isubXv), (0x04, Instr.imulXv), (0x05, Instr.imulhXv),
    (0x07, Instr.iminXv), (0x08, Instr.imaxXv), (0x0B, Instr.andXv), (0x0C, Instr.orXv), (0x0D, Instr.xorXv),
    (0x0E, Instr.andnXv), (0x10, Instr.shlXv), (0x11, Instr.shrXv), (0x12, Instr.sarXv), (0x13, Instr.rotlXv),
    (0x15, Instr.bfeXv), (0x22, Instr.iadd2Xv), (0x30, Instr.faddXv), (0x31, Instr.fsubXv),
    (0x32, Instr.fmulXv), (0x34, Instr.fminXv), (0x35, Instr.fmaxXv)] : List (Nat × (Xv → Instr))).all fun e =>
    reads 96 (xvWord e.1 0) (e.2 (xvRec 0))) = true := by decide +kernel

/-- XV with three sources: C is v18>o0. -/
theorem test_words_xv3 : (([(0x03, Instr.iaddcXv), (0x06, Instr.imadXv), (0x0A, Instr.idot4Xv), (0x14, Instr.fshrXv),
    (0x16, Instr.bfiXv), (0x1B, Instr.prmtXv), (0x1D, Instr.selXv), (0x1F, Instr.leaXv),
    (0x20, Instr.iadd3Xv), (0x21, Instr.isadXv), (0x33, Instr.ffmaXv)] : List (Nat × (Xv → Instr))).all fun e =>
    reads 96 (xvWord e.1 0 ++ [(77, 18), (89, 1)]) (e.2 { xvRec 0 with c := ⟨.v 18, some 0, false, .none, 0⟩ })) = true ∧
    -- fdot2.f16x2
    reads 96 (xvWord 0x47 1 ++ [(77, 18)]) (.fdot2Xv { xvRec 1 with c := only (.v 18) }) = true := by decide +kernel

/-- XV with one source: op s9, s3, unpredicated. -/
theorem test_words_xv1 : (([(0x09, Instr.iabsXv), (0x17, Instr.popcXv), (0x18, Instr.clzXv), (0x19, Instr.ctzXv),
    (0x1A, Instr.brevXv), (0x1E, Instr.movXv), (0x37, Instr.frndXv)] : List (Nat × (Xv → Instr))).all fun e =>
    reads 96 [(0, 1), (3, e.1), (11, 137), (32, 131)]
      (e.2 ⟨false, .s 9, none, 0, false, 0, 0, only (.s 3), SrcX.unused, SrcX.unused, none⟩)) = true := by decide +kernel

/-- XV of FCLASS, the special functions and the reductions: op v9, v3 killed, under p2. -/
theorem test_words_xv_functions : (([(0x38, Instr.fclassXv), (0x39, Instr.frcpXv), (0x3A, Instr.frsqXv), (0x3B, Instr.fsqrtXv),
    (0x3C, Instr.fexp2Xv), (0x3D, Instr.flog2Xv), (0x3E, Instr.fsinXv), (0x3F, Instr.fcosXv),
    (0x40, Instr.ftanhXv), (0x64, Instr.xredXv), (0x65, Instr.xscanXv)] : List (Nat × (Xv → Instr))).all fun e =>
    reads 96 [(0, 1), (3, e.1), (11, 9), (23, 2), (32, 3), (40, 1)]
      (e.2 ⟨false, .v 9, none, 2, false, 0, 0, ⟨.v 3, none, true, .none, 0⟩, SrcX.unused, SrcX.unused, none⟩)) = true := by decide +kernel

/-- XV of the exchanges, FDIV and FSCALE: op v9, v3, 7 with a 64-bit literal as B (LEN 3). -/
theorem test_words_xv_literal : (([(0x41, Instr.fdivXv), (0x48, Instr.fscaleXv), (0x60, Instr.xshfXv), (0x61, Instr.xrotXv),
    (0x62, Instr.xbflyXv), (0x63, Instr.xbcastXv)] : List (Nat × (Xv → Instr))).all fun e =>
    reads 160 [(0, 3), (3, e.1), (11, 9), (32, 3), (54, 223), (96, 7)]
      (e.2 ⟨false, .v 9, none, 0, false, 0, 0, only (.v 3), only .lit, SrcX.unused, some 7⟩)) = true := by decide +kernel

/-- XV of LOP3, ICVT and the format conversions: their FUNC6 and MOD3 (R82, R86, R87). -/
theorem test_words_xv_convert :
    -- lop3 v7, v1, v2, v3, 0x69
    reads 96 [(0, 1), (3, 0x0F), (11, 7), (28, 1), (32, 1), (54, 2), (77, 3), (90, 13)]
      (.lop3Xv ⟨false, .v 7, none, 0, false, 1, 13, only (.v 1), only (.v 2), only (.v 3), none⟩) = true ∧
    -- icvt: the destination type in FUNC6, the source type in MOD3
    reads 96 [(0, 1), (3, 0x25), (11, 8), (28, 1), (32, 1), (90, 3)]
      (.icvtXv ⟨false, .v 8, none, 0, false, 1, 3, only (.v 1), SrcX.unused, SrcX.unused, none⟩) = true ∧
    -- fcvt.f64.f16 rtz: destination 3, source 1
    reads 96 [(0, 1), (3, 0x42), (11, 8), (28, 1), (32, 1), (90, 3), (93, 1)]
      (.fcvtXv ⟨false, .v 8, none, 0, false, 1, 11, only (.v 1), SrcX.unused, SrcX.unused, none⟩) = true ∧
    -- ftoi.n32.f32 rdn
    reads 96 [(0, 1), (3, 0x43), (11, 8), (28, 3), (32, 1), (93, 1)]
      (.ftoiXv ⟨false, .v 8, none, 0, false, 3, 8, only (.v 1), SrcX.unused, SrcX.unused, none⟩) = true ∧
    -- itof.f16.s32
    reads 96 [(0, 1), (3, 0x44), (11, 8), (32, 1), (90, 1)]
      (.itofXv ⟨false, .v 8, none, 0, false, 0, 1, only (.v 1), SrcX.unused, SrcX.unused, none⟩) = true ∧
    -- npack.t8.f32 v8, v3, 0x33E, la with RB
    reads 160 [(0, 3), (2, 1), (3, 0x45), (11, 8), (32, 3), (54, 223), (77, 200), (94, 1), (96, 0x33E)]
      (.npackXv ⟨true, .v 8, none, 0, false, 0, 16, only (.v 3), only .lit, only .la, some 0x33E⟩) = true ∧
    -- nunpk.f32.e5m2 v8, v3, 2
    reads 96 [(0, 1), (3, 0x46), (11, 8), (32, 3), (54, 226), (93, 1)]
      (.nunpkXv ⟨false, .v 8, none, 0, false, 0, 8, only (.v 3), only (.const 2), SrcX.unused, none⟩) = true := by decide +kernel

/-- Predicates (R130 to R134, R145, R177): ICMP, FCMP, PSET, both directions of PMOV, BALLOT, VOTE, MATCH and ELECT. -/
theorem test_words_predicates :
    -- icmp.lt.n32 p2, v4, s3
    reads 96 [(0, 1), (3, 0x1C), (11, 2), (28, 2), (32, 4), (54, 131), (90, 1)]
      (.icmpXv ⟨false, 2, 0, false, 2, 1, only (.v 4), only (.s 3), none⟩) = true ∧
    -- fcmp.eq.f32 p3, v4, la if !p1
    reads 96 [(0, 1), (3, 0x36), (11, 3), (23, 1), (27, 1), (32, 4), (54, 200)]
      (.fcmpXv ⟨false, 3, 1, true, 0, 0, only (.v 4), only .la, none⟩) = true ∧
    -- pset p4, p1, p2, p3, 0xD1
    reads 96 [(0, 1), (3, 0x23), (11, 4), (32, 1), (36, 1), (54, 2), (58, 13), (77, 3), (90, 4)]
      (.psetXv ⟨false, 4, 0, false, 1, 2, 3, 0xD1⟩) = true ∧
    -- pmov p4, v1 and pmov v4, p1
    reads 96 [(0, 1), (3, 0x24), (11, 4), (32, 1)] (.pmovXv ⟨false, 0, false, .toPred 4 (only (.v 1)), none⟩) = true ∧
    reads 96 [(0, 1), (3, 0x24), (11, 4), (32, 1), (90, 4)] (.pmovXv ⟨false, 0, false, .toReg (.v 4) 1, none⟩) = true ∧
    -- ballot s20, p6 in both forms; vote.any p2, p6; match s2, v3; elect p2
    reads 32 [(3, 0x66), (11, 84), (18, 6)] (.ballotBv ⟨false, .s 20, 6⟩) = true ∧
    reads 32 [(3, 0x67), (11, 2), (18, 6)] (.voteBv ⟨false, 2, 6⟩) = true ∧
    reads 32 [(3, 0x69), (11, 2)] (.electBv ⟨false, 2⟩) = true ∧
    reads 32 [(3, 0x68), (11, 10), (18, 3)] (.matchBv ⟨false, .v 10, .v 3⟩) = true ∧
    reads 96 [(0, 1), (3, 0x66), (11, 148), (23, 1), (32, 6), (77, 130)]
      (.ballotXv ⟨false, .s 20, 0, 6, 1, false, 0, 0, only (.s 2), none⟩) = true ∧
    reads 96 [(0, 1), (3, 0x67), (11, 2), (28, 1), (32, 6), (77, 130), (90, 1)]
      (.voteXv ⟨false, .null, 2, 6, 0, false, 1, 1, only (.s 2), none⟩) = true ∧
    reads 96 [(0, 1), (3, 0x69), (11, 2), (28, 2), (77, 130)]
      (.electXv ⟨false, .null, 2, 0, 0, false, 2, 0, only (.s 2), none⟩) = true ∧
    reads 96 [(0, 1), (3, 0x68), (11, 10), (32, 3), (77, 130)]
      (.matchXv ⟨false, .v 10, none, 0, false, 0, 0, only (.v 3), SrcX.unused, only (.s 2), none⟩) = true := by decide +kernel

/-- Branches and the other base control forms (R54, R90). -/
theorem test_words_base_control :
    reads 32 [(3, 0x71), (11, 3), (15, 1), (16, 1), (18, 0x3FFA)] (.braBb ⟨false, 3, true, 1, 0x3FFA, none⟩) = true ∧
    reads 96 [(0, 2), (3, 0x72), (11, 15), (16, 3), (32, 0xFFFFFFF8), (64, 0xFFFFFFFF)]
      (.bruBb ⟨false, 15, false, 3, 0, some 0xFFFFFFFFFFFFFFF8⟩) = true ∧
    reads 32 [(3, 0x70)] (.nopBs false) = true ∧ reads 32 [(3, 0x78), (2, 1)] (.exitBs true) = true ∧
    reads 32 [(3, 0x7C)] (.yieldBs false) = true ∧ reads 32 [(3, 0xBC)] (.oprdyBs false) = true ∧
    reads 32 [(3, 0xCA)] (.tretBs false) = true ∧
    reads 32 [(3, 0x73), (11, 67), (18, 2)] (.jmpiBs false (.s 3) 2) = true ∧
    reads 32 [(3, 0x74), (11, 6), (18, 0x3FFF)] (.callBs false (.v 6) 0x3FFF) = true ∧
    reads 32 [(3, 0x75), (11, 6)] (.retBs false (.v 6)) = true ∧
    reads 32 [(3, 0x76), (11, 1), (18, 10)] (.jmarkBs false 1 10) = true ∧
    reads 32 [(3, 0x77), (11, 3)] (.joinBs false 3) = true ∧
    reads 32 [(3, 0x79), (11, 2), (17, 9), (21, 63)] (.waitcBs false 2 9 63) = true ∧
    reads 32 [(3, 0x7A), (11, 2), (13, 2000)] (.lwaitBs false 2 2000) = true ∧
    reads 32 [(3, 0x7B), (11, 1000)] (.sleepBs false 1000) = true ∧
    reads 32 [(3, 0x7D), (11, 2)] (.setprioBs false 2) = true ∧
    reads 32 [(3, 0x7E), (11, 5)] (.trapBs false 5) = true ∧ reads 32 [(3, 0x7F), (11, 6)] (.brkptBs false 6) = true ∧
    reads 32 [(3, 0xCF), (11, 7)] (.syscallBs false 7) = true ∧
    reads 32 [(3, 0xCD), (11, 0x1234)] (.dbgmarkBs false 0x1234) = true ∧
    reads 32 [(3, 0xA4), (11, 1), (13, 2)] (.cpywaitBs false 1 2) = true ∧
    reads 32 [(3, 0xB8), (11, 3)] (.awaitBs false 3) = true := by decide +kernel

/-- BM (R55): ld.b32 v8, [v2 + 16] and the like; the hints name only an address. -/
theorem test_words_bm :
    reads 32 [(3, 0x80), (11, 8), (18, 2), (25, 4), (29, 2)] (.ldBm ⟨false, .v 8, .v 2, 4, .b32⟩) = true ∧
    reads 32 [(3, 0x81), (11, 10), (18, 67), (25, 1), (29, 3)] (.stBm ⟨false, .v 10, .s 3, 1, .b64⟩) = true ∧
    reads 32 [(3, 0x82), (11, 8), (18, 67), (29, 4)] (.ldnfBm ⟨false, .v 8, .s 3, 0, .b128⟩) = true ∧
    reads 32 [(3, 0x89), (18, 2), (25, 15)] (.prefBm ⟨false, .v 2, 15⟩) = true ∧
    reads 32 [(3, 0x8A), (18, 67)] (.cinvBm ⟨false, .s 3, 0⟩) = true ∧
    reads 32 [(3, 0x8B), (18, 67)] (.cdemoteBm ⟨false, .s 3, 0⟩) = true ∧
    reads 32 [(3, 0x8E), (11, 73), (18, 67), (25, 2)] (.sldBm ⟨false, .s 9, .s 3, 2, .b8⟩) = true ∧
    reads 32 [(3, 0x8F), (11, 73), (18, 67), (29, 1)] (.sstBm ⟨false, .s 9, .s 3, 0, .b16⟩) = true := by decide +kernel

/-- The XM fields of an access under p4: A killed v4, index v9 shifted by 3, OFS 64. -/
def xmWord (opc d sz scope ord func6 : Nat) : List (Nat × Nat) :=
  [(0, 1), (3, opc), (11, d), (19, 4), (24, sz), (27, scope), (30, ord), (32, 4), (40, 1), (41, 9), (49, 3), (64, 64),
   (90, func6)]

/-- What these fields say. -/
def xmRec (d : Dst) (sz : Size) (scope : Scope) (ord : Ord) (func6 : Fin 64) : Xm :=
  ⟨false, d, 4, false, sz, scope, ord, .v 4, true, .v 9, 3, 64, 0, none, func6, none⟩

/-- XM (R59, R88). -/
theorem test_words_xm :
    reads 96 (xmWord 0x80 8 0 2 1 1 ++ [(84, 3), (86, 1), (87, 2)])
      (.ldXm { xmRec (.v 8) .b8 .device .acquire 1 with cls := 3, tk := some 2 }) = true ∧
    reads 96 (xmWord 0x81 137 3 4 2 0 ++ [(84, 2)]) (.stXm { xmRec (.s 9) .b64 .system .release 0 with cls := 2 }) = true ∧
    reads 96 (xmWord 0x82 8 2 1 0 0 ++ [(23, 1)]) (.ldnfXm { xmRec (.v 8) .b32 .quad .relaxed 0 with pn := true }) = true ∧
    reads 96 (xmWord 0x83 12 2 2 2 0) (.atomXm (xmRec (.v 12) .b32 .device .release 0)) = true ∧
    reads 96 (xmWord 0x84 12 2 3 0 8) (.atomfXm (xmRec (.v 12) .b32 .fabric .relaxed 8)) = true ∧
    reads 96 (xmWord 0x85 12 3 2 0 42) (.redXm (xmRec (.v 12) .b64 .device .relaxed 42)) = true ∧
    reads 96 (xmWord 0x86 137 3 2 0 3) (.redfXm (xmRec (.s 9) .b64 .device .relaxed 3)) = true ∧
    reads 96 (xmWord 0x87 16 3 2 3 5) (.casXm (xmRec (.v 16) .b64 .device .acqrel 5)) = true ∧
    reads 96 [(0, 1), (3, 0x88), (11, 137), (19, 2), (23, 1), (27, 3)]
      (.fenceXm ⟨false, .s 9, 2, true, .b8, .fabric, .relaxed, .v 0, false, .v 0, 0, 0, 0, none, 0, none⟩) = true ∧
    reads 96 (xmWord 0x89 0 0 0 0 0 ++ [(84, 1)]) (.prefXm { xmRec (.v 0) .b8 .group .relaxed 0 with cls := 1 }) = true ∧
    reads 96 (xmWord 0x8A 0 0 0 0 0) (.cinvXm (xmRec (.v 0) .b8 .group .relaxed 0)) = true ∧
    reads 96 (xmWord 0x8B 0 0 0 0 0) (.cdemoteXm (xmRec (.v 0) .b8 .group .relaxed 0)) = true ∧
    reads 96 (xmWord 0x8C 0 0 0 0 0) (.pgreqXm (xmRec (.v 0) .b8 .group .relaxed 0)) = true ∧
    reads 96 (xmWord 0x8D 12 2 3 0 6) (.mcredXm (xmRec (.v 12) .b32 .fabric .relaxed 6)) = true ∧
    -- sld.b64 s9, [s3 + lit]
    reads 160 [(0, 3), (3, 0x8E), (11, 137), (24, 3), (27, 2), (32, 131), (41, 223), (64, 0xFFFFF), (96, 80)]
      (.sldXm ⟨false, .s 9, 0, false, .b64, .device, .relaxed, .s 3, false, .lit, 0, 0xFFFFF, 0, none, 0, some 80⟩) = true ∧
    -- sst.b32.rel.group s15, [s5 + 192], index 0
    reads 96 [(0, 1), (3, 0x8F), (11, 143), (24, 2), (30, 2), (32, 133), (41, 224), (64, 192)]
      (.sstXm ⟨false, .s 15, 0, false, .b32, .group, .release, .s 5, false, .const 0, 0, 192, 0, none, 0, none⟩) = true := by
  decide +kernel

/-- The XT fields: D, P, E8, the four sources and IMM32 (R61). -/
def xtWord (opc d p e8 a b c x imm : Nat) : List (Nat × Nat) :=
  [(0, 1), (3, opc), (11, d), (19, p), (24, e8), (32, a), (40, b), (48, c), (56, x), (64, imm)]

/-- What these fields say. -/
def xtRec (d : Dst) (p : Fin 16) (e8 : BitVec 8) (a b c x : Src) (imm : BitVec 32) : Xt :=
  ⟨false, d, p, false, e8, a, b, c, x, imm, none⟩

/-- XT of control (R61, R167). -/
theorem test_words_xt_control :
    reads 96 (xtWord 0x70 0 0 0 0 0 0 0 0) (.nopXt (xtRec (.v 0) 0 0 (.v 0) (.v 0) (.v 0) (.v 0) 0)) = true ∧
    reads 96 (xtWord 0x73 0 4 3 6 0 0 0 0) (.jmpiXt (xtRec (.v 0) 4 3 (.v 6) (.v 0) (.v 0) (.v 0) 0)) = true ∧
    reads 96 (xtWord 0x74 8 4 0 0 0 0 0 4294967288) (.callXt (xtRec (.v 8) 4 0 (.v 0) (.v 0) (.v 0) (.v 0) 4294967288)) = true ∧
    reads 96 (xtWord 0x75 0 4 0 131 0 0 0 0) (.retXt (xtRec (.v 0) 4 0 (.s 3) (.v 0) (.v 0) (.v 0) 0)) = true ∧
    reads 96 (xtWord 0x76 0 4 2 0 0 0 0 40) (.jmarkXt (xtRec (.v 0) 4 2 (.v 0) (.v 0) (.v 0) (.v 0) 40)) = true ∧
    reads 96 (xtWord 0x77 0 4 3 0 0 0 0 0) (.joinXt (xtRec (.v 0) 4 3 (.v 0) (.v 0) (.v 0) (.v 0) 0)) = true ∧
    reads 96 (xtWord 0x78 0 3 0 0 0 0 0 0) (.exitXt (xtRec (.v 0) 3 0 (.v 0) (.v 0) (.v 0) (.v 0) 0)) = true ∧
    reads 96 (xtWord 0x79 0 0 0 0 0 0 0 65154) (.waitcXt (xtRec (.v 0) 0 0 (.v 0) (.v 0) (.v 0) (.v 0) 65154)) = true ∧
    reads 96 (xtWord 0x7A 0 4 2 0 0 0 0 2000) (.lwaitXt (xtRec (.v 0) 4 2 (.v 0) (.v 0) (.v 0) (.v 0) 2000)) = true ∧
    reads 96 (xtWord 0x7B 0 0 0 0 0 0 0 5000000) (.sleepXt (xtRec (.v 0) 0 0 (.v 0) (.v 0) (.v 0) (.v 0) 5000000)) = true ∧
    reads 96 (xtWord 0x7C 0 0 0 0 0 0 0 0) (.yieldXt (xtRec (.v 0) 0 0 (.v 0) (.v 0) (.v 0) (.v 0) 0)) = true ∧
    reads 96 (xtWord 0x7D 0 0 2 0 0 0 0 0) (.setprioXt (xtRec (.v 0) 0 2 (.v 0) (.v 0) (.v 0) (.v 0) 0)) = true ∧
    reads 96 (xtWord 0x7E 0 4 0 0 0 0 0 5) (.trapXt (xtRec (.v 0) 4 0 (.v 0) (.v 0) (.v 0) (.v 0) 5)) = true ∧
    reads 96 (xtWord 0x7F 0 4 0 0 0 0 0 6) (.brkptXt (xtRec (.v 0) 4 0 (.v 0) (.v 0) (.v 0) (.v 0) 6)) = true ∧
    reads 96 (xtWord 0xCF 255 4 0 0 0 0 0 7) (.syscallXt (xtRec (.null) 4 0 (.v 0) (.v 0) (.v 0) (.v 0) 7)) = true ∧
    reads 96 (xtWord 0xCA 255 0 0 0 0 0 0 0) (.tretXt (xtRec (.null) 0 0 (.v 0) (.v 0) (.v 0) (.v 0) 0)) = true ∧
    reads 96 (xtWord 0xA4 255 0 1 0 0 0 0 2) (.cpywaitXt (xtRec (.null) 0 1 (.v 0) (.v 0) (.v 0) (.v 0) 2)) = true ∧
    reads 96 (xtWord 0xB8 137 0 3 0 0 0 0 0) (.awaitXt (xtRec (.s 9) 0 3 (.v 0) (.v 0) (.v 0) (.v 0) 0)) = true ∧
    reads 96 (xtWord 0xBC 255 0 0 0 0 0 0 0) (.oprdyXt (xtRec (.null) 0 0 (.v 0) (.v 0) (.v 0) (.v 0) 0)) = true := by
  decide +kernel

/-- XT of copies and rendezvous (R242, R246). -/
theorem test_words_xt_copy :
    reads 96 (xtWord 0xA0 136 0 5 130 132 133 134 4127) (.tcopyXt (xtRec (.s 8) 0 5 (.s 2) (.s 4) (.s 5) (.s 6) 4127)) = true ∧
    reads 96 (xtWord 0xA1 255 0 2 130 132 133 134 31) (.tstoreXt (xtRec (.null) 0 2 (.s 2) (.s 4) (.s 5) (.s 6) 31)) = true ∧
    reads 96 (xtWord 0xA2 255 0 4 130 132 133 134 8388623) (.tgatherXt (xtRec (.null) 0 4 (.s 2) (.s 4) (.s 5) (.s 6) 8388623)) = true ∧
    reads 96 (xtWord 0xA3 255 3 7 12 2 9 0 1) (.cpyXt (xtRec (.null) 3 7 (.v 12) (.v 2) (.v 9) (.v 0) 1)) = true ∧
    reads 96 (xtWord 0xA5 255 0 0 134 226 0 0 0) (.rdvinitXt (xtRec (.null) 0 0 (.s 6) (.const 2) (.v 0) (.v 0) 0)) = true ∧
    reads 96 (xtWord 0xA6 255 4 1 134 0 0 0 0) (.rdvarrXt (xtRec (.null) 4 1 (.s 6) (.v 0) (.v 0) (.v 0) 0)) = true ∧
    reads 96 (xtWord 0xA7 255 0 0 134 135 0 0 0) (.rdvexpXt (xtRec (.null) 0 0 (.s 6) (.s 7) (.v 0) (.v 0) 0)) = true ∧
    reads 96 (xtWord 0xA8 137 0 0 134 225 0 0 0) (.rdvwaitXt (xtRec (.s 9) 0 0 (.s 6) (.const 1) (.v 0) (.v 0) 0)) = true ∧
    reads 96 (xtWord 0xA9 137 0 0 134 0 0 0 0) (.rdvtestXt (xtRec (.s 9) 0 0 (.s 6) (.v 0) (.v 0) (.v 0) 0)) = true ∧
    reads 96 (xtWord 0xAA 137 0 0 134 135 136 0 0) (.pwaitXt (xtRec (.s 9) 0 0 (.s 6) (.s 7) (.s 8) (.v 0) 0)) = true := by
  decide +kernel

/-- XT of tiles and the matrix array (R264, R279, R288). -/
theorem test_words_xt_matrix :
    reads 96 (xtWord 0xB0 130 0 0 224 0 0 0 128000) (.tmapXt (xtRec (.s 2) 0 0 (.const 0) (.v 0) (.v 0) (.v 0) 128000)) = true ∧
    reads 96 (xtWord 0xB1 255 0 0 130 0 0 0 0) (.tunmapXt (xtRec (.null) 0 0 (.s 2) (.v 0) (.v 0) (.v 0) 0)) = true ∧
    reads 96 (xtWord 0xB2 131 0 0 130 0 0 0 0) (.tqueryXt (xtRec (.s 3) 0 0 (.s 2) (.v 0) (.v 0) (.v 0) 0)) = true ∧
    reads 96 (xtWord 0xB3 255 0 129 0 0 0 0 0) (.aclaimXt (xtRec (.null) 0 129 (.v 0) (.v 0) (.v 0) (.v 0) 0)) = true ∧
    reads 96 (xtWord 0xB4 255 0 129 0 0 0 0 0) (.arelXt (xtRec (.null) 0 129 (.v 0) (.v 0) (.v 0) (.v 0) 0)) = true ∧
    reads 96 (xtWord 0xB5 255 0 5 0 0 0 0 0) (.azeroXt (xtRec (.null) 0 5 (.v 0) (.v 0) (.v 0) (.v 0) 0)) = true ∧
    reads 96 (xtWord 0xB6 255 0 3 130 131 0 134 6) (.mmaXt (xtRec (.null) 0 3 (.s 2) (.s 3) (.v 0) (.s 6) 6)) = true ∧
    reads 96 (xtWord 0xB7 255 0 3 130 131 132 134 1017) (.mmagXt (xtRec (.null) 0 3 (.s 2) (.s 3) (.s 4) (.s 6) 1017)) = true ∧
    reads 96 (xtWord 0xB9 16 1 2 0 0 0 0 132) (.ardXt (xtRec (.v 16) 1 2 (.v 0) (.v 0) (.v 0) (.v 0) 132)) = true ∧
    reads 96 (xtWord 0xBA 255 0 1 140 0 0 134 3968) (.adrainXt (xtRec (.null) 0 1 (.s 12) (.v 0) (.v 0) (.s 6) 3968)) = true ∧
    reads 96 (xtWord 0xBB 255 0 1 140 0 0 134 3969) (.aloadXt (xtRec (.null) 0 1 (.s 12) (.v 0) (.v 0) (.s 6) 3969)) = true := by
  decide +kernel

/-- XT of waypoints, launches and system (R338, R351, R371, R386). -/
theorem test_words_xt_system :
    reads 96 (xtWord 0xC0 136 0 0 130 225 0 0 0) (.wpubXt (xtRec (.s 8) 0 0 (.s 2) (.const 1) (.v 0) (.v 0) 0)) = true ∧
    reads 96 (xtWord 0xC1 136 0 1 130 0 0 0 0) (.wtestXt (xtRec (.s 8) 0 1 (.s 2) (.v 0) (.v 0) (.v 0) 0)) = true ∧
    reads 96 (xtWord 0xC2 136 0 0 130 131 0 0 0) (.launchXt (xtRec (.s 8) 0 0 (.s 2) (.s 3) (.v 0) (.v 0) 0)) = true ∧
    reads 96 (xtWord 0xC3 136 0 7 130 0 0 0 0) (.lparmXt (xtRec (.s 8) 0 7 (.s 2) (.v 0) (.v 0) (.v 0) 0)) = true ∧
    reads 96 (xtWord 0xC8 129 1 21 0 0 0 0 0) (.movsXt (xtRec (.s 1) 1 21 (.v 0) (.v 0) (.v 0) (.v 0) 0)) = true ∧
    reads 96 (xtWord 0xC9 255 0 12 131 0 0 0 0) (.movswXt (xtRec (.null) 0 12 (.s 3) (.v 0) (.v 0) (.v 0) 0)) = true ∧
    reads 96 (xtWord 0xCB 255 0 0 132 232 0 0 0) (.tlbinvXt (xtRec (.null) 0 0 (.s 4) (.const 8) (.v 0) (.v 0) 0)) = true ∧
    reads 96 (xtWord 0xCB 255 0 1 0 0 0 0 0) (.tlbinvXt (xtRec (.null) 0 1 (.v 0) (.v 0) (.v 0) (.v 0) 0)) = true ∧
    reads 96 (xtWord 0xCC 138 0 8 0 0 0 0 0) (.perfrdXt (xtRec (.s 10) 0 8 (.v 0) (.v 0) (.v 0) (.v 0) 0)) = true ∧
    reads 96 (xtWord 0xCD 255 0 0 131 0 0 0 4660) (.dbgmarkXt (xtRec (.null) 0 0 (.s 3) (.v 0) (.v 0) (.v 0) 4660)) = true ∧
    reads 96 (xtWord 0xCE 255 0 1 0 0 0 0 66) (.haltwXt (xtRec (.null) 0 1 (.v 0) (.v 0) (.v 0) (.v 0) 66)) = true := by
  decide +kernel

/-- PAIR (R65): fadd v8, v1, v6 beside fmul v9, v1 killed, la, and imulh v3, v1, v2 if !p4 beside iadd v4, s2, 3. -/
theorem test_words_pair :
    reads 96 [(0, 1), (3, 0xFE), (11, 0x30), (17, 8), (24, 1), (32, 6), (40, 0x32), (46, 9), (53, 1), (60, 1), (64, 104)]
      (.pair ⟨false, ⟨.fp .fadd .f32, .v 8, .v 1, false, .v 6, false, 0, false⟩,
        ⟨.fp .fmul .f32, .v 9, .v 1, true, .la, false, 0, false⟩⟩) = true ∧
    reads 96 [(0, 1), (3, 0xFE), (11, 5), (17, 3), (24, 1), (32, 2), (40, 1), (46, 4), (53, 66), (64, 111), (72, 4), (80, 1)]
      (.pair ⟨false, ⟨.int .imulh, .v 3, .v 1, false, .v 2, false, 4, true⟩,
        ⟨.int .iadd, .v 4, .s 2, false, .const 3, false, 0, false⟩⟩) = true := by decide +kernel

/-! ### Ill-formed terms

For each encoding check a term that it refuses, with the opcode or selector that the ILLEGAL trap names (R69, R79, R138). -/

/-- An XV record: op v8, v1, v2. -/
def xvPlain : Xv := ⟨false, .v 8, none, 0, false, 0, 0, only (.v 1), only (.v 2), SrcX.unused, none⟩
/-- An XV record: op v8, v1. -/
def xvOne : Xv := { xvPlain with b := SrcX.unused }
/-- The fields that `i` puts first break a rule, and `v` is what the trap names. -/
def refuses (l : List (Instr × BitVec 8)) : Bool := l.all fun e => decide (bad e.1 = some e.2) && !e.1.wellFormed

theorem test_illformed_sources : refuses [
    -- a 64-bit operand in an odd register (R17); in the second source
    (.iaddXv { xvPlain with func6 := 2 }, 1), (.faddXv { xvPlain with func6 := 3, a := only (.v 2), b := only (.v 3) }, 3),
    -- a 32-bit literal with a nonzero upper half; a literal field without a literal; a literal no field names (R43)
    (.iaddXv { xvPlain with b := only .lit, lit := some 0x100000000 }, 223), (.iaddXv { xvPlain with b := only .lit }, 223),
    (.iaddXv { xvPlain with lit := some 0 }, 1),
    -- an integer operation with a floating-point constant (R50)
    (.iaddXv { xvPlain with b := only (.const 24) }, 248),
    -- a fill or kill of something that is no register (R30, R32); a permutation of an s register; an amount out of range (R62, R63)
    (.iaddXv { xvPlain with a := { only .la with kill := true } }, 200),
    (.iaddXv { xvPlain with a := { only (.const 1) with fill := some 0 } }, 225),
    (.iaddXv { xvPlain with a := { only (.s 1) with perm := .rot } }, 129),
    (.iaddXv { xvPlain with a := { only (.v 1) with perm := .mirror, amt := 7 } }, 1),
    (.iaddXv { xvPlain with a := { only (.v 1) with perm := .bcastg, amt := 7 } }, 1),
    (.iaddXv { xvPlain with a := { only (.v 1) with amt := 1 } }, 1),
    -- two fills of one slot (R30); an unused field that is not zero (R45); a permutation of source C (R57)
    (.iaddXv { xvPlain with a := { only (.v 1) with fill := some 3 }, b := { only (.v 2) with fill := some 3 } }, 1),
    (.iaddXv { xvPlain with c := only (.v 4) }, 4), (.iabsXv xvPlain, 2),
    (.imadXv { xvPlain with c := { only (.v 4) with perm := .rot } }, 4)] = true := by decide +kernel

theorem test_illformed_destinations : refuses [
    -- an odd 64-bit destination (R17); an s destination with a vector source (R27); a slot on a class L function (R29)
    (.iaddXv { xvPlain with d := .v 9, func6 := 2, a := only (.v 2), b := only (.v 4) }, 9), (.iaddXv { xvPlain with d := .s 9 }, 137),
    (.frcpXv { xvOne with slot := some 1 }, 0x39),
    -- BV: no compact selector (R46, R47); the literal only in B; a literal without its selector (R52); a null third source (R53)
    (.iaddBv ⟨false, .v 64, .v 1, .v 2, none⟩, 128), (.iaddBv ⟨false, .v 8, .s 32, .v 2, none⟩, 128),
    (.iaddBv ⟨false, .v 8, .lit, .v 2, some 1⟩, 127), (.iaddBv ⟨false, .v 8, .v 1, .v 2, some 1⟩, 1),
    (.imadBv ⟨false, .null, .v 1, .v 2, none⟩, 127), (.iaddcBv ⟨false, .v 9, .v 1, .v 2, none⟩, 9),
    (.iabsBv ⟨false, .v 8, .lit⟩, 127), (.movBv ⟨false, .s 3, .v 1⟩, 67)] = true := by decide +kernel

theorem test_illformed_codes : refuses [
    -- a reserved TYPE, MOD3 where it must be 0, SAT where it is not allowed, a type that is not listed (R81, R120)
    (.iaddXv { xvPlain with func6 := 6 }, 1), (.iaddXv { xvPlain with mod3 := 1 }, 1), (.andXv { xvPlain with func6 := 32 }, 11),
    (.iaddXv { xvPlain with func6 := 8 }, 1), (.idot4Xv { xvPlain with func6 := 4, c := only (.v 3) }, 10),
    -- FUNC6[4:3] of ICVT; ICMP's reserved condition and FUNC6[5:3]; FCMP of a packed type (R83, R84, R145)
    (.icvtXv { xvOne with func6 := 8 }, 0x25), (.icmpXv ⟨false, 2, 0, false, 6, 0, only (.v 1), only (.v 2), none⟩, 0x1C),
    (.icmpXv ⟨false, 2, 0, false, 0, 8, only (.v 1), only (.v 2), none⟩, 0x1C),
    (.fcmpXv ⟨false, 2, 0, false, 0, 1, only (.v 1), only (.v 2), none⟩, 0x36),
    -- a reserved rounding, a reserved floating-point TYPE, SAT or MOD3 of FMIN, NEGL of a one-source function (R85)
    (.faddXv { xvPlain with mod3 := 5 }, 0x30), (.faddXv { xvPlain with func6 := 4 }, 0x30), (.fminXv { xvPlain with func6 := 32 }, 0x34),
    (.fminXv { xvPlain with mod3 := 1 }, 0x34), (.frcpXv { xvOne with func6 := 16 }, 0x39), (.frndXv { xvOne with func6 := 32 }, 0x37),
    (.fdot2Xv { xvPlain with c := only (.v 3) }, 0x47),
    -- FCVT to its own format, a reserved format, NPACK's .inf but with E5M2, NUNPK's MOD3 (R86)
    (.fcvtXv { xvOne with func6 := 0 }, 0x42), (.ftoiXv { xvOne with func6 := 4 }, 0x43), (.itofXv { xvOne with func6 := 32 }, 0x44),
    (.npackXv { xvPlain with func6 := 32, c := only (.v 3) }, 0x45), (.nunpkXv { xvPlain with mod3 := 1 }, 0x46)] = true := by decide +kernel

theorem test_illformed_crosslane : refuses [
    -- a reserved width; an operation on an exchange; reduction 7; F32 reduction with a TYPE (R87)
    (.xshfXv { xvPlain with mod3 := 5 }, 0x60), (.xshfXv { xvPlain with func6 := 8 }, 0x60), (.xredXv { xvOne with func6 := 56 }, 0x64),
    (.xredXv { xvOne with func6 := 49 }, 0x64),
    -- a member mask that is not wave-uniform; XBCAST's index likewise; an s destination; MATCH's odd one (R174, R177)
    (.xshfXv { xvPlain with c := only (.v 3) }, 3), (.xbcastXv xvPlain, 2), (.xshfXv { xvPlain with d := .s 1 }, 129),
    (.matchXv { xvOne with d := .v 9 }, 9), (.xshfBv ⟨false, .s 1, .s 2, .s 3, none⟩, 65),
    -- BALLOT without an s destination; VOTE's reserved kind; ELECT's A field (R177)
    (.ballotBv ⟨false, .v 8, 1⟩, 8), (.ballotXv ⟨false, .v 8, 0, 1, 0, false, 0, 0, SrcX.unused, none⟩, 8),
    (.voteXv ⟨false, .null, 2, 1, 0, false, 0, 3, SrcX.unused, none⟩, 0x67),
    (.electXv ⟨false, .null, 2, 1, 0, false, 0, 0, SrcX.unused, none⟩, 0x69),
    -- PMOV to an s register (R134)
    (.pmovXv ⟨false, 0, false, .toReg (.s 4) 1, none⟩, 132)] = true := by decide +kernel

theorem test_illformed_memory : refuses [
    -- a group off its boundary, a register kind that the opcode does not take, a null group (R225)
    (.ldBm ⟨false, .v 9, .v 2, 0, .b64⟩, 9), (.ldBm ⟨false, .s 9, .v 2, 0, .b32⟩, 73), (.stBm ⟨false, .null, .v 2, 0, .b32⟩, 127),
    -- an odd address pair, an address of another kind; SLD through a v register (R55, R226)
    (.ldBm ⟨false, .v 8, .v 3, 0, .b32⟩, 3), (.ldBm ⟨false, .v 8, .la, 0, .b32⟩, 104), (.sldBm ⟨false, .s 9, .v 2, 0, .b32⟩, 2),
    (.prefBm ⟨false, .v 3, 0⟩, 3), (.sstBm ⟨false, .s 9, .s 33, 0, .b32⟩, 128),
    -- an order, a class, a ticket, a scope or a size that the opcode does not take (R59, R194, R226)
    (.ldXm { xmRec (.v 8) .b32 .device .release 0 with }, 0x80), (.stXm { xmRec (.v 8) .b32 .device .relaxed 0 with cls := 3 }, 0x81),
    (.stXm { xmRec (.v 8) .b32 .device .relaxed 0 with tk := some 1 }, 0x81), (.mcredXm (xmRec (.v 8) .b32 .device .relaxed 0), 0x8D),
    (.prefXm (xmRec (.v 0) .b32 .group .relaxed 0), 0x89),
    -- sign extension of 32 bits; a reserved atomic; an atomic of another size; a fence with an address (R88, R226)
    (.ldXm (xmRec (.v 8) .b32 .device .relaxed 1), 0x80), (.atomXm (xmRec (.v 8) .b32 .device .relaxed 56), 0x83),
    (.redXm (xmRec (.v 8) .b32 .device .relaxed 48), 0x85), (.atomXm (xmRec (.v 8) .b64 .device .relaxed 0), 0x83),
    (.casXm (xmRec (.v 9) .b32 .device .relaxed 4), 9), (.fenceXm (xmRec (.s 8) .b8 .device .relaxed 0), 0x88),
    -- a base or an index that is none; a data field of a hint (R60, R226)
    (.ldXm { xmRec (.v 8) .b32 .device .relaxed 0 with a := .o 1, ak := false }, 193),
    (.ldXm { xmRec (.v 8) .b32 .device .relaxed 0 with x := .la }, 200), (.ldXm { xmRec (.v 8) .b32 .device .relaxed 0 with a := .const 24, ak := false }, 248),
    (.ldXm { xmRec (.v 8) .b32 .device .relaxed 0 with a := .const 1 }, 225), (.prefXm (xmRec (.v 4) .b8 .group .relaxed 0), 4)] = true := by decide +kernel

/-- An XT record of zeros with a null destination. -/
def xtPlain : Xt := xtRec .null 0 0 (.v 0) (.v 0) (.v 0) (.v 0) 0

theorem test_illformed_xt : refuses [
    -- a destination of another kind; an operand that is not wave-uniform; an unused field; a predicate; E8 and IMM32 bits (R45, R61, R243)
    (.tmapXt { xtPlain with a := .s 2 }, 255), (.tunmapXt xtPlain, 0), (.oprdyXt { xtPlain with a := .s 1 }, 129),
    (.oprdyXt { xtPlain with p := 1 }, 0xBC), (.mmaXt { xtPlain with a := .s 1, b := .s 2, x := .s 3, e8 := 8 }, 0xB6),
    (.oprdyXt { xtPlain with imm := 1 }, 0xBC), (.oprdyXt { xtPlain with lit := some 1 }, 0xBC), (.tunmapXt { xtPlain with a := .lit }, 223),
    -- a target that is an odd pair or null; an offset off a word (R163, R167)
    (.jmpiXt { xtPlain with d := .v 0, a := .v 3 }, 3), (.callXt { xtPlain with imm := 8 }, 255), (.callXt { xtPlain with d := .v 8, imm := 2 }, 0x74),
    -- tile rows, formats and shapes beyond the tile; an empty bank mask; MMA's type 7; ARD and ADRAIN past row 127 (R246, R264, R279, R288)
    (.tmapXt { xtPlain with d := .s 2, a := .s 1, imm := 9 }, 0xB0), (.tmapXt { xtPlain with d := .s 2, a := .s 1, imm := 128 * 4096 }, 0xB0),
    (.aclaimXt xtPlain, 0xB3), (.mmaXt { xtPlain with a := .s 1, b := .s 2, x := .s 3, imm := 7 }, 0xB6),
    (.ardXt { xtPlain with d := .v 8, imm := 127 + 2 * 128 }, 0xB9), (.adrainXt { xtPlain with a := .s 1, x := .s 3, imm := 1 + 127 * 128 }, 0xBA),
    (.tcopyXt { xtPlain with a := .s 1, b := .s 2, c := .s 3, x := .s 4, imm := 3584 }, 0xA0),
    (.tstoreXt { xtPlain with a := .s 1, b := .s 2, c := .s 3, x := .s 4, imm := 0x3000 }, 0xA1),
    -- CPY's address and length; a special register that is not there; MOVS LANEID to an s register; a counter past 10; TLBINV's KIND 2
    (.cpyXt { xtPlain with a := .v 3, b := .v 2, c := .v 1 }, 3), (.cpyXt { xtPlain with a := .v 2, b := .v 4, c := .la }, 200),
    (.movsXt { xtPlain with d := .s 1, e8 := 0x1A }, 0x1A), (.movsXt { xtPlain with d := .s 1, e8 := 1 }, 1),
    (.movswXt { xtPlain with a := .s 1, e8 := 0x8E }, 0x8E), (.perfrdXt { xtPlain with d := .s 1, e8 := 11 }, 11),
    (.tlbinvXt { xtPlain with a := .s 1, b := .s 2, e8 := 2 }, 0xCB), (.tlbinvXt { xtPlain with a := .s 1, b := .s 2, e8 := 1 }, 129)] = true := by
  decide +kernel

theorem test_illformed_base_control_and_pair : refuses [
    -- an offset beside a literal, a literal off a word (R54); BS targets (R90)
    (.braBb ⟨false, 0, false, 0, 1, some 8⟩, 0x71), (.bruBb ⟨false, 0, false, 0, 0, some 2⟩, 0x72), (.jmpiBs false (.v 3) 0, 3),
    (.retBs false (.s 40), 128), (.callBs false (.v 7) 0, 7), (.callBs false .null 0, 127),
    -- PAIR: no pair code, two class W operations, four v registers, one destination twice, an s destination, a killed latch (R66, R68, R136)
    (.pair ⟨false, ⟨.fp .frnd .f32, .v 8, .v 1, false, .v 0, false, 0, false⟩, ⟨.int .iadd, .v 4, .v 1, false, .v 2, false, 0, false⟩⟩, 0xFE),
    (.pair ⟨false, ⟨.int .imulh, .v 8, .v 1, false, .v 2, false, 0, false⟩, ⟨.int .idot4, .v 4, .v 1, false, .v 2, false, 0, false⟩⟩, 0xFE),
    (.pair ⟨false, ⟨.int .iadd, .v 8, .v 1, false, .v 2, false, 0, false⟩, ⟨.int .iadd, .v 4, .v 3, false, .v 4, false, 0, false⟩⟩, 0xFE),
    (.pair ⟨false, ⟨.int .iadd, .v 8, .v 1, false, .v 2, false, 0, false⟩, ⟨.int .iadd, .v 8, .v 1, false, .v 2, false, 0, false⟩⟩, 0xFE),
    (.pair ⟨false, ⟨.int .iadd, .s 8, .v 1, false, .v 2, false, 0, false⟩, ⟨.int .iadd, .v 4, .v 1, false, .v 2, false, 0, false⟩⟩, 72),
    (.pair ⟨false, ⟨.int .iadd, .v 8, .la, true, .v 2, false, 0, false⟩, ⟨.int .iadd, .v 4, .v 1, false, .v 2, false, 0, false⟩⟩, 104)] = true := by
  decide +kernel

/-- Words that are no instruction: a reserved opcode, an opcode without the form that LEN names, a reserved selector, reserved
bits set, and a slot without its valid bit (R41, R45, R48, R58, R77). -/
theorem test_words_refused :
    [(32, [(3, 0x00)]), (32, [(3, 0x26)]), (32, [(3, 0xFF)]), (32, [(3, 0x0F), (11, 8)]), (96, [(0, 1), (3, 0x71)]),
      (32, [(3, 0x01), (11, 100)]), (96, [(0, 1), (3, 0x01), (11, 8), (32, 205), (54, 2)]), (32, [(3, 0x70), (11, 1)]),
      (96, [(0, 1), (3, 0x01), (11, 8), (19, 1), (32, 1), (54, 2)]), (96, [(0, 1), (3, 0x01), (11, 8), (31, 1), (32, 1), (54, 2)]),
      (96, [(0, 1), (3, 0x01), (11, 8), (32, 1), (45, 7), (54, 2)]), (96, [(0, 1), (3, 0x80), (11, 8), (24, 5), (32, 2)]),
      (96, [(0, 1), (3, 0x80), (11, 8), (27, 5), (24, 2), (32, 2)])].all (fun (e : Nat × List (Nat × Nat)) =>
        decodeTableWord e.1 (word e.2) == none) = true := by decide +kernel

/-! ### Small states -/

/-- The state in which a wave of 64 lanes is about to fetch on core 0, and nothing else is at work. -/
def base : State := State.reset.place 0 0
/-- Its entry. -/
def ent : Entry := ⟨4096, fullMask, 0, 0, .ready, 0, []⟩
/-- `base` with another wave 0. -/
def withWave (w : Wave) : State := base.setWave 0 w
/-- All that `Ready` asks, as a test. -/
def readyB (i : Instr) (pl : Plan) (s : State) (k : Nat) (w : Wave) (e : Entry) : Bool :=
  decide (s.issuer = some (k, w, e)) && (coreOfWave k == s.focus) && w.run.isOpen &&
    (s.overdue (coreOfWave k) (slotOf (s.coreAt (coreOfWave k)) w pl).t).isEmpty && (w.dueTrap e).isNone &&
    (w.fenceDue e).isNone && decide (w.run.slots < 24) && (bad i).isNone && (!privileged i || w.handler.isSome) &&
    (regBad w (pl.srcs ++ pl.dsts)).isNone

theorem ready_of {i : Instr} {pl : Plan} {s : State} {k : Nat} {w : Wave} {e : Entry} (h : readyB i pl s k w e = true) :
    Ready i pl s k w e := by
  simp only [readyB, Bool.and_eq_true, decide_eq_true_eq, beq_iff_eq, Option.isNone_iff_eq_none, Bool.or_eq_true,
    Bool.not_eq_true', List.isEmpty_iff] at h
  obtain ⟨⟨⟨⟨⟨⟨⟨⟨⟨h1, h2⟩, h3⟩, h0⟩, h4⟩, h5⟩, h6⟩, h7⟩, h8⟩, h9⟩ := h
  exact ⟨h1, h2, h3, h0, h4, h5, h6, h7, fun hp => by simpa [hp] using h8, h9⟩

/-- The core that comes next, if one does. -/
def coreNext (o : Option Cand) : Option Nat := match o with | some (.core c) => some c | _ => none
/-- The time of the input that comes next, if one does. -/
def inputNext (o : Option Cand) : Option Input := match o with | some (.input x) => some x | _ => none
/-- The fetch gives the word `n`. -/
def fetches (f : Fetched) (n : Nat) : Bool := match f with | .word m _ => m == n | _ => false
/-- The outcome is a next state. -/
def goesOn (o : Out3) : Bool := match o with | .next _ => true | _ => false

theorem core_of {o : Option Cand} {c : Nat} (h : coreNext o = some c) : o = some (.core c) := by
  unfold coreNext at h; split at h <;> simp_all
theorem input_of {o : Option Cand} {x : Input} (h : inputNext o = some x) : o = some (.input x) := by
  unfold inputNext at h; split at h <;> simp_all
theorem next_of {o : Out3} (h : goesOn o = true) : ∃ t, o = .next t := by
  unfold goesOn at h; split at h <;> simp_all
theorem fetch_of {f : Fetched} {n : Nat} (h : fetches f n = true) : ∃ t, f = .word n t := by
  unfold fetches at h; split at h
  · rename_i m t; exact ⟨t, by simp_all⟩
  · simp at h

/-- Reading the sources raises nothing. -/
def readsB (w : Wave) (x : Mask) (srcs : List Opnd) : Bool := !w.strict || (deadRead w x srcs).isNone
theorem reads_of {w : Wave} {x : Mask} {srcs : List Opnd} (h : readsB w x srcs = true) : readsOk w x srcs := by
  intro hs; simp_all [readsB]

/-! ### Witnesses: states and operands that meet the hypotheses of the obligations -/

theorem witness_EncodeThenDecode :
    isWord (.iaddBv ⟨true, .s 31, .s 2, .lit, some 0xFFFFFFFF⟩) = true ∧ bad (.iaddBv ⟨true, .s 31, .s 2, .lit, some 0xFFFFFFFF⟩) = none ∧
    isWord (.pmovXv ⟨false, 15, true, .toReg .null 15, none⟩) = true ∧ bad (.pmovXv ⟨false, 15, true, .toReg .null 15, none⟩) = none := by
  decide +kernel

theorem witness_DecodedWordsAreEncodings : decode 0xE2041808 = .ok (.iaddBv ⟨false, .v 3, .v 1, .const 5, none⟩) := by
  decide +kernel

/-- The state whose next instruction is NOP. -/
def nopNext : State := State.reset.withFetchWord 32 0x380

theorem witness_StepRunsDecoded_core : ∃ t, nopNext.chosen = some (.core 0) ∧
    ({ nopNext with focus := 0 } : State).issuer = some (0, placedWave, ent) ∧ placedWave.dueTrap ent = none ∧
    ({ nopNext with focus := 0 } : State).fetch 0 placedWave ent.pc.toNat = .word 0x380 t ∧ decode 0x380 = .ok (.nopBs false) := by
  obtain ⟨t, ht⟩ := fetch_of (n := 0x380) (f := ({ nopNext with focus := 0 } : State).fetch 0 placedWave ent.pc.toNat)
    (by decide +kernel)
  exact ⟨t, core_of (by decide +kernel), by decide +kernel, by decide +kernel, ht, by decide +kernel⟩

theorem witness_StepRunsDecoded_input :
    ({ State.reset with script := [⟨0, .getVersion 0⟩] } : State).chosen = some (.input ⟨0, .getVersion 0⟩) :=
  input_of (by decide +kernel)

theorem witness_StepRunsDecoded_fetch : (4096 : Nat) < 2 ^ 57 ∧ nopNext.translateCore 0 placedWave.ctx 4096 .fetch = (.to (.dev 4096), nopNext) ∧
    ∃ g, nopNext.groupAt? placedWave.group = some g ∧ g.code.get? (4096 / 4) = none :=
  ⟨by decide, by decide +kernel, _, rfl, by decide +kernel⟩

theorem witness_ReadAfterWrite : Memory.wf [⟨3, 1⟩, ⟨7, 255⟩] = true := by decide +kernel

theorem witness_StepKeepsMemory : nopNext.memWf ∧ ∃ t, step nopNext = .next t :=
  ⟨by show nopNext.mem.bytes.wf = true; decide +kernel, next_of (by decide +kernel)⟩

theorem witness_ShiftFieldMinMaxValues :
    (63 < ITy.s64.bits ∧ 31 < ITy.n32.bits) ∧ (ITy.s32.bits ≤ 32 ∧ ITy.b32.bits ≤ 63) ∧
    -- NaNs, one NaN of each kind, no NaN
    decF fmt32 0x7F800001 = .nan true ∧ decF fmt16 0x7E00 = .nan false ∧ (∀ x, decF fmt64 0 ≠ .nan x) ∧
    (∀ x, decF fmtBf16 0x7F80 ≠ .nan x) := by
  refine ⟨by decide, by decide, by decide +kernel, by decide +kernel, fun x => ?_, fun x => ?_⟩ <;> cases x <;> decide +kernel

theorem witness_FloatRounding : 2 ≤ fmt16.eb ∧ 1 ≤ fmt16.fb ∧
    -- 65,519 rounds to the greatest finite value, 65,520 to infinity; 1 of 2^-25 is below half the least subnormal
    (finiteOf fmt16 (roundF fmt16 .rne false 65519 0).1).isSome = true ∧ finiteOf fmt16 (roundF fmt16 .rne false 65520 0).1 = none ∧
    (finiteOf fmt16 (roundF fmt16 .rup false 1 (-25)).1).isSome = true ∧
    finiteOf fmt16 (fmt16.maxFin false) = some ⟨2047, 5⟩ := by decide +kernel

/-! Instructions that issue. -/

/-- iadd s9, s2, 5; fadd v8>o3, v1 killed, v2 if !p0; iadd.n64 v8, v2, v4. -/
def aluCases : List Instr :=
  [.iaddBv ⟨false, .s 9, .s 2, .const 5, none⟩,
    .faddXv ⟨true, .v 8, some 3, 0, true, 4, 0, { only (.v 1) with kill := true, perm := .rot, amt := 1 }, only (.v 2), SrcX.unused, none⟩,
    .iaddXv ⟨false, .v 8, none, 0, false, 0, 3, only (.v 2), only (.v 4), SrcX.unused, none⟩,
    .fmulXv ⟨false, .v 8, none, 0, false, 0, 3, only (.v 2), only (.v 4), SrcX.unused, none⟩]

/-- The instruction is of class A or W, ready in `base`, and not stopped. -/
def aluGoes (i : Instr) : Bool :=
  match aluOf base i with
  | some (p, pn, a) => readyB i (a.plan p pn) base 0 placedWave ent && (a.stops base placedWave (base.execMask placedWave ent p pn)).isNone
  | none => false

theorem alu_goes {i : Instr} (h : aluGoes i = true) : ∃ p pn a, aluOf base i = some (p, pn, a) ∧
    Ready i (a.plan p pn) base 0 placedWave ent ∧ a.stops base placedWave (base.execMask placedWave ent p pn) = none := by
  unfold aluGoes at h
  split at h
  · rename_i p pn a ha
    simp only [Bool.and_eq_true, Option.isNone_iff_eq_none] at h
    exact ⟨p, pn, a, ha, ready_of h.1, h.2⟩
  · simp at h

/-- Witness for ClassAWResult and ClassAWFrame: on the scalar pipe, into a slot with no executing lane, and in 64 bits. -/
theorem witness_ClassAW : ∀ i ∈ aluCases, ∃ p pn a, aluOf base i = some (p, pn, a) ∧ Ready i (a.plan p pn) base 0 placedWave ent ∧
    a.stops base placedWave (base.execMask placedWave ent p pn) = none := by
  have h : aluCases.all aluGoes = true := by decide +kernel
  exact fun i hi => alu_goes (List.all_eq_true.mp h i hi)

/-- Waves that STRICT or an enabled flag stops: one with v1 dead, one that may not read an invalid latch, and one with every
exception enabled. -/
def strictWave : Wave := { placedWave with fpmode := 0x200, dead := [1] }
def flagWave : Wave := { placedWave with fpmode := 0x1F0 }

/-- iadd v8, v2, v1 reads the dead v1; iadd v8, la, v2 the latch of no lane; fmul v8, v2, infinity is 0 times infinity. -/
def stopCases : List (Wave × Instr × Cause × DWord) :=
  [(strictWave, .iaddBv ⟨false, .v 8, .v 2, .v 1, none⟩, .deadread, 1), (strictWave, .iaddBv ⟨false, .v 8, .la, .v 2, none⟩, .deadread, 256 + 200),
    (flagWave, .fmulBv ⟨false, .v 8, .v 2, .lit, some 0x7F800000⟩, .fpexc, fpexcAddr 0 fNV)]

/-- The instruction is ready on the wave, and stopped as said. -/
def aluStops (q : Wave × Instr × Cause × DWord) : Bool :=
  let s := withWave q.1
  match aluOf s q.2.1 with
  | some (p, pn, a) => readyB q.2.1 (a.plan p pn) s 0 q.1 ent && decide (a.stops s q.1 (s.execMask q.1 ent p pn) = some q.2.2)
  | none => false

/-- Witness for the stops of ClassAWFrame; and a fill of slot 4 alone beside a result, with other slots untouched. -/
theorem witness_ClassAWFrame_stops :
    (∀ q ∈ stopCases, ∃ p pn a, aluOf (withWave q.1) q.2.1 = some (p, pn, a) ∧ Ready q.2.1 (a.plan p pn) (withWave q.1) 0 q.1 ent ∧
      a.stops (withWave q.1) q.1 ((withWave q.1).execMask q.1 ent p pn) = some q.2.2) ∧
    ∃ p pn a o o', let i := Instr.iaddXv ⟨false, .v 8, some 3, 0, false, 0, 0, { only (.v 1) with fill := some 4 }, only (.v 2), SrcX.unused, none⟩
      aluOf base i = some (p, pn, a) ∧ Ready i (a.plan p pn) base 0 placedWave ent ∧
      a.stops base placedWave (base.execMask placedWave ent p pn) = none ∧ a.srcs = [o, o'] ∧ o.fill = some 4 ∧ o'.fill = none ∧
      a.slot = some 3 := by
  refine ⟨fun q hq => ?_, _, _, _, _, _, rfl, ready_of (by decide +kernel), by decide +kernel, rfl, rfl, rfl, rfl⟩
  have h : stopCases.all aluStops = true := by decide +kernel
  have h := List.all_eq_true.mp h q hq
  simp only [aluStops] at h
  split at h
  · rename_i p pn a ha
    simp only [Bool.and_eq_true, decide_eq_true_eq] at h
    exact ⟨p, pn, a, ha, ready_of h.1, h.2⟩
  · simp at h

/-- The instruction writes a predicate, is ready in `base`, and raises nothing. -/
def predGoes (i : Instr) : Bool :=
  match predOf base i with
  | some (p, pn, a) => let x := base.execMask placedWave ent p pn
    readyB i (a.plan p pn) base 0 placedWave ent && readsB placedWave x a.srcs &&
      (enabledFlags placedWave.enables x ((a.results base placedWave x).map (·.2))).1 == 0
  | none => false

theorem witness_PredicateResults_write :
    ∀ i ∈ [Instr.icmpXv ⟨false, 2, 0, false, 2, 1, only (.v 4), only (.s 3), none⟩, .fcmpXv ⟨false, 15, 0, false, 7, 0, only (.v 4), only .la, none⟩,
      .psetXv ⟨false, 4, 0, false, 1, 2, 3, 1⟩, .pmovXv ⟨false, 0, false, .toPred 0 (only (.s 1)), none⟩],
    ∃ p pn a, predOf base i = some (p, pn, a) ∧ Ready i (a.plan p pn) base 0 placedWave ent ∧
      readsOk placedWave (base.execMask placedWave ent p pn) a.srcs ∧
      flagsOk placedWave (base.execMask placedWave ent p pn) ((a.results base placedWave (base.execMask placedWave ent p pn)).map (·.2)) := by
  intro i hi
  have h : predGoes i = true := by
    revert i
    decide +kernel
  unfold predGoes at h
  split at h
  · rename_i p pn a ha
    simp only [Bool.and_eq_true, beq_iff_eq] at h
    exact ⟨p, pn, a, ha, ready_of h.1.1, reads_of h.1.2, h.2⟩
  · simp at h

theorem witness_PredicateResults_pmov : ∀ d ∈ [Dst.v 127, .null],
    Ready (.pmovXv ⟨false, 0, false, .toReg d 15, none⟩) ⟨0, false, [], dstNamed d false, [15], .vec⟩ base 0 placedWave ent := by
  intro d hd
  apply ready_of
  revert d
  decide +kernel

/-- imulh v3, v1, v2 beside iadd v4, s2, 3 under !p4. -/
def pairCase : Pair := ⟨false, ⟨.int .imulh, .v 3, .v 1, false, .v 2, false, 0, false⟩, ⟨.int .iadd, .v 4, .s 2, false, .const 3, false, 4, true⟩⟩

theorem witness_PairResult :
    let a := halfAlu pairCase.x base.flushMode
    let b := halfAlu pairCase.y base.flushMode
    Ready (.pair pairCase) ⟨0, false, (a.srcs ++ b.srcs).map Opnd.named, dstNamed a.d a.wide ++ dstNamed b.d b.wide, [4], .both⟩ base 0
      placedWave ent ∧
    a.stops base placedWave (base.execMask placedWave ent 0 false) = none ∧
    b.stops base placedWave (base.execMask placedWave ent 4 true) = none := by
  and_intros <;> first | decide +kernel | exact ready_of (by decide +kernel)

/-- fdiv v8, v1, v2 and fsqrt s9, s2 are class L; the first divides 0 by 0. -/
def funGoes (i : Instr) : Bool :=
  match funOf base i with
  | some (p, pn, a) => let x := base.execMask placedWave ent p pn
    readyB i (a.plan p pn) base 0 placedWave ent && readsB placedWave x a.srcs && !placedWave.full .xc && x != 0 &&
      (enabledFlags placedWave.enables x (perLane fun L => if inMask x L then (a.lane base placedWave L).2 else 0)).1 == 0
  | none => false

theorem witness_ClassLFunction :
    ∀ i ∈ [Instr.fdivBv ⟨false, .v 8, .v 1, .v 2, none⟩, .fsqrtXv ⟨false, .s 9, none, 0, false, 0, 3, only (.s 2), SrcX.unused, SrcX.unused, none⟩],
    ∃ p pn a, funOf base i = some (p, pn, a) ∧ Ready i (a.plan p pn) base 0 placedWave ent ∧
      readsOk placedWave (base.execMask placedWave ent p pn) a.srcs ∧ placedWave.full .xc = false ∧
      base.execMask placedWave ent p pn ≠ 0 ∧ flagsOk placedWave (base.execMask placedWave ent p pn)
        (perLane fun L => if inMask (base.execMask placedWave ent p pn) L then (a.lane base placedWave L).2 else 0) := by
  intro i hi
  have h : funGoes i = true := by
    revert i
    decide +kernel
  unfold funGoes at h
  split at h
  · rename_i p pn a ha
    simp only [Bool.and_eq_true, beq_iff_eq, Bool.not_eq_true', bne_iff_ne, ne_eq] at h
    exact ⟨p, pn, a, ha, ready_of h.1.1.1.1, reads_of h.1.1.1.2, h.1.1.2, h.1.2, h.2⟩
  · simp at h

/-- The cross-lane instruction is ready in `base` and raises nothing; `m` says whether it has a member mask. -/
def xlGoes (i : Instr) (m : Bool) : Bool :=
  match xlOf i with
  | some x => let ex := base.execMask placedWave ent x.p x.pn
    readyB i x.plan base 0 placedWave ent && x.mem.isSome == m && readsB placedWave ex (x.srcs ++ x.mem.toList) &&
      ((enabledFlags placedWave.enables ex (x.result base placedWave ex).flags).1 == 0 && ex != 0)
  | none => false

theorem witness_CrossLaneOpen :
    ∀ i ∈ [Instr.xshfBv ⟨false, .v 9, .v 3, .const 7, none⟩, .ballotBv ⟨false, .s 20, 6⟩, .voteBv ⟨false, 15, 6⟩,
      .xredXv ⟨false, .v 9, none, 0, false, 3, 48, only (.v 1), SrcX.unused, SrcX.unused, none⟩],
    ∃ x, xlOf i = some x ∧ x.mem = none ∧ Ready i x.plan base 0 placedWave ent ∧
      readsOk placedWave (base.execMask placedWave ent x.p x.pn) x.srcs ∧ placedWave.full .xc = false ∧
      base.execMask placedWave ent x.p x.pn ≠ 0 ∧
      flagsOk placedWave (base.execMask placedWave ent x.p x.pn) (x.result base placedWave (base.execMask placedWave ent x.p x.pn)).flags := by
  intro i hi
  have h : xlGoes i false = true := by
    revert i
    decide +kernel
  unfold xlGoes at h
  split at h
  · rename_i x hx
    simp only [Bool.and_eq_true, Option.isNone_iff_eq_none, beq_iff_eq, bne_iff_ne, ne_eq, Option.isSome_eq_false_iff] at h
    have hm := h.1.1.2
    refine ⟨x, hx, hm, ready_of h.1.1.1, reads_of ?_, by decide +kernel, h.2.2, h.2.1⟩
    simpa [hm] using h.1.2
  · simp at h

/-- The steps of a reduction from any values. -/
def reduceFrom (x : XSpec) (v : Nat → Nat × FFlags) : Nat → Nat → Nat × FFlags
  | 0, Q => v Q
  | i + 1, Q => redStep x.sub x.ty false (reduceFrom x v i Q) (reduceFrom x v i (Q ^^^ 2 ^ i))

theorem witness_ExchangeValues :
    ((63 : Nat) < 64 ∧ inMask fullMask 63 = true ∧ inMask 0x8000000000000000 63 = true) ∧
    (∀ x v i Q, reduceFrom x v (i + 1) Q = redStep x.sub x.ty false (reduceFrom x v i Q) (reduceFrom x v i (Q ^^^ 2 ^ i))) ∧
    (xspecOf (.xscanXv ⟨false, .v 9, none, 0, false, 0, 48, only (.v 1), SrcX.unused, SrcX.unused, none⟩)).all
      (fun x => x.op == .inl .xscan && x.ws == 64 && x.sub == 6) = true :=
  ⟨by decide +kernel, fun _ _ _ _ => rfl, by decide +kernel⟩

/-- xbfly v9, v3, 1 among the members 0xFF. -/
def maskedCase : Instr := .xbflyXv ⟨false, .v 9, none, 0, false, 1, 0, only (.v 3), only (.const 1), only .lit, some 0xFF⟩

theorem witness_CrossLaneMasked : ∃ x o, xlOf maskedCase = some x ∧ x.mem = some o ∧ Ready maskedCase x.plan base 0 placedWave ent ∧
    readsOk placedWave (base.execMask placedWave ent x.p x.pn) (x.srcs ++ [o]) ∧ (∀ y ∈ placedWave.exch, y.pc ≠ ent.pc) ∧
    placedWave.exchClash ent.pc (base.readOpnd placedWave x.lit o 0) = false ∧
    base.execMask placedWave ent x.p x.pn &&& base.readOpnd placedWave x.lit o 0 ≠ 0 ∧
    -- lanes 8 and up are outside its members
    base.execMask placedWave ent x.p x.pn &&& ~~~(base.readOpnd placedWave x.lit o 0) ≠ 0 :=
  ⟨_, _, rfl, rfl, ready_of (by decide +kernel), fun _ => by decide +kernel, by decide +kernel, by decide +kernel, by decide +kernel,
    by decide +kernel⟩

/-- The arrival record of `maskedCase` with four members there, each asking for the lane 4 further on, outside them; and its
entry. -/
def fullExch : Exch := ⟨4096, 0xF, maskedCase, 0xF, 0xF, List.replicate 64 7, List.replicate 64 4, 0⟩
def exchEnt : Entry := ⟨4096, 0xF, 0, 0, .wait (.exch 4096 0xF), 16, []⟩
def exchWave : Wave := { placedWave with exch := [fullExch], frontier := [exchEnt] }

theorem witness_CrossLaneMasked_complete :
    exchEnt.st = .wait (.exch fullExch.pc fullExch.m) ∧
    exchWave.exch.find? (fun y => y.pc == fullExch.pc && y.m == fullExch.m) = some fullExch ∧ fullExch.complete exchWave = true ∧
    exchEnt.report = [] ∧ bad fullExch.instr = none ∧ fullExch.recv &&& ~~~exchWave.exited = 0xF ∧
    ∃ sp, xspecOf fullExch.instr = some sp ∧ sp.op = .inl .xbfly ∧
      flagsOk exchWave 0xF (exchange sp fullExch.m fullExch.arrived 0xF fullExch.a fullExch.b fullExch.pr exchWave.flush).flags ∧
      -- lane 0's source
      inMask fullExch.m (0 ^^^ ((fullExch.b.getD 0 0).toNat % 2 ^ 32 % sp.ws)) = false :=
  ⟨rfl, by decide +kernel, by decide +kernel, rfl, by decide +kernel, by decide +kernel, _, rfl, rfl,
    by show (enabledFlags _ _ _).1 = 0; decide +kernel, by decide +kernel⟩

/-! Control, traps and the checks before issue. -/

/-- `base` with a handler at 0x8000. -/
def baseH : State := { base with cp := { base.cp with ctxs := [(0, { placedCtx with desc := BitVec.ofNat 512 (0x8000 * 2 ^ 384) })] } }
/-- `base` with the handler, and another wave 0. -/
def withWaveH (w : Wave) : State := baseH.setWave 0 w
/-- Wave 0 in handler mode, with three lanes of its entry; lanes 3 and up are held at 0x200. -/
def handling : Wave :=
  { placedWave with
    frontier := [{ ent with mask := 7 }]
    handler := some ⟨Upper.none, 5, [⟨0x200, fullMask &&& ~~~7, 1, 2, .ready, 0, []⟩], 2, 9, 7, [], none⟩
    retpc := 0x300 }
/-- The entry of `handling`. -/
def ent7 : Entry := { ent with mask := 7 }
/-- An XT record of control: D 0, predicate `p`. -/
def xtCtl (p : Fin 16) (e8 : BitVec 8) (a : Src) (imm : BitVec 32) : Xt := xtRec (.v 0) p e8 a (.v 0) (.v 0) (.v 0) imm

/-- A control instruction is ready in `s`. -/
def ctlGoes (i : Instr) (s : State) (w : Wave) (e : Entry) : Bool :=
  match ctlOf i with
  | some (pl, _) => readyB i pl s 0 w e
  | none => false

theorem ctl_goes {i : Instr} {pl : Plan} {c : Ctl} {s : State} {w : Wave} {e : Entry} (h : ctlGoes i s w e = true)
    (hc : ctlOf i = some (pl, c)) : Ready i pl s 0 w e := by
  simp only [ctlGoes, hc] at h
  exact ready_of h

/-- Witness for StraightControl, one for each of its clauses; the longest SLEEP of each form. -/
theorem witness_StraightControl :
    (ctlOf (.nopXt (xtCtl 0 0 (.v 0) 0)) = some (scalarPlan, .nop) ∧ Ready (.nopXt (xtCtl 0 0 (.v 0) 0)) scalarPlan base 0 placedWave ent) ∧
    (ctlOf (.setprioBs true 3) = some (scalarPlan, .setprio 3) ∧ Ready (.setprioBs true 3) scalarPlan base 0 placedWave ent) ∧
    (ctlOf (.sleepBs false 0) = some (plainPlan, .sleep 0) ∧ Ready (.sleepBs false 0) plainPlan base 0 placedWave ent) ∧
    (ctlOf (.yieldBs false) = some (plainPlan, .yield) ∧ Ready (.yieldBs false) plainPlan base 0 placedWave ent) ∧
    (ctlOf (.sleepBs false 0x1FFFFF) = some (plainPlan, .sleep 0x1FFFFF) ∧ Ready (.sleepBs false 0x1FFFFF) plainPlan base 0 placedWave ent) :=
  by and_intros <;> first | rfl | exact ctl_goes (by decide +kernel) rfl

/-- bra taken by every lane, by none; bru on s15. -/
theorem witness_Branches :
    (Ready (.braBb ⟨false, 0, false, 1, 0x2000, none⟩) ⟨0, false, [], [], [0], .vec⟩ base 0 placedWave ent ∧
      ent.mask &&& maskOf (fun L => base.readP placedWave 0 L != false) ≠ 0) ∧
    (Ready (.braBb ⟨false, 1, false, 1, 4, none⟩) ⟨0, false, [], [], [1], .vec⟩ base 0 placedWave ent ∧
      ent.mask &&& maskOf (fun L => base.readP placedWave 1 L != false) = 0) ∧
    (Ready (.bruBb ⟨true, 15, true, 0, 0, some 8⟩) (basePlan [bruSrc ⟨true, 15, true, 0, 0, some 8⟩] [] .scalar) base 0 placedWave ent ∧
      readsOk placedWave (base.execMask placedWave ent 0 false) [bruSrc ⟨true, 15, true, 0, 0, some 8⟩]) := by
  and_intros <;> first | decide +kernel | exact reads_of (by decide +kernel) | exact ready_of (by decide +kernel)

theorem witness_JumpsAndCalls :
    (ctlOf (.jmpiBs false (.v 6) 2) = some (basePlan [targetSrc (.v 6)] [] .vec, .jump (.v 6) (some 2)) ∧
      Ready (.jmpiBs false (.v 6) 2) (basePlan [targetSrc (.v 6)] [] .vec) base 0 placedWave ent ∧
      readsOk placedWave (base.execMask placedWave ent 0 false) [targetSrc (.v 6)] ∧
      ∀ L, L < 64 → inMask (base.execMask placedWave ent 0 false) L = true →
        (base.readOpnd placedWave none (targetSrc (.v 6)) L).toNat % 4 = 0) ∧
    (ctlOf (.retXt (xtCtl 1 0 (.s 3) 0)) = some (xtPlan (xtCtl 1 0 (.s 3) 0) [targetSrc (.s 3)] [] .scalar, .jump (.s 3) none) ∧
      Ready (.retXt (xtCtl 1 0 (.s 3) 0)) (xtPlan (xtCtl 1 0 (.s 3) 0) [targetSrc (.s 3)] [] .scalar) base 0 placedWave ent ∧
      base.execMask placedWave ent 1 false = 0) ∧
    (ctlOf (.callBs false (.v 62) 0x3FFF) = some (basePlan [] (dstNamed (.v 62) true) (callPipe (.v 62)), .call (.v 62) (wordOfs 0x3FFF)) ∧
      Ready (.callBs false (.v 62) 0x3FFF) (basePlan [] (dstNamed (.v 62) true) (callPipe (.v 62))) base 0 placedWave ent ∧
      (ent.pc + wordOfs 0x3FFF).toNat % 4 = 0) :=
  ⟨⟨rfl, ctl_goes (by decide +kernel) rfl, reads_of (by decide +kernel), by decide +kernel⟩,
    ⟨rfl, ctl_goes (by decide +kernel) rfl, by decide +kernel⟩, ⟨rfl, ctl_goes (by decide +kernel) rfl, by decide +kernel⟩⟩

/-- Wave 0 with a record in j3 for its own address, and one in j1 for another. -/
def joining : Wave := { placedWave with j := [(1, ⟨0x2000, 15, 1⟩), (3, ⟨4096, 15, 1⟩)] }

theorem witness_JoinRegisters :
    (ctlOf (.jmarkBs false 1 10) = some (scalarPlan, .jmark 1 (wordOfs 10)) ∧ Ready (.jmarkBs false 1 10) scalarPlan (withWave joining) 0 joining ent) ∧
    (ctlOf (.joinBs false 3) = some (plainPlan, .join 3) ∧ Ready (.joinBs false 3) plainPlan (withWave joining) 0 joining ent ∧
      joining.j.get? 3 = some ⟨ent.pc, 15, 1⟩) ∧
    (ctlOf (.joinBs false 1) = some (plainPlan, .join 1) ∧ Ready (.joinBs false 1) plainPlan (withWave joining) 0 joining ent ∧
      joining.j.get? 1 = some ⟨0x2000, 15, 1⟩) :=
  ⟨⟨rfl, ctl_goes (by decide +kernel) rfl⟩, ⟨rfl, ctl_goes (by decide +kernel) rfl, by decide +kernel⟩,
    ⟨rfl, ctl_goes (by decide +kernel) rfl, by decide +kernel⟩⟩

/-- `base` with bank 7 of core 0's quad its group's. -/
def baseBank : State := { base with quads := [(0, { Quad.init with banks := [(7, { Bank.init with st := .owned, owner := 0 })] })] }

theorem witness_WaitsPark :
    (ctlOf (.waitcBs false 63 15 63) = some (plainPlan, .waitc 63 15 63) ∧ Ready (.waitcBs false 63 15 63) plainPlan base 0 placedWave ent) ∧
    (ctlOf (.cpywaitBs false 3 0) = some (plainPlan, .cpywait 3 0) ∧ Ready (.cpywaitBs false 3 0) plainPlan base 0 placedWave ent ∧
      placedWave.heldLater = false) ∧
    (ctlOf (.awaitBs false 7) = some (plainPlan, .await_ 7 none) ∧ Ready (.awaitBs false 7) plainPlan baseBank 0 placedWave ent ∧
      ((baseBank.quadAt (quadOfCore (coreOfWave 0))).bank 7).st ≠ .free ∧
      ((baseBank.quadAt (quadOfCore (coreOfWave 0))).bank 7).owner = placedWave.group) ∧
    (ctlOf (.lwaitBs false 3 0) = some (plainPlan, .lwait 3 0) ∧ Ready (.lwaitBs false 3 0) plainPlan base 0 placedWave ent) :=
  ⟨⟨rfl, ctl_goes (by decide +kernel) rfl⟩, ⟨rfl, ctl_goes (by decide +kernel) rfl, by decide +kernel⟩,
    ⟨rfl, ctl_goes (by decide +kernel) rfl, by decide +kernel, by decide +kernel⟩, ⟨rfl, ctl_goes (by decide +kernel) rfl⟩⟩

/-- exit if p1, no lane; exit, the last lanes. -/
theorem witness_ExitEndsLanes :
    (ctlOf (.exitXt (xtCtl 1 0 (.v 0) 0)) = some (xtPlan (xtCtl 1 0 (.v 0) 0) [] [] .none, .exit) ∧
      Ready (.exitXt (xtCtl 1 0 (.v 0) 0)) (xtPlan (xtCtl 1 0 (.v 0) 0) [] [] .none) base 0 placedWave ent ∧
      base.execMask placedWave ent 1 false = 0) ∧
    (ctlOf (.exitBs false) = some (plainPlan, .exit) ∧ Ready (.exitBs false) plainPlan base 0 placedWave ent ∧
      placedWave.lastLanes (base.execMask placedWave ent 0 false) = true ∧ placedWave.counter .xc = 0 ∧ placedWave.fencing = false ∧
      placedWave.reports = []) :=
  ⟨⟨rfl, ctl_goes (by decide +kernel) rfl, by decide +kernel⟩,
    ⟨rfl, ctl_goes (by decide +kernel) rfl, by decide +kernel, by decide +kernel, by decide +kernel, by decide +kernel⟩⟩

theorem witness_TrapInstructions :
    ∀ i ∈ [Instr.trapBs false 0xFFFF, .brkptBs true 0, .syscallBs false 7, .syscallXt { xtCtl 1 0 (.v 0) 7 with d := .null },
      .trapXt (xtCtl 0 0 (.v 0) 5), .brkptXt (xtCtl 0 0 (.v 0) 5)],
    ∃ pl c a, ctlOf i = some (pl, .trap c a) ∧ Ready i pl baseH 0 placedWave ent ∧ placedWave.handler = none ∧
      baseH.handlerOf placedWave ≠ 0 := by
  intro i hi
  have h : ctlGoes i baseH placedWave ent = true := by
    revert i
    decide +kernel
  simp only [List.mem_cons, List.not_mem_nil, or_false] at hi
  obtain rfl | rfl | rfl | rfl | rfl | rfl := hi <;> exact ⟨_, _, _, rfl, ctl_goes h rfl, rfl, by decide +kernel⟩

/-- Witness for TrapEntry: outside handler mode with a handler, in handler mode, and without one. -/
theorem witness_TrapEntry :
    (baseH.waveAt? 0 = some placedWave ∧ placedWave.frontier = ent :: placedWave.frontier.tail ∧ placedWave.handler = none ∧
      baseH.handlerOf placedWave ≠ 0 ∧ (baseH.coreAt (coreOfWave 0)).run = some 0) ∧
    ((withWaveH handling).waveAt? 0 = some handling ∧ handling.handler.isSome = true ∧
      (withWaveH handling).launchAt? handling.launch = some placedLaunch) ∧
    (base.waveAt? 0 = some placedWave ∧ base.handlerOf placedWave = 0 ∧ base.launchAt? placedWave.launch = some placedLaunch) := by
  decide +kernel

/-- A wave with a trap due at its entry, and one in its 25th issue slot. -/
def dueWave : Wave := { placedWave with frontier := [{ ent with report := [⟨.fabric, true, false, 0, 0, 1, 0, false⟩] }] }
def fullRun : Wave := { placedWave with run := ⟨true, 24, 0⟩ }
def lastSlot : Wave := { placedWave with run := ⟨true, 23, 0⟩ }
/-- A special function of 64 lanes on v9 whose 256 cycles have gone. -/
def overdueOp : LOp := ⟨5, .xc, 4096, .value, fullMask, fullMask, fullMask, [⟨.v 9, fullMask, List.replicate 64 7, 0⟩], false, false, none, 0, 0, some 0⟩
def overdueWave : Wave := { placedWave with lops := [overdueOp] }
/-- `base` at cycle 1,000 of core 0, with that wave beside wave 0. -/
def lateState : State := { base with waves := base.waves.set 1 overdueWave, cores := base.cores.set 0 { base.coreAt 0 with cycle := 1000 } }
/-- iadd v8, v1, v2. -/
def plainAdd : Instr := .iaddBv ⟨false, .v 8, .v 1, .v 2, none⟩

theorem no_overdue (s : State) (h : ∀ e ∈ s.waves, e.2.lops = []) (c t : Nat) : s.overdue c t = [] := by
  simp only [State.overdue, List.flatMap_eq_nil_iff]
  intro e he
  simp [Wave.overdue, h e he]

theorem witness_ChecksBeforeIssue :
    isWord (.nopBs false) = true ∧ isWord (.haltwXt xtPlain) = true ∧
    ((withWave dueWave).issuer = some (0, dueWave, dueWave.frontier.headD ent) ∧ (dueWave.dueTrap (dueWave.frontier.headD ent)).isSome = true) ∧
    ((withWave fullRun).issuer = some (0, fullRun, ent) ∧ fullRun.dueTrap ent = none ∧ fullRun.fenceDue ent = none ∧ 24 ≤ fullRun.run.slots) ∧
    ((withWave lastSlot).issuer = some (0, lastSlot, ent) ∧ lastSlot.dueTrap ent = none ∧ lastSlot.fenceDue ent = none ∧
      lastSlot.run.slots < 24 ∧ isWord (.iaddBv ⟨false, .v 64, .v 1, .v 2, none⟩) = true ∧
      bad (.iaddBv ⟨false, .v 64, .v 1, .v 2, none⟩) = some 128 ∧
      bad (.haltwXt xtPlain) = none ∧ privileged (.haltwXt xtPlain) = true ∧ lastSlot.handler = none) := by decide +kernel

/-- Nothing is overdue in those waves; an operation whose 256 cycles have gone is. -/
theorem witness_ChecksBeforeIssue_overdue :
    (∀ w ∈ [dueWave, fullRun, lastSlot], ∀ t, (withWave w).overdue 0 t = []) ∧
    ∃ p pn a, aluOf lateState plainAdd = some (p, pn, a) ∧ lateState.issuer = some (0, placedWave, ent) ∧
      lateState.overdue 0 (slotOf (lateState.coreAt 0) placedWave (a.plan p pn)).t ≠ [] ∧
      ((lateState.landOverdue 0 (slotOf (lateState.coreAt 0) placedWave (a.plan p pn)).t).issuer).isSome = true := by
  refine ⟨fun w hw t => no_overdue _ ?_ 0 t, _, _, _, rfl, by decide +kernel, by decide +kernel, by decide +kernel⟩
  revert hw
  revert w
  decide +kernel

/-- `handling` with a second entry of the handler's that has not reached a TRET, and with TRAPRUN.NEWRUN. -/
def handling2 : Wave := { handling with frontier := [{ ent with mask := 3 }, { ent with mask := 4, pc := 0x400 }] }

def handling3 : Wave := { handling with traprun := 0x25 }
/-- `handling` with the handler's other entry waiting on its TRET. -/
def handling4 : Wave := { handling with frontier := [{ ent with mask := 3 }, { ent with mask := 4, pc := 0x400, st := .wait .tret }] }

theorem witness_TretReturns :
    (ctlOf (.tretBs false) = some (plainPlan, .tret) ∧ Ready (.tretBs false) plainPlan base 0 placedWave ent ∧ placedWave.handler = none) ∧
    (Ready (.tretBs false) plainPlan (withWaveH handling2) 0 handling2 { ent with mask := 3 } ∧
      ∃ q ∈ handling2.frontier.tail, q.st ≠ .wait .tret ∧ q.mask ≠ 0) ∧
    (Ready (.tretBs false) plainPlan (withWaveH handling) 0 handling ent7 ∧ handling.handler.isSome = true ∧ handling.frontier.tail = [] ∧
      ent7.mask ≠ 0 ∧ handling.traprun.getLsbD 5 = false) ∧
    (Ready (.tretBs false) plainPlan (withWaveH handling3) 0 handling3 ent7 ∧ handling3.traprun.getLsbD 5 = true) ∧
    (Ready (.tretBs false) plainPlan (withWaveH handling4) 0 handling4 { ent with mask := 3 } ∧ handling4.frontier.tail ≠ [] ∧
      ∀ q ∈ handling4.frontier.tail, q.st = .wait .tret ∨ q.mask = 0) :=
  ⟨⟨rfl, ctl_goes (by decide +kernel) rfl, rfl⟩, ⟨ready_of (by decide +kernel), by decide +kernel⟩,
    ⟨ready_of (by decide +kernel), by decide +kernel, by decide +kernel, by decide +kernel, by decide +kernel⟩,
    ⟨ready_of (by decide +kernel), by decide +kernel⟩, ⟨ready_of (by decide +kernel), by decide +kernel, by decide +kernel⟩⟩

/-! Memory, copies, rendezvous, the matrix array and the system. -/

/-- Wave 0 with addresses in s2 (a page of device memory), s3 (a page of device 9) and s6 (rendezvous 0 of its partition), tiles in
s4, s5 and s8 (two of E4M3, one of F32), and 8 in s7. -/
def worker : Wave :=
  { placedWave with s := [(2, 4096), (3, 0x2000), (4, 0x100), (5, 0x101), (6, 0xFE00000000000000), (7, 8), (8, 0x102)] }
/-- A mapped tile of group 0. -/
def tile (off rows fmt : Nat) : HandleEntry := ⟨.mapped, 1, 0, off, rows, false, false, 0, fmt⟩
/-- The page of device 9's window 2: V, LEAF, R, W, A and TGT 3. -/
def farPte : DWord := BitVec.ofNat 64 (0xEF + 9 * 2 ^ 12 + 2 * 2 ^ 24)
/-- The core of `work`. -/
def workCore : Core :=
  { Core.init with run := some 0, tlb := [⟨0, 4096, 4096, placedPte⟩, ⟨0, 8192, 4096, farPte⟩],
                   handles := [(0, tile 0 128 0), (1, tile 16384 128 0), (2, tile 32768 16 7)] }
/-- The quad of `work`: bank 7 is free, the others group 0's. -/
def workQuad : Quad :=
  { Quad.init with banks := (List.range 7).map fun b => (b, { Bank.init with st := .owned, owner := 0 }) }
/-- `base` with such a wave: a partition of 64 KiB, tiles, banks, and this device a Meridian member. -/
def work : State :=
  { base with
    waves := [(0, worker)]
    groups := base.groups.mapVals fun _ (g : Group) => { g with size := 65536 }
    cores := [(0, workCore)]
    quads := [(0, workQuad)]
    mer := { base.mer with st := .member } }
/-- `work` with another wave 0. -/
def workWith (w : Wave) : State := work.setWave 0 w

/-- ld.b32 v8, [s2 + lane<<2]; st.b32 v8, [s2] under p1, that no lane executes; atom.add; redf.add.f64 with release; cas; ldnf; sld; sst. -/
def accessCases : List Instr :=
  [.ldXm ⟨false, .v 8, 0, false, .b32, .device, .acquire, .s 2, false, .lane, 2, 0, 0, some 3, 0, none⟩,
    .stXm ⟨false, .v 8, 1, false, .b32, .device, .relaxed, .s 2, false, .const 0, 0, 0, 0, none, 0, none⟩,
    .stBm ⟨false, .v 8, .s 2, 15, .b128⟩,
    .atomXm ⟨false, .v 8, 0, false, .b32, .device, .acqrel, .s 2, false, .lane, 2, 0, 0, none, 0, none⟩,
    .redfXm ⟨true, .v 8, 0, false, .b64, .system, .release, .s 2, false, .lane, 3, 0, 0, none, 3, none⟩,
    .casXm ⟨false, .v 8, 0, false, .b32, .device, .relaxed, .s 2, false, .const 0, 0, 4, 0, none, 4, none⟩,
    .ldnfBm ⟨false, .v 8, .s 2, 0, .b8⟩, .sldBm ⟨false, .s 9, .s 2, 0, .b64⟩, .sstBm ⟨true, .s 7, .s 2, 0, .b16⟩]

/-- The parts of each lane's access, when its checks pass. -/
def partsOf (r : Except (LaneRes × Nat) (List (Nat × Option Parts))) : Option (List (Nat × Option Parts)) :=
  match r with | .ok l => some l | .error _ => none
theorem parts_of {r : Except (LaneRes × Nat) (List (Nat × Option Parts))} {l : List (Nat × Option Parts)} (h : partsOf r = some l) :
    r = .ok l := by unfold partsOf at h; split at h <;> simp_all

/-- Every condition of MemoryIssue, as a test. -/
def accessGoes (i : Instr) : Bool :=
  match accessOf i with
  | none => false
  | some m =>
    match partsOf (m.checks (issOf i m.plan work 0 worker ent) work).2 with
    | none => false
    | some ps => readyB i m.plan work 0 worker ent && (m.dead worker (work.execMask worker ent m.p m.pn)).isNone &&
        (ps.all fun q => match q.2 with | none => true | some p => p.all fun y => y.2.2.1.isLocal) &&
        (!m.ord.releases || (m.checks (issOf i m.plan work 0 worker ent) work).1.released 0 m.scope) &&
        (m.op.ctr == .none || !worker.full m.op.ctr)

theorem witness_MemoryIssue : ∀ i ∈ accessCases, ∃ m ps, accessOf i = some m ∧ Ready i m.plan work 0 worker ent ∧
    m.dead worker (work.execMask worker ent m.p m.pn) = none ∧ (m.checks (issOf i m.plan work 0 worker ent) work).2 = .ok ps ∧
    (∀ q ∈ ps, ∀ p, q.2 = some p → ∀ y ∈ p, y.2.2.1.isLocal = true) ∧ work.Settled ∧ worker.heldLater = false ∧
    (m.ord.releases = true → (m.checks (issOf i m.plan work 0 worker ent) work).1.released 0 m.scope = true) ∧
    (m.op.ctr ≠ .none → worker.full m.op.ctr = false) ∧ work.needsSlots (.wave 0) = false := by
  have hall : accessCases.all accessGoes = true := by decide +kernel
  intro i hi
  have h := List.all_eq_true.mp hall i hi
  unfold accessGoes at h
  split at h
  · simp at h
  · rename_i m hm
    split at h
    · simp at h
    · rename_i ps hp
      simp only [Bool.and_eq_true, Option.isNone_iff_eq_none, List.all_eq_true, Bool.or_eq_true, Bool.not_eq_true', beq_iff_eq] at h
      obtain ⟨⟨⟨⟨h1, h2⟩, h3⟩, h4⟩, h5⟩ := h
      refine ⟨m, ps, hm, ready_of h1, h2, parts_of hp, fun q hq p hqp y hy => ?_, by show ∀ a ∈ work.mem.accs, _; decide +kernel,
        by decide +kernel, fun ho => ?_, fun hc => ?_, by decide +kernel⟩
      · have := h3 q hq
        rw [hqp] at this
        exact List.all_eq_true.mp this y hy
      · rcases h4 with h | h
        · simp [h] at ho
        · exact h
      · rcases h5 with h | h
        · exact absurd h hc
        · exact h

/-- ld.b64 v8, [s2 + 4] is off its boundary. -/
def misCase : Instr := .ldXm ⟨false, .v 8, 0, false, .b64, .device, .relaxed, .s 2, false, .const 0, 0, 4, 0, none, 0, none⟩
/-- The first failing lane's trap, when one fails so. -/
def trapOf (r : Except (LaneRes × Nat) (List (Nat × Option Parts))) : Option (Cause × Nat) :=
  match r with | .error (.trap c, va) => some (c, va) | _ => none
theorem trap_of {r : Except (LaneRes × Nat) (List (Nat × Option Parts))} {c : Cause} {va : Nat} (h : trapOf r = some (c, va)) :
    r = .error (.trap c, va) := by unfold trapOf at h; split at h <;> simp_all

/-- AccessChecks: addresses at the ends of their ranges, and an instruction whose lane fails. -/
theorem witness_AccessChecks :
    (4097 % 2 ≠ 0) ∧ (0xFE00000000000000 % 4 = 0 ∧ 0xFEFFFFFFFFFFFFFC < 0xFF00000000000000 ∧ (work.groupAt? worker.group).isSome = true) ∧
    (0xFF00000000000000 % 4 = 0 ∧ (work.launchAt? worker.launch).isSome = true ∧ placedLaunch.pb < 0 + 4) ∧
    (2 ^ 57 % 8 = 0 ∧ (2 : Nat) ^ 57 < 0xFE00000000000000) ∧
    ∃ m, accessOf misCase = some m ∧ Ready misCase m.plan work 0 worker ent ∧
      m.dead worker (work.execMask worker ent m.p m.pn) = none ∧
      (m.checks (issOf misCase m.plan work 0 worker ent) work).2 = .error (.trap .misalign, 4100) :=
  ⟨by decide, by decide +kernel, by decide +kernel, by decide, _, rfl, ready_of (by decide +kernel), by decide +kernel,
    trap_of (by decide +kernel)⟩

/-- ld.b32 v8, [s3 + lane], 16 lanes of one word each in one line of device 9. -/
def farCase : Instr := .ldXm ⟨false, .v 8, 0, false, .b8, .fabric, .relaxed, .s 3, false, .lane, 0, 0, 0, none, 0, none⟩

/-- Every lane's access lies in the line 0 of window 2 of device 9. -/
def allFar (ps : List (Nat × Option Parts)) : Bool :=
  !ps.isEmpty && ps.all fun q => match q.2 with
    | none => false
    | some p => !p.isEmpty && p.all fun y => y.2.2.1.farLine == some (false, 9, 2, 0)

theorem witness_RemoteIssue : ∃ m ps, accessOf farCase = some m ∧ Ready farCase m.plan work 0 worker ent ∧
    m.dead worker (work.execMask worker ent m.p m.pn) = none ∧ (m.checks (issOf farCase m.plan work 0 worker ent) work).2 = .ok ps ∧
    ps ≠ [] ∧ (∀ q ∈ ps, ∃ p, q.2 = some p ∧ p ≠ [] ∧ ∀ y ∈ p, y.2.2.1.farLine = some (false, 9, 2, 0)) ∧ work.Settled ∧
    worker.heldLater = false ∧ m.ord.releases = false ∧ worker.full m.op.ctr = false ∧ work.needsSlots (.wave 0) = false ∧
    work.isMember = true ∧ (∀ a ∈ work.mem.accs, a.id < work.nextId) ∧ work.freeSlot false 0 8 = some 0 := by
  obtain ⟨m, hm⟩ : ∃ m, accessOf farCase = some m := ⟨_, rfl⟩
  have h : (match accessOf farCase with
      | some m => match partsOf (m.checks (issOf farCase m.plan work 0 worker ent) work).2 with
        | some ps => allFar ps && readyB farCase m.plan work 0 worker ent && (m.dead worker (work.execMask worker ent m.p m.pn)).isNone &&
            !m.ord.releases && !worker.full m.op.ctr
        | none => false
      | none => false) = true := by decide +kernel
  rw [hm] at h
  simp only at h
  split at h
  · rename_i ps hp
    simp only [Bool.and_eq_true, Option.isNone_iff_eq_none, Bool.not_eq_true'] at h
    obtain ⟨⟨⟨⟨h1, h2⟩, h3⟩, h4⟩, h5⟩ := h
    simp only [allFar, Bool.and_eq_true, Bool.not_eq_true', List.isEmpty_eq_false_iff, List.all_eq_true] at h1
    refine ⟨m, ps, hm, ready_of h2, h3, parts_of hp, h1.1, fun q hq => ?_, by show ∀ a ∈ work.mem.accs, _; decide +kernel, by decide +kernel,
      h4, h5, by decide +kernel, by decide +kernel, by decide +kernel, by decide +kernel⟩
    have := h1.2 q hq
    split at this
    · simp at this
    · rename_i p hq2
      simp only [Bool.and_eq_true, Bool.not_eq_true', List.isEmpty_eq_false_iff, List.all_eq_true, beq_iff_eq] at this
      exact ⟨p, hq2, this.1, this.2⟩
  · simp at h

/-- pref, cinv and cdemote of [s2], pgreq of a page that is there, and fences with a status, without one and without a lane. -/
def hintXm (op : Xm → Instr) (x : Src) : Instr :=
  op ⟨false, .v 0, 0, false, .b8, .group, .relaxed, .s 2, false, x, 2, 0, 0, none, 0, none⟩
def fenceCase (d : Dst) (p : Fin 16) : Xm := ⟨false, d, p, false, .b8, .system, .relaxed, .v 0, false, .v 0, 0, 0, 0, none, 0, none⟩
/-- A hint (`act`) or PGREQ is ready in `work`, and no source stops it. -/
def hintGoes (i : Instr) (act : Bool) : Bool :=
  match hintOf i with
  | some (m, pl, a) => a.isSome == act && readyB i pl work 0 worker ent && (m.dead worker (work.execMask worker ent m.p m.pn)).isNone
  | none => false

theorem witness_FencesAndHints :
    (∀ i ∈ [hintXm .prefXm .lane, hintXm .cinvXm (.const 0), hintXm .cdemoteXm .lane, .prefBm ⟨false, .s 2, 15⟩], hintGoes i true = true) ∧
    (hintGoes (hintXm .pgreqXm .lane) true = false ∧ hintGoes (hintXm .pgreqXm .lane) false = true) ∧ worker.heldLater = false ∧
    (∀ m pl, hintOf (hintXm .pgreqXm .lane) = some (m, pl, none) →
      let r := work.absentPages (issOf (hintXm .pgreqXm .lane) pl work 0 worker ent)
        ((lanesIn (work.execMask worker ent m.p m.pn)).map fun L => (m.addr work worker L).toNat)
      (r.1.postAll worker.ctx worker.launch (distinct r.2)).2 = []) ∧
    (Ready (.fenceXm (fenceCase (.s 9) 0)) ⟨0, false, [], dstNamed (.s 9) true, [], .none⟩ work 0 worker ent ∧ worker.full .sc = false ∧
      work.execMask worker ent 0 false ≠ 0) ∧
    (Ready (.fenceXm (fenceCase .null 1)) ⟨1, false, [], [], [], .none⟩ work 0 worker ent ∧ work.execMask worker ent 1 false = 0) ∧
    -- pref of [s6], an address in the group's partition
    (hintGoes (.prefBm ⟨false, .s 6, 0⟩) true = true ∧
      ∀ L, L < 64 → 2 ^ 57 ≤ ((memBm .pref ⟨false, .v 0, .s 6, 0, .b8⟩).addr work worker L).toNat) := by
  refine ⟨by decide +kernel, by decide +kernel, by decide +kernel, ?_, ⟨ready_of (by decide +kernel), by decide +kernel, by decide +kernel⟩,
    ⟨ready_of (by decide +kernel), by decide +kernel⟩, by decide +kernel, by decide +kernel⟩
  intro m pl h
  have : m = memXm .pgreq (match hintXm .pgreqXm .lane with | .pgreqXm f => f | _ => fenceCase .null 0) ∧
      pl = { (memXm .pgreq (match hintXm .pgreqXm .lane with | .pgreqXm f => f | _ => fenceCase .null 0)).plan with dsts := [] } := by
    simp only [hintXm, hintOf, Option.some.injEq, Prod.mk.injEq] at h
    exact ⟨h.1.symm, h.2.1.symm⟩
  obtain ⟨rfl, rfl⟩ := this
  decide +kernel

/-- The value of a check, when it passes. -/
def okOf {α : Type} (r : Except (Cause × DWord) α) : Option α := match r with | .ok x => some x | .error _ => none
theorem ok_of {α : Type} {r : Except (Cause × DWord) α} {x : α} (h : okOf r = some x) : r = .ok x := by
  unfold okOf at h; split at h <;> simp_all

/-- The XT record of an instruction on tile s4, memory s2, stride s7 and the rendezvous of s6. -/
def engXt (d : Dst) (imm : BitVec 32) : Xt := xtRec d 0 0 (.s 4) (.s 2) (.s 7) (.s 6) imm
/-- cpy [s6], [s2], 4 bytes, under predicate `p`. -/
def cpyXt (p : Fin 16) : Xt := xtRec .null p 0 (.s 6) (.s 2) (.const 4) (.v 0) 0

theorem witness_CopyInstructions :
    (Ready (.tcopyXt (engXt (.s 9) 127)) (basePlan (tcopyI (engXt (.s 9) 127)).srcs (dstNamed (.s 9) true) .none) work 0 worker ent ∧
      (tcopyI (engXt (.s 9) 127)).check (issOf (.tcopyXt (engXt (.s 9) 127)) (basePlan (tcopyI (engXt (.s 9) 127)).srcs (dstNamed (.s 9) true) .none) work 0 worker ent) work = .ok 0 ∧
      worker.full .xc = false) ∧
    (Ready (.tstoreXt (engXt .null 0)) (basePlan (tstoreI (engXt .null 0)).srcs [] .none) work 0 worker ent ∧
      (tstoreI (engXt .null 0)).check (issOf (.tstoreXt (engXt .null 0)) (basePlan (tstoreI (engXt .null 0)).srcs [] .none) work 0 worker ent) work = .ok 0 ∧
      work.oprdyHolds 0 worker = false) ∧
    (Ready (.tgatherXt (engXt .null 1)) (basePlan (tgatherI (engXt .null 1)).srcs [] .none) work 0 worker ent ∧
      (tgatherI (engXt .null 1)).check (issOf (.tgatherXt (engXt .null 1)) (basePlan (tgatherI (engXt .null 1)).srcs [] .none) work 0 worker ent) work = .ok 0) ∧
    (readsOk worker (work.execMask worker ent 0 false) (tcopyI (engXt (.s 9) 127)).srcs ∧ worker.heldLater = false ∧
      work.tceFull (coreOfWave 0) = false) ∧
    (Ready (.cpyXt (cpyXt 0)) (xtPlan (cpyXt 0) (cpySrcs (cpyXt 0)) [] .none) work 0 worker ent ∧
      readsOk worker (work.execMask worker ent 0 false) (cpySrcs (cpyXt 0)) ∧ work.execMask worker ent 0 false ≠ 0 ∧
      worker.full (.bc (cpyTag (cpyXt 0))) = false ∧ work.needsSlots (.wave 0) = false) ∧
    (Ready (.cpyXt (cpyXt 1)) (xtPlan (cpyXt 1) (cpySrcs (cpyXt 1)) [] .none) work 0 worker ent ∧ work.execMask worker ent 1 false = 0) := by
  and_intros <;> first | decide +kernel | exact ok_of (by decide +kernel) | exact reads_of (by decide +kernel) | exact ready_of (by decide +kernel)

/-- The lanes of the CPY pass their checks, and read device memory. -/
theorem witness_CopyInstructions_lanes : ∃ l, (work.cpyLanes (issOf (.cpyXt (cpyXt 0)) (xtPlan (cpyXt 0) (cpySrcs (cpyXt 0)) [] .none) work 0 worker ent)
      (cpySize (cpyXt 0)) ((lanesIn (work.execMask worker ent 0 false)).map fun L => (L, min 4 (cpySize (cpyXt 0)), 0xFE00000000000000, 4096))).2 = .ok l ∧
    ∀ q ∈ l, ∀ y ∈ q.2.2, y.2.2.1.isLocal = true := by
  have h : (match (work.cpyLanes (issOf (.cpyXt (cpyXt 0)) (xtPlan (cpyXt 0) (cpySrcs (cpyXt 0)) [] .none) work 0 worker ent)
      (cpySize (cpyXt 0)) ((lanesIn (work.execMask worker ent 0 false)).map fun L => (L, min 4 (cpySize (cpyXt 0)), 0xFE00000000000000, 4096))).2 with
    | .ok l => l.all fun q => q.2.2.all fun y => y.2.2.1.isLocal
    | .error _ => false) = true := by decide +kernel
  split at h
  · rename_i l hl
    simp only [List.all_eq_true] at h
    exact ⟨l, hl, h⟩
  · simp at h

/-- A rendezvous instruction on s6 with the value 2. -/
def rdvXt (d : Dst) (b c : Src) : Xt := xtRec d 0 0 (.s 6) b c (.v 0) 0

theorem witness_RendezvousUpdates :
    (Ready (.rdvinitXt (rdvXt .null (.const 2) (.v 0))) (basePlan [uni (.s 6), uni (.const 2)] [] .none) work 0 worker ent ∧
      readsOk worker (work.execMask worker ent 0 false) [uni (.s 6), uni (.const 2)]) ∧
    (Ready (.rdvarrXt (rdvXt .null (.v 0) (.v 0))) (xtPlan (rdvXt .null (.v 0) (.v 0)) [uni (.s 6)] [] .none) work 0 worker ent ∧
      readsOk worker (work.execMask worker ent 0 false) [uni (.s 6)]) ∧
    Ready (.rdvexpXt (rdvXt .null (.s 7) (.v 0))) (basePlan [uni (.s 6), uni (.s 7)] [] .none) work 0 worker ent ∧
    work.rdvCheck worker.group (work.readOpnd worker none (uni (.s 6)) 0) = .ok 0 ∧ worker.heldLater = false := by
  and_intros <;> first | decide +kernel | exact ok_of (by decide +kernel) | exact reads_of (by decide +kernel) | exact ready_of (by decide +kernel)

/-- The rendezvous object of an empty partition has phase 0; one with a byte that no update leaves is malformed. -/
def workGroup : Group := (work.groupAt? 0).getD ⟨0, 0, 0, 0, 0, [], [], false, [], [], [], 0, 0⟩
def badRdv : State :=
  { work with groups := work.groups.mapVals fun _ (g : Group) => { g with scratch := Memory.write [] 0 (List.replicate 32 255) },
              cp := baseH.cp }
/-- An object with ERR set in a group whose error flag is set. -/
def errRdv : State :=
  { work with groups := work.groups.mapVals fun _ (g : Group) => { g with err := true, scratch := Memory.write [] 0 (bytesOf 32 (2 ^ 65)) } }

theorem witness_RendezvousWaits :
    (Ready (.rdvwaitXt (rdvXt (.s 9) (.const 1) (.v 0))) (basePlan [uni (.s 6), uni (.const 1)] (dstNamed (.s 9) true) .none) work 0 worker ent ∧
      (workGroup.rdv 0).malformed = false ∧ (workGroup.rdv 0).phase = false ∧ workGroup.err = false ∧ worker.reports = [] ∧
      (workGroup.rdv 0).err = false ∧ work.groupAt? worker.group = some workGroup ∧ work.initPending 0 worker.group 0 work.nextId = false) ∧
    Ready (.rdvwaitXt (rdvXt .null (.const 0) (.v 0))) (basePlan [uni (.s 6), uni (.const 0)] (dstNamed .null true) .none) work 0 worker ent ∧
    Ready (.pwaitXt (rdvXt (.s 9) (.const 1) (.const 0))) (basePlan [uni (.s 6), uni (.const 1), uni (.const 0)] (dstNamed (.s 9) true) .none) work 0 worker ent ∧
    Ready (.pwaitXt (rdvXt (.s 9) (.const 1) (.s 7))) (basePlan [uni (.s 6), uni (.const 1), uni (.s 7)] (dstNamed (.s 9) true) .none) work 0 worker ent ∧
    (Ready (.rdvtestXt (rdvXt (.s 9) (.v 0) (.v 0))) (basePlan [uni (.s 6)] (dstNamed (.s 9) true) .none) work 0 worker ent ∧ worker.full .xc = false) ∧
    (Ready (.rdvwaitXt (rdvXt (.s 9) (.const 1) (.v 0))) (basePlan [uni (.s 6), uni (.const 1)] (dstNamed (.s 9) true) .none) badRdv 0 worker ent ∧
      (((badRdv.groupAt? 0).getD workGroup).rdv 0).malformed = true ∧ worker.handler = none ∧ badRdv.handlerOf worker ≠ 0) ∧
    (Ready (.rdvwaitXt (rdvXt .null (.const 1) (.v 0))) (basePlan [uni (.s 6), uni (.const 1)] (dstNamed .null true) .none) errRdv 0 worker ent ∧
      ∃ g, errRdv.groupAt? worker.group = some g ∧ g.err = true ∧ (g.rdv 0).err = true ∧ (g.rdv 0).malformed = false ∧ (g.rdv 0).phase = false ∧
        errRdv.initPending 0 worker.group 0 errRdv.nextId = false) :=
  ⟨⟨ready_of (by decide +kernel), by and_intros <;> decide +kernel⟩, ready_of (by decide +kernel), ready_of (by decide +kernel), ready_of (by decide +kernel),
    ⟨ready_of (by decide +kernel), by decide +kernel⟩, ⟨ready_of (by decide +kernel), by decide +kernel, by decide +kernel, by decide +kernel⟩,
    ⟨ready_of (by decide +kernel), _, rfl, by decide +kernel, by decide +kernel, by decide +kernel, by decide +kernel, by decide +kernel⟩⟩

/-- aclaim of banks 0 and 7; arel of a bank that is not the group's; azero of bank 0. -/
def maskXt (m : BitVec 8) : Xt := xtRec .null 0 m (.v 0) (.v 0) (.v 0) (.v 0) 0

theorem witness_BankInstructions :
    Ready (.aclaimXt (maskXt 0x81)) plainPlan work 0 worker ent ∧ Ready (.arelXt (maskXt 0x80)) plainPlan work 0 worker ent ∧
    Ready (.azeroXt (maskXt 0)) plainPlan work 0 worker ent ∧
    -- every bank of ACLAIM's mask and of AZERO's is fit; bank 7 is not AREL's
    ((work.quadAt 0).bank 7).st = .free ∧ ((work.quadAt 0).bank 0).ownedBy worker.group = true ∧ ((work.quadAt 0).bank 7).ownedBy worker.group = false ∧
    BitVec.twoPow 8 0 = (1 : BitVec 8) ∧ worker.heldLater = false ∧ work.arrayFull (coreOfWave 0) = false := by
  and_intros <;> first | decide +kernel | exact ready_of (by decide +kernel)

/-- mma.e4m3 acc`b`, s4, s5 and mmag with an index array, crediting s6's object; ardtile names s8. -/
def mmaXt (b : BitVec 8) (c : Src) (imm : BitVec 32) : Xt := xtRec .null 0 b (.s 4) (.s 5) c (.s 6) imm
/-- The issue of an array instruction. -/
def arrayIss (i : Instr) (f : Xt) (l : List Src) : Iss := issOf i (basePlan (arraySrcs f l) [] .none) work 0 worker ent
/-- The trap of a check, when it fails. -/
def errOf {α : Type} (r : Except (Cause × DWord) α) : Option (Cause × DWord) := match r with | .error x => some x | .ok _ => none
theorem err_of {α : Type} {r : Except (Cause × DWord) α} {x : Cause × DWord} (h : errOf r = some x) : r = .error x := by
  unfold errOf at h; split at h <;> simp_all

theorem witness_MatrixInstructions :
    (Ready (.mmaXt (mmaXt 6 (.v 0) 0)) (basePlan (arraySrcs (mmaXt 6 (.v 0) 0) [.s 4, .s 5]) [] .none) work 0 worker ent ∧
      opCheck false (mmaXt 6 (.v 0) 0) (arrayIss (.mmaXt (mmaXt 6 (.v 0) 0)) (mmaXt 6 (.v 0) 0) [.s 4, .s 5]) work = .ok (some 0, .mma 0 0x100 0x101) ∧
      work.arrayHeld (arrayIss (.mmaXt (mmaXt 6 (.v 0) 0)) (mmaXt 6 (.v 0) 0) [.s 4, .s 5]) = false ∧
      readsOk worker (work.execMask worker ent 0 false) (arraySrcs (mmaXt 6 (.v 0) 0) [.s 4, .s 5])) ∧
    opCheck false (mmaXt 7 (.v 0) 0) (arrayIss (.mmaXt (mmaXt 7 (.v 0) 0)) (mmaXt 7 (.v 0) 0) [.s 4, .s 5]) work = .error (.accown, 0x80) ∧
    (Ready (.mmagXt (mmaXt 0 (.const 0) 0x3F8)) (basePlan (arraySrcs (mmaXt 0 (.const 0) 0x3F8) [.s 4, .s 5, .const 0]) [] .none) work 0 worker ent ∧
      opCheck true (mmaXt 0 (.const 0) 0x3F8) (arrayIss (.mmagXt (mmaXt 0 (.const 0) 0x3F8)) (mmaXt 0 (.const 0) 0x3F8) [.s 4, .s 5, .const 0]) work =
        .ok (some 0, .mmag 0 0x100 0x101 0 128)) := by
  and_intros <;> first | decide +kernel | exact err_of (by decide +kernel) | exact ok_of (by decide +kernel) | exact reads_of (by decide +kernel) | exact ready_of (by decide +kernel)

/-- ard v8, acc0, row 120, 16 registers; adrain and aload of acc0 and tile s8. -/
def ardXt : Xt := xtRec (.v 8) 0 0 (.v 0) (.v 0) (.v 0) (.v 0) 0x7F8
def bankTileXt (imm : BitVec 32) : Xt := xtRec .null 0 0 (.s 8) (.v 0) (.v 0) (.s 6) imm

theorem witness_BankTransfers :
    (Ready (.ardXt { ardXt with imm := 0x7F8 - 8 }) (xtPlan { ardXt with imm := 0x7F8 - 8 } [] [(.v 8, 16)] .none) work 0 worker ent ∧
      ((work.quadAt 0).bank 0).ownedBy worker.group = true ∧ worker.full .xc = false) ∧
    (Ready (.adrainXt (bankTileXt 0x180)) (basePlan (arraySrcs (bankTileXt 0x180) [.s 8]) [] .none) work 0 worker ent ∧
      work.rdvOpt (arrayIss (.adrainXt (bankTileXt 0x180)) (bankTileXt 0x180) [.s 8]) (bankTileXt 0x180) true = .ok (some 0)) ∧
    (Ready (.aloadXt (bankTileXt 0x180)) (basePlan (arraySrcs (bankTileXt 0x180) [.s 8]) [] .none) work 0 worker ent ∧
      work.rdvOpt (arrayIss (.aloadXt (bankTileXt 0x180)) (bankTileXt 0x180) [.s 8]) (bankTileXt 0x180) false = .ok (some 0) ∧
      work.tileCheck (coreOfWave 0) worker.group 0x102 = .ok (tile 32768 16 7) ∧
      tileRow0 0x102 + 4 * 4 ≤ 16 ∧ tileRow0 0x102 + rowsPer 7 * 4 ≤ 16 ∧ readsOk worker (work.execMask worker ent 0 false) (arraySrcs (bankTileXt 0x180) [.s 8])) ∧
    (ctlOf (.oprdyBs true) = some (plainPlan, .oprdy) ∧ Ready (.oprdyBs true) plainPlan work 0 worker ent) :=
  ⟨⟨ready_of (by decide +kernel), by decide +kernel, by decide +kernel⟩, ⟨ready_of (by decide +kernel), ok_of (by decide +kernel)⟩,
    ⟨ready_of (by decide +kernel), ok_of (by decide +kernel), ok_of (by decide +kernel), by decide +kernel, by decide +kernel, reads_of (by decide +kernel)⟩,
    ⟨rfl, ctl_goes (by decide +kernel) rfl⟩⟩

/-- tmap s9 of rows 0 to `n` at offset `a`. -/
def tmapXt (a : Src) (imm : BitVec 32) : Xt := xtRec (.s 9) 0 0 a (.v 0) (.v 0) (.v 0) imm
/-- `work` with every handle entry of core 0 mapped, and with a queued op that uses tile s4. -/
def fullHandles : State := { work with cores := [(0, { workCore with handles := (List.range 64).map fun i => (i, tile 0 1 0) })] }

theorem witness_TileHandles :
    (Ready (.tmapXt (tmapXt (.s 7) 0)) (basePlan [uni (.s 7)] (dstNamed (.s 9) true) .none) work 0 worker ent ∧
      (work.readOpnd worker none (uni (.s 7)) 0).toNat % 1024 ≠ 0) ∧
    (Ready (.tmapXt (tmapXt .lit 0x7F000)) (basePlan [uni .lit] (dstNamed (.s 9) true) .none) work 0 worker ent → False) ∧
    (Ready (.tmapXt (tmapXt (.s 2) 0x7F000)) (basePlan [uni (.s 2)] (dstNamed (.s 9) true) .none) work 0 worker ent ∧
      work.groupAt? worker.group = some workGroup ∧ (work.readOpnd worker none (uni (.s 2)) 0).toNat + 128 * 128 ≤ workGroup.size) ∧
    ((base.setWave 0 worker).groupAt? 0 = base.groupAt? 0 ∧ ((base.groupAt? 0).map (·.size)) = some 0) ∧
    (∀ i, i < 64 → ((fullHandles.coreAt 0).handle i).st ≠ .free) ∧
    (Ready (.tunmapXt (xtRec .null 0 0 (.s 7) (.v 0) (.v 0) (.v 0) 0)) (basePlan [uni (.s 7)] [] .none) work 0 worker ent ∧
      work.handleFor 0 worker.group 8 = none) ∧
    (Ready (.tunmapXt (xtRec .null 0 0 (.s 4) (.v 0) (.v 0) (.v 0) 0)) (basePlan [uni (.s 4)] [] .none) work 0 worker ent ∧
      work.handleFor 0 worker.group 0x100 = some (0, tile 0 128 0) ∧ worker.full .xc = false ∧
      (∀ y ∈ (work.coreAt 0).handles, y.2.st = .retiring → work.users 0 (handleVal 0 y.1 y.2.gen) ≠ 0) ∧
      work.users 0 (handleVal 0 0 1) = 0) ∧
    Ready (.tqueryXt (tmapXt (.s 4) 0)) (basePlan [uni (.s 4)] [(.s 9, 1)] .none) work 0 worker ent ∧
    -- a predicate and a field that its row leaves blank
    ((xtRec .null 15 0 (.s 4) (.v 0) (.v 0) (.v 0) 0).p ≠ 0 ∧ (xtRec .null 0 0 (.s 4) (.v 0) (.v 0) (.s 6) 0).x ≠ .v 0) := by
  refine ⟨⟨ready_of (by decide +kernel), by decide +kernel⟩, fun h => ?_, ⟨ready_of (by decide +kernel), by decide +kernel, by decide +kernel⟩,
    by decide +kernel, by decide +kernel, ⟨ready_of (by decide +kernel), by decide +kernel⟩,
    ⟨ready_of (by decide +kernel), by decide +kernel, by decide +kernel, by decide +kernel, by decide +kernel⟩, ready_of (by decide +kernel),
    by decide, by decide⟩
  have := h.legal
  revert this
  decide +kernel

/-- Wave 0 in handler mode with the registers of `worker`. -/
def handler2 : Wave := { worker with handler := some ⟨Upper.none, 5, [], 2, 9, fullMask, [], none⟩ }
/-- `work` in handler mode, in a context with a handler and a trace ring of one page at 4096. -/
def workH : State :=
  { workWith handler2 with cp := { base.cp with ctxs := [(0, { placedCtx with desc := BitVec.ofNat 512 (0x8000 * 2 ^ 384 + 4096 * 2 ^ 256 + 2 ^ 232) })] } }
/-- An XT record of a system instruction: D, E8, A and IMM32. -/
def sysXt (d : Dst) (e8 : BitVec 8) (a b : Src) (imm : BitVec 32) : Xt := xtRec d 0 e8 a b (.v 0) (.v 0) imm

theorem witness_WaypointsAndLaunches :
    (Ready (.wpubXt (sysXt (.s 9) 0 (.s 7) (.const 1) 0)) (basePlan [uni (.s 7), uni (.const 1)] (dstNamed (.s 9) true) .none) work 0 worker ent ∧
      readsOk worker (work.execMask worker ent 0 false) [uni (.s 7), uni (.const 1)] ∧ work.released 0 .device = true ∧
      (work.readOpnd worker none (uni (.const 1)) 0).toNat % 65536 ≠ 0 ∧ worker.full .xc = false ∧ worker.heldLater = false) ∧
    (Ready (.wpubXt (sysXt .null 0 (.s 7) (.const 0) 0)) (basePlan [uni (.s 7), uni (.const 0)] (dstNamed .null true) .none) work 0 worker ent ∧
      (work.readOpnd worker none (uni (.const 0)) 0).toNat % 65536 = 0) ∧
    Ready (.wtestXt (sysXt (.s 9) 1 (.s 7) (.v 0) 0)) (basePlan [uni (.s 7)] [(.s 9, 1)] .none) work 0 worker ent ∧
    (Ready (.launchXt (sysXt (.s 9) 0 (.s 7) (.const 3) 0)) (basePlan [uni (.s 7), uni (.const 3)] (dstNamed (.s 9) true) .none) work 0 worker ent ∧
      (work.readOpnd worker none (uni (.s 7)) 0).toNat % 64 ≠ 0) ∧
    (Ready (.launchXt (sysXt (.s 9) 0 (.s 6) (.const 3) 0)) (basePlan [uni (.s 6), uni (.const 3)] (dstNamed (.s 9) true) .none) work 0 worker ent ∧
      2 ^ 57 ≤ (work.readOpnd worker none (uni (.s 6)) 0).toNat ∧ (work.readOpnd worker none (uni (.s 6)) 0).toNat % 64 = 0) ∧
    (Ready (.launchXt (sysXt (.s 9) 0 (.s 2) (.const 3) 0)) (basePlan [uni (.s 2), uni (.const 3)] (dstNamed (.s 9) true) .none) work 0 worker ent ∧
      (work.readOpnd worker none (uni (.s 2)) 0).toNat < 2 ^ 57 ∧ worker.full .sc = false) ∧
    (Ready (.lparmXt (sysXt (.s 9) 7 (.const 1) (.v 0) 0)) (basePlan [uni (.const 1)] [(.s 9, lparmWords (sysXt (.s 9) 7 (.const 1) (.v 0) 0))] .none) work 0 worker ent ∧
      (work.readOpnd worker none (uni (.const 1)) 0).toNat % 8 ≠ 0) ∧
    (Ready (.lparmXt (sysXt (.s 56) 7 (.s 7) (.v 0) 0)) (basePlan [uni (.s 7)] [(.s 56, lparmWords (sysXt (.s 56) 7 (.s 7) (.v 0) 0))] .none) work 0 worker ent ∧
      (work.readOpnd worker none (uni (.s 7)) 0).toNat % 8 = 0) := by
  and_intros <;> first | decide +kernel | exact reads_of (by decide +kernel) | exact ready_of (by decide +kernel)

/-- The descriptor's address translates to device memory. -/
theorem witness_WaypointsAndLaunches_launch :
    let f := sysXt (.s 9) 0 (.s 2) (.const 3) 0
    let x := work.execMask worker ent 0 false
    ∃ pa pg l, ((work.readBy 0 worker x f.lit [uni f.a, uni f.b]).globalAccess
      (issOf (.launchXt f) (basePlan [uni f.a, uni f.b] (dstNamed f.d true) .none) work 0 worker ent) .load 64 4096).2 = .go ((0, 64, .dev pa, pg) :: l) := by
  have h : (match ((work.readBy 0 worker (work.execMask worker ent 0 false) none [uni (.s 2), uni (.const 3)]).globalAccess
      (issOf (.launchXt (sysXt (.s 9) 0 (.s 2) (.const 3) 0)) (basePlan [uni (.s 2), uni (.const 3)] (dstNamed (.s 9) true) .none) work 0 worker ent) .load 64 4096).2 with
    | .go ((0, 64, .dev _, _) :: _) => true
    | _ => false) = true := by decide +kernel
  split at h
  · rename_i hh
    exact ⟨_, _, _, hh⟩
  · simp at h

theorem witness_SystemRegisters :
    Ready (.movsXt (sysXt (.v 127) 1 (.v 0) (.v 0) 0)) (xtPlan (sysXt (.v 127) 1 (.v 0) (.v 0) 0) [] (dstNamed (.v 127) false) (dstPipe (.v 127))) work 0 worker ent ∧
    Ready (.movsXt (sysXt (.s 63) 0x19 (.v 0) (.v 0) 0)) (xtPlan (sysXt (.s 63) 0x19 (.v 0) (.v 0) 0) [] (dstNamed (.s 63) false) (dstPipe (.s 63))) work 0 worker ent ∧
    Ready (.movsXt (sysXt (.s 63) 0x8D (.v 0) (.v 0) 0)) (xtPlan (sysXt (.s 63) 0x8D (.v 0) (.v 0) 0) [] (dstNamed (.s 63) false) (dstPipe (.s 63))) workH 0 handler2 ent ∧
    Ready (.perfrdXt (sysXt (.s 63) 10 (.v 0) (.v 0) 0)) (basePlan [] (dstNamed (.s 63) true) .scalar) work 0 worker ent ∧
    (∀ n ∈ ([0x00, 0x0B, 0x0C, 0x18, 0x19] : List (BitVec 8)), Ready (.movswXt (sysXt .null n (.s 7) (.v 0) 0)) (basePlan [uni (.s 7)] [] .scalar) work 0 worker ent) ∧
    (∀ n ∈ ([0x80, 0x87, 0x88, 0x89, 0x8C, 0x8D] : List (BitVec 8)),
      Ready (.movswXt (sysXt .null n (.s 2) (.v 0) 0)) (basePlan [uni (.s 2)] [] .scalar) workH 0 handler2 ent) ∧
    -- MOVS and PERFRD with no executing lane
    (Ready (.movsXt { sysXt (.s 63) 0x19 (.v 0) (.v 0) 0 with p := 1 }) (xtPlan { sysXt (.s 63) 0x19 (.v 0) (.v 0) 0 with p := 1 } []
      (dstNamed (.s 63) false) (dstPipe (.s 63))) work 0 worker ent ∧ work.execMask worker ent 1 false = 0) ∧
    -- operands inside the ranges and outside
    (fpmodeOk 8 = true ∨ fpmodeOk 0 = true) ∧ fpmodeOk (BitVec.ofNat 64 (2 ^ 63)) = false ∧ (4 : DWord) &&& wstatRsv = 0 ∧
    (BitVec.ofNat 64 (2 ^ 63)) &&& wstatRsv ≠ 0 ∧ (8 : DWord) &&& peerstRsv = 0 ∧ (64 : Nat) ≤ 4096 ∧ ¬ (10 ≤ 9 ∨ 10001 ≤ 10000) ∧
    readsOk worker (work.execMask worker ent 0 false) [uni (.s 7)] := by
  refine ⟨ready_of (by decide +kernel), ready_of (by decide +kernel), ready_of (by decide +kernel), ready_of (by decide +kernel), fun n hn => ?_,
    fun n hn => ?_, ⟨ready_of (by decide +kernel), by decide +kernel⟩, by decide +kernel, by decide +kernel, by decide +kernel, by decide +kernel, by decide +kernel, by decide, by decide,
    reads_of (by decide +kernel)⟩ <;> (apply ready_of; revert n; decide +kernel)

/-- `workH` with the trace ring at a page that has no translation, and with 126 records, all it takes, in its ring. -/
def deafRing : State :=
  { workH with cp := { base.cp with ctxs := [(0, { placedCtx with desc := BitVec.ofNat 512 (0x8000 * 2 ^ 384 + 0x100000 * 2 ^ 256 + 2 ^ 232) })] } }
def fullRing : State := { workH with mem := { workH.mem with bytes := [⟨4096, 126⟩] } }

/-- DBGMARK with no trace ring, with one that cannot be written, and with a full one. -/
theorem witness_SystemServices_noring :
    (Ready (.dbgmarkBs false 1) scalarPlan work 0 worker ent ∧ ∃ c, work.ctxAt? worker.ctx = some c ∧ c.trbase = 0) ∧
    (Ready (.dbgmarkBs false 1) scalarPlan deafRing 0 handler2 ent ∧ ∃ c s1, deafRing.ctxAt? handler2.ctx = some c ∧ c.trbase ≠ 0 ∧
      c.traceCap ≠ 0 ∧ deafRing.tracePa (issOf (.dbgmarkBs false 1) scalarPlan deafRing 0 handler2 ent) c.trbase 0 = (none, s1)) ∧
    (Ready (.dbgmarkBs false 1) scalarPlan fullRing 0 handler2 ent ∧ ∃ c hd s1, fullRing.ctxAt? handler2.ctx = some c ∧ c.trbase ≠ 0 ∧
      c.traceCap ≠ 0 ∧ fullRing.tracePa (issOf (.dbgmarkBs false 1) scalarPlan fullRing 0 handler2 ent) c.trbase 0 = (some hd, s1) ∧
      (s1.latest hd.1 8 + 2 ^ 64 - s1.latest (hd.1 + 8) 8) % 2 ^ 64 = c.traceCap) := by
  refine ⟨⟨ready_of (by decide +kernel), _, rfl, by decide +kernel⟩, ⟨ready_of (by decide +kernel), _,
    (deafRing.tracePa (issOf (.dbgmarkBs false 1) scalarPlan deafRing 0 handler2 ent) 0x100000 0).2, rfl, by decide +kernel, by decide +kernel, ?_⟩,
    ⟨ready_of (by decide +kernel), _, (4096, some (4096, 4096)),
      (fullRing.tracePa (issOf (.dbgmarkBs false 1) scalarPlan fullRing 0 handler2 ent) 4096 0).2, rfl, by decide +kernel, by decide +kernel, ?_,
      by decide +kernel⟩⟩
  · exact Prod.ext (by decide +kernel) (by decide +kernel)
  · exact Prod.ext (by decide +kernel) (by decide +kernel)

/-- The trace ring of `workH` translates, and has room. -/
theorem witness_SystemServices_ring :
    let u := issOf (.dbgmarkBs false 1) scalarPlan workH 0 handler2 ent
    ∃ c hd s1 pa s2, workH.ctxAt? handler2.ctx = some c ∧ c.trbase ≠ 0 ∧ c.traceCap ≠ 0 ∧ workH.tracePa u c.trbase 0 = (some hd, s1) ∧ hd.1 = 4096 ∧
      (s1.latest hd.1 8 + 2 ^ 64 - s1.latest (hd.1 + 8) 8) % 2 ^ 64 ≠ c.traceCap ∧
      s1.tracePa u c.trbase (64 + 32 * (s1.latest hd.1 8 % c.traceCap)) = (some pa, s2) := by
  refine ⟨_, (4096, some (4096, 4096)), (workH.tracePa (issOf (.dbgmarkBs false 1) scalarPlan workH 0 handler2 ent) 4096 0).2, (4160, some (4096, 4096)),
    ((workH.tracePa (issOf (.dbgmarkBs false 1) scalarPlan workH 0 handler2 ent) 4096 0).2.tracePa
      (issOf (.dbgmarkBs false 1) scalarPlan workH 0 handler2 ent) 4096 64).2, rfl, by decide +kernel, by decide +kernel, ?_, rfl, by decide +kernel, ?_⟩
  · exact Prod.ext (by decide +kernel) (by decide +kernel)
  · exact Prod.ext (by decide +kernel) (by decide +kernel)

theorem witness_SystemServices :
    (Ready (.tlbinvXt (sysXt .null 0 (.s 2) (.s 7) 0)) (basePlan [uni (.s 2), uni (.s 7)] [] .none) workH 0 handler2 ent ∧
      (workH.readOpnd handler2 none (uni (.s 2)) 0).toNat % 4096 = 0 ∧ (workH.readOpnd handler2 none (uni (.s 7)) 0).toNat ≠ 0) ∧
    (Ready (.tlbinvXt (sysXt .null 0 (.s 7) (.s 7) 0)) (basePlan [uni (.s 7), uni (.s 7)] [] .none) workH 0 handler2 ent ∧
      (workH.readOpnd handler2 none (uni (.s 7)) 0).toNat % 4096 ≠ 0) ∧
    (Ready (.tlbinvXt (sysXt .null 0 (.s 2) (.const 0) 0)) (basePlan [uni (.s 2), uni (.const 0)] [] .none) workH 0 handler2 ent ∧
      (workH.readOpnd handler2 none (uni (.const 0)) 0).toNat = 0) ∧
    Ready (.tlbinvXt (sysXt .null 1 (.v 0) (.v 0) 0)) (basePlan [] [] .none) workH 0 handler2 ent ∧
    (Ready (.dbgmarkBs false 1) scalarPlan workH 0 handler2 ent ∧ Ready (.dbgmarkXt (sysXt .null 0 (.s 2) (.v 0) 0xFFFF)) (basePlan [uni (.s 2)] [] .scalar) workH 0 handler2 ent) ∧
    (Ready (.haltwXt (sysXt .null 0 (.v 0) (.v 0) 0)) plainPlan workH 0 handler2 ent ∧ Ready (.haltwXt (sysXt .null 1 (.v 0) (.v 0) 0)) plainPlan workH 0 handler2 ent ∧
      handler2.counter .xc = 0 ∧ handler2.fencing = false ∧ workH.launchAt? handler2.launch = some placedLaunch) ∧
    workH.Settled ∧ handler2.full .xc = false ∧ readsOk handler2 (workH.execMask handler2 ent 0 false) [uni (.s 2), uni (.s 7)] :=
  ⟨⟨ready_of (by decide +kernel), by decide +kernel, by decide +kernel⟩, ⟨ready_of (by decide +kernel), by decide +kernel⟩,
    ⟨ready_of (by decide +kernel), by decide +kernel⟩, ready_of (by decide +kernel), ⟨ready_of (by decide +kernel), ready_of (by decide +kernel)⟩,
    ⟨ready_of (by decide +kernel), ready_of (by decide +kernel), by decide +kernel, by decide +kernel, by decide +kernel⟩,
    by show ∀ a ∈ workH.mem.accs, _; decide +kernel, by decide +kernel, reads_of (by decide +kernel)⟩

/-! Steps of the device. -/

/-- An entry at 4096 that waits for `o`. -/
def parkedEnt (o : WaitObj) : Entry := ⟨4096, fullMask, 0, 0, .wait o, 8, []⟩
/-- `base` with wave 0 not on the core and that wave's run closed; the wave that ran last held slot 30. -/
def closedW : Wave := { placedWave with run := RunSt.closed, frontier := [ent, ⟨4160, 1, 0, 0, .ready, 0, []⟩] }
def idle (w : Wave) : State := { base with waves := [(0, w)], cores := [(0, { Core.init with last := 30 })] }
/-- A suspension to be tried again, one with no request left, and a wait for the answer to a page request. -/
def retrySusp : Susp := ⟨.retry, 3, some (Upper.none, 2)⟩
def pageWait (answer : Option Bool) (saved : Option (Upper × Nat)) : TrapWait := ⟨1, 0, false, 8192, fullMask, some 1, answer, 3, saved⟩

theorem witness_RunSteps :
    ((idle closedW).waveAt? 0 = some closedW ∧ ((idle closedW).coreAt 0).run = none ∧
      0 = 0 * 32 + (((idle closedW).coreAt 0).last + 1 + 1) % 32 ∧ (idle closedW).selectable closedW = true ∧
      (idle closedW).waveAt? ((30 + 1 + 0) % 32) = none ∧ ent ∈ closedW.frontier ∧
      (∀ x ∈ closedW.frontier, x.st = .ready → x ≠ ent → ent.before x = true) ∧ ∀ x ∈ closedW.frontier, x.trapping = false) ∧
    (idle { closedW with susp := some retrySusp }).canTake 0 = true ∧
    ((idle { closedW with susp := some ⟨.rest 24 false [], 3, none⟩ }).canTake 0 = true ∧
      (idle closedW).needsSlots (.wave 0) = false) ∧
    (∀ b ∈ [true, false], (idle { closedW with trapWait := some (pageWait (some b) none) }).canTake 0 = true) ∧
    (({ placedWave with susp := some ⟨.retry, 3, none⟩ } : Wave).heldSince.isSome = true ∧ (base.coreAt 0).run = some 0) := by
  and_intros <;> decide +kernel

/-- `worker` with its entry waiting for `o`, and what else a case needs. -/
def waiting (o : WaitObj) : Wave := { worker with frontier := [parkedEnt o] }
/-- A 32-bit load to v8 of ticket 1 whose last lane has not come. -/
def lateLoad : LOp :=
  ⟨5, .ldc, 4096, .load .b32 false .ld, fullMask, 0, fullMask, [⟨.v 8, fullMask, [], 0⟩], false, false, some 1, 0, 0, none⟩

/-- A CPY of 4 bytes in lane 1 whose data has come. -/
def copyOp : LOp := ⟨5, .bc 0, 4096, .cpy [⟨1, 16, [1, 2, 3, 4]⟩], 3, 2, 3, [], false, false, none, 0, 0, none⟩

theorem witness_WaitAndEndSteps :
    -- the waits of SLEEP, of a load's lanes that are late, and of a promise whose object has another phase, and the same
    (∀ o ∈ [WaitObj.sleep 0, .ticket 1 5 (some 0), .promise 0 true none 0, .promise 0 false none 0],
      (workWith (waiting o)).waveAt? 0 = some (waiting o) ∧ parkedEnt o ∈ (waiting o).frontier ∧
        inMask (parkedEnt o).mask 63 = true ∧ (parkedEnt o).st = .wait o ∧ 0 ≤ (workWith (waiting o)).chrono ∧
        (∀ x ∈ (waiting o).allEntries, x = parkedEnt o) ∧
        (workWith (waiting o)).initPending 0 (waiting o).group 0 (workWith (waiting o)).nextId = false) ∧
    (({ waiting (.ticket 1 5 (some 0)) with lops := [lateLoad] } : Wave).lateOn 1 = fullMask) ∧
    (∃ g, work.groupAt? 0 = some g ∧ (g.rdv 0).malformed = false ∧ (g.rdv 0).phase ≠ true ∧ (g.rdv 0).cwct < 2 ^ 64) ∧
    -- the end of a wave, with an access of its own still under way and without, and of its group
    (let w := { worker with frontier := [] };
      let c := { w with lops := [copyOp] };
      w.nv ≠ 0 ∧ (workWith w).mayEnd 0 w = true ∧ (workWith w).waveDrained 0 w = true ∧ (workWith worker).mayEnd 0 worker = false ∧
        ({ work with waves := [(0, c), (1, worker)] } : State).mayEnd 0 c = true ∧
        ({ work with waves := [(0, c), (1, worker)] } : State).waveDrained 0 c = false) ∧
    ({ work with waves := [] } : State).groupDrained 0 = true := by
  and_intros <;> decide +kernel

/-- A class L operation on s9 by lane 0, and work of it. -/
def opOn (w : LWork) (c : Ctr) (done : Bool) : LOp := ⟨5, c, 4096, w, 1, 1, 1, [⟨.s 9, 1, [7], 0⟩], done, false, none, 0, 0, none⟩
/-- `work` with one operation of wave 0, and a device queue of context 0. -/
def landing (o : LOp) : State :=
  let s := workWith { worker with lops := [o] }
  { s with cp := { s.cp with queues := [(0, ⟨0, true, 8192, 6, 0, 0, 0, none, [], [], []⟩)] } }
/-- A pending arrival at object 0. -/
def arriving : State := workWith { worker with rdvq := [⟨5, 0, .arrive 1⟩] }

theorem witness_LandingSteps :
    -- a load, a WTEST, a LAUNCH to a queue, a FENCE and a CPY
    (∀ o ∈ [{ lateLoad with ready := 1, left := fullMask }, opOn (.wtest 0 7) .xc false, opOn (.launch none 0 0) .sc false,
        opOn (.launch none 0 1) .sc false, opOn (.launch none 0 0) .sc true, opOn .value .xc true, opOn (.fence .device true) .none false, copyOp],
      (landing o).waveAt? 0 = some { worker with lops := [o] } ∧ ({ worker with lops := [o] } : Wave).op? 5 = some o) ∧
    ((landing copyOp).queueAt? 0 1 = none ∧ ∃ x, (landing copyOp).queueAt? 0 0 = some x ∧ x.ctx = worker.ctx ∧ x.device = true ∧
      x.qstat = 0 ∧ x.count < 2 ^ x.k) ∧
    (landing (opOn (.fence .device true) .none false)).fenceHolds 0 { worker with lops := [opOn (.fence .device true) .none false] } .device 5 = true ∧
    (let w := { worker with mwct := 1, lops := [opOn (.fence .device true) .none false] };
      (workWith w).fenceHolds 0 w .device 5 = false ∧ w.failsLanded .device 5 = true) ∧
    -- a fabric FENCE behind an atomic that has failed in a lane whose zeros have not landed
    (({ worker with fail := { worker.fail with first := some ⟨0, 0, false, 0, 0⟩ }, lops := [{ lateLoad with id := 3, ready := 1 }] } : Wave).failsLanded .fabric 5 = false) ∧
    (∃ g, (landing copyOp).groupAt? worker.group = some g ∧ g.stale = [] ∧ g.scratch.wf = true) ∧ copyOp.ready &&& copyOp.left ≠ 0 ∧
    (({ worker with rdvq := [⟨5, 0, .arrive 1⟩] } : Wave).rdvq.find? fun p => p.id == 5) = some ⟨5, 0, .arrive 1⟩ ∧
    arriving.creditHeld 0 worker.group 0 5 = false ∧ arriving.arrivalReady 0 5 = true := by
  and_intros <;> decide +kernel

/-- An access of wave 0 to four bytes. -/
def accOf (k : AKind) (t : Target) (st : Stage) : Acc :=
  ⟨5, .wave 0, 0, 3, 0, 0, k, t, 4, [1, 2, 3, 4], 0, 256, 0, 1, none, st, none, false, none⟩
/-- `work` with one access under way, and the operation of a load or an atomic. -/
def workAcc (a : Acc) : State :=
  let s := workWith { worker with lops := [{ lateLoad with id := 3 }] }
  { s with mem := { s.mem with accs := [a] } }

theorem witness_AccessSteps :
    (∀ k ∈ [AKind.load, .store], ∀ t ∈ [Target.scratch 0 65532, .dev 8192, .dev (2 ^ 21 - 4)],
      let a := accOf k t .travelling;
      (workAcc a).mem.acc? 5 = some a ∧ (workAcc a).mem.accs.any ((workAcc a).mustFollow a) = false ∧ (workAcc a).initHeld a 65532 = false ∧ (workAcc a).groupAt? 0 = work.groupAt? 0 ∧
        inWindow (workAcc a).house 8192 = false ∧ (workAcc a).tagMiss a 8192 = false ∧
        (workAcc a).tagMiss a (2 ^ 21) = true ∧ (workAcc a).copyFor a 8192 64 = none ∧ meetsPoison ((workAcc a).linePoison 64) 8192 4 = false ∧
        ((workAcc a).mem.accs.any fun b => (workAcc a).sameSource a b && !b.kind.isLoad && b.wct?.isSome && a.meets b) = false) ∧
    (∃ x, work.groupAt? 0 = some x ∧ x.stale = [] ∧ x.bad = [] ∧ x.credits = [] ∧ x.scratch.wf = true) ∧
    (∀ k ∈ [AKind.store, .red .add, .atom .exch], let a := accOf k (.dev 8192) (.pending 0);
      (workAcc a).mem.acc? 5 = some a ∧ (workAcc a).visibleWith a = [a] ∧ a.due (workAcc a).chrono = true ∧
        (workAcc a).mem.bytes.wf = true) ∧
    ((workAcc (accOf .store (.dev 8192) (.pending 9))).waveAt? 0 = some { worker with lops := [{ lateLoad with id := 3 }] } ∧
      ({ worker with lops := [{ lateLoad with id := 3 }] } : Wave).op? 3 = some { lateLoad with id := 3 }) ∧
    (workAcc (accOf .store (.dev 8192) .travelling)).Settled :=
  ⟨by decide +kernel, ⟨_, rfl, by decide +kernel⟩, by decide +kernel, by decide +kernel, by show ∀ a ∈ (workAcc (accOf .store (.dev 8192) .travelling)).mem.accs, _; decide +kernel⟩

/-- Page tables at 0x10000 that map the first gigabyte of context 0 to the same physical addresses. -/
def tables : Memory :=
  Memory.write (Memory.write (Memory.write [] 0x10000 (bytesOf 8 0x11001)) 0x11000 (bytesOf 8 0x12001)) 0x12000 (bytesOf 8 0x3F)
/-- A context of tenancy 0 with those tables, a page-request ring at 0x40000, weight 1 and class `cls`. -/
def siteCtx (cls : Nat) : Ctx :=
  { placedCtx with desc := BitVec.ofNat 512 (0x10000 * 2 ^ 448 + 2 ^ 197 + cls * 2 ^ 195 + 0x40000) }
/-- A tenancy of partition 0 over session 7. -/
def tenancy (policy : DWord) : Tenancy := ⟨policy, 0, 7, some 1, [(0, .run)], [(0, 5)], [(0, 3)], 0, false, false, []⟩
/-- A device at work: context 0, an application queue 0 and a device queue 1, tenancies 0 and 1 (which is TEE), session 7. -/
def site : State :=
  { State.reset with
    mem := { MemSys.init with bytes := tables, owners := [(0, 0x40), (1, 0x41), (4, 0x80)] }
    cp := { Cp.init with ctxs := [(0, siteCtx 1)], queues := [(0, ⟨0, false, 0x8000, 6, 1, 0, 0, none, [], [], []⟩), (1, ⟨0, true, 0x9000, 6, 0, 0, 2, none, [], [], []⟩)] }
    host := { HostSt.init with
      tens := [(0, tenancy 6), (1, tenancy (BitVec.ofNat 64 (2 ^ 32 + 1)))], spdm := [(0, ⟨3, some (8, 55), [(7, (44, 0))]⟩)] } }
/-- `site` with another context 0. -/
def siteWith (c : Ctx) : State := { site with cp := { site.cp with ctxs := [(0, c)] } }
/-- How a post ended. -/
def postEnd (p : Post) : Option (BitVec 32) × Bool := match p with | .posted q => (some q, false) | .waits => (none, true) | .denied => (none, false)
theorem waits_of {p : Post} (h : postEnd p = (none, true)) : p = .waits := by unfold postEnd at h; split at h <;> simp_all
theorem posted_of {p : Post} {q : BitVec 32} (h : postEnd p = (some q, false)) : p = .posted q := by
  unfold postEnd at h; split at h <;> simp_all

/-- An invalidation of page 1 of context 0, asked for on port 0. -/
def inval (dropped : Bool) : Inval := ⟨5, 0, false, 4096, 1, none, some 0, dropped, [], [], none⟩
/-- `site` with it. -/
def siteInval (dropped : Bool) : State := { site with mem := { site.mem with invals := [inval dropped] } }
/-- The end of the move of granule 3 to tenancy 1. -/
def moveInval : Inval := ⟨5, 64, false, 0, 0, none, some 0, true, [], [3], some 0x41⟩
def siteMove : State := { site with mem := { site.mem with invals := [moveInval], moving := [3] } }
/-- A context with a page to post, in a state whose ring holds 256 entries that no host has read. -/
def posting : State := siteWith { siteCtx 1 with prqPend := [(9, 0, 1)] }
def ringFull : State := { posting with mem := { posting.mem with bytes := Memory.write tables 0x40000 (bytesOf 8 256) } }

theorem witness_TranslationSteps :
    base.Settled ∧ posting.ctxAt? 0 = some { siteCtx 1 with prqPend := [(9, 0, 1)] } ∧ ringFull.ctxAt? 0 = posting.ctxAt? 0 ∧
    (ringFull.postPage 0 9 0 1).1 = .waits ∧ (posting.postPage 0 9 0 1).1 = .posted 0 ∧
    (∀ d ∈ [false, true], ((siteInval d).mem.invals.find? fun y => y.id == (inval d).id) = some (inval d) ∧
      (siteInval d).invalWaits (inval d) = false ∧ (siteInval d).house.pwInval ≠ some (inval d).id ∧ (inval d).grans = [] ∧ (inval d).wave = none) ∧
    ((siteMove.mem.invals.find? fun y => y.id == moveInval.id) = some moveInval ∧ siteMove.invalWaits moveInval = false ∧
      siteMove.house.pwInval ≠ some moveInval.id ∧ moveInval.dropped = true ∧ moveInval.wave = none) :=
  ⟨by show ∀ a ∈ base.mem.accs, _; decide +kernel, by decide +kernel, by decide +kernel, waits_of (by decide +kernel),
    posted_of (by decide +kernel), by decide +kernel, by decide +kernel⟩

/-- A TCOPY of 16 rows of tile 0 from 4096, without a stride, that credits object 0. -/
def copyOf (accepted : Bool) (next : Nat) (open_ : Table (List Byte)) : Copy :=
  ⟨5, 0, 0, 0, 0, 1, .tcopy 0 false 0 true, 0, tile 0 16 0, 0, 16, 4096, 0, 0, 0, accepted, next, open_, [], false, false, 0, 0, none⟩
/-- `work` with it in the queue of quad 0, and with its page in the TCE's TLB. -/
def copying (c : Copy) : State :=
  let s := workWith { worker with lops := [opOn (.tcopy 5) .xc false], rdvq := [] }
  { s with quads := [(0, { workQuad with copies := [c], tlb := [⟨0, 4096, 4096, placedPte⟩] })] }
/-- The targets of a row, when every address translates. -/
def targetsOf (r : Except (Option Nat) Parts) : Option Parts := match r with | .ok p => some p | .error _ => none
theorem targets_of {r : Except (Option Nat) Parts} (h : (targetsOf r).isSome = true) : ∃ p, r = .ok p := by
  unfold targetsOf at h; split at h
  · exact ⟨_, rfl⟩
  · simp at h

theorem witness_CopySteps :
    (∀ c ∈ [copyOf false 0 [], copyOf true 0 [], copyOf true 16 [(3, [1])], copyOf true 16 []],
      (copying c).copy? 0 c.id = some c ∧ (copying c).parked c = false ∧ ((copying c).mem.accs.all fun a => a.owner != .tce 0 c.id) = true ∧
        (copying c).indexHeld c = false ∧ (copying c).rowLost c c.nextRow = false ∧
        (copying c).creditWaits c.wave c.group c.rdv c.id = false) ∧
    (let c := copyOf true 0 []; ∃ p, ((copying c).rowTargets 0 c ((copying c).rowParts c 0)).2 = .ok p) ∧
    ((copying (copyOf false 0 [])).waveAt? 0 = some { worker with lops := [opOn (.tcopy 5) .xc false], rdvq := [] }) ∧
    (∃ w o x, (copying (copyOf false 0 [])).waveAt? (copyOf false 0 []).wave = some w ∧ w.op? (copyOf false 0 []).id = some o ∧ o.writes = [x]) ∧
    (∃ g, (copying (copyOf true 16 [])).groupAt? (copyOf true 16 []).group = some g ∧ g.scratch.wf = true) ∧
    (let c := copyOf true 16 []; let s := copying c;
      ({ s with waves := [(0, { worker with rdvq := [⟨4, 0, .arrive 1⟩] })] } : State).creditWaits c.wave c.group c.rdv c.id = true) :=
  ⟨by decide +kernel, targets_of (by decide +kernel), by decide +kernel, ⟨_, _, _, rfl, rfl, rfl⟩, ⟨_, rfl, by decide +kernel⟩, by decide +kernel⟩

/-- An array instruction of wave 0 at bank 0. -/
def aop (k : AOpKind) (st : AStage) : AOp :=
  ⟨5, 4, 0, 0, 0, 0, k, none, st, 1, false, false, false, false, false, tile 0 128 0, tile 32768 16 7, [], [], []⟩
/-- The ALOAD of one row of tile 2 as it fills, with the codes its tile holds. -/
def filling : AOp :=
  let o := { aop (.aload 0x102 0 1) (.filling 0) with ha := tile 32768 16 7 };
  { o with a := (work.fillRead o []).1, b := (work.fillRead o []).2 }
/-- `work` with array instructions, and the operation of an ARD. -/
def array (l : List AOp) : State :=
  let s := workWith { worker with lops := [{ lateLoad with work := .ard 5, ctr := .xc }] }
  { s with quads := [(0, { workQuad with ops := l })] }

theorem witness_ArraySteps :
    (∀ o ∈ [filling, aop (.mma 6 0 0) (.running 0), aop (.mmag 6 0 0 0 1) (.running 0), aop (.ard 8 0 2 fullMask) (.transfer 0),
        aop (.adrain 0x102 0 1) (.transfer 0), aop (.aload 0x102 127 1) .filled, aop (.zero true) .queued, aop (.zero false) .queued],
      (array [o]).aopNext 0 o.id = some (o, 0) ∧ o.aborted = false ∧ (((array [o]).quadAt 0).bank o.bank).bad = false) ∧
    ((array [filling]).fillIx filling = filling.ix ∧ (array [filling]).fillLost filling filling.ix = false ∧
      (array [filling]).fillRead filling filling.ix = (filling.a, filling.b)) ∧
    ((array []).waveAt? 0 = some { worker with lops := [{ lateLoad with work := .ard 5, ctr := .xc }] }) ∧
    -- the arbiter, with an op that can start and without
    (let o := aop (.mma 6 0 0) .filled; ((array [o]).quadAt 0).oldest ((array [o]).quadAt 0).next = some o ∧
      ((array [o]).quadAt 0).started < o.weight ∧ (((array [o]).quadAt 0).ops.all fun x => (((array [o]).quadAt 0).aopDue x).isNone) = true) ∧
    (((array []).quadAt 0).ops.any ((array []).quadAt 0).startable = false ∧ (((array []).quadAt 0).started = 0)) :=
  by and_intros <;> decide +kernel

/-- A store of device 9 to window 2, the request `n` of its order on plane 71. -/
def peerNth (n win : Nat) (deadline : Int) : PeerReq := ⟨77, 9, 71, n, 0, win, 0, .store, [⟨0, 0, 4, [1, 2, 3, 4]⟩], deadline⟩
def peerStore (win : Nat) (deadline : Int) : PeerReq := peerNth 0 win deadline
/-- `site` with window 2 open to tenancy 0, every plane up, and a request being served. -/
def served : State :=
  { site with
    mem := { site.mem with
      windows := [(2, BitVec.ofNat 128 (2 ^ 64 + 0x1F))]
      peers := [⟨5, peerStore 2 100, [], none⟩] }
    links := { Links.init with ports := (List.range 72).map (fun p => (p, { Port.init with st := .up })), reqIn := [(71 * 4096 + 9, 4)] } }
/-- `work` with reply slot 1 of wave 0 busy with a store to device 9, and an access of host A in slot 2. -/
def asking (st : Stage) : State :=
  let busy : RSlot := ⟨some 6, 3, some 9, [], 1, none, 0, 0⟩;
  let s := workWith { worker with slots := [(1, busy), (2, busy)] }
  { s with mem := { s.mem with accs :=
      [{ accOf .store (.remote 9 2 0) .posted with id := 6, slot := some 1 }, { accOf .load (.host 0 64) st with slot := some 2 }] } }
def slot1 : SlotRef := ⟨false, 0, 1⟩

/-- `asking` with every port up and slot 1 before its deadline, for a load of operation 3 or a store. -/
def hearing (k : AKind) : State :=
  let busy : RSlot := ⟨some 6, 3, some 9, [], 1, none, 10, 10⟩;
  let s := workWith { worker with slots := [(1, busy)], lops := [{ lateLoad with id := 3 }] }
  { s with
    mem := { s.mem with accs := [{ accOf k (.remote 9 2 0) .posted with id := 6, slot := some 1 }] }
    links := served.links }

/-- With every port up, a reply has its plane. -/
theorem served_plane (h : Nat) : ∃ pl, (((List.range 72).map fun i => (h + i) % 72).find? fun x =>
    (served.links.port x).st == .up && (served.links.port x).tx.stopped.isNone) = some pl := by
  have hp : ∀ p, p < 72 → ((served.links.port p).st == .up && (served.links.port p).tx.stopped.isNone) = true := by decide +kernel
  have h0 := hp ((h + 0) % 72) (Nat.mod_lt _ (by decide))
  rw [show List.range 72 = 0 :: (List.range 71).map Nat.succ from List.range_succ_eq_map, List.map_cons,
    List.find?_cons_of_pos (by exact h0)]
  exact ⟨_, rfl⟩

theorem witness_RemoteSteps :
    (peerStore 2 0).deadline ≤ served.gtime ∧ served.gtime < (peerStore 3 1).deadline ∧ served.windowCheck (peerStore 3 1) = none ∧
    (served.windowCheck (peerStore 2 1)).isSome = true ∧
    -- a port that is up and one that is down; the first of an order, its next, one that is early and one that is past
    served.brings (peerStore 2 1).plane = true ∧ site.brings (peerStore 2 1).plane = false ∧ served.links.early = [] ∧
    (peerNth 0 2 1).pseq = 0 ∧ (peerNth 4 2 1).pseq = served.links.expected (orderKey (peerNth 4 2 1)) ∧
    (∀ n ∈ [3, 5], (peerNth n 2 1).pseq ≠ served.links.expected (orderKey (peerNth n 2 1)) ∧ (peerNth n 2 1).pseq ≠ 0) ∧
    { served with links := { served.links with reqIn := [] } }.links.expected (orderKey (peerNth 7 2 1)) ≠ 7 ∧
    (∃ p : PeerIn, (served.mem.peers.find? fun x => x.key == p.key) = some p ∧ (∀ a ∈ served.mem.accs, a.owner ≠ .peer p.key) ∧
      ∃ pl, (((List.range 72).map fun i => (Config.hash (p.req.src * 2 ^ 64 + p.req.id) + i) % 72).find? fun x =>
        (served.links.port x).st == .up && (served.links.port x).tx.stopped.isNone) = some pl) ∧
    (∃ a, a.owner = Owner.peer 5 ∧ a ∈ [({ accOf .store (.dev 8192) (.pending 3) with owner := .peer 5 } : Acc)] ∧
      ∀ v, a.stage ≠ .performed v) ∧
    -- this device's own requests
    ((asking .travelling).rslot ⟨false, 0, 0⟩).busy = none ∧ ((asking .travelling).rslot slot1).seq ≠ 4 ∧
    ((asking .travelling).rslot slot1).busy ≠ none ∧ ((asking .travelling).rslot slot1).answered = none ∧ (asking .travelling).slotAccs slot1 ≠ [] ∧
    -- a reply in time, which an operation's registers await and which nothing awaits
    (∀ k ∈ [AKind.load, .store], (hearing k).brings 71 = true ∧ ((hearing k).rslot slot1).busy ≠ none ∧ ((hearing k).rslot slot1).answered = none ∧
      (hearing k).gtime < ((hearing k).rslot slot1).gdeadline ∧ (hearing k).slotAccs slot1 ≠ []) ∧
    ((hearing .load).replyOwes (.data [(0, [1, 2, 3, 4])]) ((hearing .load).slotAccs slot1)).isSome = true ∧
    (hearing .store).replyOwes .ack ((hearing .store).slotAccs slot1) = none ∧
    (∀ a ∈ (asking .travelling).slotAccs slot1, a.tgt = .remote 9 2 0) ∧
    ((asking .travelling).rslot slot1).gdeadline ≤ (asking .travelling).gtime ∧
    (∀ st ∈ [Stage.travelling, .flushing], (asking st).mem.acc? 5 = some { accOf .load (.host 0 64) st with slot := some 2 } ∧
      (asking st).waveAt? 0 = (asking .travelling).waveAt? 0) := by
  and_intros <;> first
    | decide +kernel
    | exact ⟨⟨5, peerStore 2 100, [], none⟩, rfl, by decide +kernel, served_plane _⟩
    | exact ⟨_, rfl, List.mem_singleton.mpr rfl, by simp [accOf]⟩

/-- A launch descriptor of one group of one wave at 4096 with two parameter words at 0x3800 and its completion word at 0x3000. -/
def descNum : Nat := 2 ^ 504 + 0x3000 * 2 ^ 384 + 2 * 2 ^ 288 + 63 * 2 ^ 304 + 0x3800 * 2 ^ 128 + 2 ^ 64 + 4096
def goodDesc : BitVec 512 := BitVec.ofNat 512 descNum
/-- A descriptor with an extension at 0x7000. -/
def extDesc : BitVec 512 := BitVec.ofNat 512 (2 ^ 504 + 0x7000 * 2 ^ 320)
/-- The extension of a record of chain 3 with one launch at 0x6000, and of its replay with one patch at 0x6800. -/
def recordExt : BitVec 1024 := BitVec.ofNat 1024 (2 ^ 120 + 2 ^ 118 + 3 * 2 ^ 112 + 2 ^ 64 + 0x6000 * 2 ^ 128)
def replayExt : BitVec 1024 := BitVec.ofNat 1024 (2 ^ 120 + 2 ^ 119 + 3 * 2 ^ 112 + 2 ^ 64 + 0x6800 * 2 ^ 128)
/-- `site` with a descriptor in the queue's slot, its extension, an entry of the chain and a patch. -/
def submitted (d : Nat) (e : Nat) : State :=
  let m := Memory.write (Memory.write tables 0x8000 (bytesOf 64 d)) 0x7000 (bytesOf 128 e)
  let m := Memory.write (Memory.write m 0x6000 (bytesOf 64 descNum)) 0x6040 (bytesOf 128 (2 ^ 120))
  { site with mem := { site.mem with bytes := Memory.write m 0x6800 (bytesOf 16 (9 + 2 ^ 64)) } }
/-- How the head of queue 0 reads, as a descriptor with its extension, or as a failure. -/
def headDesc (h : Head) : Option (BitVec 512 × BitVec 1024) := match h with | .desc d e => some (d, e) | _ => none
def headFail (h : Head) : Option (BitVec 512 × Nat) := match h with | .fail d c => some (d, c) | _ => none
def isSlotBad (h : Head) : Bool := match h with | .slotBad => true | _ => false
/-- The bytes of a read that succeeds. -/
def readOk (r : CpRead) : Option (List Byte) := match r with | .ok bs => some bs | _ => none
theorem desc_of {h : Head} {d : BitVec 512} {e : BitVec 1024} (hh : headDesc h = some (d, e)) : h = .desc d e := by
  unfold headDesc at hh; split at hh <;> simp_all
theorem fail_of {h : Head} {d : BitVec 512} {c : Nat} (hh : headFail h = some (d, c)) : h = .fail d c := by
  unfold headFail at hh; split at hh <;> simp_all
theorem slotBad_of {h : Head} (hh : isSlotBad h = true) : h = .slotBad := by unfold isSlotBad at hh; split at hh <;> simp_all
theorem read_of {r : CpRead} {bs : List Byte} (h : readOk r = some bs) : r = .ok bs := by unfold readOk at h; split at h <;> simp_all

/-- Queue 0 of `site`. -/
def siteQueue : Queue := ⟨0, false, 0x8000, 6, 1, 0, 0, none, [], [], []⟩
/-- `submitted` with chain 3 recorded. -/
def recorded : State :=
  let s := submitted extDesc.toNat replayExt.toNat
  { s with cp := { s.cp with chains := [(chainKey 0 3, ⟨true, [(goodDesc, BitVec.ofNat 1024 (2 ^ 120))], none⟩)] } }

theorem witness_QueueSteps :
    (site.answers = true ∧ site.queueAt? 0 0 = some siteQueue ∧ site.partOfPort 0 = some 0 ∧ site.reaches 0 0 none = true ∧
      site.reaches 0 1 none = false ∧ site.reaches 0 1 (some 5) = true ∧ site.cp.launches.length < 1024) ∧
    -- a slot without a page, a descriptor that fails, and launches that break R330 and do not
    (∃ s : State, s.queueAt? 0 0 = some { siteQueue with base := 2 ^ 57 } ∧ s.head 0 0 = .slotBad) ∧
    (submitted 1 0).head 0 0 = .fail 1 1 ∧
    (let s := submitted descNum 0; s.head 0 0 = .desc goodDesc 0 ∧ headKind goodDesc 0 = 0 ∧ descBad goodDesc = false ∧ descWpx goodDesc = 0 ∧
      s.noFit 0 goodDesc = false ∧ s.descChk siteQueue goodDesc = .ok ∧ ∃ bs, s.cpBytes siteQueue (descParam goodDesc) (8 * descPwords goodDesc) = .ok bs) ∧
    (let d := BitVec.ofNat 512 (descNum + 64 * 2 ^ 304); (submitted d.toNat 0).head 0 0 = .desc d 0 ∧ descBad d = true) ∧
    (let d := BitVec.ofNat 512 (descNum + 448 * 2 ^ 106); (submitted d.toNat 0).head 0 0 = .desc d 0 ∧ descBad d = false ∧
      (submitted d.toNat 0).noFit 0 d = true) ∧
    (let d := BitVec.ofNat 512 (descNum + 2 ^ 57 - 4096); (submitted d.toNat 0).head 0 0 = .desc d 0 ∧ descBad d = false ∧
      (submitted d.toNat 0).noFit 0 d = false ∧ (submitted d.toNat 0).descChk siteQueue d = .bad) := by
  refine ⟨by decide +kernel, ⟨{ site with cp := { site.cp with queues := [(0, { siteQueue with base := 2 ^ 57 })] } },
      rfl, slotBad_of (by decide +kernel)⟩, fail_of (by decide +kernel), ?_, ?_, ?_, ?_⟩
  · refine ⟨desc_of (by decide +kernel), by decide +kernel, by decide +kernel, by decide +kernel, by decide +kernel, by decide +kernel,
      List.replicate 16 0, read_of (by decide +kernel)⟩
  · exact ⟨desc_of (by decide +kernel), by decide +kernel⟩
  · exact ⟨desc_of (by decide +kernel), by decide +kernel, by decide +kernel⟩
  · exact ⟨desc_of (by decide +kernel), by decide +kernel, by decide +kernel, by decide +kernel⟩

/-- The entry of the recorded chain as its bytes read. -/
def chainBytes : List Byte := bytesOf 64 descNum ++ bytesOf 128 (2 ^ 120)

theorem witness_QueueSteps_chains :
    (let s := submitted extDesc.toNat recordExt.toNat; s.head 0 0 = .desc extDesc recordExt ∧ headKind extDesc recordExt = 1 ∧
      extChainBad extDesc recordExt = false ∧ s.cpBytes siteQueue (extAddr recordExt) (192 * extCount recordExt + 16 * extNrange recordExt) = .ok chainBytes ∧
      (let entries := (List.range (extCount recordExt)).map (recordEntry chainBytes);
        (entries.zipIdx.any fun y => descBad y.1.1 || descWpx y.1.1 != 0 || extLaunchBad y.1.2 (some y.2) || s.noFit 0 y.1.1) = false ∧
        firstChk (entries.map fun y => s.descChk siteQueue y.1) = .ok) ∧
      s.recordRanges 0 (chainBytes.drop (192 * extCount recordExt)) (List.range (extNrange recordExt)) = some []) ∧
    (let e := recordExt ||| BitVec.ofNat 1024 (2 ^ 1023); (submitted extDesc.toNat e.toNat).head 0 0 = .desc extDesc e ∧
      extChainBad extDesc e = true ∧ headKind extDesc e = 1) ∧
    (recorded.head 0 0 = .desc extDesc replayExt ∧ headKind extDesc replayExt = 2 ∧ extChainBad extDesc replayExt = false ∧
      recorded.cp.chains.get? (chainKey 0 (extChain replayExt)) = some ⟨true, [(goodDesc, BitVec.ofNat 1024 (2 ^ 120))], none⟩ ∧
      recorded.cpBytes siteQueue (extAddr replayExt) (16 * extCount replayExt) = .ok (bytesOf 16 (9 + 2 ^ 64)) ∧
      patchOf (bytesOf 16 (9 + 2 ^ 64)) 0 = some (0, 1, 9) ∧ 1 < descPwords goodDesc ∧ recorded.cp.freeInst 0 = some 1 ∧ recorded.cp.launches.length + 1 ≤ 1024) ∧
    (submitted extDesc.toNat replayExt.toNat).cp.chains.get? (chainKey 0 (extChain replayExt)) = none := by
  refine ⟨⟨desc_of (by decide +kernel), by decide +kernel, by decide +kernel, read_of (by decide +kernel), by decide +kernel, by decide +kernel⟩,
    ⟨desc_of (by decide +kernel), by decide +kernel, by decide +kernel⟩,
    ⟨desc_of (by decide +kernel), by decide +kernel, by decide +kernel, by decide +kernel, read_of (by decide +kernel), by decide +kernel, by decide +kernel,
      by decide +kernel, by decide +kernel⟩, by decide +kernel⟩

/-- A result without an error. -/
def fine {α β : Type} (r : Except α β) : Bool := match r with | .ok _ => true | .error _ => false
theorem ok_of_fine {α β : Type} {r : Except α β} (h : fine r = true) : ∃ x, r = .ok x := by
  unfold fine at h; split at h
  · exact ⟨_, rfl⟩
  · simp at h

theorem witness_QueueSteps_params :
    ∃ params, recorded.chainParams siteQueue [(goodDesc, BitVec.ofNat 1024 (2 ^ 120))] = .ok params := ok_of_fine (by decide +kernel)

/-- A launch of context `ctx` with descriptor `goodDesc`. -/
def launchOf (ctx : Nat) : Launch := mkLaunch ctx 0 0 goodDesc []
/-- `site` with launch 1 and other entries of the command processor. -/
def placing (l : Launch) (f : Cp → Cp) : State := { site with cp := f { site.cp with launches := [(1, l)], order := [1], nextLaunch := 2 } }
/-- A launch of a chain that needs generation 1 of key 7, of which 2 is current. -/
def staleLaunch : Launch := { launchOf 0 with opened := false, maps := [⟨0, 1, 1, 1, 1, 7⟩] }
/-- A waypoint entry of key 7 at generation 2 with `cur` needs, and a publication of `gen`. -/
def wpAt (cur : Nat) (held : Option Nat) : WpEntry := ⟨0, 0, 7, 2, cur, 0, false, held, 1⟩
def pubOf (gen : Nat) : Pub := ⟨5, 0, 3, 1, 7, gen, false⟩
/-- Every core awaits a new split, so no group fits. -/
def fullCores : Table Core := (List.range 512).map fun c => (c, { Core.init with pendSplit := some 4 })
/-- `placing` one millisecond after its group was first offered, with no room. -/
def noRoom (t : Option (Nat × Nat)) : State :=
  { placing { launchOf 0 with offered := t } id with cores := fullCores, chrono := 1000000 }
/-- A launch of class 3 beside a group of class 1 that fills the registers of the one core without a new split. -/
def crowded : State :=
  { placing (launchOf 1) fun c => { c with ctxs := [(0, siteCtx 1), (1, siteCtx 3)] } with
    cores := fullCores.tail
    groups := [(0, ⟨9, 0, 0, 0, 0, [], [], false, [], [], [], 0, 1⟩)]
    waves := [(0, { placedWave with launch := 9, nv := 1024 })] }

theorem witness_LaunchSteps :
    (let s := placing { launchOf 0 with opened := false } id;
      s.launchAt? 1 = some { launchOf 0 with opened := false } ∧ s.mayOpen { launchOf 0 with opened := false } = true ∧
      (Cp.registerAll 1 0 0 ({ launchOf 0 with opened := false } : Launch).wants [] { s.cp with opens := s.cp.opens ++ [1] }).2 = ([], false)) ∧
    (let s := placing staleLaunch fun c => { c with wp := [wpAt 0 none] };
      s.mayOpen staleLaunch = true ∧ staleLaunch.fault = none ∧ (Cp.registerAll 1 0 0 staleLaunch.wants [] { s.cp with opens := s.cp.opens ++ [1] }).2.2 = true) ∧
    -- an offer that fits, one that fits nowhere, and the core it reserves after 1 ms
    ((placing (launchOf 0) id).offerOf (launchOf 0) = some 0 ∧ ((placing (launchOf 0) id).dieFor 1 (launchOf 0) 0 []).isSome = true) ∧
    ((noRoom none).offerOf (launchOf 0) = some 0 ∧ (noRoom none).dieFor 1 (launchOf 0) 0 [] = none) ∧
    (let l := { launchOf 0 with offered := some (0, 0) }; let s := noRoom (some (0, 0));
      s.launchAt? 1 = some l ∧ s.offerOf l = some 0 ∧ s.dieFor 1 l 0 [] = none ∧ 0 + 1000000 ≤ s.chrono ∧
      (s.cores.any fun e => e.2.reserve.contains (1, 0)) = false ∧ leastBy s.residentDie (s.diesOf l.part) = some 0 ∧
      leastBy s.resident ((coresOfDie 0).filter (s.holdsEmpty l.desc)) = some 0) ∧
    -- a launch that is done and one that is not
    (let l := { launchOf 0 with next := 1, dispatched := [0] }; (placing l id).launchDone 1 l = true ∧ descDone l.desc ≠ 0 ∧
      (placing l id).settle.translateCp 0 (descDone l.desc) .store = .to (.dev 0x3000)) ∧
    (placing (launchOf 0) id).launchDone 1 (launchOf 0) = false ∧ (placing (launchOf 0) id).launchOver 1 (launchOf 0) = false := by
  and_intros <;> decide +kernel

theorem witness_LaunchSteps_rest :
    -- publications without an entry, in step, too far ahead, and while others still need the current generation
    (∀ e ∈ [([] : List WpEntry), [wpAt 0 none], [wpAt 1 none]], ∀ g ∈ [3, 4],
      let s := placing (launchOf 0) fun c => { c with pubs := [pubOf g], wp := e };
      (s.cp.pubs.find? fun y => y.id == (pubOf g).id && !y.held) = some (pubOf g) ∧
        ((s.cp.pubs.takeWhile fun y => y.id != (pubOf g).id).filter fun y => y.launch == (pubOf g).launch && y.who == (pubOf g).who) = [] ∧
        s.launchAt? (pubOf g).launch = some (launchOf 0) ∧ s.cp.wpGet 0 0 7 = e.head? ∧ s.cp.wpRoom = true) ∧
    -- a pre-emption, and a dispatch
    crowded.preemptNext = some 0 ∧
    ((placing (launchOf 0) id).preemptNext = none ∧ (placing (launchOf 0) id).choose.2 = some (1, 0, 0) ∧
      (placing (launchOf 0) id).choose.1.coreFor 1 (launchOf 0) 0 0 = some 0) ∧
    ((noRoom none).cp.charged + 1000 ≤ (noRoom none).chrono ∧ site.chrono < site.cp.charged + 1000) ∧
    (((noRoom none).coreAt 511).pendSplit = some 4 ∧ (noRoom none).groupsOn 511 (fun _ => true) = [] ∧
      crowded.groupsOn 0 (fun _ => true) ≠ []) := by
  and_intros <;> decide +kernel

/-- A saved group of one wave that left core 5. -/
def savedGroup : SavedGroup := ⟨5, 0, ⟨1, 0, 0, 0, 0, [], [], false, [], [], [], 0, 1⟩, [(0, closedW)], [], [], [], []⟩

theorem witness_PreemptSteps :
    (∀ st ∈ [CtxSt.stopping, .draining], let s := { idle closedW with cp := { base.cp with ctxs := [(0, { placedCtx with st := st })] } };
      s.ctxAt? 0 = some { placedCtx with st := st } ∧ ((s.ctxWaves 0).all fun e => e.2.atRest) = true ∧
        ((s.ctxWaves 0).all fun e => s.waveSaved e.1 e.2) = true ∧ ((s.ctxGroups 0).all fun e => s.groupSaved e.1) = true) ∧
    (((base.ctxWaves 0).all fun e => e.2.atRest) = false) ∧
    (let s := siteWith { siteCtx 1 with st := .saved, saves := [savedGroup] };
      s.higherWaits { siteCtx 1 with st := .saved, saves := [savedGroup] } = false ∧
        [savedGroup].find? s.roomBack = some savedGroup ∧ (savedGroup.waves.map fun e => e.1).Nodup) ∧
    (let s := siteWith { siteCtx 1 with st := .killing };
      s.waves.any (fun e => e.2.ctx == 0) = false ∧ s.groups.any (fun e => e.2.ctx == 0) = false ∧
        s.cp.launches.any (fun e => e.2.ctx == 0) = false ∧ s.settle.enginePending 0 = false) := by
  and_intros <;> decide +kernel

/-- Commands of port 0, of the session of tenancy 1 and without. -/
def plainReq : MbReq := ⟨0, none, none⟩
def secured : MbReq := ⟨0, some 7, some 5⟩
/-- A context of tenancy 0 with its tables in its own granule and its save area in the firmware's. -/
def newDesc : BitVec 512 := BitVec.ofNat 512 (0x10000 * 2 ^ 448 + 2 ^ 197 + 2 ^ 87)

theorem witness_TenancyCommands :
    (site.links.boot = .running ∧ site.answers = true ∧ site.partOfPort plainReq.port = some 0 ∧ (1 : Nat) ≠ site.host.owner ∧
      site.host.mode.val = 0 ∧ site.host.takeover = none) ∧
    -- a new tenancy 15, and the destruction of tenancy 1
    (let p : DWord := BitVec.ofNat 64 (3 * 2 ^ 32 + 7);
      site.hasSession 0 7 = true ∧ bits p.toNat 31 3 = 0 ∧ site.host.tens.get? 15 = none ∧ bits p.toNat 63 32 ≠ 0 ∧
      site.host.tens.any (fun e => bits e.2.policy.toNat 63 32 == bits p.toNat 63 32) = false) ∧
    (∃ t, site.host.tens.get? 1 = some t ∧ site.accepts secured 0 1 = true ∧ secured.sess = some t.session ∧
      site.hasSession 0 t.session = true ∧ site.cp.ctxs.any (fun e => e.2.ten == 1) = false ∧ site.mem.invals = [] ∧
      site.mem.owner 1 = BitVec.ofNat 8 (64 + 1) ∧ site.mem.granulesOf 1 ≠ [] ∧ site.inSession secured t = true) ∧
    (∃ t, site.host.tens.get? 0 = some t ∧ site.accepts plainReq 0 0 = true ∧ plainReq.sess ≠ some t.session ∧ site.inSession plainReq t = false ∧
      (site.policy 0).getLsbD 1 = true ∧ (site.policy 0).getLsbD 2 = true) ∧
    -- granules: free, another's, in use and not
    (site.granuleOf 0 2 = true ∧ site.mem.owner 2 = 0 ∧ site.mem.moving.contains 2 = false ∧ site.mem.owner 1 ≠ 0 ∧
      site.granuleLive 0 0 = true ∧ site.granuleLive 1 1 = false) ∧
    (bits (0xFFF : BitVec 16).toNat 15 12 = 0) ∧
    (let e : BitVec 128 := BitVec.ofNat 128 (2 ^ 64 + 0x1F);
      winTen e = 0 ∧ winValid (site.mem.windows.getD 4095 0) = false ∧ bits e.toNat 127 104 = 0 ∧ bits e.toNat 7 5 = 0) ∧
    (let arg : DWord := BitVec.ofNat 64 (7 * 2 ^ 18 + 511 * 2 ^ 9 + 1);
      bits arg.toNat 21 18 ≤ 7 ∧ bits arg.toNat 17 9 = 511 ∧ bits arg.toNat 8 0 + 511 ≤ 512 ∧ bits arg.toNat 63 23 = 0 ∧
      (∀ c, 0 ≤ c → c < 512 → (site.diesOf 0).contains (dieOfCore c) = true) ∧
      ∀ e ∈ work.groups, ∃ x, work.ctxAt? e.2.ctx = some x ∧ work.partOfCtx x = 0) :=
  by
    have h : work.groups.all (fun e => (work.ctxAt? e.2.ctx).map work.partOfCtx == some 0) = true := by decide +kernel
    have hall : ∀ e ∈ work.groups, ∃ x, work.ctxAt? e.2.ctx = some x ∧ work.partOfCtx x = 0 := by
      intro e he
      have := List.all_eq_true.mp h e he
      cases hc : work.ctxAt? e.2.ctx with
      | none => simp [hc] at this
      | some x => exact ⟨x, rfl, by simpa [hc] using this⟩
    and_intros <;> first | exact hall | decide +kernel

theorem witness_ContextCommands :
    (site.accepts plainReq 0 (bits newDesc.toNat 194 191) = true ∧ site.ctxDescBad 63 newDesc = false ∧ site.ctxDescBad 63 0 = true ∧
      (site.ctxAt? 0).isSome = true ∧ site.ctxAt? 63 = none ∧ site.host.takeover = none) ∧
    (site.ctxAt? 0 = some (siteCtx 1) ∧ (siteCtx 1).st ≠ .killing ∧ site.accepts plainReq 0 (siteCtx 1).ten = true) ∧
    (site.queueAt? 0 63 = none ∧ (site.queueAt? 0 0).isSome = true ∧ (6 ≤ 6 ∧ 16 ≤ 16 ∧ 0x8000 % 64 = 0)) ∧
    (∃ x y, site.queueAt? 0 0 = some x ∧ x.ctx = 0 ∧ x.qstat = 0 ∧ site.queueAt? 0 1 = some y ∧ y.ctx = 0 ∧ y.qstat ≠ 0) ∧
    ([(⟨1, 9, 0, 1, 0⟩ : PageReq)].any (fun p => p.seq == 1) = true ∧ [(⟨1, 9, 0, 1, 0⟩ : PageReq)].any (fun p => p.seq == 2) = false) ∧
    -- requests to what tenancy 0 owns and does not, and to tenancy 1 over its stream and another
    (let h : HostReq := ⟨0, 0, none, true, 2 ^ 21 - 4, 0, [1, 2, 3, 4]⟩; site.carries h.port h.ten = true ∧
      site.reaches h.port h.ten h.stream = true ∧ site.hostOwns h.ten h.addr h.data.length = true ∧ site.hostOwns h.ten h.addr 5 = false ∧
      site.poisoned h.addr 4 = false) ∧
    ({ site with mem := { site.mem with poison := [1] } } : State).poisoned 127 1 = true ∧ site.carries 0 1 = true ∧ site.reaches 0 1 (some 4) = false := by
  and_intros <;> first | decide +kernel | exact ⟨_, _, rfl, rfl, rfl, rfl, rfl, by decide +kernel⟩

/-- `site` with the TDI of tenancy 1 at port 0 in a state. -/
def tdiIn (x : TdiSt) : State :=
  { site with host := { site.host with tens := [(1, { tenancy (BitVec.ofNat 64 (2 ^ 32 + 1)) with tdi := [(0, x)] })] } }

theorem witness_Attestation :
    (site.answers = true ∧ (site.spdmAt 0).stage = 3 ∧ (site.spdmAt 1).stage = 0 ∧ (site.spdmAt 0).pending = some (8, 55) ∧
      site.hasSession 0 7 = true) ∧
    (∀ n ∈ [1, 2, 3, 4, 5, 6], (site.measure (some 7) n).isSome = true) ∧
    (∀ x ∈ [TdiSt.unlocked, .locked, .run], (tdiIn x).answers = true ∧ (tdiIn x).overSession 0 7 1 = true ∧ (tdiIn x).tdiAt 0 1 = x ∧
      (tdiIn x).host.tens.any (fun e => e.1 != 1 && e.2.stream.get? 0 == some 6) = false ∧
      ((tdiIn x).host.tens.get? 1).bind (fun t => t.stream.get? 0) ≠ some 6) ∧
    (site.host.tens.get? 0).isSome = true := by
  and_intros <;> decide +kernel

/-- Device 0 in group 5 with device 9, as a member and so on, at time `t`, with port 5 up. -/
def grouped (st : MState) (t : Nat) : State :=
  { site with
    chrono := t
    links := { site.links with ports := [(5, { Port.init with st := .up })] }
    mer := { Meridian.init with
      st := st, en := st != .none, group := 5, mnum := 3, founder := 9, admit_ := [(9, true), (10, true)], heard := [(9, 0)],
      members := [(0, (2250, 0)), (9, (2000, 0))] } }
/-- A message of device 9 sent at time 0. -/
def mmsg (type : BitVec 8) (sender subject ceiling : BitVec 12) (eff : DWord) : MMsg := ⟨type, sender, subject, ceiling, 0, 0, 5, 3, eff, 1⟩

/-- A message has come before. -/
def cameBefore (q : State) (m : MMsg) : Bool :=
  (q.mer.seen.getD (msgKey m) []).contains m.sent.toNat || (q.mer.seen.getD (2 ^ 20 + msgKey m) []).contains m.sent.toNat

theorem witness_MeridianMessages :
    (∀ m ∈ [mmsg 1 9 9 2000 0, mmsg 2 9 9 1000 100001, mmsg 3 9 9 0 100001, mmsg 4 10 10 2250 100001, mmsg 5 9 9 0 100001,
        mmsg 6 9 0 0 100001, mmsg 6 9 10 0 100001, mmsg 1 10 8 2000 0],
      (∀ st ∈ [MState.none, .local_, .member, .leaving, .joining], let q := (grouped st 20001).merSettle;
        q.mer.st = st ∧ m.group = q.mer.group ∧ q.mer.admit_.getD m.sender.toNat false = true ∧ cameBefore q m = false ∧
          (∀ x ∈ q.mer.seen.getD (msgKey m) [], ¬ m.sent.toNat ≤ x) ∧ (grouped st 20001).brings 5 = true ∧ (grouped st 20001).brings 6 = false) ∧
      mmsgOk m = true ∧ (grouped .member 20001).gt ≤ m.sent.toNat + 20000 ∧ m.mnum = (grouped .member 20001).merSettle.mer.mnum) ∧
    -- a copy, a foreign group, a stranger and an invalid TYPE
    (let m := mmsg 1 9 9 2000 0; cameBefore ((grouped .member 0).noteM m 0 false).merSettle m = true) ∧
    (mmsg 1 9 9 2000 0).group ≠ (6 : BitVec 32) ∧ (grouped .joining 0).merSettle.mer.admit_.getD 11 false = false ∧
    ((mmsg 0 9 9 2000 0).type = 0 ∧ 6 < (mmsg 7 9 9 2000 0).type.toNat ∧ mmsgOk (mmsg 7 9 9 2000 0) = false) ∧
    ((grouped .member 20001).merSettle.mer.members.get? 9).isSome = true ∧ (grouped .member 20001).merSettle.mer.members.get? 10 = none ∧
    (grouped .member 20001).merSettle.mer.explains 3 = true ∧ (grouped .member 20001).merSettle.mer.isMember = true ∧
    (grouped .leaving 20001).merSettle.mer.isMember = true ∧ (grouped .joining 20001).merSettle.mer.follows 0 = false ∧
    -- a joiner before its alignment and after, when the heartbeat comes late; a message older than one that has come
    ((grouped .joining 20002).merSettle.mer.aligned = none ∧
      (let s := { grouped .joining 20002 with mer := { (grouped .joining 20002).mer with aligned := some 0 } };
        s.merSettle.mer.aligned.isSome = true ∧ s.merSettle.mer.st = .joining ∧ (mmsg 1 9 9 2000 0).sent.toNat + 20000 < s.gt)) ∧
    (let q := ({ grouped .member 0 with mer := { (grouped .member 0).mer with seen := [(msgKey (mmsg 1 9 9 2000 0), [2])] } } : State).merSettle;
      cameBefore q (mmsg 1 9 9 2000 0) = false ∧ q.mer.seen.getD (msgKey (mmsg 1 9 9 2000 0)) [] = [2] ∧ (mmsg 1 9 9 2000 0).sent.toNat ≤ 2) ∧
    (8 : Nat) < (grouped .member 20001).merSettle.mer.founder := by
  and_intros <;> decide +kernel

/-- A device that has been joining since time 0, aligned at once with a heartbeat of device 9. -/
def joiningAt (t : Nat) : State :=
  { site with
    chrono := t
    mer := { Meridian.init with st := .joining, en := true, group := 5, aligned := some 0, view := [(0, mmsg 1 9 9 2000 0)] } }

theorem witness_MeridianEngine :
    ((grouped .member 0).merSettle.mer.isMember = true ∧ (grouped .member 0).merSettle.mer.nextBeat ≤ (grouped .member 0).gt ∧
      (grouped .member 0).links.level3 = false) ∧
    (∀ st ∈ [MState.none, .joining, .member, .leaving, .local_], (grouped st 0).merSettle.mer.st = st) ∧
    -- one silent member of two, and of one; foreign numbers for more than 100 µs
    (let s := { grouped .member 200000 with mer := { (grouped .member 0).mer with heard := [(9, 0), (10, 1)], members := [(0, (2250, 0)), (9, (2000, 0)), (10, (2000, 0))] } };
      s.merSettle.others.contains 9 = true ∧ s.merSettle.silentNow 9 = true ∧ s.merSettle.allSilent = false ∧
        (s.merSettle.mer.changes.any fun c => c.subject == 9 && !c.join && c.by_ == 0) = false) ∧
    ((grouped .member 200000).merSettle.allSilent = true ∧ (grouped .member 199999).merSettle.allSilent = false) ∧
    (let s := { grouped .member 100001 with mer := { (grouped .member 0).mer with epochFrom := some (0, 100001) } };
      s.merSettle.mer.epochFrom = some (0, 100001) ∧ s.merSettle.mer.isMember = true ∧ 0 + 100000 < 100001) ∧
    ((joiningAt 40000).mer.st = .joining ∧ (joiningAt 40000).mer.aligned = some 0 ∧ 0 + 40000 ≤ (joiningAt 40000).gt ∧ (joiningAt 40000).mer.changes = [] ∧
      latestBeats ((joiningAt 40000).mer.view.filter fun e => decide (0 ≤ e.1)) ≠ [] ∧ (joiningAt 200000).merSettle.mer.st = .joining ∧
      (joiningAt 200000).merSettle.mer.since + 200000 ≤ (joiningAt 200000).gt) ∧
    -- the owner's writes
    ((grouped .member 0).merSettle.ownerWrites 0 = true ∧ (grouped .member 0).merSettle.ownerWrites 1 = false) ∧
    (∀ v ∈ [1000, 2250], (BitVec.ofNat 64 v : DWord).toNat % 25 = 0 ∧ 1000 ≤ (BitVec.ofNat 64 v : DWord).toNat ∧
      (BitVec.ofNat 64 v : DWord).toNat ≤ 2250) ∧
    (min (1000 : DWord).toNat (grouped .member 0).merSettle.mer.power ≠ (grouped .member 0).merSettle.mer.ownLimit ∧
      1000 ≤ min (1000 : DWord).toNat (grouped .member 0).merSettle.mer.power) ∧
    ((grouped .none 0).merSettle.mer.en = false ∧ ((2 ^ 32 - 1 : Nat) < 2 ^ 32) ∧ 2 ^ 32 ≤ (BitVec.ofNat 64 (2 ^ 32) : DWord).toNat) ∧
    (∀ n ∈ [2 ^ 24 + 256, 168 * 2 ^ 24 + 4096], let v : DWord := BitVec.ofNat 64 n;
      1 ≤ bits v.toNat 31 24 ∧ bits v.toNat 31 24 ≤ 168 ∧ 256 ≤ bits v.toNat 12 0 ∧ bits v.toNat 12 0 ≤ 4096) ∧
    (500 ≤ (500 : DWord).toNat ∧ (3200 : DWord).toNat ≤ 3200) := by
  and_intros <;> decide +kernel

/-- A port in a state, with the counter 300 next each way, and its last 256 flits kept. -/
def portIn (st : PState) : Port :=
  { Port.init with
    st := st
    rx := { Dir.init with ctr := 300 }
    tx := { Dir.init with ctr := 300, kept := (List.range 256).map fun i => ⟨0, BitVec.ofNat 96 (299 - i), 0, .replayAsk 0⟩ } }
/-- `site` with port 71 so. -/
def portAt (x : Port) : State := { site with links := { site.links with ports := [(71, x)] } }
/-- A flit with a counter's low bits. -/
def flit (ctr : BitVec 16) (replay : Bool) : Flit := ⟨0, false, replay, 0, 9, ctr, 0, 0, true⟩

theorem witness_LinkSteps :
    (let x := portIn .up; (portAt x).links.port 71 = x ∧ x.st = .up ∧ x.rx.failed = none ∧ flitOk (flit 300 false) (x.rx.expects (flit 300 false)) = true ∧
      flitOk (flit 299 false) (x.rx.expects (flit 299 false)) = false) ∧
    (let x := { portIn .up with rx := { Dir.init with ctr := 300, failed := some 300 } };
      (portAt x).links.port 71 = x ∧ x.rx.replays (flit 300 true) 300 = true ∧ x.rx.replays (flit 300 false) 300 = false ∧
        x.rx.renews (flit 300 true) = false ∧ flitOk (flit 300 true) 300 = true ∧ flitOk { flit 300 true with tagOk := false } 300 = false ∧
        -- the first flit of a new phase
        (let f := { flit 0 true with keyph := !x.rx.phase }; x.rx.replays f 300 = true ∧ x.rx.renews f = true ∧ flitOk f 0 = true)) ∧
    ((portIn .up).tx.stopped = none ∧ ({ (portIn .up).tx with stopped := some 0 } : Dir).stopped.isSome = true ∧ (portAt (portIn .up)).brings 71 = true ∧
      (portAt (portIn .down)).brings 71 = false ∧ (portIn .up).tx.hasSent 300 = false) ∧
    ((portIn .up).tx.hasSent 44 = true ∧ (portIn .up).tx.keeps 44 = true ∧ (portIn .up).tx.hasSent 43 = true ∧ (portIn .up).tx.keeps 43 = false) ∧
    (∀ o ∈ [true, false], let x := { portIn .up with hold := some 0, open_ := o };
      ((portAt x).links.port 71).hold = some 0 ∧ 0 ≤ (portAt x).gtime ∧ ((portAt x).links.port 71).open_ = o) ∧
    ((portIn .locked).st = .locked ∧ (portAt (portIn .locked)).links.level3 = false ∧ (portIn .locked).attestFrom ≤ (portAt (portIn .locked)).chrono) ∧
    ((portIn .up).rx.rekey = none ∧ (portIn .up).tx.rekey = none ∧
      ((portAt { portIn .up with tx := { Dir.init with rekey := some 3, stopped := some 0 } }).links.port 71).tx.rekey = some 3) ∧
    ((71 : Nat) < 72 ∧ (portIn .down).st = .down) := by
  and_intros <;> decide +kernel

/-- An image that passes R449, and one whose second signature does not verify. -/
def image (ok : Bool) : BootImage := ⟨true, ok, 0, 9⟩
def bootWith (ok : Bool) : BootIn := ⟨image true, image ok, image true, 1, 0, 7, [], [], [3]⟩

theorem witness_AlarmBootPowerSteps :
    ({ site with links := { site.links with boot := .off } } : State).links.boot = .off ∧
    (∀ ok ∈ [true, false], let b := bootWith ok; (imagePasses b.stage1 (codeLevel (site.host.rollback.getD 0 0)) &&
      imagePasses b.cpfw (codeLevel (site.host.rollback.getD 1 0)) && imagePasses b.config (codeLevel (site.host.rollback.getD 2 0)) &&
      !site.links.revoked) = ok ∧ b.alarms = []) ∧
    (∃ d c, Sensor.temperature 3 1250 = .temperature d c ∧ -200 ≤ c ∧ c ≤ 1250) ∧ (∃ d c, Sensor.temperature 3 1251 = .temperature d c ∧ (1250 < c ∨ c < -200)) ∧
    (({ site with links := { site.links with boot := .recovery } } : State).links.boot = .recovery ∧ site.links.boot ≠ .recovery ∧
      site.links.revoked = false ∧ site.links.level3 = false) ∧
    Table.sorted site.host.tens = true ∧ (∀ n ∈ [0, 1], site.onDie n 0 = true) ∧
    (((⟨[100], [1050], [900], 1000, 300⟩ : Telemetry).pkgPower ≤ site.links.plim * 1100) ∧ ∀ c ∈ ([1050] : List Int), c ≤ 1050) ∧
    ((2250 : Nat) % 25 = 0 ∧ (grouped .none 100000).mer.revised + 100000 ≤ (grouped .none 100000).gt ∧ site.gt < site.mer.revised + 100000 ∧ (grouped .none 100000).merSettle.fitsBudget 2250 = true ∧
      (grouped .none 100000).merSettle.fitsBudget 1000 = false) := by
  and_intros <;> first | decide +kernel | exact ⟨_, _, rfl, by decide⟩

/-- A pseudo-channel in the last stack whose next slot, of bank 3, is due at time 0, with bank 3 open at row 5, and whose scrub comes to
that row. -/
def lastPc : Nat := 2047
def chan (debt pending : Nat) : PChan :=
  { PChan.init with slot := 3, due := some 0, debt := debt, scrub := 1328, banks := [(3, ⟨[], pending, 0, some 5, none⟩)] }
/-- `site` with it. -/
def housed (x : PChan) : State := { site with house := { site.house with pcs := [(lastPc, x)] } }
/-- An access to row 5 of bank 3. -/
def hbmAcc (ph : HbmPhase) : HbmAcc := ⟨ph, 3, 5, false, false, false, 0, .clean⟩

theorem witness_HousekeepingSteps :
    (∀ x ∈ [chan 8 0, chan 0 0, chan 0 1], (housed x).house.pc lastPc = x ∧ (housed x).slotDue lastPc ≤ (housed x).now8) ∧
    ((chan 0 0).owed = [] ∧ ((chan 0 0).bank ((chan 0 0).slot % 16)).pending = 0 ∧ ((chan 0 1).bank ((chan 0 1).slot % 16)).pending ≠ 0) ∧
    (lastPc / 256 < 8 ∧ lastPc < 2048) ∧
    -- an access that may be issued, one that may not, and one that moves its data
    (let x := chan 0 1; ((x.bank 3).issued < (x.bank 3).pending ∧ x.open_ (housed x).now8 3 = true ∧
      (x.bank 3).openRow = some (x.trueRow (hbmAcc .issued)))) ∧
    ((chan 0 0).bank 3).pending ≤ ((chan 0 0).bank 3).issued ∧
    (let x := { chan 0 0 with banks := [(3, ⟨[], 1, 1, some 5, none⟩)] }; (x.bank 3).issued ≠ 0 ∧ x.forced ≠ some none) ∧
    ((housed (chan 0 0)).house.scrub = true ∧ (∀ b, b < 16 → ((chan 0 0).bank b).pending = 0) ∧ (hbmAcc .issued).spare = false ∧
      burstIndex (hbmAcc .issued) = (chan 0 0).scrub ∧ hbmExists (hbmAcc .issued) = true ∧ hbmExists { hbmAcc .issued with row := 16384 } = false ∧
      (chan 0 0).overtaken (hbmAcc .arrives) = chan 0 0 ∧ (chan 0 0).scrub < mappedBursts ∧
      (chan 0 0).open_ (housed (chan 0 0)).now8 3 = true) ∧
    ((grouped .none 32000000).house.cleared + 32000000 ≤ (grouped .none 32000000).chrono ∧ site.chrono < site.house.cleared + 32000000) ∧
    (let r : Remap := ⟨3, 5, 0, false⟩; let s := { site with house := { site.house with pend := [(7, [(lastPc, r)])] } };
      s.house.pend.getD 7 [] = (lastPc, r) :: []) ∧
    (({ chan 0 0 with blocked := some 0 } : PChan).blocked = some 0 ∧ ((site.house.pend.getD (lastPc / 256) []).filter fun e => e.1 == lastPc) = []) ∧
    (∃ y, work.groupAt? 0 = some y ∧ 65535 < y.size ∧ y.bad.contains 65535 = false) ∧
    ((site.mem.llc.get? 64 = none) ∧ (({ site.mem with llc := [(64, ⟨0, 0, 0, false, false, 0, 0, true, 0⟩)] } : MemSys).llc.get? 64).isSome = true) ∧
    -- a window on tenancy 0's granule and on another's
    (site.partOfPort 0 = some 0 ∧ site.ownerWrites 0 = true ∧ site.house.pwBusy = false ∧ site.windowable 0 0 = true ∧ site.windowable 0 1 = false ∧
      site.house.pwEn = false ∧ (BitVec.ofNat 64 (2 ^ 15) : DWord).getLsbD 15 = true ∧ (0 : DWord).getLsbD 15 = false ∧
      bits (BitVec.ofNat 64 (2 ^ 15 + 1) : DWord).toNat 10 0 ≠ site.house.pwPc ∧ (∀ a ∈ site.mem.accs, a.heldIn [0] = false) ∧
      ({ site with house := { site.house with pwEn := true } } : State).windowable 0 0 = true) ∧
    (({ site with house := { site.house with pwInval := some 5 } } : State).windowSettled = true ∧ site.windowSettled = false) :=
  by and_intros <;> decide +kernel

/-! ### Behaviour: one step each, against the spec's worked examples and values calculated from its rules -/

/-- A wave with the values of v and s registers in every lane, and a lane's number in v63. -/
def regs (v : List (Nat × Word)) (s : List (Nat × DWord)) : Wave :=
  { placedWave with v := v.map (fun e => (e.1, List.replicate 64 e.2)) ++ [(63, (List.range 64).map (BitVec.ofNat 32))], s := s }
/-- Wave 0 after an instruction. -/
def after (w : Wave) (i : Instr) : Option Wave := match exec i (withWave w) with | .next t => t.waveAt? 0 | _ => none
/-- Lane 5 of v`n`, a lane of it, and s`n`, after an instruction. -/
def vAfter (w : Wave) (i : Instr) (n : Nat) : Option Nat := (after w i).map fun w => (w.vLane n 5).toNat
def vLaneAfter (w : Wave) (i : Instr) (n L : Nat) : Option Nat := (after w i).map fun w => (w.vLane n L).toNat
def sAfter (w : Wave) (i : Instr) (n : Nat) : Option Nat := (after w i).map fun w => (w.sReg n).toNat
def pAfter (w : Wave) (i : Instr) (n : Nat) : Option Nat := (after w i).map fun w => (w.pMask n).toNat
/-- An XV record without a predicate. -/
def xv (d : Dst) (mod3 : Fin 8) (func6 : Fin 64) (a b c : Src) (lit : Option DWord) : Xv :=
  ⟨false, d, none, 0, false, mod3, func6, only a, only b, only c, lit⟩

/-- R120: 0xFFFFFFFF + 5 wraps to 4, and 1 − 5 to −4. -/
theorem test_iadd_isub : vAfter (regs [(2, 0xFFFFFFFF)] []) (.iaddBv ⟨false, .v 9, .v 2, .const 5, none⟩) 9 = some 4 ∧
    vAfter (regs [(2, 1)] []) (.isubBv ⟨false, .v 9, .v 2, .const 5, none⟩) 9 = some 0xFFFFFFFC := by decide +kernel
/-- R123, the 96-bit add: word 0 is 0xFFFFFFFE + 3, with the carry in the next register; word 1 takes the carry. -/
theorem test_iaddc :
    vAfter (regs [(10, 0xFFFFFFFE), (13, 3)] []) (.iaddcXv (xv (.v 20) 0 0 (.v 10) (.v 13) (.const 0) none)) 20 = some 1 ∧
    vAfter (regs [(10, 0xFFFFFFFE), (13, 3)] []) (.iaddcXv (xv (.v 20) 0 0 (.v 10) (.v 13) (.const 0) none)) 21 = some 1 ∧
    vAfter (regs [(11, 0xFFFFFFFF), (14, 0), (21, 1)] []) (.iaddcXv (xv (.v 22) 0 0 (.v 11) (.v 14) (.v 21) none)) 22 = some 0 ∧
    vAfter (regs [(11, 0xFFFFFFFF), (14, 0), (21, 1)] []) (.iaddcXv (xv (.v 22) 0 0 (.v 11) (.v 14) (.v 21) none)) 23 = some 1 := by
  decide +kernel
/-- R120: the high half of −1 × −1 is 0 under S32 and 0xFFFFFFFE under N32; SAT clamps the greatest sum. -/
theorem test_imulh_sat : vAfter (regs [(2, 0xFFFFFFFF)] []) (.imulhXv (xv (.v 9) 0 0 (.v 2) (.v 2) (.v 0) none)) 9 = some 0 ∧
    vAfter (regs [(2, 0xFFFFFFFF)] []) (.imulhXv (xv (.v 9) 0 1 (.v 2) (.v 2) (.v 0) none)) 9 = some 0xFFFFFFFE ∧
    vAfter (regs [(2, 0x7FFFFFFF)] []) (.iaddXv (xv (.v 9) 0 32 (.v 2) (.v 2) (.v 0) none)) 9 = some 0x7FFFFFFF := by decide +kernel
/-- R125: 0x69 is the parity of three bits. R126: counts of 32 and more; FSHR joins c and a. R127: a field past the width. -/
theorem test_logic_shifts :
    vAfter (regs [(1, 0xF0F0F0F0), (2, 0xCCCCCCCC), (3, 0xAAAAAAAA)] []) (.lop3Xv (xv (.v 9) 1 13 (.v 1) (.v 2) (.v 3) none)) 9 = some 0x96969696 ∧
    vAfter (regs [(1, 0x80000000), (2, 32)] []) (.sarBv ⟨false, .v 9, .v 1, .v 2, none⟩) 9 = some 0xFFFFFFFF ∧
    vAfter (regs [(1, 0x80000000), (2, 32)] []) (.shrBv ⟨false, .v 9, .v 1, .v 2, none⟩) 9 = some 0 ∧
    vAfter (regs [(1, 0x80000001), (2, 33)] []) (.rotlBv ⟨false, .v 9, .v 1, .v 2, none⟩) 9 = some 3 ∧
    vAfter (regs [(1, 0x12345678), (2, 8), (9, 0xAB)] []) (.fshrBv ⟨false, .v 9, .v 1, .v 2, none⟩) 9 = some 0xAB123456 ∧
    vAfter (regs [(1, 0xF0000000), (2, 0x081C)] []) (.bfeBv ⟨false, .v 9, .v 1, .v 2, none⟩) 9 = some 0xFFFFFFFF := by decide +kernel
/-- R128's two examples. -/
theorem test_prmt : vAfter (regs [(4, 0x44332211), (3, 0x21A)] []) (.prmtBv ⟨false, .v 3, .v 4, .v 5, none⟩) 3 = some 0x22114433 ∧
    vAfter (regs [(4, 0x91), (3, 0xE0000)] []) (.prmtBv ⟨false, .v 3, .v 4, .v 5, none⟩) 3 = some 0xFFFFFF91 := by decide +kernel
/-- R135's table: s8 from s32, wrapped and clamped; n8 of −1 clamped; s64 from s16. -/
theorem test_icvt :
    vAfter (regs [(4, 300)] []) (.icvtXv (xv (.v 3) 2 0 (.v 4) (.v 0) (.v 0) none)) 3 = some 0x2C ∧
    vAfter (regs [(4, 300)] []) (.icvtXv (xv (.v 3) 2 32 (.v 4) (.v 0) (.v 0) none)) 3 = some 0x7F ∧
    vAfter (regs [(4, 0xFFFFFF38)] []) (.icvtXv (xv (.v 3) 2 0 (.v 4) (.v 0) (.v 0) none)) 3 = some 0x38 ∧
    vAfter (regs [(4, 0xFFFFFFFF)] []) (.icvtXv (xv (.v 3) 2 36 (.v 4) (.v 0) (.v 0) none)) 3 = some 0 ∧
    vAfter (regs [(4, 0x18000)] []) (.icvtXv (xv (.v 6) 1 3 (.v 4) (.v 0) (.v 0) none)) 6 = some 0xFFFF8000 ∧
    vAfter (regs [(4, 0x18000)] []) (.icvtXv (xv (.v 6) 1 3 (.v 4) (.v 0) (.v 0) none)) 7 = some 0xFFFFFFFF := by decide +kernel
/-- R132: −1 < 1 signed and not unsigned. R133: p1 and p2 and p3. R134: a lane's number is not 0. -/
theorem test_predicates :
    pAfter (regs [(2, 0xFFFFFFFF)] []) (.icmpXv ⟨false, 2, 0, false, 2, 0, only (.v 2), only (.const 1), none⟩) 2 = some (2 ^ 64 - 1) ∧
    pAfter (regs [(2, 0xFFFFFFFF)] []) (.icmpXv ⟨false, 2, 0, false, 2, 1, only (.v 2), only (.const 1), none⟩) 2 = some 0 ∧
    pAfter { regs [] [] with p := [(1, 6), (2, 12), (3, 5)] } (.psetXv ⟨false, 4, 0, false, 1, 2, 3, 1⟩) 4 = some 4 ∧
    pAfter (regs [] []) (.pmovXv ⟨false, 0, false, .toPred 7 (only (.v 63)), none⟩) 7 = some (2 ^ 64 - 2) := by decide +kernel
/-- A predicate that is false leaves the lane's register (R5, R121): p1 holds lane 4 alone. -/
theorem test_predicated :
    vAfter { regs [(2, 7), (9, 1)] [] with p := [(1, 16)] } (.iaddXv { xv (.v 9) 0 0 (.v 2) (.v 2) (.v 0) none with p := 1 }) 9 = some 1 ∧
    vLaneAfter { regs [(2, 7), (9, 1)] [] with p := [(1, 16)] } (.iaddXv { xv (.v 9) 0 0 (.v 2) (.v 2) (.v 0) none with p := 1 }) 9 4 = some 14 := by
  decide +kernel

/-- R143: 1.0 + 2^-24 ties to even and is inexact; the sum of opposite infinities is the canonical NaN and invalid. -/
theorem test_fadd :
    vAfter (regs [(2, 0x3F800000), (3, 0x33800000)] []) (.faddBv ⟨false, .v 9, .v 2, .v 3, none⟩) 9 = some 0x3F800000 ∧
    ((after (regs [(2, 0x3F800000), (3, 0x33800000)] []) (.faddBv ⟨false, .v 9, .v 2, .v 3, none⟩)).map fun w => w.wstat.toNat % 512) = some 0x100 ∧
    vAfter (regs [(2, 0x3F800001), (3, 0x33800000)] []) (.faddBv ⟨false, .v 9, .v 2, .v 3, none⟩) 9 = some 0x3F800002 := by decide +kernel
/-- R143: an FFMA rounds once: (1 + 2^-12)^2 − (1 + 2^-11) is 2^-24. -/
theorem test_ffma : vAfter (regs [(2, 0x3F800800), (9, 0xBF801000)] []) (.ffmaBv ⟨false, .v 9, .v 2, .v 2, none⟩) 9 = some 0x33800000 := by
  decide +kernel
/-- The codes and flags of the worked example of four values in a T8 word (R107, R108), σ = −2: 0.421875 is exact, 2,000 saturates
with OF and NX, −0 is 0x00, and 0.640625 ties to 0x54 with NX. The second packs into byte 1, with its flags in WSTAT (R153). -/
theorem test_npack :
    encN .t8 false (-2) (.fin false 27 (-6)) = (0x4B, 0) ∧ encN .t8 false (-2) (.fin false 2000 0) = (0x7F, fOF ||| fNX) ∧
    encN .t8 false (-2) (.fin true 0 0) = (0x00, 0) ∧ encN .t8 false (-2) (.fin false 41 (-6)) = (0x54, fNX) ∧
    ((after (regs [(1, 0x44FA0000), (8, 0x4B)] []) (.npackXv (xv (.v 8) 0 16 (.v 1) .lit (.v 8) (some 0x13E)))).map fun w =>
      ((w.vLane 8 5).toNat, w.wstat)) = some (0x7F4B, 0x140) := by decide +kernel
/-- NUNPK with 0x13E reads that word's second byte back as 1,024; the T8 decodes 0xD9 and 0x13 of chapter 4, and T6 0x16. -/
theorem test_nunpk :
    vAfter (regs [(3, 0x54007F4B)] []) (.nunpkXv (xv (.v 8) 0 16 (.v 3) .lit (.v 0) (some 0x13E))) 8 = some 0x44800000 ∧
    vAfter (regs [(3, 0xD9)] []) (.nunpkXv (xv (.v 8) 0 16 (.v 3) (.const 0) (.v 0) none)) 8 = some 0xC0480000 ∧
    vAfter (regs [(3, 0x13)] []) (.nunpkXv (xv (.v 8) 0 16 (.v 3) (.const 0) (.v 0) none)) 8 = some 0x3DB00000 ∧
    vAfter (regs [(3, 0x16)] []) (.nunpkXv (xv (.v 8) 0 24 (.v 3) (.const 0) (.v 0) none)) 8 = some 0x40400000 := by decide +kernel
/-- R150: 1.5 to even is 2 and inexact; +∞ is the maximum and invalid; −0.4 to N32 is 0. R151: 2^24 + 1 ties to 2^24. -/
theorem test_ftoi_itof :
    vAfter (regs [(3, 0x3FC00000)] []) (.ftoiXv (xv (.v 8) 0 0 (.v 3) (.v 0) (.v 0) none)) 8 = some 2 ∧
    vAfter (regs [(3, 0x7F800000)] []) (.ftoiXv (xv (.v 8) 0 0 (.v 3) (.v 0) (.v 0) none)) 8 = some 0x7FFFFFFF ∧
    vAfter (regs [(3, 0xBECCCCCD), (8, 1)] []) (.ftoiXv (xv (.v 8) 0 8 (.v 3) (.v 0) (.v 0) none)) 8 = some 0 ∧
    vAfter (regs [(3, 0x1000001)] []) (.itofXv (xv (.v 8) 0 0 (.v 3) (.v 0) (.v 0) none)) 8 = some 0x4B800000 := by decide +kernel
/-- R149: 65,520 rounds to the infinity of F16. R146: −0 is less than +0, and a number wins over a quiet NaN. -/
theorem test_fcvt_fmin :
    vAfter (regs [(3, 0x477FF000)] []) (.fcvtXv (xv (.v 8) 0 1 (.v 3) (.v 0) (.v 0) none)) 8 = some 0x7C00 ∧
    vAfter (regs [(2, 0), (3, 0x80000000)] []) (.fminBv ⟨false, .v 8, .v 2, .v 3, none⟩) 8 = some 0x80000000 ∧
    vAfter (regs [(2, 0x7FC00000), (3, 0x3F800000)] []) (.fmaxBv ⟨false, .v 8, .v 2, .v 3, none⟩) 8 = some 0x3F800000 := by decide +kernel

/-- The lanes and counters of wave 0's entries after an instruction. -/
def entries (w : Wave) (i : Instr) : Option (List (Nat × Nat)) := (after w i).map fun w => w.frontier.map fun e => (e.pc.toNat, e.mask.toNat)
/-- R162: the lanes of p1 take the branch and the others go on past it. R169: EXIT ends every lane. -/
theorem test_branch_exit :
    (entries { regs [] [] with p := [(1, 0xF)] } (.braBb ⟨false, 1, false, 1, 10, none⟩)).map
      (fun l => (l.contains (4096 + 40, 0xF), l.contains (4100, 2 ^ 64 - 16), l.length)) = some (true, true, 2) ∧
    entries (regs [] []) (.exitBs false) = some [] := by decide +kernel

/-- The trap a wave has taken, as its registers say: its code and TRAPADDR. -/
def trapTaken (w : Wave) (i : Instr) : Option (Nat × Nat) :=
  match exec i (withWaveH w) with | .next t => (t.waveAt? 0).map fun w => (w.trapcause.toNat % 64, w.trapaddr.toNat) | _ => none
/-- ld.b32 v8, [v2:v3 + offset]. -/
def load32 : Instr := .ldBm ⟨false, .v 8, .v 2, 0, .b32⟩
/-- The addresses of chapter 8's worked example: the private bound, the partition, a bad window, and a misaligned address. -/
theorem test_addresses :
    (trapTaken (regs [(2, 0x100), (3, 0xFF000000)] []) load32).map (·.2) = some 0xFF00000000000100 ∧
    (trapTaken (regs [(2, 0x10000), (3, 0xFE000000)] []) load32).map (·.2) = some 0xFE00000000010000 ∧
    (trapTaken (regs [(2, 0), (3, 0x02000000)] []) load32).map (·.1) = (trapTaken (regs [(2, 0x10000), (3, 0xFE000000)] []) load32).map (·.1) ∧
    (trapTaken (regs [(2, 2), (3, 0xFE000000)] []) load32).map (·.1) ≠ (trapTaken (regs [(2, 0x10000), (3, 0xFE000000)] []) load32).map (·.1) := by
  decide +kernel
/-- R361, R362: SYSCALL 5 saves the code in TRAPADDR and the address past it, and goes to the handler at 0x8000. -/
theorem test_syscall : trapTaken (regs [] []) (.syscallBs false 5) = some (17, 5) ∧
    (match exec (.syscallBs false 5) (withWaveH (regs [] [])) with
     | .next t => (t.waveAt? 0).map fun w => (w.frontier.map (fun e => e.pc.toNat), w.retpc.toNat, w.handler.isSome)
     | _ => none) = some ([0x8000], 4100, true) := by decide +kernel
/-- R218: an atomic add of 5 at its WCT leaves 7 + 5 in memory. R203, R204: a store's bytes stand there, lowest first. -/
theorem test_memory :
    (let a := { accOf (.red .add) (.dev 8192) (.pending 0) with data := [5, 0, 0, 0] }; let s := workAcc a;
      match exec (.atomicPerform 5) { s with mem := { s.mem with bytes := Memory.write s.mem.bytes 8192 [7, 0, 0, 0] } } with
      | .next t => Memory.read t.mem.bytes 8192 4 | _ => []) = [12, 0, 0, 0] ∧
    (match exec (.storeVisible 5) (workAcc (accOf .store (.dev 8192) (.pending 0))) with
      | .next t => Memory.read t.mem.bytes 8191 6 | _ => []) = [0, 1, 2, 3, 4, 0] := by decide +kernel

end Sys2Proof.Tests
end

section
/-! ## Memory writes, reset and the step (O6, O5, O3) -/

namespace Sys2Proof.Machine

/-! ### Memory writes -/

/-- Settles O6: `Memory.wf_write`, with `Memory.get_write_inside` and `Memory.get_write_outside` for the two places a byte
can be in. -/
theorem readAfterWrite : Obligations.ReadAfterWrite := by
  unfold Obligations.ReadAfterWrite
  intro m a b l hm
  refine ⟨Memory.wf_write m a l hm, ?_⟩
  split
  · next hb =>
    have hi := Memory.get_write_inside m a (b - a) l hm (by omega)
    rwa [Nat.add_sub_cancel' hb.1] at hi
  · exact Memory.get_write_outside m a b l hm (by omega)

/-! ### Reset -/

/-- Settles O5: the tables of `State.reset` are empty, so each entry read from them is its default. -/
theorem resetState : Obligations.ResetState := by
  unfold Obligations.ResetState
  refine ⟨rfl, fun a => rfl, rfl, rfl, fun k => ⟨rfl, rfl, rfl, rfl, rfl, rfl⟩, fun g => rfl, fun n => BitVec.getLsbD_zero,
    fun c => ⟨rfl, rfl, fun i => ⟨rfl, rfl⟩⟩, fun q => ⟨rfl, rfl, rfl⟩, rfl, rfl, rfl, rfl, rfl, rfl,
    fun p => ⟨rfl, rfl, rfl⟩, rfl, rfl, rfl, rfl, rfl, rfl, rfl⟩

/-! ### The step -/

theorem State.todo_of_chosen (s : State) (c : Cand) (h : s.chosen = some c) : s.todo = s.carry c := by
  unfold State.chosen at h
  unfold State.todo
  match hl : s.candidates with
  | [] => rw [hl] at h; cases h
  | [d] => rw [hl] at h; cases h; rfl
  | _ :: _ :: _ =>
    rw [hl] at h
    dsimp only at h ⊢
    rw [h]

/-- A step whose candidate is an instruction or an input carries that one out. -/
theorem step_of_issues (s t : State) (c : Cand) (i : Instr) (h : s.chosen = some c) (hc : s.carry c = .issues i t) :
    step s = timed (exec i t) := by
  rw [step, State.todo_of_chosen s c h, hc]

/-- A code word that nothing has stored to reads as it stands. -/
theorem State.codeWord_of_unwritten (s : State) (w : Wave) (g : Group) (pa : Nat) (hg : s.groupAt? w.group = some g)
    (hc : g.code.get? (pa / 4) = none) : s.codeWord w pa = Memory.num s.mem.bytes pa 4 := by
  simp [State.codeWord, hg, hc]

/-- Settles O3. -/
theorem stepRunsDecoded : Obligations.StepRunsDecoded := by
  unfold Obligations.StepRunsDecoded
  refine ⟨fun s t c k n w e i hc hi hd hf hn => ?_, fun s x hc => ?_, fun s t core pc pa w g hp ht hg hw => ?_⟩
  · refine step_of_issues s t _ i hc ?_
    simp only [State.carry, State.issueOn, hi, hd, hf, hn]
  · exact step_of_issues s _ _ _ hc rfl
  · have hr : ¬ 2 ^ 57 ≤ pc := by omega
    simp only [State.fetchWord, hr, if_false, ht, State.codeWord_of_unwritten t w g pa hg hw]

end Sys2Proof.Machine
end

section
/-! ## Device memory stays in canonical form (O7)

Only two operations of the model write device memory: `MemSys.put` and `State.wipe`, and both keep the canonical form
(`MemSys.put_memWf`, `State.wipe_memWf`). What leaves memory alone has a frame lemma (`…_mem` for the memory system,
`…_bytes` for its bytes only); what may store has a lemma `…_memWf`. Both follow the order of the model's definitions, up to
`exec`, the moves of the machine and its step. -/

namespace Sys2Proof.Machine

/-- `State.memWf` in a form that `simp` sees through, so that a lemma on what leaves the bytes alone rewrites it. -/
@[simp] abbrev State.canonMem (s : State) : Prop := s.mem.bytes.wf = true

@[simp] theorem State.mem_ite (c : Prop) [Decidable c] (s t : State) :
    (if c then s else t).mem = if c then s.mem else t.mem := by
  split <;> rfl

theorem foldl_mem {α : Type} (f : State → α → State) (h : ∀ s a, (f s a).mem = s.mem) (l : List α) (s : State)
    : (l.foldl f s).mem = s.mem := by
  induction l generalizing s with
  | nil => rfl
  | cons a l ih => simp [ih, h]

theorem foldl_bytes {α : Type} (f : State → α → State) (h : ∀ s a, (f s a).mem.bytes = s.mem.bytes)
    (l : List α) (s : State) : (l.foldl f s).mem.bytes = s.mem.bytes := by
  induction l generalizing s with
  | nil => rfl
  | cons a l ih => simp [ih, h]

@[simp] theorem MemSys.bytes_ite (c : Prop) [Decidable c] (s t : MemSys) :
    (if c then s else t).bytes = if c then s.bytes else t.bytes := by
  split <;> rfl

/-- Device memory is in canonical form in the state that a body's result leaves. -/
def Res.memWf : Res → Prop
  | .ok s _ | .trapNext s _ _ _ | .hold s | .part s _ | .again s | .page s _ _ _ => s.canonMem
  | .trap _ _ => True

@[simp] theorem Res.memWf_ok (s : State) (a : After) : (Res.ok s a).memWf ↔ s.canonMem := Iff.rfl

@[simp] theorem Res.memWf_trap (c : Cause) (a : DWord) : (Res.trap c a).memWf ↔ True := Iff.rfl

@[simp] theorem Res.memWf_trapNext (s : State) (c : Cause) (a : DWord) (n : Bool) :
    (Res.trapNext s c a n).memWf ↔ s.canonMem :=
  Iff.rfl

@[simp] theorem Res.memWf_hold (s : State) : (Res.hold s).memWf ↔ s.canonMem := Iff.rfl

@[simp] theorem Res.memWf_part (s : State) (p : List Nat) : (Res.part s p).memWf ↔ s.canonMem := Iff.rfl

@[simp] theorem Res.memWf_again (s : State) : (Res.again s).memWf ↔ s.canonMem := Iff.rfl

@[simp] theorem Res.memWf_page (s : State) (v k : Nat) (a : DWord) : (Res.page s v k a).memWf ↔ s.canonMem :=
  Iff.rfl

@[simp] theorem Res.memWf_ite (c : Prop) [Decidable c] (r q : Res) :
    (if c then r else q).memWf ↔ if c then r.memWf else q.memWf := by
  split <;> rfl

/-- A step that goes on leaves device memory in canonical form. -/
def outMemWf : Out3 → Prop
  | .next s => s.canonMem
  | _ => True

@[simp] theorem outMemWf_next (s : State) : outMemWf (.next s) ↔ s.canonMem := Iff.rfl

@[simp] theorem outMemWf_fault (f : Fault) : outMemWf (.fault f) ↔ True := Iff.rfl

@[simp] theorem outMemWf_ite (c : Prop) [Decidable c] (r q : Out3) :
    outMemWf (if c then r else q) ↔ if c then outMemWf r else outMemWf q := by
  split <;> rfl

theorem foldl_memWf {α : Type} (f : State → α → State) (h : ∀ s a, s.canonMem → (f s a).canonMem) (l : List α)
    (s : State) (hs : s.canonMem) : (l.foldl f s).canonMem := by
  induction l generalizing s with
  | nil => exact hs
  | cons a l ih => exact ih _ (h s a hs)

theorem foldlFst_memWf {α β : Type} (f : State × β → α → State × β) (h : ∀ p a, p.1.canonMem → (f p a).1.canonMem)
    (l : List α) (p : State × β) (hp : p.1.canonMem) : (l.foldl f p).1.canonMem := by
  induction l generalizing p with
  | nil => exact hp
  | cons a l ih => exact ih _ (h p a hp)

theorem finish_bind_memWf {α : Type} (r : Except (Cause × DWord) α) (f : α → Except (Cause × DWord) Res)
    (h : ∀ a, (finish (f a)).memWf) : (finish (r >>= f)).memWf := by
  cases r with
  | error e => trivial
  | ok a => exact h a

@[simp] theorem finish_pure_memWf (x : Res) : (finish (pure x)).memWf ↔ x.memWf := Iff.rfl

@[simp] theorem finish_throw_memWf (e : Cause × DWord) : (finish (throw e)).memWf ↔ True := Iff.rfl

@[simp] theorem finish_error_memWf (e : Cause × DWord) : (finish (.error e)).memWf ↔ True := Iff.rfl

@[simp] theorem finish_ite (c : Prop) [Decidable c] (r q : Except (Cause × DWord) Res) :
    finish (if c then r else q) = if c then finish r else finish q := by
  split <;> rfl

@[simp] theorem State.sendFlit_mem (s : State) (p : Nat) (z : Zonar) : (s.sendFlit p z).mem = s.mem := rfl

/-! ### Home slices -/

@[simp] theorem MemSys.modAcc_bytes (m : MemSys) (id : Nat) (f : Acc → Acc) :
    (m.modAcc id f).bytes = m.bytes :=
  rfl

@[simp] theorem MemSys.dropAcc_bytes (m : MemSys) (id : Nat) : (m.dropAcc id).bytes = m.bytes := rfl

@[simp] theorem State.modCopy_mem (s : State) (q c : Nat) (f : Copy → Copy) : (s.modCopy q c f).mem = s.mem :=
  rfl

@[simp] theorem State.deliver_bytes (s : State) (a : Acc) (bs : List Byte) :
    (s.deliver a bs).mem.bytes = s.mem.bytes := by
  unfold State.deliver
  split <;> simp

@[simp] theorem State.failAcc_bytes (s : State) (a : Acc) (c : Cause) (f : Failure) (addr : DWord) :
    (s.failAcc a c f addr).mem.bytes = s.mem.bytes := by
  simp only [State.failAcc]
  (repeat' split) <;> simp

@[simp] theorem MemSys.setHbmPoison_bytes (m : MemSys) (line p : Nat) :
    (m.setHbmPoison line p).bytes = m.bytes :=
  rfl

@[simp] theorem MemSys.evict_bytes (m : MemSys) (key : Nat) : (m.evict key).bytes = m.bytes := by
  unfold MemSys.evict
  split <;> simp

@[simp] theorem MemSys.llcTouch_bytes (m : MemSys) (key cls ten : Nat) :
    (m.llcTouch key cls ten).bytes = m.bytes := by
  simp only [MemSys.llcTouch]
  (repeat' split) <;> simp

@[simp] theorem MemSys.fillReplica_bytes (m : MemSys) (die line ten : Nat) (x : Leased) :
    (m.fillReplica die line ten x).bytes = m.bytes := by
  simp [MemSys.fillReplica]

@[simp] theorem MemSys.dropReplicas_bytes (m : MemSys) (f : Nat → Leased → Bool) :
    (m.dropReplicas f).bytes = m.bytes :=
  rfl

@[simp] theorem State.dropL1_mem (s : State) (core line : Nat) : (s.dropL1 core line).mem = s.mem := rfl

@[simp] theorem MemSys.put_memWf (m : MemSys) (pa : Nat) (bs : List Byte) (whole : Bool)
    (h : m.bytes.wf = true) : (m.put pa bs whole).bytes.wf = true := by
  have hw := Memory.wf_write m.bytes pa bs h
  unfold MemSys.put
  dsimp only
  split
  · exact hw
  · split
    · simpa using hw
    · exact hw

@[simp] theorem State.everyGroup_mem (s : State) (f : Group → Group) : (s.everyGroup f).mem = s.mem := rfl

@[simp] theorem State.putDev_memWf (s : State) (pa : Nat) (bs : List Byte) (whole : Bool) (t : Nat)
    (h : s.canonMem) : (s.putDev pa bs whole t).canonMem := by
  simp [State.putDev, h]

@[simp] theorem State.makeVisible_memWf (s : State) (a : Acc) (h : s.canonMem) : (s.makeVisible a).canonMem := by
  unfold State.makeVisible
  dsimp only
  (repeat' split) <;> simp [h]

@[simp] theorem settleList_memWf (t : Nat) (l : List Acc) (s : State) (h : s.canonMem) :
    (settleList t l s).canonMem := by
  induction l generalizing s with
  | nil => exact h
  | cons a l ih =>
    apply ih
    split
    · exact State.makeVisible_memWf s a h
    · exact h

@[simp] theorem State.settle_memWf (s : State) (h : s.canonMem) : s.settle.canonMem := by simp [State.settle, h]

@[simp] theorem State.winArrive_mem (s : State) (id pa : Nat) (write : Bool) :
    (s.winArrive id pa write).mem = s.mem :=
  rfl

@[simp] theorem State.acceptBatch_bytes (s : State) (a : Acc) (line : Nat) :
    (s.acceptBatch a line).mem.bytes = s.mem.bytes := by
  simp [State.acceptBatch]

@[simp] theorem State.failPoison_bytes (s : State) (a : Acc) (pa : Nat) :
    (s.failPoison a pa).mem.bytes = s.mem.bytes := by
  simp [State.failPoison]

@[simp] theorem State.serveLoad_bytes (s : State) (a : Acc) (pa line : Nat) :
    (s.serveLoad a pa line).mem.bytes = s.mem.bytes := by
  simp only [State.serveLoad]
  (repeat' split) <;> simp

@[simp] theorem State.loadDev_bytes (s : State) (a : Acc) (pa line : Nat) :
    (s.loadDev a pa line).mem.bytes = s.mem.bytes := by
  unfold State.loadDev
  split
  · rfl
  · split
    · cases a.owner <;> simp only [State.mem_ite] <;> repeat' split
      all_goals simp
    · simp

/-! ### The scratchpad -/

@[simp] theorem State.scratchSaw_mem (s : State) (k g off n : Nat) :
    (s.scratchSaw k g off n).mem = s.mem := by
  simp [State.scratchSaw]

@[simp] theorem State.scratchWrite_mem (s : State) (g k id : Nat) (by_ : Writer) (off : Nat) (bs : List Byte)
    : (s.scratchWrite g k id by_ off bs).mem = s.mem := by
  simp [State.scratchWrite]

@[simp] theorem State.modStale_mem (s : State) (g : Nat) (f : Stale → Stale) :
    (s.modStale g f).mem = s.mem := by
  simp [State.modStale]

@[simp] theorem State.orderStores_mem (s : State) (g k before : Nat) :
    (s.orderStores g k before).mem = s.mem := by
  simp [State.orderStores]

@[simp] theorem State.oprdyMeets_mem (s : State) (g k : Nat) : (s.oprdyMeets g k).mem = s.mem := by
  simp [State.oprdyMeets]

@[simp] theorem State.oprdyOrders_mem (s : State) (g k before : Nat) :
    (s.oprdyOrders g k before).mem = s.mem := by
  simp [State.oprdyOrders]

@[simp] theorem State.publishCpys_mem (s : State) (g k : Nat) : (s.publishCpys g k).mem = s.mem := by
  simp [State.publishCpys]

@[simp] theorem State.markArrival_mem (s : State) (g k off : Nat) : (s.markArrival g k off).mem = s.mem := by
  simp [State.markArrival]

@[simp] theorem State.markCredit_mem (s : State) (g id off : Nat) : (s.markCredit g id off).mem = s.mem := by
  simp [State.markCredit]

@[simp] theorem State.endPhase_mem (s : State) (g off : Nat) : (s.endPhase g off).mem = s.mem := by
  simp [State.endPhase]

@[simp] theorem State.observe_mem (s : State) (g k : Nat) (f : Stale → Bool) :
    (s.observe g k f).mem = s.mem := by
  simp [State.observe]

@[simp] theorem State.scratchAcc_bytes (s : State) (a : Acc) (g off : Nat) :
    (s.scratchAcc a g off).mem.bytes = s.mem.bytes := by
  unfold State.scratchAcc
  (repeat' split) <;> simp

@[simp] theorem State.winForget_mem (s : State) : s.winForget.mem = s.mem := rfl

@[simp] theorem State.loadWindow_bytes (s : State) (a : Acc) (pa : Nat) :
    (s.loadWindow a pa).mem.bytes = s.mem.bytes := by
  simp [State.loadWindow]

@[simp] theorem State.perform_memWf (s : State) (id : Nat) (h : s.canonMem) : (s.perform id).canonMem := by
  unfold State.perform
  (repeat' split) <;> simp [h]

/-! ### The device's engines -/

@[simp] theorem State.engineAcc_bytes (s : State) (kind : AKind) (pa : Nat) (bs : List Byte)
    (after op launch : Nat) (page : Option (Nat × Nat)) :
    (s.engineAcc kind pa bs after op launch page).2.mem.bytes = s.mem.bytes := by
  simp only [State.engineAcc]
  (repeat' split) <;> simp

@[simp] theorem State.engineStore_bytes (s : State) (pa : Nat) (bs : List Byte) (after : Nat) :
    (s.engineStore pa bs after).2.mem.bytes = s.mem.bytes := by
  simp [State.engineStore]

@[simp] theorem State.engineStores_bytes (s : State) (pa : Nat) (bs : List Byte) (n : Nat) :
    (s.engineStores pa bs n).mem.bytes = s.mem.bytes := by
  induction n generalizing s pa bs with
  | zero => rfl
  | succ n ih =>
    unfold State.engineStores
    split
    · rfl
    · simp [ih]

@[simp] theorem State.wipe_memWf (s : State) (a n : Nat) (h : s.canonMem) : (s.wipe a n).canonMem :=
  Memory.wf_clear _ _ _ h

/-! ### Class L results -/

@[simp] theorem State.landOp_mem (s : State) (k id : Nat) (lanes : Mask) :
    (s.landOp k id lanes).mem = s.mem := by
  simp [State.landOp]

/-! ### Waves and rendezvous objects -/

@[simp] theorem State.clearErr_mem (s : State) (g : Nat) (b : Bool) : (s.clearErr g b).mem = s.mem := by
  simp [State.clearErr]

@[simp] theorem State.completeWaits_mem (s : State) (g off k : Nat) (f : Entry → Bool)
    (done : Bool → Bool → Wave → Entry → Wave × List Entry) :
    (s.completeWaits g off k f done).mem = s.mem := by
  unfold State.completeWaits
  split <;> simp

@[simp] theorem State.wakeRdv_mem (s : State) (g off : Nat) : (s.wakeRdv g off).mem = s.mem := by
  unfold State.wakeRdv
  split <;> simp [foldl_mem]

@[simp] theorem State.putRdv_mem (s : State) (g off : Nat) (o : RdvObj) (ended : Bool) :
    (s.putRdv g off o ended).mem = s.mem := by
  simp [State.putRdv]

@[simp] theorem State.creditRdv_mem (s : State) (g off bytes : Nat) (err : Bool) (flags : FFlags) (wct : Nat)
    : (s.creditRdv g off bytes err flags wct).mem = s.mem := by
  unfold State.creditRdv
  split <;> simp

@[simp] theorem State.applyCredit_mem (s : State) (g : Nat) (c : Credit) :
    (s.applyCredit g c).mem = s.mem := by
  simp [State.applyCredit]

@[simp] theorem State.giveCredit_mem (s : State) (g : Nat) (c : Credit) : (s.giveCredit g c).mem = s.mem := by
  simp [State.giveCredit]

@[simp] theorem State.flushCredits_mem (s : State) (g : Nat) : (s.flushCredits g).mem = s.mem := by
  unfold State.flushCredits
  split <;> simp [foldl_mem]

@[simp] theorem State.observeCpys_mem (s : State) (k : Nat) : (s.observeCpys k).mem = s.mem := by
  unfold State.observeCpys
  split
  · rfl
  · refine foldl_mem _ (fun s e => ?_) _ _
    repeat' split
    all_goals simp

@[simp] theorem State.wakeWave_mem (s : State) (k : Nat) : (s.wakeWave k).mem = s.mem := by
  unfold State.wakeWave
  split <;> simp

@[simp] theorem State.wakeGroup_mem (s : State) (g : Nat) : (s.wakeGroup g).mem = s.mem := by
  simp [State.wakeGroup, foldl_mem]

/-! ### Ceilings -/

@[simp] theorem State.merSettle_mem (s : State) : s.merSettle.mem = s.mem := rfl

@[simp] theorem State.keepDelta_mem (s : State) : s.keepDelta.mem = s.mem := rfl

/-! ### Translation and page requests -/

@[simp] theorem State.leafFor_memWf (s : State) (c : Ctx) (ctx va die cap : Nat) (l1 : List TlbEntry)
    (h : s.canonMem) : (s.leafFor c ctx va die cap l1).2.2.canonMem := by
  unfold State.leafFor
  dsimp only
  (repeat' split) <;> simp [h]

@[simp] theorem State.translateCore_memWf (s : State) (core ctx va : Nat) (w : Want) (h : s.canonMem) :
    (s.translateCore core ctx va w).2.canonMem := by
  unfold State.translateCore
  dsimp only
  (repeat' split) <;> simp [h]

@[simp] theorem State.translateTce_memWf (s : State) (q ctx va : Nat) (w : Want) (h : s.canonMem) :
    (s.translateTce q ctx va w).2.canonMem := by
  unfold State.translateTce
  dsimp only
  (repeat' split) <;> simp [h]

@[simp] theorem State.dropTlb_bytes (s : State) (p : TlbEntry → Bool) :
    (s.dropTlb p).mem.bytes = s.mem.bytes :=
  rfl

@[simp] theorem State.postPage_memWf (s : State) (ctx vpn kind launch : Nat) (h : s.canonMem) :
    (s.postPage ctx vpn kind launch).2.canonMem := by
  unfold State.postPage
  dsimp only
  (repeat' split) <;> simp [h]

/-! ### Reply slots and requests -/

@[simp] theorem State.setSlot_mem (s : State) (r : SlotRef) (x : RSlot) : (s.setSlot r x).mem = s.mem := by
  simp [State.setSlot]

@[simp] theorem State.setStage_bytes (s : State) (g : List Acc) (st : Stage) :
    (s.setStage g st).mem.bytes = s.mem.bytes :=
  rfl

@[simp] theorem State.sendOn_mem (s : State) (p peer : Nat) (slot : SlotRef) (seq : BitVec 8) (r : PeerReq) :
    (s.sendOn p peer slot seq r).mem = s.mem :=
  rfl

@[simp] theorem State.sendRequest_bytes (s : State) (g : List Acc) (r : SlotRef) :
    (s.sendRequest g r).mem.bytes = s.mem.bytes := by
  cases g with
  | nil => rfl
  | cons a g =>
    dsimp only [State.sendRequest]
    cases a.tgt with
    | remote peer win off => dsimp only; split <;> simp
    | mcast group win off => dsimp only; split <;> simp
    | host port addr => dsimp only; split <;> simp
    | _ => rfl

@[simp] theorem State.failAll_bytes (s : State) (g : List Acc) (code : Nat) :
    (s.failAll g code).mem.bytes = s.mem.bytes := by
  simp [State.failAll, foldl_bytes]

@[simp] theorem State.takeSlots_bytes (s : State) (o : Owner) (n : Nat) :
    (s.takeSlots o n).mem.bytes = s.mem.bytes := by
  induction n generalizing s with
  | zero => rfl
  | succ n ih =>
    unfold State.takeSlots
    repeat' split
    all_goals simp [ih]

@[simp] theorem State.freeReply_mem (s : State) (r : SlotRef) : (s.freeReply r).mem = s.mem := by
  simp [State.freeReply]

@[simp] theorem State.engineFar_bytes (s : State) (kind : AKind) (tgt : Target) (bs : List Byte)
    (ctx launch : Nat) (page : Option (Nat × Nat)) :
    (s.engineFar kind tgt bs ctx launch page).mem.bytes = s.mem.bytes := by
  simp [State.engineFar]

@[simp] theorem State.pushHost_bytes (s : State) (o : Owner) : (s.pushHost o).mem.bytes = s.mem.bytes := by
  refine foldl_bytes _ (fun s a => ?_) _ _
  repeat' split
  all_goals simp

@[simp] theorem State.flushHost_bytes (s : State) (o : Owner) : (s.flushHost o).mem.bytes = s.mem.bytes := by
  refine foldl_bytes _ (fun s a => ?_) _ _
  split <;> simp

/-! ### Runs, halts and traps -/

@[simp] theorem State.leaveCore_mem (s : State) (k : Nat) : (s.leaveCore k).mem = s.mem := rfl

@[simp] theorem State.endLanes_mem (s : State) (k : Nat) : (s.endLanes k).mem = s.mem := by
  simp [State.endLanes]

@[simp] theorem State.endRun_mem (s : State) (k : Nat) : (s.endRun k).mem = s.mem := by
  simp only [State.endRun]
  (repeat' split) <;> simp

@[simp] theorem State.writeFault_memWf (s : State) (k : Nat) (w : Wave) (kind detail : Nat) (h : s.canonMem) :
    (s.writeFault k w kind detail).canonMem := by
  unfold State.writeFault
  (repeat' split) <;> simp [h]

@[simp] theorem State.haltWaves_mem (s : State) (launch code : Nat) :
    (s.haltWaves launch code).mem = s.mem := by
  simp [State.haltWaves, foldl_mem]

@[simp] theorem State.haltLaunch_memWf (s : State) (k kind detail : Nat) (h : s.canonMem) :
    (s.haltLaunch k kind detail).canonMem := by
  unfold State.haltLaunch
  split <;> simp [h]

@[simp] theorem State.takeTrap_memWf (s : State) (k : Nat) (r : TrapRec) (h : s.canonMem) :
    (s.takeTrap k r).canonMem := by
  unfold State.takeTrap
  dsimp only
  (repeat' split) <;> simp [h]

@[simp] theorem State.resumeRun_mem (s : State) (k : Nat) : (s.resumeRun k).mem = s.mem := by
  unfold State.resumeRun
  split <;> simp

@[simp] theorem State.leaveHandler_mem (s : State) (k : Nat) (m : Mask) :
    (s.leaveHandler k m).mem = s.mem := by
  unfold State.leaveHandler
  (repeat' split) <;> simp

@[simp] theorem State.pageWait_memWf (s : State) (k vpn kind : Nat) (fetch : Bool) (addr : DWord)
    (mask : Mask) (h : s.canonMem) : (s.pageWait k vpn kind fetch addr mask).canonMem := by
  unfold State.pageWait
  dsimp only
  (repeat' split) <;> simp [h]

@[simp] theorem State.suspend_mem (s : State) (k : Nat) (kind : SuspKind) :
    (s.suspend k kind).mem = s.mem := by
  simp [State.suspend]

/-! ### Issue -/

@[simp] theorem State.after_mem (s : State) (u : Iss) (a : After) : (s.after u a).mem = s.mem := by
  simp only [State.after]
  (repeat' split) <;> simp

theorem settleRes_memWf (k : Nat) (e : Entry) (u : Iss) (pipe : Pipe) (s : State) (r : Res) (h : s.canonMem)
    (hr : r.memWf) : (settleRes k e u pipe s r).canonMem := by
  cases r <;> simp_all [settleRes]

@[simp] theorem State.landOverdue_mem (s : State) (core t : Nat) : (s.landOverdue core t).mem = s.mem := by
  simp [State.landOverdue, foldl_mem]

theorem issueAt_memWf (i : Instr) (pl : Plan) (body : Iss → State → Res) (k : Nat) (w : Wave) (e : Entry)
    (s : State) (hb : ∀ u s, s.canonMem → (body u s).memWf) (h : s.canonMem) :
    (issueAt i pl body k w e s).canonMem := by
  unfold issueAt
  split
  · simp [h]
  · dsimp only
    split
    · simp [h]
    · split
      · simp [h]
      · split
        · simp [h]
        · split
          · simp [h]
          · split
            · simp [h]
            · exact settleRes_memWf _ _ _ _ _ _ h (hb _ _ h)

theorem issue_memWf (i : Instr) (pl : Plan) (body : Iss → State → Res) (s : State)
    (hb : ∀ u s, s.canonMem → (body u s).memWf) (h : s.canonMem) : outMemWf (issue i pl body s) := by
  unfold issue
  split
  · trivial
  · dsimp only
    split
    · exact issueAt_memWf _ _ _ _ _ _ _ hb h
    · split
      · simp [h]
      · exact issueAt_memWf _ _ _ _ _ _ _ hb (by simp [h])

@[simp] theorem State.fetchFault_memWf (s : State) (k : Nat) (e : Entry) (c : Cause) (vpn : Nat)
    (addr : DWord) (h : s.canonMem) : (s.fetchFault k e c vpn addr).canonMem := by
  unfold State.fetchFault
  split <;> simp [h]

/-! ### Checked accesses -/

@[simp] theorem State.privParts_memWf (s : State) (core ctx : Nat) (w : Want) (L base x size : Nat)
    (l : List Nat) (h : s.canonMem) : (s.privParts core ctx w L base x size l).1.canonMem := by
  induction l generalizing s with
  | nil => exact h
  | cons i t ih =>
    have ht := State.translateCore_memWf s core ctx (base + sliceOffset (x + 4 * i) L) w h
    unfold State.privParts
    dsimp only
    split
    · exact ht
    · exact ht
    · split <;> exact ih _ ht

@[simp] theorem State.globalAccess_memWf (s : State) (u : Iss) (want : Want) (size va : Nat) (h : s.canonMem) :
    (s.globalAccess u want size va).1.canonMem := by
  unfold State.globalAccess
  dsimp only
  (repeat' split) <;> simp [h]

@[simp] theorem State.laneAccess_memWf (s : State) (u : Iss) (want : Want) (priv : Bool) (size L va : Nat)
    (h : s.canonMem) : (s.laneAccess u want priv size L va).1.canonMem := by
  unfold State.laneAccess
  dsimp only
  (repeat' split) <;> simp [h]

@[simp] theorem State.checkLanes_memWf (s : State) (u : Iss) (want : Want) (priv soft : Bool)
    (ok : Target → Bool) (size : Nat) (l : List (Nat × Nat)) (h : s.canonMem) :
    (s.checkLanes u want priv soft ok size l).1.canonMem := by
  induction l generalizing s with
  | nil => exact h
  | cons e t ih =>
    obtain ⟨L, va⟩ := e
    have hl := State.laneAccess_memWf s u want priv size L va h
    unfold State.checkLanes
    dsimp only
    split
    · exact hl
    · split <;> exact ih _ hl

/-! ### Class A and W instructions -/

@[simp] theorem Alu.body_memWf (a : Alu) (u : Iss) (s : State) (h : s.canonMem) : (a.body u s).memWf := by
  unfold Alu.body
  split <;> simp [h]

@[simp] theorem runAlu_memWf (i : Instr) (p : Fin 16) (pn : Bool) (a : Alu) (s : State) (h : s.canonMem) :
    outMemWf (runAlu i p pn a s) :=
  issue_memWf _ _ _ _ (fun u s h => by simp [h]) h

@[simp] theorem Pred.body_memWf (a : Pred) (u : Iss) (s : State) (h : s.canonMem) : (Pred.body a u s).memWf := by
  unfold Pred.body
  split <;> simp [h]

@[simp] theorem runPred_memWf (i : Instr) (p : Fin 16) (pn : Bool) (a : Pred) (s : State) (h : s.canonMem) :
    outMemWf (runPred i p pn a s) :=
  issue_memWf _ _ _ _ (fun u s h => by simp [h]) h

@[simp] theorem pairBody_memWf (a b : Alu) (pb : Fin 16) (pbn : Bool) (u : Iss) (s : State) (h : s.canonMem) :
    (pairBody a b pb pbn u s).memWf := by
  unfold pairBody
  dsimp only
  (repeat' split) <;> simp [h]

@[simp] theorem runPair_memWf (i : Instr) (a b : Alu) (pa pb : Fin 16) (pan pbn : Bool) (s : State)
    (h : s.canonMem) : outMemWf (runPair i a b pa pb pan pbn s) :=
  issue_memWf _ _ _ _ (fun u s h => by simp [h]) h

@[simp] theorem runIntBv_memWf (op : IOp) (i : Instr) (f : Bv) (a3 : State) (h : a3.canonMem) :
    outMemWf (runIntBv op i f a3) := by
  simp [runIntBv, h]

@[simp] theorem runIntBv1_memWf (op : IOp) (i : Instr) (f : Bv1) (a3 : State) (h : a3.canonMem) :
    outMemWf (runIntBv1 op i f a3) := by
  simp [runIntBv1, h]

@[simp] theorem runIntXv_memWf (op : IOp) (i : Instr) (f : Xv) (a3 : State) (h : a3.canonMem) :
    outMemWf (runIntXv op i f a3) := by
  simp [runIntXv, h]

@[simp] theorem pmovBody_memWf (d : Dst) (pa : Fin 16) (u : Iss) (s : State) (h : s.canonMem) :
    (pmovBody d pa u s).memWf := by
  simp [pmovBody, h]

@[simp] theorem execPmovXv_memWf (f : PmovXv) (s : State) (h : s.canonMem) : outMemWf (execPmovXv f s) := by
  unfold execPmovXv
  split
  · exact runPred_memWf _ _ _ _ _ h
  · exact issue_memWf _ _ _ _ (fun u s h => pmovBody_memWf _ _ u s h) h

@[simp] theorem runFpBv_memWf (op : FOp) (i : Instr) (f : Bv) (s : State) (h : s.canonMem) :
    outMemWf (runFpBv op i f s) := by
  simp [runFpBv, h]

@[simp] theorem runFpBv1_memWf (op : FOp) (i : Instr) (f : Bv1) (s : State) (h : s.canonMem) :
    outMemWf (runFpBv1 op i f s) := by
  simp [runFpBv1, h]

@[simp] theorem runFpXv_memWf (op : FOp) (i : Instr) (f : Xv) (s : State) (h : s.canonMem) :
    outMemWf (runFpXv op i f s) := by
  simp [runFpXv, h]

/-! ### Class L functions -/

@[simp] theorem State.addOp_mem (s : State) (k : Nat) (o : Nat → LOp) : (s.addOp k o).mem = s.mem := by
  simp [State.addOp]

@[simp] theorem Fun.body_memWf (a : Fun) (u : Iss) (s : State) (h : s.canonMem) : (Fun.body a u s).memWf := by
  unfold Fun.body
  split <;> simp [h]

@[simp] theorem runFun_memWf (i : Instr) (p : Fin 16) (pn : Bool) (a : Fun) (s : State) (h : s.canonMem) :
    outMemWf (runFun i p pn a s) :=
  issue_memWf _ _ _ _ (fun u s h => by simp [h]) h

@[simp] theorem runSfBv1_memWf (op : SOp) (i : Instr) (f : Bv1) (s : State) (h : s.canonMem) :
    outMemWf (runSfBv1 op i f s) := by
  simp [runSfBv1, h]

@[simp] theorem runSfBv_memWf (op : SOp) (i : Instr) (f : Bv) (s : State) (h : s.canonMem) :
    outMemWf (runSfBv op i f s) := by
  simp [runSfBv, h]

@[simp] theorem runSfXv_memWf (op : SOp) (i : Instr) (f : Xv) (s : State) (h : s.canonMem) :
    outMemWf (runSfXv op i f s) := by
  simp [runSfXv, h]

/-! ### Cross-lane instructions -/

@[simp] theorem Xl1.open_memWf (x : Xl1) (u : Iss) (s : State) (h : s.canonMem) : (Xl1.open_ x u s).memWf := by
  simp [Xl1.open_, h]

@[simp] theorem Xl1.masked_memWf (x : Xl1) (i : Instr) (o : Opnd) (u : Iss) (s : State) (h : s.canonMem) :
    (Xl1.masked x i o u s).memWf := by
  simp [Xl1.masked, h]

@[simp] theorem Xl1.body_memWf (x : Xl1) (i : Instr) (u : Iss) (s : State) (h : s.canonMem) :
    (Xl1.body x i u s).memWf := by
  unfold Xl1.body
  (repeat' split) <;> simp [h]

@[simp] theorem runXl_memWf (i : Instr) (x : Option Xl1) (s : State) (h : s.canonMem) :
    outMemWf (runXl i x s) := by
  cases x with
  | none => exact h
  | some x => exact issue_memWf _ _ _ _ (fun u s h => Xl1.body_memWf x i u s h) h

/-! ### Control -/

@[simp] theorem branchTo_memWf (u : Iss) (m : Mask) (target : DWord) (prio : Fin 4) (s : State) (h : s.canonMem)
    : (branchTo u m target prio s).memWf := by
  simp [branchTo, h]

@[simp] theorem braBody_memWf (f : Bb) (u : Iss) (s : State) (h : s.canonMem) : (braBody f u s).memWf := by
  simp [braBody, h]

@[simp] theorem reading_memWf (u : Iss) (lit : Option DWord) (srcs : List Opnd) (s : State) (k : State → Res)
    (hk : ∀ s, s.canonMem → (k s).memWf) (h : s.canonMem) : (reading u lit srcs s k).memWf := by
  unfold reading
  split
  · trivial
  · exact hk _ (by simp [h])

@[simp] theorem bruBody_memWf (f : Bb) (u : Iss) (s : State) (h : s.canonMem) : (bruBody f u s).memWf := by
  unfold bruBody
  refine reading_memWf _ _ _ _ _ (fun s h => ?_) h
  simp [h]

@[simp] theorem jumpTo_memWf (u : Iss) (prio : Fin 4) (t : Nat → DWord) (s : State) (h : s.canonMem) :
    (jumpTo u prio t s).memWf := by
  unfold jumpTo
  split <;> simp [h]

@[simp] theorem jumpBody_memWf (a : Src) (prio : Option (Fin 4)) (u : Iss) (s : State) (h : s.canonMem) :
    (jumpBody a prio u s).memWf := by
  unfold jumpBody
  refine reading_memWf _ _ _ _ _ (fun s h => ?_) h
  simp [h]

@[simp] theorem callBody_memWf (d : Dst) (ofs : DWord) (u : Iss) (s : State) (h : s.canonMem) :
    (callBody d ofs u s).memWf := by
  simp [callBody, h]

@[simp] theorem jmarkBody_memWf (j : Nat) (ofs : DWord) (u : Iss) (s : State) (h : s.canonMem) :
    (jmarkBody j ofs u s).memWf := by
  simp [jmarkBody, h]

@[simp] theorem joinBody_memWf (j : Nat) (u : Iss) (s : State) (h : s.canonMem) : (joinBody j u s).memWf := by
  unfold joinBody
  split <;> simp [h]

@[simp] theorem exitBody_memWf (u : Iss) (s : State) (h : s.canonMem) : (exitBody u s).memWf := by
  unfold exitBody
  dsimp only
  (repeat' split) <;> simp [h]

@[simp] theorem waitcBody_memWf (l c x : Nat) (u : Iss) (s : State) (h : s.canonMem) :
    (waitcBody l c x u s).memWf := by
  simp [waitcBody, h]

@[simp] theorem lwaitBody_memWf (t ns : Nat) (u : Iss) (s : State) (h : s.canonMem) :
    (lwaitBody t ns u s).memWf := by
  simp [lwaitBody, h]

@[simp] theorem sleepBody_memWf (ns : Nat) (u : Iss) (s : State) (h : s.canonMem) :
    (sleepBody ns u s).memWf := by
  simp [sleepBody, h]

@[simp] theorem setprioBody_memWf (pr : Fin 4) (u : Iss) (s : State) (h : s.canonMem) :
    (setprioBody pr u s).memWf := by
  simp [setprioBody, h]

@[simp] theorem trapBody_memWf (c : Cause) (addr : Nat) (u : Iss) (s : State) (h : s.canonMem) :
    (trapBody c addr u s).memWf := by
  simp [trapBody, h]

@[simp] theorem execRunStart_memWf (core : Nat) (s : State) (h : s.canonMem) :
    outMemWf (execRunStart core s) := by
  unfold execRunStart
  (repeat' split) <;> simp [h]

@[simp] theorem execSuspendSave_memWf (wave : Nat) (s : State) (h : s.canonMem) :
    outMemWf (execSuspendSave wave s) := by
  unfold execSuspendSave
  (repeat' split) <;> simp [h]

@[simp] theorem execSleepWake_memWf (wave lane : Nat) (s : State) (h : s.canonMem) :
    outMemWf (execSleepWake wave lane s) := by
  simp [execSleepWake, h]

@[simp] theorem execLwaitTimeout_memWf (wave lane : Nat) (s : State) (h : s.canonMem) :
    outMemWf (execLwaitTimeout wave lane s) := by
  simp [execLwaitTimeout, h]

@[simp] theorem execPwaitWake_memWf (wave lane : Nat) (s : State) (h : s.canonMem) :
    outMemWf (execPwaitWake wave lane s) := by
  unfold execPwaitWake
  (repeat' split) <;> simp [h]

/-! ### Memory instructions -/

@[simp] theorem State.pressHost_bytes (s : State) (k : Nat) (scope : Scope) :
    (s.pressHost k scope).mem.bytes = s.mem.bytes := by
  unfold State.pressHost
  split <;> simp

@[simp] theorem State.order_mem (s : State) (g k before : Nat) (scope : Scope) :
    (s.order g k before scope).mem = s.mem := by
  simp [State.order]

@[simp] theorem State.launchAccs_bytes (s : State) (o : Owner) (core : Nat) (l : List Acc) :
    (s.launchAccs o core l).mem.bytes = s.mem.bytes := by
  simp only [State.launchAccs, State.pushHost_bytes, State.takeSlots_bytes]
  refine foldl_bytes _ (fun s a => ?_) _ _
  split <;> simp

@[simp] theorem MemI.launch_memWf (m : MemI) (u : Iss) (lanes : Mask) (ps : List (Nat × Option Parts))
    (s : State) (h : s.canonMem) : (MemI.launch m u lanes ps s).memWf := by
  simp [MemI.launch, h]

@[simp] theorem MemI.orders_mem (m : MemI) (u : Iss) (s : State) : (MemI.orders m u s).mem = s.mem := by
  simp [MemI.orders]

@[simp] theorem MemI.body_memWf (m : MemI) (u : Iss) (s : State) (h : s.canonMem) : (MemI.body m u s).memWf := by
  unfold MemI.body
  dsimp only
  (repeat' split) <;> simp [h]

@[simp] theorem runMem_memWf (i : Instr) (m : MemI) (s : State) (h : s.canonMem) : outMemWf (runMem i m s) :=
  issue_memWf _ _ _ _ (fun u s h => by simp [h]) h

@[simp] theorem fenceBody_memWf (scope : Scope) (d : Dst) (u : Iss) (s : State) (h : s.canonMem) :
    (fenceBody scope d u s).memWf := by
  simp [fenceBody, h]

@[simp] theorem execFenceComplete_memWf (wave op : Nat) (s : State) (h : s.canonMem) :
    outMemWf (execFenceComplete wave op s) := by
  unfold execFenceComplete
  (repeat' split) <;> simp [h]

@[simp] theorem State.hintLine_memWf (s : State) (u : Iss) (va : Nat) (h : s.canonMem) :
    (s.hintLine u va).1.canonMem := by
  unfold State.hintLine
  dsimp only
  (repeat' split) <;> simp [h]

@[simp] theorem State.prefetch_memWf (s : State) (u : Iss) (cls line : Nat) (h : s.canonMem) :
    (s.prefetch u cls line).canonMem := by
  unfold State.prefetch
  dsimp only
  (repeat' split) <;> simp [h]

@[simp] theorem State.demoteLine_bytes (s : State) (line : Nat) :
    (s.demoteLine line).mem.bytes = s.mem.bytes := by
  simp only [State.demoteLine, State.modMem_mem]
  split <;> rfl

@[simp] theorem hintBody_memWf (m : MemI) (act : Iss → Nat → State → State) (u : Iss) (s : State)
    (ha : ∀ u l s, s.canonMem → (act u l s).canonMem) (h : s.canonMem) : (hintBody m act u s).memWf := by
  unfold hintBody
  split
  · exact h
  · simp only [Res.memWf_ok, State.canonMem, State.modWave_mem]
    apply foldl_memWf _ (fun s l hs => ha u l s hs)
    exact foldlFst_memWf (β := List Nat) _ (fun acc va hs => State.hintLine_memWf acc.1 u va hs) _ (s, []) h

@[simp] theorem prefAct_memWf (cls : Nat) (u : Iss) (line : Nat) (s : State) (h : s.canonMem) :
    (prefAct cls u line s).canonMem :=
  State.prefetch_memWf s u cls line h

@[simp] theorem cinvAct_mem (u : Iss) (line : Nat) (s : State) : (cinvAct u line s).mem = s.mem := rfl

@[simp] theorem cdemoteAct_bytes (u : Iss) (line : Nat) (s : State) :
    (cdemoteAct u line s).mem.bytes = s.mem.bytes :=
  State.demoteLine_bytes s line

@[simp] theorem State.postAll_memWf (s : State) (ctx launch : Nat) (l : List Nat) (h : s.canonMem) :
    (s.postAll ctx launch l).1.canonMem := by
  induction l generalizing s with
  | nil => exact h
  | cons v t ih =>
    unfold State.postAll
    dsimp only
    split
    · exact h
    · exact ih _ (State.postPage_memWf _ _ _ _ _ h)

@[simp] theorem State.absentPages_memWf (s : State) (u : Iss) (l : List Nat) (h : s.canonMem) :
    (s.absentPages u l).1.canonMem := by
  induction l generalizing s with
  | nil => exact h
  | cons va t ih =>
    have ht := State.translateCore_memWf s (coreOfWave u.k) u.w.ctx va .load h
    unfold State.absentPages
    split
    · exact ih s h
    · dsimp only
      split <;> exact ih _ ht

@[simp] theorem pgreqBody_memWf (m : MemI) (u : Iss) (s : State) (h : s.canonMem) : (pgreqBody m u s).memWf := by
  unfold pgreqBody
  split <;> simp [h]

@[simp] theorem execPrefBm_memWf (f : BmHint) (s : State) (h : s.canonMem) : outMemWf (execPrefBm f s) :=
  issue_memWf _ _ _ _ (fun u s h => hintBody_memWf _ _ u s (prefAct_memWf 0) h) h

@[simp] theorem execPrefXm_memWf (f : Xm) (s : State) (h : s.canonMem) : outMemWf (execPrefXm f s) :=
  issue_memWf _ _ _ _ (fun u s h => hintBody_memWf _ _ u s (prefAct_memWf _) h) h

@[simp] theorem execHomeAccess_memWf (acc : Nat) (s : State) (h : s.canonMem) :
    outMemWf (execHomeAccess acc s) := by
  unfold execHomeAccess
  split <;> simp [h]

@[simp] theorem execStoreVisible_memWf (acc : Nat) (s : State) (h : s.canonMem) :
    outMemWf (execStoreVisible acc s) := by
  unfold execStoreVisible
  (repeat' split) <;> simp [h]

@[simp] theorem execAtomicPerform_memWf (acc : Nat) (s : State) (h : s.canonMem) :
    outMemWf (execAtomicPerform acc s) := by
  unfold execAtomicPerform
  (repeat' split) <;> simp [h]

@[simp] theorem execWctReturn_memWf (acc : Nat) (s : State) (h : s.canonMem) :
    outMemWf (execWctReturn acc s) := by
  unfold execWctReturn
  (repeat' split) <;> simp [h]

@[simp] theorem execLoadLand_memWf (wave op : Nat) (lanes : Mask) (s : State) (h : s.canonMem) :
    outMemWf (execLoadLand wave op lanes s) := by
  unfold execLoadLand
  (repeat' split) <;> simp [h]

@[simp] theorem State.takeBack_mem (s : State) (k : Nat) (saved : Option (Upper × Nat)) :
    (s.takeBack k saved).mem = s.mem := by
  simp [State.takeBack]

@[simp] theorem execSuspendResume_memWf (wave : Nat) (s : State) (h : s.canonMem) :
    outMemWf (execSuspendResume wave s) := by
  unfold execSuspendResume
  (repeat' split) <;> simp [h]

@[simp] theorem State.writeRow_mem (s : State) (g k id : Nat) (by_ : Writer) (h : HandleEntry) (r : Nat)
    (bs : List Byte) : (s.writeRow g k id by_ h r bs).mem = s.mem := by
  simp [State.writeRow]

@[simp] theorem State.landTunmap_mem (s : State) (core i : Nat) : (s.landTunmap core i).mem = s.mem := by
  refine foldl_mem _ (fun s e => ?_) _ _
  split <;> simp

@[simp] theorem State.retireHandles_mem (s : State) (core : Nat) : (s.retireHandles core).mem = s.mem := by
  simp [State.retireHandles, foldl_mem]

/-! ### Copies and rendezvous -/

@[simp] theorem State.oprdyDone_mem (s : State) (k : Nat) (w : Wave) : (s.oprdyDone k w).mem = s.mem := by
  unfold State.oprdyDone
  split <;> simp

@[simp] theorem EngI.body_memWf (m : EngI) (u : Iss) (s : State) (h : s.canonMem) : (EngI.body m u s).memWf := by
  unfold EngI.body
  refine reading_memWf _ _ _ _ _ (fun s' h' => ?_) h
  (repeat' split) <;> simp [h, h', finish_bind_memWf]

@[simp] theorem execTceAccept_memWf (quad copy : Nat) (s : State) (h : s.canonMem) :
    outMemWf (execTceAccept quad copy s) := by
  unfold execTceAccept
  (repeat' split) <;> simp [h]

@[simp] theorem State.rowTargets_memWf (s : State) (q : Nat) (c : Copy) (l : List (Nat × Nat × Nat))
    (h : s.canonMem) : (s.rowTargets q c l).1.canonMem := by
  induction l generalizing s with
  | nil => exact h
  | cons e t ih =>
    obtain ⟨part, va, n⟩ := e
    have ht := State.translateTce_memWf s q c.ctx va (if c.kind.stores then .store else .load) h
    unfold State.rowTargets
    dsimp only
    split
    · exact h
    · split
      · split <;> exact ih s h
      · split
        · exact ht
        · exact ht
        · split <;> exact ih _ ht

@[simp] theorem State.failRow_mem (s : State) (q c i : Nat) : (s.failRow q c i).mem = s.mem := rfl

@[simp] theorem State.startRow_memWf (s : State) (q : Nat) (c : Copy) (i : Nat) (h : s.canonMem) :
    (s.startRow q c i).canonMem := by
  unfold State.startRow
  dsimp only
  (repeat' split) <;> simp [h]

@[simp] theorem State.finishRow_mem (s : State) (q : Nat) (c : Copy) (i : Nat) :
    (s.finishRow q c i).mem = s.mem := by
  simp [State.finishRow]

@[simp] theorem State.creditCopy_mem (s : State) (q : Nat) (c : Copy) : (s.creditCopy q c).mem = s.mem := by
  simp [State.creditCopy]

@[simp] theorem execCopyComplete_memWf (quad copy : Nat) (s : State) (h : s.canonMem) :
    outMemWf (execCopyComplete quad copy s) := by
  unfold execCopyComplete
  dsimp only
  (repeat' split) <;> simp [h]

@[simp] theorem State.cpyLane_memWf (s : State) (u : Iss) (size v dst src : Nat) (h : s.canonMem) :
    (s.cpyLane u size v dst src).1.canonMem := by
  unfold State.cpyLane
  dsimp only
  (repeat' split) <;> simp [h]

@[simp] theorem State.cpyLanes_memWf (s : State) (u : Iss) (size : Nat) (l : List (Nat × Nat × Nat × Nat))
    (h : s.canonMem) : (s.cpyLanes u size l).1.canonMem := by
  induction l generalizing s with
  | nil => exact h
  | cons e t ih =>
    obtain ⟨L, v, dst, src⟩ := e
    have hl := State.cpyLane_memWf s u size v dst src h
    unfold State.cpyLanes
    dsimp only
    split
    · exact hl
    · split <;> exact ih _ hl

@[simp] theorem cpyBody_memWf (f : Xt) (u : Iss) (s : State) (h : s.canonMem) : (cpyBody f u s).memWf := by
  unfold cpyBody
  dsimp only
  (repeat' split) <;> simp [h]

@[simp] theorem execCpyComplete_memWf (wave op : Nat) (s : State) (h : s.canonMem) :
    outMemWf (execCpyComplete wave op s) := by
  unfold execCpyComplete
  (repeat' split) <;> simp [h, foldl_mem]

@[simp] theorem cpywaitBody_memWf (t n : Nat) (u : Iss) (s : State) (h : s.canonMem) :
    (cpywaitBody t n u s).memWf := by
  simp [cpywaitBody, h]

@[simp] theorem rdvBody_memWf (f : Xt) (srcs : List Opnd) (act : Nat → Iss → State → Res) (u : Iss)
    (s : State) (ha : ∀ off u s, s.canonMem → (act off u s).memWf) (h : s.canonMem) :
    (rdvBody f srcs act u s).memWf := by
  refine reading_memWf _ _ _ _ _ (fun s' h' => finish_bind_memWf _ _ fun off => ?_) h
  split
  · exact h
  · exact ha off u s' h'

@[simp] theorem rdvinitAct_memWf (f : Xt) (off : Nat) (u : Iss) (s : State) (h : s.canonMem) :
    (rdvinitAct f off u s).memWf := by
  simp [rdvinitAct, h]

@[simp] theorem State.queueUpd_mem (s : State) (k off : Nat) (upd : RdvUpd) :
    (s.queueUpd k off upd).mem = s.mem := by
  simp [State.queueUpd]

@[simp] theorem rdvarrAct_memWf (f : Xt) (off : Nat) (u : Iss) (s : State) (h : s.canonMem) :
    (rdvarrAct f off u s).memWf := by
  simp [rdvarrAct, h]

@[simp] theorem rdvexpAct_memWf (f : Xt) (off : Nat) (u : Iss) (s : State) (h : s.canonMem) :
    (rdvexpAct f off u s).memWf := by
  simp [rdvexpAct, h]

@[simp] theorem execRdvarrApply_memWf (wave op : Nat) (s : State) (h : s.canonMem) :
    outMemWf (execRdvarrApply wave op s) := by
  unfold execRdvarrApply
  (repeat' split) <;> simp [h]

@[simp] theorem rdvwaitAct_memWf (f : Xt) (off : Nat) (u : Iss) (s : State) (h : s.canonMem) :
    (rdvwaitAct f off u s).memWf := by
  unfold rdvwaitAct
  (repeat' split) <;> simp [h]

@[simp] theorem rdvtestAct_memWf (f : Xt) (off : Nat) (u : Iss) (s : State) (h : s.canonMem) :
    (rdvtestAct f off u s).memWf := by
  unfold rdvtestAct
  (repeat' split) <;> simp [h]

@[simp] theorem pwaitAct_memWf (f : Xt) (off : Nat) (u : Iss) (s : State) (h : s.canonMem) :
    (pwaitAct f off u s).memWf := by
  simp [pwaitAct, h]

@[simp] theorem execRdvinitXt_memWf (f : Xt) (s : State) (h : s.canonMem) : outMemWf (execRdvinitXt f s) :=
  issue_memWf _ _ _ _ (fun u s h => rdvBody_memWf f _ _ u s (rdvinitAct_memWf f) h) h

@[simp] theorem execRdvarrXt_memWf (f : Xt) (s : State) (h : s.canonMem) : outMemWf (execRdvarrXt f s) := by
  refine issue_memWf _ _ _ _ (fun u s h => ?_) h
  split
  · exact h
  · exact rdvBody_memWf f _ _ u s (rdvarrAct_memWf f) h

@[simp] theorem execRdvexpXt_memWf (f : Xt) (s : State) (h : s.canonMem) : outMemWf (execRdvexpXt f s) :=
  issue_memWf _ _ _ _ (fun u s h => rdvBody_memWf f _ _ u s (rdvexpAct_memWf f) h) h

@[simp] theorem execRdvwaitXt_memWf (f : Xt) (s : State) (h : s.canonMem) : outMemWf (execRdvwaitXt f s) :=
  issue_memWf _ _ _ _ (fun u s h => rdvBody_memWf f _ _ u s (rdvwaitAct_memWf f) h) h

@[simp] theorem execRdvtestXt_memWf (f : Xt) (s : State) (h : s.canonMem) : outMemWf (execRdvtestXt f s) :=
  issue_memWf _ _ _ _ (fun u s h => rdvBody_memWf f _ _ u s (rdvtestAct_memWf f) h) h

@[simp] theorem execPwaitXt_memWf (f : Xt) (s : State) (h : s.canonMem) : outMemWf (execPwaitXt f s) :=
  issue_memWf _ _ _ _ (fun u s h => rdvBody_memWf f _ _ u s (pwaitAct_memWf f) h) h

/-! ### The matrix array -/

@[simp] theorem State.noReuse_mem (s : State) (core : Nat) : (s.noReuse core).mem = s.mem := rfl

@[simp] theorem State.pumpPort_mem (s : State) (core : Nat) : (s.pumpPort core).mem = s.mem := by
  simp only [State.pumpPort]
  (repeat' split) <;> simp

@[simp] theorem State.pumpQuad_mem (s : State) (quad : Nat) : (s.pumpQuad quad).mem = s.mem := by
  refine foldl_mem _ (fun s c => ?_) _ _
  simp

@[simp] theorem State.queueAt_mem (s : State) (u : Iss) (t : Nat) (ops : List AOp) :
    (s.queueAt u t ops).mem = s.mem := by
  simp only [State.queueAt, State.pumpQuad_mem, State.modQuad_mem]

@[simp] theorem State.queueAop_mem (s : State) (u : Iss) (ops : List AOp) : (s.queueAop u ops).mem = s.mem :=
  State.queueAt_mem ..

@[simp] theorem bankBody_memWf (m : BitVec 8) (ok : Bank → Bool) (act : Bank → Bank) (release : Bool)
    (u : Iss) (s : State) (h : s.canonMem) : (bankBody m ok act release u s).memWf := by
  unfold bankBody
  dsimp only
  (repeat' split) <;> simp [h]

@[simp] theorem aclaimBody_memWf (f : Xt) (u : Iss) (s : State) (h : s.canonMem) : (aclaimBody f u s).memWf := by
  simp [aclaimBody, h]

@[simp] theorem arelBody_memWf (f : Xt) (u : Iss) (s : State) (h : s.canonMem) : (arelBody f u s).memWf := by
  simp [arelBody, h]

@[simp] theorem azeroBody_memWf (f : Xt) (u : Iss) (s : State) (h : s.canonMem) : (azeroBody f u s).memWf := by
  simp [azeroBody, h]

@[simp] theorem opBody_memWf (gather : Bool) (f : Xt) (u : Iss) (s : State) (h : s.canonMem) :
    (opBody gather f u s).memWf := by
  unfold opBody
  refine reading_memWf _ _ _ _ _ (fun s' h' => ?_) h
  simp [h, h', finish_bind_memWf]

@[simp] theorem ardBody_memWf (f : Xt) (u : Iss) (s : State) (h : s.canonMem) : (ardBody f u s).memWf := by
  unfold ardBody
  cases s.bankCheck u f with
  | error e => trivial
  | ok _ =>
    dsimp only [bind, Except.bind]
    split <;> simp [finish, pure, Except.pure, h]

@[simp] theorem moveBody_memWf (load : Bool) (f : Xt) (u : Iss) (s : State) (h : s.canonMem) :
    (moveBody load f u s).memWf := by
  unfold moveBody
  refine reading_memWf _ _ _ _ _ (fun s' h' => ?_) h
  refine finish_bind_memWf _ _ fun rdv => ?_
  refine finish_bind_memWf _ _ fun e => ?_
  generalize (if load = true then 4 else rowsPer e.fmt) = k
  dsimp only
  split
  · trivial
  · split
    · trivial
    · refine finish_bind_memWf _ _ fun _ => ?_
      split
      · exact h
      · simpa using h'

@[simp] theorem awaitBody_memWf (b : Nat) (sd : Option (Fin 64)) (u : Iss) (s : State) (h : s.canonMem) :
    (awaitBody b sd u s).memWf := by
  simp [awaitBody, h]

@[simp] theorem oprdyBody_memWf (u : Iss) (s : State) (h : s.canonMem) : (oprdyBody u s).memWf := by
  simp [oprdyBody, h]

@[simp] theorem tmapBody_memWf (f : Xt) (u : Iss) (s : State) (h : s.canonMem) : (tmapBody f u s).memWf := by
  unfold tmapBody
  dsimp only
  refine reading_memWf _ _ _ _ _ (fun s' h' => ?_) h
  (repeat' split) <;> simp [h, h']

@[simp] theorem tunmapBody_memWf (f : Xt) (u : Iss) (s : State) (h : s.canonMem) : (tunmapBody f u s).memWf := by
  unfold tunmapBody
  dsimp only
  (repeat' split) <;> simp [h]

@[simp] theorem tqueryBody_memWf (f : Xt) (u : Iss) (s : State) (h : s.canonMem) : (tqueryBody f u s).memWf := by
  unfold tqueryBody
  (repeat' split) <;> simp [h]

@[simp] theorem State.arrayAt_mem (s : State) (quad t : Nat) : (s.arrayAt quad t).mem = s.mem := rfl

@[simp] theorem State.finishAop_mem (s : State) (quad : Nat) (o : AOp) (bytes : Nat) (err : Bool)
    (flags : FFlags) : (s.finishAop quad o bytes err flags).mem = s.mem := by
  simp only [State.finishAop, State.wakeGroup_mem, State.pumpQuad_mem, State.retireHandles_mem]
  split <;> simp

@[simp] theorem State.aopError_mem (s : State) (quad : Nat) (o : AOp) : (s.aopError quad o).mem = s.mem := by
  simp [State.aopError]

@[simp] theorem State.poisonBank_mem (s : State) (quad : Nat) (o : AOp) :
    (s.poisonBank quad o).mem = s.mem := by
  simp [State.poisonBank]

@[simp] theorem State.meetBank_mem (s : State) (quad : Nat) (o : AOp) :
    (s.meetBank quad o).2.mem = s.mem := by
  unfold State.meetBank
  split <;> simp

@[simp] theorem execFillComplete_memWf (quad op : Nat) (s : State) (h : s.canonMem) :
    outMemWf (execFillComplete quad op s) := by
  unfold execFillComplete
  (repeat' split) <;> simp [h]

@[simp] theorem execArbiterVisit_memWf (quad : Nat) (s : State) (h : s.canonMem) :
    outMemWf (execArbiterVisit quad s) := by
  unfold execArbiterVisit
  dsimp only
  (repeat' split) <;> simp [h]

@[simp] theorem execOpComplete_memWf (quad op : Nat) (s : State) (h : s.canonMem) :
    outMemWf (execOpComplete quad op s) := by
  unfold execOpComplete
  dsimp only
  (repeat' split) <;> simp [h]

@[simp] theorem execZeroingDone_memWf (quad op : Nat) (s : State) (h : s.canonMem) :
    outMemWf (execZeroingDone quad op s) := by
  unfold execZeroingDone
  (repeat' split) <;> simp [h]

@[simp] theorem State.landArd_mem (s : State) (o : AOp) (b : Bank) (arow n : Nat) (lanes : Mask) :
    (s.landArd o b arow n lanes).mem = s.mem := by
  simp [State.landArd]

@[simp] theorem State.drainRows_mem (s : State) (o : AOp) (h : HandleEntry) (b : Bank) (row0 arow n : Nat) :
    (s.drainRows o h b row0 arow n).mem = s.mem := by
  simp [State.drainRows, foldl_mem]

@[simp] theorem execBankTransferDone_memWf (quad op : Nat) (s : State) (h : s.canonMem) :
    outMemWf (execBankTransferDone quad op s) := by
  unfold execBankTransferDone
  dsimp only
  (repeat' split) <;> simp [h]

@[simp] theorem State.revoke_mem (s : State) (core : Nat) (p : HandleEntry → Bool) :
    (s.revoke core p).mem = s.mem := by
  simp [State.revoke, foldl_mem]

/-! ### Meridian -/

@[simp] theorem State.sendM_mem (s : State) (type : BitVec 8) (subject ceiling nextceil : Nat)
    (eff : Nat → Nat) : (s.sendM type subject ceiling nextceil eff).2.mem = s.mem := by
  unfold State.sendM
  dsimp only
  split
  · simp
  · rw [foldl_mem _ fun s p => by simp]; simp

@[simp] theorem State.startJoin_mem (s : State) : s.startJoin.mem = s.mem := rfl

@[simp] theorem State.selfExit_mem (s : State) (kind subject : Nat) : (s.selfExit kind subject).mem = s.mem :=
  rfl

@[simp] theorem State.announceLimit_mem (s : State) : s.announceLimit.mem = s.mem := by
  simp [State.announceLimit]

@[simp] theorem State.dropBy_mem (s : State) (k : Nat) : (s.dropBy k).mem = s.mem := by simp [State.dropBy]

@[simp] theorem State.emergencyDrop_mem (s : State) : s.emergencyDrop.mem = s.mem := by
  simp [State.emergencyDrop]

@[simp] theorem State.limitChanged_mem (s : State) (l : Nat) (fast : Bool) :
    (s.limitChanged l fast).mem = s.mem := by
  simp [State.limitChanged]

@[simp] theorem State.discardM_mem (s : State) (m : MMsg) : (s.discardM m).mem = s.mem := rfl

@[simp] theorem State.noteM_mem (s : State) (m : MMsg) (t : Nat) (late : Bool) :
    (s.noteM m t late).mem = s.mem :=
  rfl

theorem State.receiveM_mem (s : State) (port : Nat) (m : MMsg) (act : State → Nat → State × Bool)
    (h : ∀ s t, (act s t).1.mem = s.mem) : (s.receiveM port m act).mem = s.mem := by
  unfold State.receiveM
  repeat' split
  all_goals simp [h]

@[simp] theorem State.align_mem (s : State) (sent : Nat) : (s.align sent).mem = s.mem := by simp [State.align]

@[simp] theorem State.onHeartbeat_mem (s : State) (m : MMsg) : (s.onHeartbeat m).mem = s.mem := by
  unfold State.onHeartbeat
  split <;> simp

@[simp] theorem State.onAnnounce_mem (s : State) (m : MMsg) (eff : Nat) :
    (s.onAnnounce m eff).1.mem = s.mem :=
  rfl

@[simp] theorem State.onChange_mem (s : State) (c : MChange) : (s.onChange c).1.mem = s.mem := rfl

@[simp] theorem execHeartbeat_memWf (a : MFlit) (s : State) (h : s.canonMem) : outMemWf (execHeartbeat a s) := by
  rw [execHeartbeat, outMemWf_next, State.canonMem, State.receiveM_mem _ _ _ _ (by simp)]; exact h

@[simp] theorem execAnnounce_memWf (a : MFlit) (s : State) (h : s.canonMem) : outMemWf (execAnnounce a s) := by
  rw [execAnnounce, outMemWf_next, State.canonMem, State.receiveM_mem _ _ _ _ (by simp)]; exact h

@[simp] theorem execDrop_memWf (a : MFlit) (s : State) (h : s.canonMem) : outMemWf (execDrop a s) := by
  rw [execDrop, outMemWf_next, State.canonMem, State.receiveM_mem _ _ _ _ (by simp)]; exact h

@[simp] theorem execJoin_memWf (a : MFlit) (s : State) (h : s.canonMem) : outMemWf (execJoin a s) := by
  rw [execJoin, outMemWf_next, State.canonMem, State.receiveM_mem _ _ _ _ (by simp)]; exact h

@[simp] theorem execLeave_memWf (a : MFlit) (s : State) (h : s.canonMem) : outMemWf (execLeave a s) := by
  rw [execLeave, outMemWf_next, State.canonMem, State.receiveM_mem _ _ _ _ (by simp)]; exact h

@[simp] theorem execSilent_memWf (a : MFlit) (s : State) (h : s.canonMem) : outMemWf (execSilent a s) := by
  rw [execSilent, outMemWf_next, State.canonMem, State.receiveM_mem]
  · exact h
  · intro s e
    (repeat' split) <;> simp

@[simp] theorem execMeridianInvalidType_memWf (a : MFlit) (s : State) (h : s.canonMem) :
    outMemWf (execMeridianInvalidType a s) := by
  rw [execMeridianInvalidType, outMemWf_next, State.canonMem, State.receiveM_mem _ _ _ _ (by simp)]; exact h

@[simp] theorem execHeartbeatTimer_memWf (s : State) (h : s.canonMem) : outMemWf (execHeartbeatTimer s) := by
  simp [execHeartbeatTimer, h]

@[simp] theorem execMeridianEffective_memWf (s : State) (h : s.canonMem) :
    outMemWf (execMeridianEffective s) := by
  simp [execMeridianEffective, h]

@[simp] theorem execSilenceTimeout_memWf (n : Nat) (s : State) (h : s.canonMem) :
    outMemWf (execSilenceTimeout n s) := by
  simp [execSilenceTimeout, h]

@[simp] theorem execGroupSilence_memWf (s : State) (h : s.canonMem) : outMemWf (execGroupSilence s) := by
  simp [execGroupSilence, h]

@[simp] theorem execEpochTimeout_memWf (s : State) (h : s.canonMem) : outMemWf (execEpochTimeout s) := by
  unfold execEpochTimeout
  dsimp only
  (repeat' split) <;> simp [h]

@[simp] theorem execJoinListenEnd_memWf (s : State) (h : s.canonMem) : outMemWf (execJoinListenEnd s) := by
  unfold execJoinListenEnd
  dsimp only
  (repeat' split) <;> simp [h]

@[simp] theorem execFoundGroup_memWf (s : State) (h : s.canonMem) : outMemWf (execFoundGroup s) := by
  simp [execFoundGroup, h]

@[simp] theorem State.sendLeave_mem (s : State) : s.sendLeave.mem = s.mem := by simp [State.sendLeave]

@[simp] theorem execMctlEnSet_memWf (port : Nat) (s : State) (h : s.canonMem) :
    outMemWf (execMctlEnSet port s) := by
  unfold execMctlEnSet
  dsimp only
  (repeat' split) <;> simp [h]

@[simp] theorem execMctlEnClear_memWf (port : Nat) (s : State) (h : s.canonMem) :
    outMemWf (execMctlEnClear port s) := by
  simp [execMctlEnClear, h]

@[simp] theorem execMctlLeave_memWf (port : Nat) (s : State) (h : s.canonMem) :
    outMemWf (execMctlLeave port s) := by
  simp [execMctlLeave, h]

@[simp] theorem execMlimitWrite_memWf (port : Nat) (val : DWord) (s : State) (h : s.canonMem) :
    outMemWf (execMlimitWrite port val s) := by
  simp [execMlimitWrite, h]

/-! ### System instructions -/

@[simp] theorem movsBody_memWf (f : Xt) (u : Iss) (s : State) (h : s.canonMem) : (movsBody f u s).memWf := by
  simp [movsBody, h]

theorem State.writeSreg_mem (s t : State) (u : Iss) (n : Nat) (x : DWord) (ht : s.writeSreg u n x = some t) :
    t.mem = s.mem := by
  unfold State.writeSreg at ht
  dsimp only at ht
  split at ht <;> split at ht <;> cases ht <;> simp

@[simp] theorem movswBody_memWf (f : Xt) (u : Iss) (s : State) (h : s.canonMem) : (movswBody f u s).memWf := by
  refine reading_memWf _ _ _ _ _ (fun s' h' => ?_) h
  split
  · trivial
  · next t ht =>
    rw [Res.memWf_ok, State.canonMem, State.writeSreg_mem _ _ _ _ _ ht]
    exact h'

@[simp] theorem tretBody_memWf (u : Iss) (s : State) (h : s.canonMem) : (tretBody u s).memWf := by
  simp [tretBody, h]

@[simp] theorem perfrdBody_memWf (f : Xt) (u : Iss) (s : State) (h : s.canonMem) : (perfrdBody f u s).memWf := by
  simp [perfrdBody, h]

@[simp] theorem State.tracePa_memWf (s : State) (u : Iss) (base off : Nat) (h : s.canonMem) :
    (s.tracePa u base off).2.canonMem := by
  have ht := State.translateCore_memWf s (coreOfWave u.k) u.w.ctx (base + off) .store h
  unfold State.tracePa
  dsimp only
  split <;> exact ht

@[simp] theorem State.traceStore_bytes (s : State) (u : Iss) (at_ : Nat × Option (Nat × Nat))
    (off n x after : Nat) : (s.traceStore u at_ off n x after).2.mem.bytes = s.mem.bytes := by
  simp [State.traceStore]

@[simp] theorem State.trace_memWf (s : State) (u : Iss) (code : Nat) (value : DWord) (h : s.canonMem) :
    (s.trace u code value).canonMem := by
  unfold State.trace
  split
  · exact h
  · dsimp only
    (repeat' split) <;> simp [h]

@[simp] theorem dbgmarkBody_memWf (f : Xt) (u : Iss) (s : State) (h : s.canonMem) :
    (dbgmarkBody f u s).memWf := by
  unfold dbgmarkBody
  refine reading_memWf _ _ _ _ _ (fun s h => ?_) h
  simp [h]

@[simp] theorem haltwBody_memWf (f : Xt) (u : Iss) (s : State) (h : s.canonMem) : (haltwBody f u s).memWf := by
  simp [haltwBody, h]

@[simp] theorem State.startInval_bytes (s : State) (x : Inval) : (s.startInval x).mem.bytes = s.mem.bytes :=
  rfl

@[simp] theorem State.startMove_memWf (s : State) (grans : List Nat) (owner : Option (BitVec 8))
    (port : Option Nat) (h : s.canonMem) : (s.startMove grans owner port).2.canonMem := by
  simp only [State.startMove]
  apply foldl_memWf _ (fun s g hs => State.wipe_memWf s _ _ hs)
  exact foldl_memWf _ (fun s a hs => State.makeVisible_memWf s a hs) _ _ h

@[simp] theorem tlbinvBody_memWf (f : Xt) (u : Iss) (s : State) (h : s.canonMem) : (tlbinvBody f u s).memWf := by
  unfold tlbinvBody
  dsimp only
  (repeat' split) <;> simp [h]

@[simp] theorem execNonInstruction_memWf (opc : BitVec 8) (s : State) (h : s.canonMem) :
    outMemWf (execNonInstruction opc s) :=
  issue_memWf _ _ _ _ (fun _ _ _ => by simp) h

@[simp] theorem execTranslationWalk_memWf (core va : Nat) (s : State) (h : s.canonMem) :
    outMemWf (execTranslationWalk core va s) := by
  unfold execTranslationWalk
  (repeat' split) <;> simp [h]

@[simp] theorem State.eachWait_mem (s : State) (ctx : Nat) (f : WaitFn) : (s.eachWait ctx f).mem = s.mem := by
  simp [State.eachWait]

@[simp] theorem State.mergePosts_memWf (s : State) (ctx vpn : Nat) (l : List (Nat × Nat × Nat)) (h : s.canonMem)
    : (s.mergePosts ctx vpn l).canonMem := by
  induction l generalizing s with
  | nil => exact h
  | cons p t ih =>
    apply ih
    split
    · exact State.postPage_memWf _ _ _ _ _ h
    · exact h

@[simp] theorem execPrqPost_memWf (ctx : Nat) (s : State) (h : s.canonMem) : outMemWf (execPrqPost ctx s) := by
  unfold execPrqPost
  dsimp only
  (repeat' split) <;> simp [h]

@[simp] theorem State.endInval_bytes (s : State) (x : Inval) : (s.endInval x).mem.bytes = s.mem.bytes := rfl

@[simp] theorem execTlbinvComplete_memWf (id : Nat) (s : State) (h : s.canonMem) :
    outMemWf (execTlbinvComplete id s) := by
  unfold execTlbinvComplete
  (repeat' split) <;> simp [h]

/-! ### Waypoints -/

@[simp] theorem State.wpSettled_mem (s : State) : s.wpSettled.mem = s.mem := rfl

@[simp] theorem State.giveCode_mem (s : State) (p : Pub) (code gen : Nat) :
    (s.giveCode p code gen).mem = s.mem := by
  unfold State.giveCode
  (repeat' split) <;> simp

@[simp] theorem execWpPublish_memWf (pub : Nat) (s : State) (h : s.canonMem) :
    outMemWf (execWpPublish pub s) := by
  unfold execWpPublish
  (repeat' split) <;> simp [h]

@[simp] theorem wpubBody_memWf (f : Xt) (u : Iss) (s : State) (h : s.canonMem) : (wpubBody f u s).memWf := by
  unfold wpubBody
  dsimp only
  (repeat' split) <;> simp [h]

@[simp] theorem wtestBody_memWf (f : Xt) (u : Iss) (s : State) (h : s.canonMem) : (wtestBody f u s).memWf := by
  unfold wtestBody
  split <;> simp [h]

/-! ### Admission, chains and LAUNCH -/

@[simp] theorem State.writeDone_memWf (s : State) (ctx done : Nat) (val : BitVec 32) (code : Nat)
    (h : s.canonMem) : (s.writeDone ctx done val code).canonMem := by
  unfold State.writeDone
  (repeat' split) <;> simp [h]

@[simp] theorem State.violate_mem (s : State) (ten : Nat) : (s.violate ten).mem = s.mem := rfl

@[simp] theorem execDoorbellWrite_memWf (port q : Nat) (stream : Option Nat) (val : DWord) (s : State)
    (h : s.canonMem) : outMemWf (execDoorbellWrite port q stream val s) := by
  unfold execDoorbellWrite
  (repeat' split) <;> simp [h]

@[simp] theorem State.popDesc_mem (s : State) (part q : Nat) : (s.popDesc part q).mem = s.mem := by
  unfold State.popDesc
  split <;> simp

@[simp] theorem State.failDesc_memWf (s : State) (part q ctx : Nat) (d : BitVec 512) (code : Nat)
    (h : s.canonMem) : (s.failDesc part q ctx d code).canonMem := by
  simp [State.failDesc, h]

@[simp] theorem State.awaitPage_memWf (s : State) (part q : Nat) (x : Queue) (vpn : Nat)
    (deny : State → State) (hd : ∀ s, s.canonMem → (deny s).canonMem) (h : s.canonMem) :
    (s.awaitPage part q x vpn deny).canonMem := by
  unfold State.awaitPage
  split
  · exact hd s h
  · dsimp only
    split
    · simp [h]
    · simp [h]
    · exact hd _ (by simp [h])

@[simp] theorem State.admitLaunch_memWf (s : State) (part q : Nat) (x : Queue) (d : BitVec 512)
    (e : BitVec 1024) (h : s.canonMem) : (s.admitLaunch part q x d e).canonMem := by
  have hd : ∀ (code : Nat) (s : State), s.canonMem → (s.failDesc part q x.ctx d code).canonMem :=
    fun code s hs => by simp [hs]
  unfold State.admitLaunch
  dsimp only
  split
  · exact hd _ _ h
  · split
    · exact hd _ _ h
    · split
      · exact hd _ _ h
      · exact State.awaitPage_memWf _ _ _ _ _ _ (hd 3) h
      · split
        · exact hd _ _ h
        · exact State.awaitPage_memWf _ _ _ _ _ _ (hd 3) h
        · simp [h]

@[simp] theorem execAdmitDesc_memWf (part q : Nat) (s : State) (h : s.canonMem) :
    outMemWf (execAdmitDesc part q s) := by
  unfold execAdmitDesc
  rw [outMemWf_next]
  split
  · exact h
  · split
    · exact h
    · split
      · exact h
      · simp [h]
      · exact State.awaitPage_memWf _ _ _ _ _ _ (fun s hs => by split <;> simp [hs]) h
      · simp [h]
      · split <;> simp [h]

@[simp] theorem execChainRecord_memWf (part q : Nat) (s : State) (h : s.canonMem) :
    outMemWf (execChainRecord part q s) := by
  unfold execChainRecord
  rw [outMemWf_next]
  split
  · next x d e _ _ =>
    have hd : ∀ s : State, s.canonMem → (s.failDesc part q x.ctx d 1).canonMem := fun s hs => by simp [hs]
    dsimp only
    split
    · exact h
    · split
      · exact hd s h
      · split
        · exact hd s h
        · exact State.awaitPage_memWf _ _ _ _ _ _ hd h
        · split
          · exact hd s h
          · split
            · exact hd s h
            · exact State.awaitPage_memWf _ _ _ _ _ _ hd h
            · split
              · exact hd s h
              · split
                · exact hd s h
                · exact State.failDesc_memWf _ _ _ _ _ _ h
  · exact h

@[simp] theorem execChainReplay_memWf (part q : Nat) (s : State) (h : s.canonMem) :
    outMemWf (execChainReplay part q s) := by
  unfold execChainReplay
  rw [outMemWf_next]
  split
  · next x d e _ _ =>
    have hd : ∀ s : State, s.canonMem → (s.failDesc part q x.ctx d 1).canonMem := fun s hs => by simp [hs]
    dsimp only
    split
    · exact h
    · split
      · exact hd s h
      · split
        · exact hd s h
        · split
          · exact hd s h
          · exact State.awaitPage_memWf _ _ _ _ _ _ hd h
          · split
            · exact hd s h
            · split
              · split
                · exact State.awaitPage_memWf _ _ _ _ _ _ (fun s hs => by simp [hs]) h
                · simp only [State.canonMem, State.modCp_mem, State.modQueue_mem, State.popDesc_mem]
                  exact h
              · exact h
  · exact h

@[simp] theorem execLaunchOpen_memWf (launch : Nat) (s : State) (h : s.canonMem) :
    outMemWf (execLaunchOpen launch s) := by
  unfold execLaunchOpen
  split <;> simp [h]

@[simp] theorem State.submit_memWf (s : State) (ctx : Nat) (d : BitVec 512) (q : Nat) (h : s.canonMem) :
    (s.submit ctx d q).2.canonMem := by
  unfold State.submit
  dsimp only
  (repeat' split) <;> simp [h]

@[simp] theorem launchBody_memWf (f : Xt) (u : Iss) (s : State) (h : s.canonMem) : (launchBody f u s).memWf := by
  unfold launchBody
  dsimp only
  refine reading_memWf _ _ _ _ _ (fun s' h' => ?_) h
  (repeat' split) <;> simp [h, h']

@[simp] theorem lparmBody_memWf (f : Xt) (u : Iss) (s : State) (h : s.canonMem) : (lparmBody f u s).memWf := by
  unfold lparmBody
  dsimp only
  (repeat' split) <;> simp [h]

@[simp] theorem State.knowOp_mem (s : State) (k op x : Nat) : (s.knowOp k op x).mem = s.mem := by
  simp [State.knowOp]

@[simp] theorem execClassLLand_memWf (wave op : Nat) (s : State) (h : s.canonMem) :
    outMemWf (execClassLLand wave op s) := by
  unfold execClassLLand
  (repeat' split) <;> simp [h]

/-! ### Placement and retirement -/

@[simp] theorem State.clampDeficits_mem (s : State) : s.clampDeficits.mem = s.mem := rfl

@[simp] theorem State.refill_mem (s : State) (ctxs : List Nat) : (s.refill ctxs).mem = s.mem := by
  simp [State.refill, foldl_mem]

@[simp] theorem State.chooseIn_mem (s : State) (os : List (Nat × Launch × Nat)) (cs blocked : List Nat) :
    (s.chooseIn os cs blocked).1.mem = s.mem := by
  induction cs generalizing blocked with
  | nil => rfl
  | cons c cs ih =>
    unfold State.chooseIn
    dsimp only
    split
    · exact ih _
    · split
      · simp
      · split
        · simp
        · exact ih _

@[simp] theorem State.choose_mem (s : State) : s.choose.1.mem = s.mem := by simp [State.choose]

@[simp] theorem State.dropEnded_bytes (s : State) (pa n : Nat) : (s.dropEnded pa n).mem.bytes = s.mem.bytes :=
  rfl

@[simp] theorem State.zeroGlobal_memWf (s : State) (ctx k va n : Nat) (h : s.canonMem) :
    (s.zeroGlobal ctx k va n).canonMem := by
  induction k generalizing s va n with
  | zero => exact h
  | succ k ih =>
    unfold State.zeroGlobal
    split
    · exact h
    · apply ih
      split <;> simp [h]

@[simp] theorem State.placeGroup_memWf (s : State) (lid : Nat) (l : Launch) (gid core : Nat) (h : s.canonMem) :
    (s.placeGroup lid l gid core).canonMem := by
  simp only [State.placeGroup, State.canonMem, State.wpSettled_mem, State.modCp_mem, State.modCtx_mem,
    State.modLaunch_mem]
  exact foldl_memWf _ (fun s i hs => State.zeroGlobal_memWf s _ _ _ _ hs) _ _ (State.settle_memWf s h)

@[simp] theorem execGroupDispatch_memWf (die : Nat) (s : State) (h : s.canonMem) :
    outMemWf (execGroupDispatch die s) := by
  unfold execGroupDispatch
  dsimp only
  (repeat' split) <;> simp [h]

@[simp] theorem State.unwatch_mem (s : State) : s.unwatch.mem = s.mem := by simp [State.unwatch]

@[simp] theorem execCoreReserve_memWf (launch : Nat) (s : State) (h : s.canonMem) :
    outMemWf (execCoreReserve launch s) := by
  unfold execCoreReserve
  dsimp only
  (repeat' split) <;> simp [h]

@[simp] theorem execDeficitCharge_memWf (s : State) (h : s.canonMem) : outMemWf (execDeficitCharge s) := by
  simp [execDeficitCharge, h]

@[simp] theorem State.freeWave_mem (s : State) (k : Nat) (w : Wave) : (s.freeWave k w).mem = s.mem := by
  simp [State.freeWave]

@[simp] theorem execWaveEnd_memWf (wave : Nat) (s : State) (h : s.canonMem) : outMemWf (execWaveEnd wave s) := by
  unfold execWaveEnd
  split <;> simp [h]

@[simp] theorem State.releaseBanks_mem (s : State) (g : Nat) : (s.releaseBanks g).mem = s.mem := by
  refine foldl_mem _ (fun s b => ?_) _ _
  simp

@[simp] theorem State.freeHandles_mem (s : State) (g : Nat) : (s.freeHandles g).mem = s.mem := rfl

@[simp] theorem execGroupExit_memWf (group : Nat) (s : State) (h : s.canonMem) :
    outMemWf (execGroupExit group s) := by
  unfold execGroupExit
  split <;> simp [h]

@[simp] theorem execCoreSplitApply_memWf (core : Nat) (s : State) (h : s.canonMem) :
    outMemWf (execCoreSplitApply core s) := by
  unfold execCoreSplitApply
  split <;> simp [h]

@[simp] theorem MemSys.demoteChain_bytes (m : MemSys) (chain : Nat) : (m.demoteChain chain).bytes = m.bytes :=
  rfl

@[simp] theorem State.retireInstance_memWf (s : State) (i : Instance) (h : s.canonMem) :
    (s.retireInstance i).canonMem := by
  unfold State.retireInstance
  split <;> simp [h]

@[simp] theorem execLaunchRetire_memWf (launch : Nat) (s : State) (h : s.canonMem) :
    outMemWf (execLaunchRetire launch s) := by
  unfold execLaunchRetire
  rw [outMemWf_next]
  split
  · exact h
  · next l _ =>
    have hw : ∀ code, ((s.settle.modMem fun m => m.dropReplicas fun _ x => x.launch == launch).writeDone l.ctx
        (descDone l.desc) (descDoneVal l.desc) code).canonMem :=
      fun code => State.writeDone_memWf _ _ _ _ _ (by simp [h])
    split
    · split
      · rw [State.canonMem, foldl_bytes _ (fun s o => by simp)]; exact h
      · exact h
    · dsimp only
      split
      · simp only [State.canonMem, State.clampDeficits_mem, State.wpSettled_mem]
        exact State.retireInstance_memWf _ _ (hw _)
      · exact hw _

/-! ### Pre-emption and kill -/

@[simp] theorem State.parkWave_mem (s : State) (k : Nat) : (s.parkWave k).mem = s.mem := by
  simp [State.parkWave]

@[simp] theorem State.parkOps_mem (s : State) (gs : List Nat) : (s.parkOps gs).mem = s.mem := by
  simp [State.parkOps, foldl_mem]

@[simp] theorem State.removeGroup_mem (s : State) (k : Nat) : (s.removeGroup k).mem = s.mem := rfl

@[simp] theorem execPreemptSaveDone_memWf (ctx : Nat) (s : State) (h : s.canonMem) :
    outMemWf (execPreemptSaveDone ctx s) := by
  unfold execPreemptSaveDone
  rw [outMemWf_next]
  dsimp only
  split
  · exact h
  · split
    · split
      · exact h
      · simp [foldl_mem, h]
    · split
      · simp [foldl_bytes, h]
      · rw [State.canonMem, State.modCtx_mem, foldl_mem _ fun s (e : Nat × Group) => State.removeGroup_mem s e.1]
        exact h
    · exact h

@[simp] theorem State.putBack_mem (s : State) (g : SavedGroup) : (s.putBack g).mem = s.mem := by
  simp only [State.putBack, State.pumpQuad_mem, State.modQuad_mem, State.modCore_mem]

@[simp] theorem execContextRestore_memWf (ctx : Nat) (s : State) (h : s.canonMem) :
    outMemWf (execContextRestore ctx s) := by
  unfold execContextRestore
  (repeat' split) <;> simp [h]

@[simp] theorem State.killQueued_memWf (s : State) (q : Queue) (n : Nat) (i : BitVec 32) (h : s.canonMem) :
    (s.killQueued q n i).canonMem := by
  induction n generalizing s i with
  | zero => exact h
  | succ n ih =>
    unfold State.killQueued
    apply ih
    split
    · dsimp only
      split <;> simp [h]
    · exact h

@[simp] theorem State.killArray_mem (s : State) (g : Nat) : (s.killArray g).mem = s.mem := by
  simp [State.killArray]

@[simp] theorem State.killWork_bytes (s : State) (ctx : Nat) : (s.killWork ctx).mem.bytes = s.mem.bytes := by
  simp only [State.killWork]
  rw [foldl_mem _ (fun s g => by simp), foldl_mem _ (fun s e => by simp), State.modMem_mem, foldl_mem,
    foldl_mem _ (fun s e => by simp)]
  intro s a
  split <;> simp

@[simp] theorem State.killTables_memWf (s : State) (ctx : Nat) (h : s.canonMem) : (s.killTables ctx).canonMem := by
  simp only [State.killTables, State.canonMem, State.modCp_mem]
  exact foldl_memWf _ (fun s e hs => State.killQueued_memWf s _ _ _ hs) _ _ h

@[simp] theorem State.startKill_memWf (s : State) (ctx : Nat) (h : s.canonMem) : (s.startKill ctx).canonMem := by
  unfold State.startKill
  split
  · exact h
  · split
    · exact h
    · simp only [State.canonMem, State.modCtx_mem, State.dropTlb_bytes, State.modMem_mem]
      rw [foldl_mem]
      · simp [h]
      · intro s x
        split
        · split <;> rfl
        · rfl

@[simp] theorem State.endTenancy_memWf (s : State) (ten : Nat) (h : s.canonMem) : (s.endTenancy ten).canonMem := by
  unfold State.endTenancy
  dsimp only
  (repeat' split) <;> simp [h]

@[simp] theorem State.settleOwner_mem (s : State) : s.settleOwner.mem = s.mem := by
  unfold State.settleOwner
  split <;> simp

@[simp] theorem State.settleTenancy_memWf (s : State) (ten : Nat) (h : s.canonMem) :
    (s.settleTenancy ten).canonMem := by
  unfold State.settleTenancy
  split <;> simp [h]

@[simp] theorem execKillComplete_memWf (ctx : Nat) (s : State) (h : s.canonMem) :
    outMemWf (execKillComplete ctx s) := by
  unfold execKillComplete
  dsimp only
  (repeat' split) <;> simp [h]

/-! ### Other devices and hosts -/

@[simp] theorem State.reply_mem (s : State) (id dest : Nat) (body : ReplyBody) :
    (s.reply id dest body).mem = s.mem := by
  simp only [State.reply]
  (repeat' split) <;> simp

@[simp] theorem State.acceptPeer_memWf (s : State) (r : PeerReq) (h : s.canonMem) : (s.acceptPeer r).canonMem := by
  unfold State.acceptPeer
  split
  · exact h
  · split
    · simp [h]
    · exact foldl_memWf _ (fun s a hs => State.perform_memWf s _ hs) _ _ h

@[simp] theorem State.expectNext_mem (s : State) (key n : Nat) : (s.expectNext key n).mem = s.mem := rfl

@[simp] theorem State.takeEarly_memWf (s : State) (key n : Nat) (h : s.canonMem) :
    (s.takeEarly key n).canonMem := by
  induction n generalizing s with
  | zero => exact h
  | succ n ih =>
    unfold State.takeEarly
    split
    · exact h
    · exact ih _ (by simp [h])

@[simp] theorem State.orderPeer_memWf (s : State) (r : PeerReq) (h : s.canonMem) : (s.orderPeer r).canonMem := by
  unfold State.orderPeer
  dsimp only
  (repeat' split) <;> simp [h]

@[simp] theorem execRemoteRequest_memWf (r : PeerReq) (s : State) (h : s.canonMem) :
    outMemWf (execRemoteRequest r s) := by
  unfold execRemoteRequest
  split <;> simp [h]

@[simp] theorem execMcredApply_memWf (r : PeerReq) (s : State) (h : s.canonMem) :
    outMemWf (execMcredApply r s) := by
  unfold execMcredApply
  split <;> simp [h]

@[simp] theorem execRemoteAck_memWf (id : Nat) (s : State) (h : s.canonMem) : outMemWf (execRemoteAck id s) := by
  unfold execRemoteAck
  split <;> simp [h]

@[simp] theorem State.hear_mem (s : State) (peer : Nat) : (s.hear peer).mem = s.mem := rfl

@[simp] theorem State.afterReply_bytes (s : State) (a : Acc) : (s.afterReply a).mem.bytes = s.mem.bytes := by
  unfold State.afterReply
  split <;> simp

@[simp] theorem State.takeReply_bytes (s : State) (body : ReplyBody) (a : Acc) :
    (s.takeReply body a).mem.bytes = s.mem.bytes := by
  unfold State.takeReply
  repeat' split
  all_goals simp

@[simp] theorem State.closeSlot_bytes (s : State) (r : SlotRef) (body : ReplyBody) (l : List Acc) :
    (s.closeSlot r body l).mem.bytes = s.mem.bytes := by
  simp only [State.closeSlot]
  (repeat' split) <;> simp [foldl_bytes]

@[simp] theorem State.failSlot_bytes (s : State) (r : SlotRef) (l : List Acc) :
    (s.failSlot r l).mem.bytes = s.mem.bytes := by
  unfold State.failSlot
  split <;> simp

@[simp] theorem execRemoteReply_memWf (r : PeerReply) (s : State) (h : s.canonMem) :
    outMemWf (execRemoteReply r s) := by
  simp [execRemoteReply, h]

@[simp] theorem execMcredAck_memWf (ack : AckIn) (seq : BitVec 8) (failed : Option (Nat × Nat)) (s : State)
    (h : s.canonMem) : outMemWf (execMcredAck ack seq failed s) := by
  unfold execMcredAck
  rw [outMemWf_next]
  split
  · exact h
  · rw [State.canonMem, State.failSlot_bytes, foldl_bytes]
    · exact h
    · intro s a
      split <;> simp

@[simp] theorem execRequestTimeout_memWf (slot : SlotRef) (s : State) (h : s.canonMem) :
    outMemWf (execRequestTimeout slot s) := by
  simp [execRequestTimeout, h]

@[simp] theorem execHostCompletion_memWf (acc : Nat) (body : ReplyBody) (s : State) (h : s.canonMem) :
    outMemWf (execHostCompletion acc body s) := by
  unfold execHostCompletion
  (repeat' split) <;> simp [h]

/-! ### The mailbox and attestation -/

theorem State.mailbox_mem (s : State) (r : MbReq) (f : Nat → Answer) (h : ∀ p, (f p).2.mem = s.mem) :
    (s.mailbox r f).mem = s.mem := by
  unfold State.mailbox
  split
  · rfl
  · split
    · rfl
    · dsimp only
      split <;> simp [h]

@[simp] theorem execStatus_memWf (r : MbReq) (s : State) (h : s.canonMem) : outMemWf (execStatus r s) := by
  simp [execStatus, h]

@[simp] theorem execTakeover_memWf (r : MbReq) (s : State) (h : s.canonMem) : outMemWf (execTakeover r s) := by
  unfold execTakeover
  rw [outMemWf_next]
  split
  · exact h
  · split
    · exact h
    · split
      · exact h
      · simp only [State.canonMem, State.send_mem, State.settleOwner_mem, State.modHost_mem]
        exact foldl_memWf _ (fun s e hs => State.startKill_memWf s _ hs) _ _ h

theorem State.mailbox_memWf (s : State) (r : MbReq) (f : Nat → Answer) (hf : ∀ part, (f part).2.canonMem)
    (h : s.canonMem) : (s.mailbox r f).canonMem := by
  unfold State.mailbox
  split
  · exact h
  · split
    · exact h
    · dsimp only
      split
      · exact hf _
      · exact hf _

theorem State.onCtx_memWf (s : State) (r : MbReq) (part ctx : Nat) (f : Ctx → Answer)
    (hf : ∀ c, (f c).2.canonMem) (h : s.canonMem) : (s.onCtx r part ctx f).2.canonMem := by
  unfold State.onCtx
  split
  · exact h
  · split
    · exact h
    · split
      · exact h
      · exact hf _

@[simp] theorem execTenCreate_memWf (r : MbReq) (ten : Nat) (policy : DWord) (s : State) (h : s.canonMem) :
    outMemWf (execTenCreate r ten policy s) := by
  refine State.mailbox_memWf s r _ (fun part => ?_) h
  dsimp only
  (repeat' split) <;> exact h

@[simp] theorem State.destroyTenancy_memWf (s : State) (ten : Nat) (h : s.canonMem) :
    (s.destroyTenancy ten).canonMem := by
  refine State.settleTenancy_memWf _ _ ?_
  rw [State.canonMem, State.modHost_mem]
  exact foldl_memWf _ (fun s e hs => State.startKill_memWf s _ hs) _ _ h

@[simp] theorem execTenDestroy_memWf (r : MbReq) (ten : Nat) (s : State) (h : s.canonMem) :
    outMemWf (execTenDestroy r ten s) := by
  refine State.mailbox_memWf s r _ (fun part => ?_) h
  split
  · split
    · exact State.destroyTenancy_memWf s ten h
    · exact h
  · exact h

@[simp] theorem execGrant_memWf (r : MbReq) (ten gran : Nat) (s : State) (h : s.canonMem) :
    outMemWf (execGrant r ten gran s) := by
  refine State.mailbox_memWf s r _ (fun part => ?_) h
  split
  · exact h
  · split
    · exact h
    · split
      · exact h
      · exact State.startMove_memWf s [gran] (some (BitVec.ofNat 8 (64 + ten))) (some r.port) h

@[simp] theorem execReclaim_memWf (r : MbReq) (ten gran : Nat) (s : State) (h : s.canonMem) :
    outMemWf (execReclaim r ten gran s) := by
  refine State.mailbox_memWf s r _ (fun part => ?_) h
  split
  · exact h
  · split
    · exact h
    · split
      · exact h
      · split
        · exact h
        · exact State.startMove_memWf s [gran] (some 0) (some r.port) h

@[simp] theorem execWays_memWf (r : MbReq) (ten : Nat) (ways : BitVec 16) (s : State) (h : s.canonMem) :
    outMemWf (execWays r ten ways s) := by
  refine State.mailbox_memWf s r _ (fun part => ?_) h
  (repeat' split) <;> exact h

@[simp] theorem execCtxCreate_memWf (r : MbReq) (ctx : Nat) (desc : BitVec 512) (s : State) (h : s.canonMem) :
    outMemWf (execCtxCreate r ctx desc s) := by
  refine State.mailbox_memWf s r _ (fun part => ?_) h
  (repeat' split) <;> exact h

@[simp] theorem execCtxKill_memWf (r : MbReq) (ctx : Nat) (s : State) (h : s.canonMem) :
    outMemWf (execCtxKill r ctx s) :=
  State.mailbox_memWf s r _
    (fun part => State.onCtx_memWf s r part ctx _ (fun _ => State.startKill_memWf s ctx h) h) h

@[simp] theorem execQueueCreate_memWf (r : MbReq) (q : Nat) (cfg : QueueCfg) (s : State) (h : s.canonMem) :
    outMemWf (execQueueCreate r q cfg s) := by
  refine State.mailbox_memWf s r _ (fun part => State.onCtx_memWf s r part _ _ (fun _ => ?_) h) h
  (repeat' split) <;> exact h

@[simp] theorem execQueueReset_memWf (r : MbReq) (q : Nat) (s : State) (h : s.canonMem) :
    outMemWf (execQueueReset r q s) := by
  refine State.mailbox_memWf s r _ (fun part => ?_) h
  split
  · exact h
  · refine State.onCtx_memWf s r part _ _ (fun _ => ?_) h
    split
    · exact h
    · simpa [State.says] using h

@[simp] theorem State.pageResp_mem (s : State) (ctx : Nat) (seq : BitVec 32) (retry : Bool) :
    (s.pageResp ctx seq retry).mem = s.mem := by
  simp [State.pageResp]

theorem State.onCtx_mem (s : State) (r : MbReq) (part ctx : Nat) (f : Ctx → Answer)
    (h : ∀ c, (f c).2.mem = s.mem) : (s.onCtx r part ctx f).2.mem = s.mem := by
  unfold State.onCtx
  split
  · rfl
  · split
    · rfl
    · split
      · rfl
      · exact h _

@[simp] theorem State.pageAnswer_mem (s : State) (r : MbReq) (ctx : Nat) (seq : BitVec 32) (retry : Bool) :
    (s.pageAnswer r ctx seq retry).mem = s.mem :=
  State.mailbox_mem s r _ fun part => State.onCtx_mem s r part ctx _ fun c => by
    simp only [State.says, State.mem_ite, State.pageResp_mem, ite_self]

@[simp] theorem execPageRespRetry_memWf (r : MbReq) (ctx : Nat) (seq : BitVec 32) (s : State) (h : s.canonMem) :
    outMemWf (execPageRespRetry r ctx seq s) := by
  simp [execPageRespRetry, h]

@[simp] theorem execPageRespDeny_memWf (r : MbReq) (ctx : Nat) (seq : BitVec 32) (s : State) (h : s.canonMem) :
    outMemWf (execPageRespDeny r ctx seq s) := by
  simp [execPageRespDeny, h]

@[simp] theorem execTlbInv_memWf (r : MbReq) (ctx : Nat) (all : Bool) (va pages : Nat) (s : State)
    (h : s.canonMem) : outMemWf (execTlbInv r ctx all va pages s) := by
  refine State.mailbox_memWf s r _ (fun part => State.onCtx_memWf s r part ctx _ (fun _ => ?_) h) h
  split
  · exact h
  · split
    · exact h
    · simpa using h

@[simp] theorem execWindowSet_memWf (r : MbReq) (win : Nat) (entry : BitVec 128) (s : State) (h : s.canonMem) :
    outMemWf (execWindowSet r win entry s) := by
  refine State.mailbox_memWf s r _ (fun part => ?_) h
  dsimp only
  (repeat' split) <;> exact h

@[simp] theorem State.cfgCore_mem (s : State) (scr : Nat) (force : Bool) (core : Nat) :
    (s.cfgCore scr force core).mem = s.mem := by
  simp [State.cfgCore, foldl_mem]

@[simp] theorem State.coreCfg_mem (s : State) (r : MbReq) (arg : DWord) (force : Bool) :
    (s.coreCfg r arg force).mem = s.mem := by
  refine State.mailbox_mem s r _ fun part => ?_
  dsimp only
  split
  · rfl
  · split
    · rfl
    · exact foldl_mem _ (fun s c => by simp) _ _

@[simp] theorem execCoreCfgDrain_memWf (r : MbReq) (arg : DWord) (s : State) (h : s.canonMem) :
    outMemWf (execCoreCfgDrain r arg s) := by
  simp [execCoreCfgDrain, h]

@[simp] theorem execCoreCfgForce_memWf (r : MbReq) (arg : DWord) (s : State) (h : s.canonMem) :
    outMemWf (execCoreCfgForce r arg s) := by
  simp [execCoreCfgForce, h]

theorem foldl_violate_mem (s : State) (l : List Nat) : (l.foldl State.violate s).mem = s.mem :=
  foldl_mem _ State.violate_mem l s

@[simp] theorem execHostRequest_memWf (r : HostReq) (s : State) (h : s.canonMem) :
    outMemWf (execHostRequest r s) := by
  unfold execHostRequest
  rw [outMemWf_next]
  split
  · exact h
  · dsimp only
    generalize (if r.write = true then r.data.length else r.size) = n
    split
    · split <;> simp [h]
    · split
      · split <;> simp [h]
      · split
        · split
          · rw [State.canonMem, foldl_violate_mem]; exact h
          · rw [State.canonMem, State.send_mem, foldl_violate_mem]; exact h
        · split
          · simp [h]
          · split <;> exact h

@[simp] theorem State.setTdi_mem (s : State) (port ten : Nat) (st : TdiSt) :
    (s.setTdi port ten st).mem = s.mem :=
  rfl

@[simp] theorem State.tdiChanged_mem (s : State) (port ten : Nat) : (s.tdiChanged port ten).mem = s.mem := by
  unfold State.tdiChanged
  split <;> simp

@[simp] theorem execTdiConfigChange_memWf (port ten : Nat) (s : State) (h : s.canonMem) :
    outMemWf (execTdiConfigChange port ten s) := by
  simp [execTdiConfigChange, h]

@[simp] theorem State.modSpdm_mem (s : State) (port : Nat) (f : Spdm → Spdm) :
    (s.modSpdm port f).mem = s.mem :=
  rfl

@[simp] theorem State.spdm_mem (s : State) (port stage msg : Nat) (body : List Nat) (f : Spdm → Spdm) :
    (s.spdm port stage msg body f).mem = s.mem := by
  simp [State.spdm]

@[simp] theorem execGetVersion_memWf (port : Nat) (s : State) (h : s.canonMem) :
    outMemWf (execGetVersion port s) := by
  simp [execGetVersion, h]

@[simp] theorem execGetCapabilities_memWf (port : Nat) (s : State) (h : s.canonMem) :
    outMemWf (execGetCapabilities port s) := by
  simp [execGetCapabilities, h]

@[simp] theorem execNegotiateAlgorithms_memWf (port : Nat) (s : State) (h : s.canonMem) :
    outMemWf (execNegotiateAlgorithms port s) := by
  simp [execNegotiateAlgorithms, h]

@[simp] theorem execGetDigests_memWf (port : Nat) (s : State) (h : s.canonMem) :
    outMemWf (execGetDigests port s) := by
  simp [execGetDigests, h]

@[simp] theorem execGetCertificate_memWf (port chain : Nat) (s : State) (h : s.canonMem) :
    outMemWf (execGetCertificate port chain s) := by
  simp [execGetCertificate, h]

@[simp] theorem execChallenge_memWf (port : Nat) (s : State) (h : s.canonMem) :
    outMemWf (execChallenge port s) := by
  simp [execChallenge, h]

@[simp] theorem execGetMeasurements_memWf (port : Nat) (sess : Option Nat) (index : Nat) (s : State)
    (h : s.canonMem) : outMemWf (execGetMeasurements port sess index s) := by
  unfold execGetMeasurements
  dsimp only
  (repeat' split) <;> simp [h]

@[simp] theorem execKeyExchange_memWf (port mlkem ecdh : Nat) (s : State) (h : s.canonMem) :
    outMemWf (execKeyExchange port mlkem ecdh s) := by
  simp [execKeyExchange, h]

@[simp] theorem execFinish_memWf (port : Nat) (ok : Bool) (s : State) (h : s.canonMem) :
    outMemWf (execFinish port ok s) := by
  unfold execFinish
  split <;> simp [h]

@[simp] theorem execKeyUpdate_memWf (port sess : Nat) (s : State) (h : s.canonMem) :
    outMemWf (execKeyUpdate port sess s) := by
  simp [execKeyUpdate, h]

@[simp] theorem execEndSession_memWf (port sess : Nat) (s : State) (h : s.canonMem) :
    outMemWf (execEndSession port sess s) := by
  simp [execEndSession, h]

@[simp] theorem execIdeKm_memWf (port sess ten : Nat) (sk : StreamKey) (s : State) (h : s.canonMem) :
    outMemWf (execIdeKm port sess ten sk s) := by
  simp [execIdeKm, h]

@[simp] theorem execTdispRequest_memWf (port sess ten : Nat) (rq : TdispReq) (s : State) (h : s.canonMem) :
    outMemWf (execTdispRequest port sess ten rq s) := by
  unfold execTdispRequest
  (repeat' split) <;> simp [h]

/-! ### Housekeeping -/

@[simp] theorem execRefreshSlot_memWf (pc : Nat) (s : State) (h : s.canonMem) :
    outMemWf (execRefreshSlot pc s) := by
  simp [execRefreshSlot, h]

@[simp] theorem execRefreshDone_memWf (pc : Nat) (s : State) (h : s.canonMem) :
    outMemWf (execRefreshDone pc s) := by
  simp [execRefreshDone, h]

@[simp] theorem execStackTemperature_memWf (stack : Nat) (deciC : Int) (s : State) (h : s.canonMem) :
    outMemWf (execStackTemperature stack deciC s) := by
  simp [execStackTemperature, h]

@[simp] theorem State.activate_mem (s : State) (pc b row : Nat) : (s.activate pc b row).mem = s.mem := by
  simp [State.activate]

@[simp] theorem State.openRow_mem (s : State) (pc b row : Nat) (anew : Bool) :
    (s.openRow pc b row anew).mem = s.mem := by
  simp [State.openRow]

@[simp] theorem execTrackerClear_memWf (s : State) (h : s.canonMem) : outMemWf (execTrackerClear s) := by
  simp [execTrackerClear, h]

@[simp] theorem State.remapRow_mem (s : State) (pc b row : Nat) : (s.remapRow pc b row).mem = s.mem := by
  simp only [State.remapRow]
  (repeat' split) <;> simp

@[simp] theorem MemSys.poisonBurst_bytes (m : MemSys) (b : Nat) : (m.poisonBurst b).bytes = m.bytes := by
  simp [MemSys.poisonBurst]

@[simp] theorem State.burstRead_bytes (s : State) (pc : Nat) (a : HbmAcc) :
    (s.burstRead pc a).mem.bytes = s.mem.bytes := by
  unfold State.burstRead
  split
  · rfl
  · dsimp only
    split
    · rfl
    · split <;> simp
  · dsimp only
    split <;> split <;> simp

@[simp] theorem State.issueHbm_bytes (s : State) (pc : Nat) (a : HbmAcc) :
    (s.issueHbm pc a).mem.bytes = s.mem.bytes := by
  simp [State.issueHbm]

@[simp] theorem execHbmAccess_memWf (pc : Nat) (a : HbmAcc) (s : State) (h : s.canonMem) :
    outMemWf (execHbmAccess pc a s) := by
  unfold execHbmAccess
  (repeat' split) <;> simp [h]

@[simp] theorem execScrubRead_memWf (pc : Nat) (a : HbmAcc) (s : State) (h : s.canonMem) :
    outMemWf (execScrubRead pc a s) := by
  simp [execScrubRead, h]

@[simp] theorem State.scrubFix_bytes (s : State) (pc : Nat) : (s.scrubFix pc).mem.bytes = s.mem.bytes := by
  simp only [State.scrubFix]
  (repeat' split) <;> simp

@[simp] theorem State.serveWindow_memWf (s : State) (w : WinAcc) (h : s.canonMem) : (s.serveWindow w).canonMem := by
  unfold State.serveWindow
  (repeat' split) <;> simp [h]

@[simp] theorem execRemapPersist_memWf (stack : Nat) (s : State) (h : s.canonMem) :
    outMemWf (execRemapPersist stack s) := by
  simp [execRemapPersist, h]

@[simp] theorem State.remapAgain_bytes (s : State) (pc : Nat) (r : Remap) :
    (s.remapAgain pc r).mem.bytes = s.mem.bytes := by
  unfold State.remapAgain
  dsimp only
  split
  · refine (foldl_bytes _ (fun s c => ?_) _ _).trans rfl
    split <;> simp
  · rfl

@[simp] theorem execRemapReloadDone_memWf (pc : Nat) (s : State) (h : s.canonMem) :
    outMemWf (execRemapReloadDone pc s) := by
  simp [execRemapReloadDone, h, foldl_bytes]

@[simp] theorem execSramError_memWf (e : SramErr) (s : State) (h : s.canonMem) :
    outMemWf (execSramError e s) := by
  cases e with
  | llc line =>
    simp only [execSramError, outMemWf_next, State.canonMem, State.modMem_mem, State.modHouse_mem]
    split <;> exact h
  | _ => simp [execSramError, h]

@[simp] theorem execHkpwWrite_memWf (port : Nat) (val : DWord) (s : State) (h : s.canonMem) :
    outMemWf (execHkpwWrite port val s) := by
  unfold execHkpwWrite
  dsimp only
  (repeat' split) <;> simp [h]

@[simp] theorem execPwChangeDone_memWf (s : State) (h : s.canonMem) : outMemWf (execPwChangeDone s) := by
  unfold execPwChangeDone
  (repeat' split) <;> simp [h]

@[simp] theorem execRegisterWrite_memWf (port off : Nat) (val : DWord) (s : State) (h : s.canonMem) :
    outMemWf (execRegisterWrite port off val s) := by
  simp [execRegisterWrite, h]

/-! ### Links, alarms, boot and power -/

@[simp] theorem State.modPort_mem (s : State) (p : Nat) (f : Port → Port) : (s.modPort p f).mem = s.mem := rfl

@[simp] theorem State.lockPort_mem (s : State) (p : Nat) : (s.lockPort p).mem = s.mem := rfl

@[simp] theorem State.resendHeld_bytes (s : State) : s.resendHeld.mem.bytes = s.mem.bytes := by
  simp [State.resendHeld, foldl_bytes]

@[simp] theorem execPlaneRehash_memWf (port : Nat) (s : State) (h : s.canonMem) :
    outMemWf (execPlaneRehash port s) := by
  unfold execPlaneRehash
  split <;> simp [h]

@[simp] theorem State.renewPort_mem (s : State) (p : Nat) (st : PState) : (s.renewPort p st).mem = s.mem :=
  rfl

@[simp] theorem execReattest_memWf (port : Nat) (rsaOk slhOk : Bool) (s : State) (h : s.canonMem) :
    outMemWf (execReattest port rsaOk slhOk s) := by
  simp [execReattest, h]

@[simp] theorem execPortReopen_memWf (port : Nat) (s : State) (h : s.canonMem) :
    outMemWf (execPortReopen port s) := by
  unfold execPortReopen
  dsimp only
  (repeat' split) <;> simp [h]

@[simp] theorem execPortLinkChange_memWf (port : Nat) (up : Bool) (s : State) (h : s.canonMem) :
    outMemWf (execPortLinkChange port up s) := by
  unfold execPortLinkChange
  dsimp only
  (repeat' split) <;> simp [h]

@[simp] theorem State.askReplay_mem (s : State) (port n : Nat) : (s.askReplay port n).mem = s.mem := by
  simp [State.askReplay]

@[simp] theorem execFlitReceive_memWf (port : Nat) (f : Flit) (s : State) (h : s.canonMem) :
    outMemWf (execFlitReceive port f s) := by
  unfold execFlitReceive
  dsimp only
  (repeat' split) <;> simp [h]

@[simp] theorem State.resendFrom_mem (s : State) (port n : Nat) : (s.resendFrom port n).mem = s.mem := by
  refine foldl_mem _ (fun s f => ?_) _ _
  rfl

@[simp] theorem execReplayRequest_memWf (port ctr : Nat) (s : State) (h : s.canonMem) :
    outMemWf (execReplayRequest port ctr s) := by
  simp [execReplayRequest, h]

@[simp] theorem State.sendOwed_mem (s : State) (port : Nat) : (s.sendOwed port).mem = s.mem := by
  simp only [State.sendOwed]
  (repeat' split) <;> simp

@[simp] theorem execRekey_memWf (port : Nat) (rx : Bool) (s : State) (h : s.canonMem) :
    outMemWf (execRekey port rx s) := by
  unfold execRekey
  dsimp only
  (repeat' split) <;> simp [h]

@[simp] theorem execRekeyDeadline_memWf (port : Nat) (rx : Bool) (s : State) (h : s.canonMem) :
    outMemWf (execRekeyDeadline port rx s) := by
  unfold execRekeyDeadline
  dsimp only
  (repeat' split) <;> simp [h]

@[simp] theorem State.stopTenancy_memWf (s : State) (ten : Nat) (h : s.canonMem) :
    (s.stopTenancy ten).canonMem := by
  simp [State.stopTenancy, h]

@[simp] theorem State.stopDevice_memWf (s : State) (h : s.canonMem) : s.stopDevice.canonMem := by
  simp only [State.stopDevice]
  apply foldl_memWf _ (fun s p hs => by simp [hs])
  rw [State.canonMem, State.modHost_mem]
  exact foldl_memWf _ (fun s e hs => State.stopTenancy_memWf s _ hs) _ _ h

@[simp] theorem State.recordAlarm_mem (s : State) (die sensor level : Nat) :
    (s.recordAlarm die sensor level).mem = s.mem :=
  rfl

@[simp] theorem State.alarm_memWf (s : State) (die sensor level : Nat) (h : s.canonMem) :
    (s.alarm die sensor level).canonMem := by
  unfold State.alarm
  dsimp only
  split
  · exact foldl_memWf _ (fun s e hs => State.stopTenancy_memWf s _ hs) _ _ (by simp [h])
  · split
    · exact State.stopDevice_memWf _ (by simp [h])
    · simp [h]

@[simp] theorem State.glitch_memWf (s : State) (die sensor : Nat) (h : s.canonMem) :
    (s.glitch die sensor).canonMem := by
  simp [State.glitch, h]

@[simp] theorem State.sense_memWf (s : State) (a : Sensor) (h : s.canonMem) : (s.sense a).canonMem := by
  unfold State.sense
  (repeat' split) <;> simp [h]

@[simp] theorem execSecurityAlarm_memWf (a : Sensor) (s : State) (h : s.canonMem) :
    outMemWf (execSecurityAlarm a s) := by
  simp [execSecurityAlarm, h]

theorem State.unpowered_bytes (s : State) (rollback : Table (BitVec 64)) :
    (s.unpowered rollback).mem.bytes = [] :=
  rfl

theorem State.reboot_bytes (s : State) : s.reboot.mem.bytes = [] := rfl

@[simp] theorem execPowerLoss_memWf (s : State) : outMemWf (execPowerLoss s) := rfl

@[simp] theorem State.bootFrom_memWf (s t : State) (b : BootIn) (h : t.canonMem) : (s.bootFrom t b).canonMem := by
  simp only [State.bootFrom]
  exact foldl_memWf _ (fun s e hs => State.sense_memWf s e hs) _ _ h

@[simp] theorem execPowerOn_memWf (b : BootIn) (s : State) (h : s.canonMem) : outMemWf (execPowerOn b s) := by
  unfold execPowerOn
  rw [outMemWf_next]
  split
  · exact State.bootFrom_memWf s _ b rfl
  · exact h

@[simp] theorem State.bootStep_mem (s : State) : s.bootStep.mem = s.mem := by
  unfold State.bootStep
  split <;> simp

@[simp] theorem execRecoveryLoad_memWf (b : BootIn) (s : State) (h : s.canonMem) :
    outMemWf (execRecoveryLoad b s) := by
  unfold execRecoveryLoad
  rw [outMemWf_next]
  split
  · exact h
  · exact State.bootFrom_memWf s _ b rfl

@[simp] theorem State.trip_mem (s : State) : s.trip.mem = s.mem := by simp [State.trip]

@[simp] theorem execTelemetryUpdate_memWf (t : Telemetry) (s : State) (h : s.canonMem) :
    outMemWf (execTelemetryUpdate t s) := by
  unfold execTelemetryUpdate
  dsimp only
  (repeat' split) <;> simp [h]

@[simp] theorem execPowerLimitRevision_memWf (mhz : Nat) (s : State) (h : s.canonMem) :
    outMemWf (execPowerLimitRevision mhz s) := by
  simp [execPowerLimitRevision, h]

/-! ### The next step -/

@[simp] theorem State.passTime_mem (s : State) : s.passTime.mem = s.mem := by simp [State.passTime]

/-! ### Every instruction and step -/

/-- Every instruction and every step of the device keeps memory in canonical form: the instructions by the
runner they share, the device's steps by their own lemmas. -/
theorem exec_memWf (i : Instr) (s : State) (h : s.canonMem) : outMemWf (exec i s) := by
  cases i with
  | iaddBv | isubBv | iaddcBv | imulBv | imulhBv | imadBv | iminBv | imaxBv | idot4Bv | andBv | orBv
  | xorBv | andnBv | shlBv | shrBv | sarBv | rotlBv | fshrBv | bfeBv | bfiBv | prmtBv | selBv | leaBv
  | iadd3Bv | isadBv | iadd2Bv =>
    exact runIntBv_memWf _ _ _ _ h
  | iaddXv | isubXv | iaddcXv | imulXv | imulhXv | imadXv | iminXv | imaxXv | iabsXv | idot4Xv | andXv
  | orXv | xorXv | andnXv | shlXv | shrXv | sarXv | rotlXv | fshrXv | bfeXv | bfiXv | popcXv | clzXv
  | ctzXv | brevXv | prmtXv | selXv | movXv | leaXv | iadd3Xv | isadXv | iadd2Xv =>
    exact runIntXv_memWf _ _ _ _ h
  | iabsBv | popcBv | clzBv | ctzBv | brevBv | movBv =>
    exact runIntBv1_memWf _ _ _ _ h
  | lop3Xv | icvtXv | fcvtXv | ftoiXv | itofXv | npackXv | nunpkXv =>
    exact runAlu_memWf _ _ _ _ _ h
  | icmpXv | psetXv | fcmpXv =>
    exact runPred_memWf _ _ _ _ _ h
  | pair =>
    exact runPair_memWf _ _ _ _ _ _ _ _ h
  | faddBv | fsubBv | fmulBv | ffmaBv | fminBv | fmaxBv | fscaleBv =>
    exact runFpBv_memWf _ _ _ _ h
  | faddXv | fsubXv | fmulXv | ffmaXv | fminXv | fmaxXv | frndXv | fclassXv | fdot2Xv | fscaleXv =>
    exact runFpXv_memWf _ _ _ _ h
  | frndBv | fclassBv =>
    exact runFpBv1_memWf _ _ _ _ h
  | fdivBv =>
    exact runSfBv_memWf _ _ _ _ h
  | frcpXv | frsqXv | fsqrtXv | fexp2Xv | flog2Xv | fsinXv | fcosXv | ftanhXv | fdivXv =>
    exact runSfXv_memWf _ _ _ _ h
  | frcpBv | frsqBv | fsqrtBv | fexp2Bv | flog2Bv | fsinBv | fcosBv | ftanhBv =>
    exact runSfBv1_memWf _ _ _ _ h
  | xshfBv | xshfXv | xrotBv | xrotXv | xbflyBv | xbflyXv | xbcastBv | xbcastXv | xredBv | xredXv
  | xscanBv | xscanXv | ballotBv | ballotXv | voteBv | voteXv | matchBv | matchXv | electBv | electXv =>
    simp only [exec]
    exact runXl_memWf _ _ _ h
  | ldBm | ldXm | stBm | stXm | ldnfBm | ldnfXm | atomXm | atomfXm | redXm | redfXm | casXm | mcredXm
  | sldBm | sldXm | sstBm | sstXm =>
    exact runMem_memWf _ _ _ h
  | nopBs | nopXt | braBb | bruBb | jmpiBs | jmpiXt | callBs | callXt | retBs | retXt | jmarkBs
  | jmarkXt | joinBs | joinXt | exitBs | exitXt | waitcBs | waitcXt | lwaitBs | lwaitXt | sleepBs
  | sleepXt | yieldBs | yieldXt | setprioBs | setprioXt | trapBs | trapXt | brkptBs | brkptXt | fenceXm
  | cdemoteBm | cdemoteXm | pgreqXm | tcopyXt | tstoreXt | tgatherXt | cpyXt
  | cpywaitBs | cpywaitXt | tmapXt | tunmapXt | tqueryXt | aclaimXt | arelXt | azeroXt | mmaXt | mmagXt
  | awaitBs | awaitXt | adrainXt | aloadXt | oprdyBs | oprdyXt | wpubXt | wtestXt | launchXt | lparmXt
  | movsXt | movswXt | tretBs | tretXt | tlbinvXt | perfrdXt | dbgmarkBs | dbgmarkXt | haltwXt
  | syscallBs | syscallXt | ardXt =>
    exact issue_memWf _ _ _ _ (fun u s h => by simp [h]) h
  | cinvBm | cinvXm =>
    exact issue_memWf _ _ _ _ (fun u s h => hintBody_memWf _ _ u s (fun _ _ _ h => h) h) h
  | _ => simp [exec, h]

/-! ### Fetch -/

/-- Device memory is in canonical form after a fetch. -/
def Fetched.memWf : Fetched → Prop
  | .word _ s => s.canonMem
  | .fault _ _ _ s => s.canonMem

theorem State.fetchWord_memWf (s : State) (core : Nat) (w : Wave) (pc : Nat) (h : s.canonMem) :
    (s.fetchWord core w pc).memWf := by
  have ht := State.translateCore_memWf s core w.ctx pc .fetch h
  unfold State.fetchWord
  split
  · exact h
  · dsimp only
    split <;> exact ht

theorem State.fetchWords_memWf (s : State) (core : Nat) (w : Wave) (n pc : Nat) (h : s.canonMem) :
    (s.fetchWords core w n pc).memWf := by
  induction n generalizing s pc with
  | zero => exact h
  | succ n ih =>
    have hw := State.fetchWord_memWf s core w pc h
    unfold State.fetchWords
    cases hf : s.fetchWord core w pc with
    | fault c v a t => rw [hf] at hw; exact hw
    | word x t =>
      rw [hf] at hw
      have hn := ih t (pc + 4) hw
      dsimp only
      cases hg : t.fetchWords core w n (pc + 4) <;> rw [hg] at hn <;> exact hn

theorem State.fetch_memWf (s : State) (core : Nat) (w : Wave) (pc : Nat) (h : s.canonMem) :
    (s.fetch core w pc).memWf := by
  have hw := State.fetchWord_memWf s core w pc h
  unfold State.fetch
  cases hf : s.fetchWord core w pc with
  | fault c v a t => rw [hf] at hw; exact hw
  | word x t =>
    rw [hf] at hw
    have hn := State.fetchWords_memWf t core w (lenBytes (x % 4) / 4 - 1) (pc + 4) hw
    dsimp only
    cases hg : t.fetchWords core w (lenBytes (x % 4) / 4 - 1) (pc + 4) <;> rw [hg] at hn <;> exact hn

/-! ### Moves -/

/-- Device memory is in canonical form once the machine has chosen what it does. -/
def Todo.memWf : Todo → Prop
  | .did o => outMemWf o
  | .issues _ s => s.canonMem

theorem State.issueOn_memWf (s : State) (c : Nat) (h : s.canonMem) : (s.issueOn c).memWf := by
  unfold State.issueOn
  dsimp only
  split
  · exact h
  · next k w e _ =>
    split
    · exact State.takeTrap_memWf _ _ _ h
    · have hf := State.fetch_memWf { s with focus := c } c w e.pc.toNat h
      cases hg : State.fetch { s with focus := c } c w e.pc.toNat with
      | fault cs v a t => rw [hg] at hf; exact State.fetchFault_memWf t k e cs v a hf
      | word n t =>
        rw [hg] at hf
        dsimp only
        split
        · exact hf
        · exact execNonInstruction_memWf _ _ hf

/-- Every move of the list keeps memory in canonical form. -/
def KeepMem (l : List Move) : Prop := ∀ m ∈ l, ∀ s : State, s.canonMem → outMemWf (m s)

theorem KeepMem.nil : KeepMem [] := fun _ hm => nomatch hm

theorem KeepMem.single {m : Move} (h : ∀ s : State, s.canonMem → outMemWf (m s)) : KeepMem [m] :=
  fun _ hx => List.mem_singleton.mp hx ▸ h

theorem KeepMem.append {l l' : List Move} (h : KeepMem l) (h' : KeepMem l') : KeepMem (l ++ l') :=
  List.forall_mem_append.mpr ⟨h, h'⟩

theorem KeepMem.movesIf {b : Bool} {m : Move} (h : ∀ s : State, s.canonMem → outMemWf (m s)) :
    KeepMem (movesIf b m) := by
  cases b
  · exact KeepMem.nil
  · exact KeepMem.single h

theorem KeepMem.flatMap {α : Type} {l : List α} {f : α → List Move} (h : ∀ a, KeepMem (f a)) :
    KeepMem (l.flatMap f) := by
  intro m hm
  obtain ⟨a, _, ha⟩ := List.mem_flatMap.mp hm
  exact h a m ha

theorem KeepMem.map {α : Type} {l : List α} {f : α → Move} (h : ∀ a s, s.canonMem → outMemWf (f a s)) :
    KeepMem (l.map f) := by
  intro m hm
  obtain ⟨a, _, rfl⟩ := List.mem_map.mp hm
  exact h a

theorem State.opMoves_keepMem (s : State) (k : Nat) (w : Wave) (o : LOp) : KeepMem (s.opMoves k w o) := by
  unfold State.opMoves
  dsimp only
  split
  · exact .movesIf (execLoadLand_memWf _ _ _)
  · split
    · exact .movesIf (execClassLLand_memWf _ _)
    · exact .single (execFenceComplete_memWf _ _)
  · exact .movesIf (execCpyComplete_memWf _ _)
  · exact .single (execClassLLand_memWf _ _)
  · exact .movesIf (execClassLLand_memWf _ _)
  · exact .movesIf (execClassLLand_memWf _ _)

theorem State.entryMoves_keepMem (s : State) (k : Nat) (e : Entry) : KeepMem (s.entryMoves k e) := by
  unfold State.entryMoves
  split
  · exact .movesIf (execSleepWake_memWf _ _)
  · exact .movesIf (execLwaitTimeout_memWf _ _)
  · exact .movesIf (execPwaitWake_memWf _ _)
  · exact .nil

theorem State.waveMoves_keepMem (s : State) (k : Nat) (w : Wave) : KeepMem (s.waveMoves k w) := by
  have hh : KeepMem (match w.handler with | some h => h.held.flatMap (s.entryMoves k) | none => []) := by
    split
    · exact .flatMap fun _ => State.entryMoves_keepMem s k _
    · exact .nil
  exact (KeepMem.movesIf (execSuspendResume_memWf k)).append (.movesIf (execSuspendSave_memWf k))
    |>.append (.flatMap fun _ => State.opMoves_keepMem s k w _)
    |>.append (.flatMap fun _ => State.entryMoves_keepMem s k _)
    |>.append hh
    |>.append (.map fun _ => execRdvarrApply_memWf k _)
    |>.append (.movesIf (execWaveEnd_memWf k))

theorem State.accMoves_keepMem (s : State) (a : Acc) : KeepMem (s.accMoves a) := by
  have hv : KeepMem (Machine.movesIf (a.due s.chrono)
      (if a.kind = .store then execStoreVisible a.id else execAtomicPerform a.id)) := by
    apply KeepMem.movesIf
    split
    · exact execStoreVisible_memWf _
    · exact execAtomicPerform_memWf _
  unfold State.accMoves
  dsimp only
  split
  · exact .single (execHomeAccess_memWf _)
  · exact .single (execHomeAccess_memWf _)
  · exact .single (execHomeAccess_memWf _)
  · exact (KeepMem.single (execWctReturn_memWf _)).append hv
  · exact .single (execWctReturn_memWf _)
  · exact hv
  · exact .nil

theorem State.memMoves_keepMem (s : State) : KeepMem s.memMoves :=
  (KeepMem.flatMap fun _ => State.accMoves_keepMem s _).append (.map execRequestTimeout_memWf)
    |>.append (.map fun _ => execRemoteAck_memWf _)
    |>.append (.map fun _ => execTlbinvComplete_memWf _)
    |>.append (.movesIf execPwChangeDone_memWf)

theorem State.aopMoves_keepMem (s : State) (q : Nat) (o : AOp) : KeepMem (s.aopMoves q o) := by
  have hz := KeepMem.single (execZeroingDone_memWf q o.id)
  have hc := KeepMem.single (execOpComplete_memWf q o.id)
  have hf := KeepMem.single (execFillComplete_memWf q o.id)
  have ht := KeepMem.single (execBankTransferDone_memWf q o.id)
  unfold State.aopMoves
  split
  · exact .nil
  · split
    · exact hz
    · split
      · exact hc
      · exact hf
    · split
      · exact hc
      · exact hf
    · split
      · exact ht
      · exact hf
    · exact hc
    · exact hc
    · exact ht

theorem State.quadMoves_keepMem (s : State) (q : Nat) (x : Quad) : KeepMem (s.quadMoves q x) := by
  refine (KeepMem.map fun c => ?_).append (.flatMap fun _ => State.aopMoves_keepMem s q _)
    |>.append (.movesIf (execArbiterVisit_memWf q))
  split
  · exact execCopyComplete_memWf q c.id
  · exact execTceAccept_memWf q c.id

theorem State.queueMoves_keepMem (s : State) (key : Nat) (x : Queue) : KeepMem (s.queueMoves key x) := by
  have ha := KeepMem.single (execAdmitDesc_memWf (key / 64) (key % 64))
  unfold State.queueMoves
  dsimp only
  split
  · exact .nil
  · split
    · exact .nil
    · split
      · exact .single (execChainRecord_memWf _ _)
      · split
        · exact .single (execChainReplay_memWf _ _)
        · exact ha
    · exact ha

theorem State.launchMoves_keepMem (s : State) (lid : Nat) (l : Launch) : KeepMem (s.launchMoves lid l) :=
  (KeepMem.movesIf (execLaunchOpen_memWf lid)).append (.movesIf (execCoreReserve_memWf lid))
    |>.append (.movesIf (execLaunchRetire_memWf lid))

theorem ctxMoves_keepMem (n : Nat) (c : Ctx) : KeepMem (ctxMoves n c) := by
  refine KeepMem.append (.movesIf (execPrqPost_memWf n)) ?_
  split
  · exact .nil
  · exact .single (execPreemptSaveDone_memWf n)
  · exact .single (execPreemptSaveDone_memWf n)
  · exact .single (execContextRestore_memWf n)
  · exact .single (execKillComplete_memWf n)

theorem State.dispatchMoves_keepMem (s : State) : KeepMem s.dispatchMoves := by
  unfold State.dispatchMoves
  split
  · exact .nil
  · split <;> exact .single (execGroupDispatch_memWf _)

theorem State.cpMoves_keepMem (s : State) : KeepMem s.cpMoves :=
  (KeepMem.flatMap fun _ => State.queueMoves_keepMem s _ _).append
      (.flatMap fun _ => State.launchMoves_keepMem s _ _)
    |>.append (.map fun _ => execWpPublish_memWf _)
    |>.append (State.dispatchMoves_keepMem s)
    |>.append (.flatMap fun _ => ctxMoves_keepMem _ _)
    |>.append (.map fun _ => execGroupExit_memWf _)
    |>.append (.movesIf execDeficitCharge_memWf)
    |>.append (.map fun _ => execCoreSplitApply_memWf _)
    |>.append (.map execRunStart_memWf)

theorem State.merMoves_keepMem (s : State) : KeepMem s.merMoves := by
  unfold State.merMoves
  dsimp only
  split
  · exact .nil
  · exact (KeepMem.movesIf execMeridianEffective_memWf).append (.movesIf execHeartbeatTimer_memWf)
      |>.append (.map execSilenceTimeout_memWf)
      |>.append (.movesIf execGroupSilence_memWf)
      |>.append (.movesIf execEpochTimeout_memWf)
      |>.append (.movesIf execJoinListenEnd_memWf)
      |>.append (.movesIf execFoundGroup_memWf)

theorem State.houseMoves_keepMem (s : State) : KeepMem s.houseMoves := by
  unfold State.houseMoves
  split
  · exact .nil
  · exact (KeepMem.map execRefreshSlot_memWf).append (.map fun _ => execRefreshDone_memWf _)
      |>.append (.movesIf execTrackerClear_memWf)
      |>.append (.map fun _ => execRemapPersist_memWf _)
      |>.append (.map fun _ => execRemapReloadDone_memWf _)
      |>.append (.map fun _ s h => by simp [h])
      |>.append (.map fun _ s h => State.serveWindow_memWf s _ h)

theorem State.portMoves_keepMem (s : State) (p : Nat) (x : Port) : KeepMem (s.portMoves p x) := by
  refine KeepMem.append ?_ (.movesIf (execRekeyDeadline_memWf p false))
    |>.append (.movesIf (execRekeyDeadline_memWf p true))
  split
  · exact .nil
  · split
    · exact .nil
    · split
      · exact .single (execPortReopen_memWf p)
      · exact .single (execPlaneRehash_memWf p)

theorem State.linkMoves_keepMem (s : State) : KeepMem s.linkMoves := by
  refine (KeepMem.flatMap fun _ => State.portMoves_keepMem s _ _).append ?_
    |>.append (.map fun _ s h => State.settleTenancy_memWf s _ h)
  split
  · exact .single fun s h => by simp [h]
  · exact .nil

theorem State.events_keepMem (s : State) : KeepMem s.events :=
  (KeepMem.flatMap fun _ => State.waveMoves_keepMem s _ _).append (State.memMoves_keepMem s)
    |>.append (.flatMap fun _ => State.quadMoves_keepMem s _ _)
    |>.append (State.cpMoves_keepMem s)
    |>.append (State.merMoves_keepMem s)
    |>.append (State.houseMoves_keepMem s)
    |>.append (State.linkMoves_keepMem s)

theorem State.mem_events_of_mem_candidates (s : State) (m : Move) (h : Cand.event m ∈ s.candidates) :
    m ∈ s.events := by
  unfold State.candidates at h
  simp only [List.mem_append, List.mem_map, Cand.event.injEq, exists_eq_right, reduceCtorEq, and_false,
    exists_false, or_false] at h
  rcases h with h | h
  · split at h
    · split at h <;> simp at h
    · simp at h
  · exact h

theorem State.carry_memWf (s : State) (c : Cand) (hc : c ∈ s.candidates) (h : s.canonMem) :
    (s.carry c).memWf := by
  cases c with
  | input x => exact h
  | event m => exact State.events_keepMem s m (State.mem_events_of_mem_candidates s m hc) s h
  | core c => exact State.issueOn_memWf s c h

theorem State.todo_memWf (s : State) (h : s.canonMem) : s.todo.memWf := by
  unfold State.todo
  split
  · exact h
  · next c hc => exact State.carry_memWf s c (by rw [hc]; exact List.mem_singleton_self c) h
  · split
    · next c hc => exact State.carry_memWf s c (List.mem_of_getElem? hc) h
    · exact h

theorem State.passTime_memWf (s : State) (h : s.canonMem) : s.passTime.canonMem := by
  simp [State.passTime, h]

theorem timed_memWf (o : Out3) (h : outMemWf o) : outMemWf (timed o) := by
  cases o with
  | next s => exact State.passTime_memWf s h
  | fault f => trivial
  | refused r => trivial

/-- Settles O7: `State.todo` gives the step an outcome or an instruction over a memory in canonical form
(`State.todo_memWf`), and neither carrying it out (`exec_memWf`) nor the passing of time (`timed_memWf`) spoils it. -/
theorem stepKeepsMemory : Obligations.StepKeepsMemory := by
  unfold Obligations.StepKeepsMemory
  intro s t hs ht
  have hd := State.todo_memWf s hs
  unfold step at ht
  suffices h : outMemWf (Host.Outcome.next t) from h
  rw [← ht]
  cases htd : s.todo with
  | did o => rw [htd] at hd; exact timed_memWf o hd
  | issues i u => rw [htd] at hd; exact timed_memWf _ (exec_memWf i u hd)

end Sys2Proof.Machine
end

section
/-! ## Predicate results (O12) -/

namespace Sys2Proof.Machine

theorem testBit_foldr_bits (f : Nat → Bool) (l : List Nat) (i : Nat) :
    (l.foldr (fun L acc => (if f L then 1 else 0) + 2 * acc) 0).testBit i = (l[i]?.map f).getD false := by
  induction l generalizing i with
  | nil => simp
  | cons a l ih =>
    rw [List.foldr_cons, Nat.add_comm]
    cases i with
    | zero => cases h : f a <;> simp [h]
    | succ i =>
      rw [Nat.testBit_succ, List.getElem?_cons_succ, ← ih]
      congr 1
      split <;> omega

/-- A lane is in the mask of a predicate where the predicate holds. -/
theorem inMask_maskOf (f : Nat → Bool) (L : Nat) (hL : L < 64) : inMask (maskOf f) L = f L := by
  rw [inMask, maskOf, BitVec.getLsbD_ofNat, testBit_foldr_bits]
  simp [allLanes, hL]

/-- Lanes of `x` take the bits of `vals`, the others keep those of `old`. -/
theorem inMask_merge (old vals x : Mask) (L : Nat) (hL : L < 64) :
    inMask ((old &&& ~~~x) ||| (vals &&& x)) L = if inMask x L then inMask vals L else inMask old L := by
  by_cases h : inMask x L = true
  · rw [if_pos h]
    simp_all [inMask]
  · rw [if_neg h]
    simp_all [inMask]

/-- A wave that an effect on its registers leaves behind has issued its instruction and stands past it. -/
theorem Wave.ran_issued {i : Instr} {pl : Plan} {s : State} {k : Nat} {w w1 : Wave} {e : Entry}
    (hr : Ready i pl s k w e) (u : Iss) (len : Nat) (hst : w1.wstat &&& w.wstat = w.wstat) (hw : w.Computed w1) :
    w.Ran ((w1.slotted u).advance len) (e.past len :: w.frontier.tail) := by
  have hf : (w1.slotted u).frontier = e :: w.frontier.tail := by
    rw [Wave.slotted_frontier, hw]
    exact hr.entry
  rw [Wave.advance_eq _ _ _ _ hf]
  exact Wave.ran_of w w1 u _ hst hw

/-- The wave once a predicate operation has read its sources and written its predicate. -/
def Pred.wave (a : Pred) (s : State) (w : Wave) (x : Mask) (t : Nat) (b : Bool) : Wave :=
  ((readEffects s w x a.lit a.srcs w).stat (flagBits (allFlags x ((a.results s w x).map (·.2))))).putPred x t a.cls b a.pd
    (maskOf fun L => ((a.results s w x).getD L (false, 0)).1)

/-- With no DEADREAD and no enabled flag a predicate operation leaves `Pred.wave`, and nothing else. -/
theorem Pred.body_ok (a : Pred) (u : Iss) (s : State) (hd : readsOk u.w u.exec a.srcs)
    (hf : flagsOk u.w u.exec ((a.results s u.w u.exec).map (·.2))) :
    a.body u s = .ok (s.setWave u.k (a.wave s u.w u.exec u.slot.t u.slot.pipeB)) .seq := by
  have hs : (if u.w.strict then deadRead u.w u.exec a.srcs else none) = none := by
    split
    · next h => exact hd h
    · rfl
  have he : ¬ (enabledFlags u.w.enables u.exec ((a.results s u.w u.exec).map (·.2))).1 ≠ 0 := fun h => h hf
  simp only [Pred.body, hs]
  rw [if_neg he]
  rfl

theorem Pred.computed_wave (a : Pred) (s : State) (w : Wave) (x : Mask) (t : Nat) (b : Bool) :
    w.Computed (a.wave s w x t b) :=
  ((Wave.computed_readEffects s w x a.lit a.srcs w).trans (Wave.computed_stat ..)).trans (Wave.computed_putPred ..)

theorem Pred.wave_wstat (a : Pred) (s : State) (w : Wave) (x : Mask) (t : Nat) (b : Bool) :
    (a.wave s w x t b).wstat &&& w.wstat = w.wstat := by
  rw [Pred.wave, Wave.wstat_putPred, Wave.stat, readEffects_rest]
  ext i hi
  simp
  tauto

theorem Pred.sameOps_wave (a : Pred) (s : State) (w : Wave) (x : Mask) (t : Nat) (b : Bool) :
    w.SameOps (a.wave s w x t b) := by
  have h : w.SameOps ((readEffects s w x a.lit a.srcs w).stat (flagBits (allFlags x ((a.results s w x).map (·.2))))) := by
    rw [readEffects_rest]
    rfl
  exact h.trans (Wave.sameOps_putPred ..)

theorem Pred.results_getD (a : Pred) (s : State) (w : Wave) (x : Mask) (L : Nat) (hL : L < 64) (hx : inMask x L = true) :
    ((a.results s w x).getD L (false, 0)).1 = a.lane s w L := by
  rw [Pred.results, perLane_getD _ _ _ hL, if_pos hx]
  rfl

/-- The predicates once a predicate operation has written its own: p0 is never written (R4, R131). -/
theorem Pred.inMask_wave (a : Pred) (s : State) (w : Wave) (x : Mask) (t : Nat) (b : Bool) (n L : Nat) (hL : L < 64) :
    inMask ((a.wave s w x t b).pMask n) L =
      if n = a.pd ∧ n ≠ 0 ∧ inMask x L = true then a.lane s w L else inMask (w.pMask n) L := by
  have hp : ∀ y, ((readEffects s w x a.lit a.srcs w).stat y).pMask n = w.pMask n :=
    fun y => readEffects_pMask s w x a.lit a.srcs w n
  rw [Pred.wave, Wave.pMask_putPred, hp]
  by_cases hn : n = a.pd ∧ a.pd ≠ 0
  · obtain ⟨rfl, h0⟩ := hn
    rw [if_pos ⟨rfl, h0⟩, inMask_merge _ _ _ _ hL, inMask_maskOf _ _ hL]
    cases hx : inMask x L
    · simp
    · rw [if_pos rfl, if_pos ⟨rfl, h0, rfl⟩]
      exact Pred.results_getD a s w x L hL hx
  · rw [if_neg hn, if_neg (fun ⟨he, h0, _⟩ => hn ⟨he, he ▸ h0⟩)]

theorem Pred.sameRegs_wave (a : Pred) (s : State) (w : Wave) (x : Mask) (t : Nat) (b : Bool) :
    w.SameRegs (a.wave s w x t b) (killsOf a.srcs) := by
  refine ⟨fun n L _ _ => ?_, fun n _ => ?_⟩
  · rw [Pred.wave, Wave.vLane_putPred]
    exact readEffects_vLane s w x ..
  · rw [Pred.wave, Wave.sReg_putPred]
    exact readEffects_sReg s w x ..

/-- An instruction of `predOf` is the issue of its operation. -/
theorem exec_of_predOf (i : Instr) (s : State) (p : Fin 16) (pn : Bool) (a : Pred) (h : predOf s i = some (p, pn, a)) :
    exec i s = issue i (a.plan p pn) a.body s := by
  unfold predOf at h
  split at h
  · cases h; rfl
  · cases h; rfl
  · cases h; rfl
  · next f =>
    split at h
    · next hd =>
      cases h
      show execPmovXv f s = _
      rw [execPmovXv, hd]
      rfl
    · cases h
  · cases h

/-- The wave once PMOV has written a predicate's lanes to a register. -/
def pmovWave (s : State) (d : Dst) (pa : Fin 16) (w : Wave) (x : Mask) (t : Nat) (b : Bool) : Wave :=
  w.putResult x t .a b false d none false (perLane fun L => if s.readP w pa.val L then (1 : DWord) else 0)

theorem exec_pmov_toReg (f : PmovXv) (d : Dst) (pa : Fin 16) (s : State) (h : f.dir = .toReg d pa) :
    exec (.pmovXv f) s = issue (.pmovXv f) ⟨f.p, f.pn, [], dstNamed d false, [pa.val], .vec⟩ (pmovBody d pa) s := by
  show execPmovXv f s = _
  rw [execPmovXv, h]

theorem pmovWave_vLane (s : State) (d : Dst) (r : Fin 128) (pa : Fin 16) (w : Wave) (x : Mask) (t : Nat) (b : Bool)
    (n L : Nat) (hd : d = .v r ∨ d = .null) (hn : n < 128) (hL : L < 64) :
    (pmovWave s d pa w x t b).vLane n L =
      if d = .v r ∧ n = r.val ∧ inMask x L = true then (if s.readP w pa.val L then 1 else 0) else w.vLane n L := by
  rw [pmovWave, Wave.vLane_putResult _ _ _ _ _ _ _ _ _ _ _ _ hn hL (fun _ _ => rfl), perLane_getD _ _ _ hL]
  rcases hd with rfl | rfl
  · by_cases hr : n = r.val <;> cases hx : inMask x L <;> cases hp : s.readP w pa.val L <;> simp [destPart, hr]
  · simp [destPart]

/-- Settles O12: a predicate operation leaves `Pred.wave` (`Pred.body_ok`), a PMOV to a register `pmovWave`, and the lemmas
above say what each lane of these holds. -/
theorem predicateResults : Obligations.PredicateResults := by
  unfold Obligations.PredicateResults
  refine ⟨fun i s p pn a k w e hi hr hd hf => ?_, fun f r pa s k w e hdir hr => ?_⟩
  · obtain ⟨t, ht, hw, hs⟩ := settle_seq hr (Pred.body_ok a (issOf i (a.plan p pn) s k w e) s hd hf)
    refine ⟨t, _, (exec_of_predOf i s p pn a hi).trans ht, hw,
      Wave.ran_issued hr _ _ (Pred.wave_wstat ..) (Pred.computed_wave ..), fun n L _ hL => ?_, ?_, ?_, hs⟩
    · rw [Wave.issued_pMask]
      exact Pred.inMask_wave a s w _ _ _ n L hL
    · obtain ⟨hv, hsr⟩ := Pred.sameRegs_wave a s w (s.execMask w e p pn)
        (issOf i (a.plan p pn) s k w e).slot.t (issOf i (a.plan p pn) s k w e).slot.pipeB
      refine ⟨fun n L hn hL => ?_, fun n hn => ?_⟩
      · rw [Wave.issued_vLane]
        exact hv n L hn hL
      · rw [Wave.issued_sReg]
        exact hsr n hn
    · rw [Wave.issued_lops]
      exact Pred.sameOps_wave ..
  · obtain ⟨d, hf, hd⟩ : ∃ d, f.dir = .toReg d pa ∧ (d = .v r ∨ d = .null) :=
      hdir.elim (fun h => ⟨_, h, .inl rfl⟩) fun h => ⟨_, h, .inr rfl⟩
    have hns : ∀ n, d ≠ .s n := by
      rintro n rfl
      simp at hd
    simp only [hf] at hr ⊢
    obtain ⟨t, ht, hw, hs⟩ := settle_seq (body := pmovBody d pa) (w1 := pmovWave s d pa w (s.execMask w e f.p f.pn) _ _) hr rfl
    refine ⟨t, _, (exec_pmov_toReg f d pa s hf).trans ht, hw,
      Wave.ran_issued hr _ _ (by simp [pmovWave, Wave.wstat_putResult]) (Wave.computed_putResult ..), fun n _ => ?_, hs,
      fun n L hn hL => ?_, fun n hn => ?_⟩
    · rw [Wave.issued_pMask]
      exact Wave.pMask_putResult ..
    · rw [Wave.issued_vLane, pmovWave_vLane _ _ r _ _ _ _ _ _ _ hd hn hL]
      simp only [PmovDir.toReg.injEq, and_true]
    · rw [Wave.issued_sReg]
      refine (Wave.sReg_putResult _ _ _ _ _ _ _ _ _ _ ⟨n, hn⟩ (fun r h => absurd h (hns r)) (fun _ _ h => by cases h)).trans ?_
      exact if_neg fun h => hns _ h.1

end Sys2Proof.Machine
end

section
/-! ## Rounding (O9)

An exact number is a rational (`Dy.val`); the magnitudes that a format's codes name, code by code, are a strictly rising
sequence of rationals (`Fmt.grid`), the code of infinity going on as the next power of two would. Rounding finds the step of
the sequence that the value lies in (`Brackets`, `roundF_eq`), and each clause of O9 is then one about a rising sequence. -/

namespace Sys2Proof.Machine

/-! ### Exact numbers -/

/-- The number as a rational. -/
def Dy.val (d : Dy) : ℚ := d.z * 2 ^ d.e

/-- The sign of a number. -/
def sgn (neg : Bool) : ℚ := if neg then -1 else 1

theorem two_pow_toNat (a b : ℤ) (h : b ≤ a) : (2 : ℚ) ^ (a - b).toNat * 2 ^ b = 2 ^ a := by
  rw [← zpow_natCast, Int.toNat_of_nonneg (by omega), ← zpow_add₀ two_ne_zero, Int.sub_add_cancel]

theorem Dy.val_add (a b : Dy) : (a.add b).val = a.val + b.val := by
  have ha := two_pow_toNat a.e (min a.e b.e) (min_le_left ..)
  have hb := two_pow_toNat b.e (min a.e b.e) (min_le_right ..)
  simp only [Dy.val, Dy.add]
  push_cast
  rw [add_mul, mul_assoc, mul_assoc, ha, hb]

theorem Dy.val_nonneg_iff (d : Dy) : 0 ≤ d.val ↔ 0 ≤ d.z := by
  rw [Dy.val, mul_nonneg_iff_of_pos_right (zpow_pos two_pos _), Int.cast_nonneg_iff]

theorem Dy.val_neg (a : Dy) : Dy.val ⟨-a.z, a.e⟩ = -a.val := by simp [Dy.val]

theorem Dy.le_iff (a b : Dy) : a.le b ↔ a.val ≤ b.val := by
  rw [Dy.le, ← Dy.val_nonneg_iff, Dy.val_add, Dy.val_neg, ← sub_eq_add_neg, sub_nonneg]

theorem Dy.same_iff (a b : Dy) : a.same b ↔ a.val = b.val := by
  rw [Dy.same, Dy.le_iff, Dy.le_iff, le_antisymm_iff]

theorem Dy.val_mag (a : Dy) : a.mag.val = |a.val| := by
  simp [Dy.val, Dy.mag, abs_mul, abs_of_pos (zpow_pos (two_pos : (0 : ℚ) < 2) a.e)]

theorem Dy.val_far (a b : Dy) : (a.far b).val = |b.val - a.val| := by
  rw [Dy.far, Dy.val_mag, Dy.val_add, Dy.val_neg, ← sub_eq_add_neg]

theorem val_dyOf (neg : Bool) (m : Nat) (e : Int) : (dyOf neg m e).val = sgn neg * (m * 2 ^ e) := by
  cases neg <;> simp [Dy.val, dyOf, sgn]

/-! ### The magnitudes of a format -/

/-- The magnitude that the code `n` names (R93). -/
def Fmt.grid (f : Fmt) (n : Nat) : ℚ :=
  if n < 2 ^ f.fb then n * 2 ^ (f.emin - f.fb)
  else ((2 ^ f.fb + n % 2 ^ f.fb : Nat) : ℚ) * 2 ^ (((n / 2 ^ f.fb : Nat) : Int) - 1 + f.emin - f.fb)

theorem Fmt.grid_of_lt (f : Fmt) (n : Nat) (h : n < 2 ^ f.fb) : f.grid n = n * 2 ^ (f.emin - f.fb) := if_pos h

theorem Fmt.grid_normal (f : Fmt) (E q : Nat) (hq : 2 ^ f.fb ≤ q) (hq' : q < 2 ^ (f.fb + 1)) :
    f.grid (E * 2 ^ f.fb + q) = q * 2 ^ ((E : Int) + f.emin - f.fb) := by
  obtain ⟨d, rfl⟩ := Nat.exists_eq_add_of_le hq
  have hd : d < 2 ^ f.fb := by rw [pow_succ] at hq'; omega
  have hn : E * 2 ^ f.fb + (2 ^ f.fb + d) = d + 2 ^ f.fb * (E + 1) := by ring
  have hge : ¬ d + 2 ^ f.fb * (E + 1) < 2 ^ f.fb := by rw [mul_add]; omega
  rw [hn, Fmt.grid, if_neg hge, Nat.add_mul_mod_self_left, Nat.mod_eq_of_lt hd, Nat.add_mul_div_left _ _ (by positivity),
    Nat.div_eq_of_lt hd]
  congr 2
  push_cast
  ring

/-- Within a binade the codes count units of one size; so they do up to the first of the next. -/
theorem Fmt.grid_add (f : Fmt) (E q : Nat) (hE : E = 0 ∨ 2 ^ f.fb ≤ q) (hq : q ≤ 2 ^ (f.fb + 1)) :
    f.grid (E * 2 ^ f.fb + q) = q * 2 ^ ((E : Int) + f.emin - f.fb) := by
  rcases lt_or_ge q (2 ^ f.fb) with h | h
  · obtain rfl : E = 0 := hE.resolve_right (by omega)
    simpa using Fmt.grid_of_lt f q h
  · rcases hq.lt_or_eq with hlt | rfl
    · exact Fmt.grid_normal f E q h hlt
    · have hn : E * 2 ^ f.fb + 2 ^ (f.fb + 1) = (E + 1) * 2 ^ f.fb + 2 ^ f.fb := by ring
      rw [hn, Fmt.grid_normal f (E + 1) _ le_rfl (by rw [pow_succ]; have : 0 < 2 ^ f.fb := by positivity
                                                     omega)]
      have he : ((E + 1 : Nat) : Int) + f.emin - f.fb = 1 + ((E : Int) + f.emin - f.fb) := by push_cast; ring
      rw [he, zpow_add₀ two_ne_zero, zpow_one]
      push_cast
      ring

theorem Fmt.grid_zero (f : Fmt) : f.grid 0 = 0 := by
  simp [Fmt.grid_of_lt f 0 (by positivity)]

theorem Fmt.grid_lt_succ (f : Fmt) (n : Nat) : f.grid n < f.grid (n + 1) := by
  obtain ⟨E, q, hn, hE, hq⟩ : ∃ E q, n = E * 2 ^ f.fb + q ∧ (E = 0 ∨ 2 ^ f.fb ≤ q) ∧ q < 2 ^ (f.fb + 1) := by
    have hm := Nat.mod_lt n (show 0 < 2 ^ f.fb by positivity)
    have hd := Nat.div_add_mod n (2 ^ f.fb)
    rw [pow_succ]
    rcases Nat.eq_zero_or_pos (n / 2 ^ f.fb) with h | h
    · exact ⟨0, n, by simp, .inl rfl, by rw [h] at hd; omega⟩
    · obtain ⟨E, hE⟩ := Nat.exists_eq_add_of_le' h
      refine ⟨E, 2 ^ f.fb + n % 2 ^ f.fb, ?_, .inr (by omega), by omega⟩
      rw [hE] at hd
      rw [← add_assoc, ← Nat.succ_mul, Nat.succ_eq_add_one, mul_comm]
      exact hd.symm
  rw [hn, add_assoc, Fmt.grid_add f E q hE (by omega), Fmt.grid_add f E (q + 1) (by omega) (by omega)]
  have h2 : (0 : ℚ) < 2 ^ ((E : Int) + f.emin - f.fb) := zpow_pos two_pos _
  push_cast
  linarith

theorem Fmt.grid_strictMono (f : Fmt) : StrictMono f.grid := strictMono_nat_of_lt_succ f.grid_lt_succ

theorem Fmt.grid_nonneg (f : Fmt) (n : Nat) : 0 ≤ f.grid n := by
  rw [← f.grid_zero]
  exact f.grid_strictMono.monotone (Nat.zero_le n)

/-! ### Codes -/

theorem Fmt.infCode_lt_signBit (f : Fmt) : f.infCode < f.signBit := by
  rw [Fmt.infCode, Fmt.signBit, pow_add]
  have h1 : 0 < 2 ^ f.eb := by positivity
  exact Nat.mul_lt_mul_of_pos_right (by omega) (by positivity)

theorem Fmt.infCode_pos (f : Fmt) (h : 1 ≤ f.eb) : 0 < f.infCode := by
  have h1 : 2 ^ 1 ≤ 2 ^ f.eb := Nat.pow_le_pow_right two_pos h
  exact Nat.mul_pos (by omega) (by positivity)

theorem Fmt.even_infCode (f : Fmt) (h : 1 ≤ f.fb) : f.infCode % 2 = 0 := by
  obtain ⟨b, hb⟩ := Nat.exists_eq_add_of_le' h
  rw [Fmt.infCode, hb, pow_succ, ← mul_assoc, Nat.mul_mod_left]

theorem Fmt.grid_infCode (f : Fmt) (h : 2 ≤ f.eb) : f.grid f.infCode = 2 ^ ((f.bias : Int) + 1) := by
  obtain ⟨b, hb⟩ := Nat.exists_eq_add_of_le' (show 1 ≤ f.eb by omega)
  have hp : 0 < 2 ^ b := by positivity
  have hbias : f.bias = 2 ^ b - 1 := by rw [Fmt.bias, hb, Nat.add_sub_cancel]
  have hc : f.infCode = 2 * f.bias * 2 ^ f.fb + 2 ^ f.fb := by
    rw [Fmt.infCode, ← Nat.succ_mul, hb, pow_succ]
    congr 1
    omega
  rw [hc, Fmt.grid_normal f _ _ le_rfl (Nat.pow_lt_pow_right one_lt_two (Nat.lt_succ_self _)), Fmt.emin]
  push_cast
  rw [← zpow_natCast, ← zpow_add₀ two_ne_zero]
  congr 1
  ring

theorem mod_signBit_div (f : Fmt) (c : Nat) : c % f.signBit / 2 ^ f.fb = c / 2 ^ f.fb % 2 ^ f.eb := by
  rw [Fmt.signBit, add_comm, pow_add, Nat.mod_mul_right_div_self]

theorem mod_signBit_mod (f : Fmt) (c : Nat) : c % f.signBit % 2 ^ f.fb = c % 2 ^ f.fb := by
  rw [Fmt.signBit]
  exact Nat.mod_mod_of_dvd _ (pow_dvd_pow 2 (by omega))

theorem infCode_le_iff (f : Fmt) (c : Nat) : f.infCode ≤ c % f.signBit ↔ c / 2 ^ f.fb % 2 ^ f.eb = 2 ^ f.eb - 1 := by
  have h := Nat.mod_lt (c / 2 ^ f.fb) (show 0 < 2 ^ f.eb by positivity)
  rw [Fmt.infCode, ← Nat.le_div_iff_mul_le (by positivity), mod_signBit_div]
  omega

theorem finiteOf_eq_none_iff (f : Fmt) (c : Nat) : finiteOf f c = none ↔ f.infCode ≤ c % f.signBit := by
  rw [infCode_le_iff]
  unfold finiteOf decF
  dsimp only
  split_ifs <;> simp_all

/-- A code that names a finite value names its sign times the magnitude of its other bits. -/
theorem val_of_finiteOf (f : Fmt) (c : Nat) (u : Dy) (h : finiteOf f c = some u) :
    u.val = sgn (c / f.signBit % 2 == 1) * f.grid (c % f.signBit) := by
  have hm := mod_signBit_mod f c
  have hd := mod_signBit_div f c
  unfold finiteOf decF at h
  dsimp only at h
  split_ifs at h with h1 h2 h3
  · cases h
    have hlt : c % f.signBit < 2 ^ f.fb := by
      rw [← hd] at h3
      exact Nat.lt_of_div_eq_zero (by positivity) h3
    rw [val_dyOf, Fmt.grid_of_lt f _ hlt, ← hm, Nat.mod_eq_of_lt hlt]
  · cases h
    have hge : ¬ c % f.signBit < 2 ^ f.fb := fun hlt => h3 (hd ▸ Nat.div_eq_of_lt hlt)
    rw [val_dyOf, Fmt.grid, if_neg hge, hm, hd, Fmt.emin]
    congr 3
    ring

/-! ### Rounding between two codes -/

/-- `X` lies at `lo` or past it, below `hi`, and `c` says where between them: 0 at `lo`, 1 nearer to `lo`, 2 halfway, 3
nearer to `hi`. -/
structure Between (lo hi X : ℚ) (c : Nat) : Prop where
  low : lo ≤ X
  high : X < hi
  exact_iff : c = 0 ↔ X = lo
  near : c = 1 → 2 * X < lo + hi
  half : c = 2 → 2 * X = lo + hi
  far : c = 3 → lo + hi < 2 * X
  le_three : c ≤ 3

/-- The cut of a number at 2^k places it between multiples of 2^k, whatever the unit `t`. -/
theorem cutBits_between (m k : Nat) (t : ℚ) (ht : 0 < t) :
    Between ((cutBits m k).1 * 2 ^ k * t) (((cutBits m k).1 + 1) * 2 ^ k * t) (m * t) (cutBits m k).2 := by
  have hr := Nat.mod_lt m (show 0 < 2 ^ k by positivity)
  have hm : (m : ℚ) = 2 ^ k * (m / 2 ^ k : Nat) + (m % 2 ^ k : Nat) := by exact_mod_cast (Nat.div_add_mod m (2 ^ k)).symm
  have hlt : ∀ a b : Nat, a < b → (a : ℚ) * t < b * t := fun a b h => by gcongr
  simp only [cutBits]
  generalize m / 2 ^ k = q at *
  generalize m % 2 ^ k = r at *
  have h0 : (0 : ℚ) ≤ r * t := by positivity
  have h1 := hlt _ _ hr
  push_cast at h1
  have hX : (m : ℚ) * t = q * 2 ^ k * t + r * t := by rw [hm]; ring
  rw [hX]
  split_ifs with hz hb hh
  · refine ⟨by linarith, by linarith, by simp [hz], ?_, ?_, ?_, ?_⟩ <;> simp
  all_goals
    have hp : 0 < (r : ℚ) * t := by positivity
    refine ⟨by linarith, by linarith, ?_, ?_, ?_, ?_, by norm_num⟩ <;> norm_num
  · exact ⟨hz, ht.ne'⟩
  · have := hlt _ _ hb
    push_cast at this
    linarith
  · exact ⟨hz, ht.ne'⟩
  · have : (2 * r : ℚ) = 2 ^ k := by exact_mod_cast hh
    rw [← this]
    ring
  · exact ⟨hz, ht.ne'⟩
  · have := hlt _ _ (show 2 ^ k < 2 * r by omega)
    push_cast at this
    linarith

/-- Rounding at a power of two goes from the multiple the number lies at or past. -/
theorem roundAt_between (m : Nat) (e p : Int) :
    ∃ q c : Nat, Between (q * 2 ^ p) ((q + 1 : Nat) * 2 ^ p) (m * 2 ^ e) c ∧
      ∀ md neg, roundAt md neg m e p = (roundCut md neg q c, c == 0) := by
  rcases le_or_gt p e with h | h
  · refine ⟨m * 2 ^ (e - p).toNat, 0, ?_, fun md neg => ?_⟩
    · have hp : (0 : ℚ) < 2 ^ p := zpow_pos two_pos p
      have hX : ((m * 2 ^ (e - p).toNat : Nat) : ℚ) * 2 ^ p = m * 2 ^ e := by
        push_cast
        rw [mul_assoc, two_pow_toNat e p h]
      rw [Nat.cast_add, add_mul, hX]
      refine ⟨le_rfl, by push_cast; linarith, by simp, ?_, ?_, ?_, ?_⟩ <;> simp
    · simp [roundAt, h, roundCut]
  · refine ⟨(cutBits m (p - e).toNat).1, (cutBits m (p - e).toNat).2, ?_, fun md neg => ?_⟩
    · have hc := cutBits_between m (p - e).toNat (2 ^ e) (zpow_pos two_pos e)
      rw [mul_assoc, mul_assoc, two_pow_toNat p e h.le] at hc
      push_cast
      exact hc
    · simp [roundAt, h]

/-- Whether a mode goes to the next code from `q`, cut at `c` (R96). -/
def roundsUp (md : RMode) (neg : Bool) (q c : Nat) : Bool :=
  decide (c ≠ 0) && match md with
    | .rne => decide (c = 3 ∨ (c = 2 ∧ q % 2 = 1))
    | .rtz => false
    | .rup => !neg
    | .rdn => neg

theorem roundCut_eq (md : RMode) (neg : Bool) (q c : Nat) : roundCut md neg q c = q + (roundsUp md neg q c).toNat := by
  unfold roundCut roundsUp
  by_cases hc : c = 0
  · simp [hc]
  · cases md with
    | rne => by_cases h : c = 3 ∨ (c = 2 ∧ q % 2 = 1) <;> simp [hc, h]
    | _ => cases neg <;> simp [hc]

theorem roundCut_add (md : RMode) (neg : Bool) (a q c : Nat) (ha : a % 2 = 0) :
    roundCut md neg (a + q) c = a + roundCut md neg q c := by
  have hp : (a + q) % 2 = q % 2 := by omega
  have hu : roundsUp md neg (a + q) c = roundsUp md neg q c := by simp only [roundsUp, hp]
  rw [roundCut_eq, roundCut_eq, hu, add_assoc]

theorem topExp_le (m : Nat) (e : Int) (hm : m ≠ 0) : (2 : ℚ) ^ topExp m e ≤ m * 2 ^ e := by
  rw [topExp, zpow_add₀ two_ne_zero, zpow_natCast]
  gcongr
  exact_mod_cast Nat.log2_self_le hm

theorem lt_topExp_succ (m : Nat) (e : Int) : (m : ℚ) * 2 ^ e < 2 ^ (topExp m e + 1) := by
  rw [topExp, show (Nat.log2 m : Int) + e + 1 = ((Nat.log2 m + 1 : Nat) : Int) + e by push_cast; ring,
    zpow_add₀ two_ne_zero, zpow_natCast]
  gcongr
  exact_mod_cast Nat.lt_log2_self

/-- Rounding goes from a code `n` below which the value does not lie, and either names it or the next one; a code at that
of infinity or past it is an overflow. -/
theorem roundF_between (f : Fmt) (md : RMode) (neg : Bool) (m : Nat) (e : Int) (hf : 1 ≤ f.fb) (hm : m ≠ 0) :
    ∃ (n c : Nat) (tiny : Bool), Between (f.grid n) (f.grid (n + 1)) (m * 2 ^ e) c ∧
      (tiny = true → (m : ℚ) * 2 ^ e < 2 ^ f.emin) ∧
      roundF f md neg m e =
        if f.infCode ≤ roundCut md neg n c then (overflowCode f md neg, fOF ||| fNX)
        else ((if neg then f.signBit else 0) + roundCut md neg n c,
          if c = 0 then 0 else if tiny then fUF ||| fNX else fNX) := by
  set l := topExp m e with hl
  set p := max (l - f.fb) (f.emin - f.fb) with hp
  obtain ⟨q, c, hb, hr⟩ := roundAt_between m e p
  set E := (p + f.fb - f.emin).toNat with hE
  have hEp : (E : Int) + f.emin - f.fb = p := by omega
  have hle := topExp_le m e hm
  have hlt := lt_topExp_succ m e
  have hpos : (0 : ℚ) < 2 ^ p := zpow_pos two_pos p
  have hhi : q < 2 ^ (f.fb + 1) := by
    have h : (q : ℚ) * 2 ^ p < (2 ^ (f.fb + 1) : Nat) * 2 ^ p := by
      refine (hb.low.trans_lt hlt).trans_le ?_
      push_cast
      rw [← zpow_natCast, ← zpow_add₀ two_ne_zero]
      exact zpow_le_zpow_right₀ one_le_two (by push_cast; omega)
    exact_mod_cast lt_of_mul_lt_mul_right h hpos.le
  have hlo : E = 0 ∨ 2 ^ f.fb ≤ q := by
    refine or_iff_not_imp_left.mpr fun h0 => Nat.lt_succ_iff.mp ?_
    have h : ((2 ^ f.fb : Nat) : ℚ) * 2 ^ p < (q + 1 : Nat) * 2 ^ p := by
      refine lt_of_le_of_lt ?_ hb.high
      push_cast
      rw [← zpow_natCast, ← zpow_add₀ two_ne_zero]
      exact (zpow_le_zpow_right₀ one_le_two (by omega)).trans hle
    exact_mod_cast lt_of_mul_lt_mul_right h hpos.le
  have heven : E * 2 ^ f.fb % 2 = 0 := by
    obtain ⟨b, hb⟩ := Nat.exists_eq_add_of_le' hf
    rw [hb, pow_succ, ← mul_assoc, Nat.mul_mod_left]
  refine ⟨E * 2 ^ f.fb + q, c, decide (l < f.emin) && !(decide (l = f.emin - 1) &&
    decide ((roundAt md neg m e (l - f.fb)).1 = 2 ^ (f.fb + 1))), ?_, ?_, ?_⟩
  · rw [add_assoc, Fmt.grid_add f E q hlo hhi.le, Fmt.grid_add f E (q + 1) (by omega) (by omega), hEp]
    exact hb
  · intro ht
    simp only [Bool.and_eq_true, decide_eq_true_eq] at ht
    refine hlt.trans_le (zpow_le_zpow_right₀ one_le_two ?_)
    omega
  · rw [roundCut_add _ _ _ _ _ heven, roundF]
    simp only [hr, beq_iff_eq, ← hl, ← hp, ← hE]

/-! ### What a mode takes, on a rising sequence -/

section
variable {g : Nat → ℚ} {X : ℚ} {n c : Nat}

/-- Where the cut goes on to the next code, the value lies past `n`. -/
theorem Between.lt_of_ne (hb : Between (g n) (g (n + 1)) X c) (hc : c ≠ 0) : g n < X :=
  hb.low.lt_of_ne fun h => hc (hb.exact_iff.mpr h.symm)

theorem Between.two_mul_lt (hb : Between (g n) (g (n + 1)) X c) (hc : c = 0 ∨ c = 1) : 2 * X < g n + g (n + 1) := by
  rcases hc with h | h
  · have := hb.exact_iff.mp h
    have := hb.high
    linarith
  · exact hb.near h

/-- The cut is at most halfway where rounding to nearest stays at `n`. -/
theorem Between.stays (hb : Between (g n) (g (n + 1)) X c) (hc : ¬ (c = 3 ∨ (c = 2 ∧ n % 2 = 1))) :
    2 * X < g n + g (n + 1) ∨ 2 * X = g n + g (n + 1) ∧ n % 2 = 0 := by
  have h3 := hb.le_three
  rcases (show c = 0 ∨ c = 1 ∨ c = 2 by omega) with h | h | h
  · exact .inl (hb.two_mul_lt (.inl h))
  · exact .inl (hb.two_mul_lt (.inr h))
  · exact .inr ⟨hb.half h, by omega⟩

/-- The cut is at least halfway where rounding to nearest goes on to `n + 1`. -/
theorem Between.goes (hb : Between (g n) (g (n + 1)) X c) (hc : c = 3 ∨ (c = 2 ∧ n % 2 = 1)) :
    g n + g (n + 1) < 2 * X ∨ 2 * X = g n + g (n + 1) ∧ (n + 1) % 2 = 0 := by
  rcases hc with h | ⟨h, hn⟩
  · exact .inl (hb.far h)
  · exact .inr ⟨hb.half h, by omega⟩

variable (hg : StrictMono g) (hb : Between (g n) (g (n + 1)) X c)
include hg hb

/-- Toward zero: no later code names a magnitude that does not exceed the value's. -/
theorem Between.toward {j : Nat} (hj : g j ≤ X) : j ≤ n :=
  Nat.lt_succ_iff.mp (hg.lt_iff_lt.mp (hj.trans_lt hb.high))

/-- Away from zero: the code names the least magnitude that is not below the value's. -/
theorem Between.away {k : Nat} (hk : k = n + (decide (c ≠ 0)).toNat) : X ≤ g k ∧ ∀ j, X ≤ g j → k ≤ j := by
  by_cases hc : c = 0
  · obtain rfl : k = n := by simpa [hc] using hk
    have hX := hb.exact_iff.mp hc
    exact ⟨hX.le, fun j hj => hg.le_iff_le.mp (hX ▸ hj)⟩
  · obtain rfl : k = n + 1 := by simpa [hc] using hk
    exact ⟨hb.high.le, fun j hj => hg.lt_iff_lt.mp ((hb.lt_of_ne hc).trans_le hj)⟩

/-- To nearest: no code is nearer, and where another is as near, this one is even. -/
theorem Between.nearest {k : Nat} (hk : k = n + (decide (c = 3 ∨ (c = 2 ∧ n % 2 = 1))).toNat) (j : Nat) :
    |g k - X| ≤ |g j - X| ∧ (|g j - X| ≤ |g k - X| → j = k ∨ k % 2 = 0) := by
  have hlow := hb.low
  have hhigh := hb.high
  have hn : |g n - X| = X - g n := by rw [abs_of_nonpos (by linarith)]; ring
  have hn1 : |g (n + 1) - X| = g (n + 1) - X := abs_of_nonneg (by linarith)
  have hj : (j ≤ n ∧ g j ≤ g n ∧ |g j - X| = X - g j) ∨ (n + 1 ≤ j ∧ g (n + 1) ≤ g j ∧ |g j - X| = g j - X) := by
    rcases Nat.lt_or_ge n j with h | h
    · have := hg.monotone h
      exact .inr ⟨h, this, abs_of_nonneg (by linarith)⟩
    · have := hg.monotone h
      exact .inl ⟨h, this, by rw [abs_of_nonpos (by linarith)]; ring⟩
  by_cases hc : c = 3 ∨ (c = 2 ∧ n % 2 = 1)
  · obtain rfl : k = n + 1 := by simpa [hc] using hk
    have hX := hb.goes hc
    rw [hn1]
    rcases hj with ⟨_, h, ha⟩ | ⟨hl, h, ha⟩ <;> rw [ha]
    · refine ⟨by rcases hX with h | ⟨h, _⟩ <;> linarith, fun h' => ?_⟩
      rcases hX with h | ⟨_, h⟩
      · linarith
      · exact .inr h
    · exact ⟨by linarith, fun h' => .inl (le_antisymm (hg.le_iff_le.mp (by linarith)) hl)⟩
  · obtain rfl : k = n := by simpa [hc] using hk
    have hX := hb.stays hc
    rw [hn]
    rcases hj with ⟨hl, h, ha⟩ | ⟨_, h, ha⟩ <;> rw [ha]
    · exact ⟨by linarith, fun h' => .inl (le_antisymm hl (hg.le_iff_le.mp (by linarith)))⟩
    · refine ⟨by rcases hX with h | ⟨h, _⟩ <;> linarith, fun h' => ?_⟩
      rcases hX with h | ⟨_, h⟩
      · linarith
      · exact .inr h

/-- A code at `N` or past it is that of a value past the one before `N`. -/
theorem Between.pred_lt {N k : Nat} {up : Bool} (hk : k = n + up.toNat) (hup : up = true → c ≠ 0) (hN : 0 < N) (h : N ≤ k) :
    g (N - 1) < X := by
  cases up with
  | true => exact (hg.monotone (by simp at hk; omega)).trans_lt (hb.lt_of_ne (hup rfl))
  | false => exact (hg (show N - 1 < n by simp at hk; omega)).trans_le hb.low

/-- To nearest, an even code `N` is reached from halfway on. -/
theorem Between.nearest_reaches {N k : Nat} (hk : k = n + (decide (c = 3 ∨ (c = 2 ∧ n % 2 = 1))).toNat) (hN : 0 < N)
    (h2 : N % 2 = 0) : N ≤ k ↔ g (N - 1) + g N ≤ 2 * X := by
  obtain ⟨N, rfl⟩ := Nat.exists_eq_add_of_le' hN
  rw [Nat.add_sub_cancel]
  have hlow := hb.low
  have hhigh := hb.high
  have hN1 := hg (Nat.lt_succ_self N)
  rcases lt_trichotomy N n with h | rfl | h
  · have hle := hg.monotone h
    exact iff_of_true (by omega) (by simp only [Nat.succ_eq_add_one] at *; linarith)
  · by_cases hc : c = 3 ∨ (c = 2 ∧ N % 2 = 1)
    · refine iff_of_true (by simp [hk, hc]) ?_
      rcases hb.goes hc with h | ⟨h, _⟩ <;> linarith
    · refine iff_of_false (by simp [hk, hc]) ?_
      rcases hb.stays hc with h | ⟨_, h⟩
      · linarith
      · omega
  · have hle := hg.monotone h
    refine iff_of_false ?_ (by simp only [Nat.succ_eq_add_one] at *; linarith)
    have := Bool.toNat_le (decide (c = 3 ∨ (c = 2 ∧ n % 2 = 1)))
    omega

end

/-! ### The result -/

/-- The code of a sign and a magnitude. -/
def Fmt.code (f : Fmt) (neg : Bool) (w : Nat) : Nat := (if neg then f.signBit else 0) + w

theorem Fmt.signBit_pos (f : Fmt) : 0 < f.signBit := by unfold Fmt.signBit; positivity

theorem Fmt.code_sign (f : Fmt) (neg : Bool) (w : Nat) (hw : w < f.signBit) :
    f.code neg w / f.signBit % 2 = neg.toNat := by
  cases neg
  · simp [Fmt.code, Nat.div_eq_of_lt hw]
  · simp [Fmt.code, Nat.add_div_left _ f.signBit_pos, Nat.div_eq_of_lt hw]

theorem Fmt.code_mod (f : Fmt) (neg : Bool) (w : Nat) (hw : w < f.signBit) : f.code neg w % f.signBit = w := by
  cases neg <;> simp [Fmt.code, Nat.mod_eq_of_lt hw]

theorem Fmt.code_lt (f : Fmt) (neg : Bool) (w : Nat) (hw : w < f.signBit) : f.code neg w < 2 ^ f.width := by
  have h : 2 ^ f.width = 2 * f.signBit := by rw [Fmt.width, Fmt.signBit, add_assoc, pow_add, pow_one]
  unfold Fmt.code
  split <;> omega

theorem Fmt.code_parity (f : Fmt) (neg : Bool) (w : Nat) (h : 1 ≤ f.fb) : f.code neg w % 2 = w % 2 := by
  obtain ⟨b, hb⟩ := Nat.exists_eq_add_of_le' h
  have hs : f.signBit = 2 * 2 ^ (f.eb + b) := by rw [Fmt.signBit, hb, ← add_assoc, pow_succ, mul_comm]
  unfold Fmt.code
  split <;> omega

theorem finiteOf_code_eq_none_iff (f : Fmt) (neg : Bool) (w : Nat) (hw : w < f.signBit) :
    finiteOf f (f.code neg w) = none ↔ f.infCode ≤ w := by
  rw [finiteOf_eq_none_iff, Fmt.code_mod f neg w hw]

theorem val_of_finiteOf_code (f : Fmt) (neg : Bool) (w : Nat) (v : Dy) (hw : w < f.signBit)
    (h : finiteOf f (f.code neg w) = some v) : v.val = sgn neg * f.grid w := by
  rw [val_of_finiteOf f _ v h, Fmt.code_mod f neg w hw, Fmt.code_sign f neg w hw]
  cases neg <;> rfl

/-- A finite value is a sign times a magnitude below infinity's. -/
theorem exists_of_finiteOf (f : Fmt) (c : Nat) (u : Dy) (h : finiteOf f c = some u) :
    ∃ b j, j < f.infCode ∧ u.val = sgn b * f.grid j := by
  refine ⟨_, _, ?_, val_of_finiteOf f c u h⟩
  by_contra hn
  rw [(finiteOf_eq_none_iff f c).mpr (not_lt.mp hn)] at h
  cases h

/-- Whether a mode gives an infinity for a magnitude beyond the format (R96). -/
def goesOut (md : RMode) (neg : Bool) : Bool :=
  match md with
  | .rne => true
  | .rtz => false
  | .rup => !neg
  | .rdn => neg

theorem overflowCode_eq (f : Fmt) (md : RMode) (neg : Bool) :
    overflowCode f md neg = f.code neg (if goesOut md neg then f.infCode else f.infCode - 1) := by
  cases md <;> cases neg <;> rfl

theorem goesOut_iff (md : RMode) (neg : Bool) :
    goesOut md neg = true ↔ md = .rne ∨ (md = .rup ∧ neg = false) ∨ (md = .rdn ∧ neg = true) := by
  cases md <;> cases neg <;> simp [goesOut]

theorem roundsUp_of_not_goesOut {md : RMode} {neg : Bool} (n c : Nat) (h : goesOut md neg = false) :
    roundsUp md neg n c = false := by
  cases md <;> cases neg <;> simp_all [goesOut, roundsUp]

theorem roundsUp_rne (neg : Bool) (n c : Nat) :
    roundsUp .rne neg n c = decide (c = 3 ∨ (c = 2 ∧ n % 2 = 1)) := by
  simp only [roundsUp, ← Bool.decide_and, decide_eq_decide]
  omega

theorem ne_of_roundsUp {md : RMode} {neg : Bool} {n c : Nat} (h : roundsUp md neg n c = true) : c ≠ 0 := by
  rintro rfl
  simp [roundsUp] at h

/-- The magnitude `k` of a finite result: the rounded code, or the greatest finite one where the mode stops there. -/
def Kept (f : Fmt) (md : RMode) (neg : Bool) (n c k : Nat) : Prop :=
  k = roundCut md neg n c ∨ goesOut md neg = false ∧ f.infCode ≤ roundCut md neg n c ∧ k = f.infCode - 1

section
variable {f : Fmt} {md : RMode} {neg : Bool} {X : ℚ} {n c k : Nat} (hb : Between (f.grid n) (f.grid (n + 1)) X c)
  (hk : Kept f md neg n c k)
include hb hk

theorem Kept.toward (hg : goesOut md neg = false) (hi : 0 < f.infCode) :
    f.grid k ≤ X ∧ ∀ j < f.infCode, f.grid j ≤ X → f.grid j ≤ f.grid k := by
  have hm := f.grid_strictMono.monotone
  have hr : roundCut md neg n c = n := by rw [roundCut_eq, roundsUp_of_not_goesOut n c hg]; rfl
  unfold Kept at hk
  rw [hr] at hk
  refine ⟨(hm (by omega)).trans hb.low, fun j hj hX => hm ?_⟩
  have := hb.toward f.grid_strictMono hX
  omega

theorem Kept.away (hmd : md = .rup ∧ neg = false ∨ md = .rdn ∧ neg = true) :
    X ≤ f.grid k ∧ ∀ j, X ≤ f.grid j → f.grid k ≤ f.grid j := by
  have hg : goesOut md neg = true := (goesOut_iff md neg).mpr (.inr hmd)
  have hk : k = n + (decide (c ≠ 0)).toNat := by
    obtain rfl := hk.resolve_right fun h => by simp [hg] at h
    rw [roundCut_eq]
    rcases hmd with ⟨rfl, rfl⟩ | ⟨rfl, rfl⟩ <;> simp [roundsUp]
  obtain ⟨h1, h2⟩ := hb.away f.grid_strictMono hk
  exact ⟨h1, fun j hj => f.grid_strictMono.monotone (h2 j hj)⟩

theorem Kept.nearest (hmd : md = .rne) (j : Nat) :
    |f.grid k - X| ≤ |f.grid j - X| ∧ (|f.grid j - X| ≤ |f.grid k - X| → j = k ∨ k % 2 = 0) := by
  subst hmd
  refine hb.nearest f.grid_strictMono ?_ j
  obtain rfl := hk.resolve_right fun h => by simp [goesOut] at h
  rw [roundCut_eq, roundsUp_rne]

/-- The result is the value itself only where the value is a code's and the format holds it. -/
theorem Kept.exact_iff (hi : 0 < f.infCode) : f.grid k = X ↔ c = 0 ∧ k = roundCut md neg n c := by
  have hm := f.grid_strictMono
  rcases hk with h | ⟨hg, ho, h⟩
  · rw [and_iff_left h]
    by_cases hc : c = 0
    · have hn : k = n := by rw [h, roundCut_eq]; simp [roundsUp, hc]
      exact iff_of_true (hn ▸ (hb.exact_iff.mp hc).symm) hc
    · refine iff_of_false ?_ hc
      have hlow := hb.lt_of_ne hc
      rw [h, roundCut_eq]
      cases roundsUp md neg n c
      · exact hlow.ne
      · exact hb.high.ne'
  · have hlt := hb.pred_lt hm (roundCut_eq md neg n c) ne_of_roundsUp hi ho
    rw [← h] at hlt
    exact iff_of_false hlt.ne fun h' => by omega

end

/-! ### Signed values -/

theorem sgn_ne_zero (b : Bool) : sgn b ≠ 0 := by cases b <;> simp [sgn]

theorem abs_sgn_mul (b : Bool) {y : ℚ} (hy : 0 ≤ y) : |sgn b * y| = y := by
  cases b <;> simp [sgn, abs_of_nonneg hy]

theorem abs_sgn_sub (b : Bool) (y z : ℚ) : |sgn b * y - sgn b * z| = |y - z| := by
  cases b
  · simp [sgn]
  · simp only [sgn, if_true, neg_one_mul, neg_sub_neg, abs_sub_comm]

theorem sgn_ne {a b : Bool} (h : a ≠ b) : sgn a = -sgn b := by
  cases a <;> cases b <;> simp_all [sgn]

/-- A value of the other sign is as far as the two magnitudes together. -/
theorem abs_sgn_sub_of_ne {a b : Bool} (h : a ≠ b) {y z : ℚ} (hy : 0 ≤ y) (hz : 0 ≤ z) :
    |sgn a * y - sgn b * z| = y + z := by
  rw [sgn_ne h, show -sgn b * y - sgn b * z = -(sgn b * (y + z)) by ring, abs_neg, abs_sgn_mul b (by linarith)]

/-- Each mode's clause of O9, for a finite result of magnitude `k` and any other finite value. -/
theorem Kept.modes {f : Fmt} {md : RMode} {neg : Bool} {X : ℚ} {n c k : Nat}
    (hb : Between (f.grid n) (f.grid (n + 1)) X c) (hk : Kept f md neg n c k) (hi : 0 < f.infCode) (hX : 0 < X)
    {x v u : Dy} {b : Bool} {j : Nat} (hj : j < f.infCode) (hx : x.val = sgn neg * X) (hv : v.val = sgn neg * f.grid k)
    (hu : u.val = sgn b * f.grid j) :
    (md = .rtz → v.mag.le x.mag ∧ (u.mag.le x.mag → u.mag.le v.mag)) ∧
    (md = .rdn → v.le x ∧ (u.le x → u.le v)) ∧
    (md = .rup → x.le v ∧ (x.le u → v.le u)) ∧
    (md = .rne → (x.far v).le (x.far u) ∧ ((x.far u).le (x.far v) → u.same v ∨ k % 2 = 0)) := by
  have hk0 := f.grid_nonneg k
  have hj0 := f.grid_nonneg j
  simp only [Dy.le_iff, Dy.same_iff, Dy.val_mag, Dy.val_far, hx, hv, hu, abs_sgn_mul _ hX.le, abs_sgn_mul _ hk0,
    abs_sgn_mul _ hj0, abs_sgn_sub]
  refine ⟨fun hmd => ?_, fun hmd => ?_, fun hmd => ?_, fun hmd => ?_⟩
  · obtain ⟨h1, h2⟩ := hk.toward hb (by simp [hmd, goesOut]) hi
    exact ⟨h1, h2 j hj⟩
  · cases neg
    · obtain ⟨h1, h2⟩ := hk.toward hb (by simp [hmd, goesOut]) hi
      have h2 := h2 j hj
      cases b <;> simp only [sgn, if_true, if_false, Bool.false_eq_true, one_mul, neg_one_mul]
      · exact ⟨h1, h2⟩
      · exact ⟨h1, fun _ => by linarith⟩
    · obtain ⟨h1, h2⟩ := hk.away hb (.inr ⟨hmd, rfl⟩)
      have h2 := h2 j
      cases b <;> simp only [sgn, if_true, if_false, Bool.false_eq_true, one_mul, neg_one_mul, neg_le_neg_iff]
      · exact ⟨h1, fun _ => by linarith⟩
      · exact ⟨h1, h2⟩
  · cases neg
    · obtain ⟨h1, h2⟩ := hk.away hb (.inl ⟨hmd, rfl⟩)
      have h2 := h2 j
      cases b <;> simp only [sgn, if_true, if_false, Bool.false_eq_true, one_mul, neg_one_mul]
      · exact ⟨h1, h2⟩
      · exact ⟨h1, fun _ => by linarith⟩
    · obtain ⟨h1, h2⟩ := hk.toward hb (by simp [hmd, goesOut]) hi
      have h2 := h2 j hj
      cases b <;> simp only [sgn, if_true, if_false, Bool.false_eq_true, one_mul, neg_one_mul, neg_le_neg_iff]
      · exact ⟨h1, fun _ => by linarith⟩
      · exact ⟨h1, h2⟩
  · obtain ⟨h1, h2⟩ := hk.nearest hb hmd j
    by_cases hs : b = neg
    · subst hs
      rw [abs_sgn_sub]
      exact ⟨h1, fun h => (h2 h).imp_left fun h => by rw [h]⟩
    · rw [abs_sgn_sub_of_ne hs hj0 hX.le]
      have h3 : |f.grid j - X| ≤ f.grid j + X := abs_le.mpr ⟨by linarith, by linarith⟩
      refine ⟨h1.trans h3, fun h => (h2 (h3.trans h)).imp_left fun hjk => ?_⟩
      have h4 : |f.grid j - X| = f.grid j + X := le_antisymm h3 (h.trans h1)
      have h0 : f.grid j = 0 := by
        rcases abs_choice (f.grid j - X) with ha | ha <;> linarith
      rw [← hjk, h0, mul_zero, mul_zero]

/-- The result of rounding: a code of the value's sign, either a finite one that its mode keeps or infinity's, and its
flags. -/
theorem roundF_result (f : Fmt) (md : RMode) (neg : Bool) (m : Nat) (e : Int) (hf : 1 ≤ f.fb) (hi : 0 < f.infCode)
    (hm : m ≠ 0) :
    ∃ n c w, Between (f.grid n) (f.grid (n + 1)) (m * 2 ^ e) c ∧ (roundF f md neg m e).1 = f.code neg w ∧
      (w < f.infCode ∧ Kept f md neg n c w ∨
        w = f.infCode ∧ goesOut md neg = true ∧ f.infCode ≤ roundCut md neg n c ∧
          (roundF f md neg m e).2 = fOF ||| fNX) ∧
      ((roundF f md neg m e).2 &&& fNX = 0 ↔ c = 0 ∧ w = roundCut md neg n c ∧ w < f.infCode) ∧
      ((roundF f md neg m e).2 &&& fUF ≠ 0 → (roundF f md neg m e).2 &&& fNX ≠ 0 ∧ (m : ℚ) * 2 ^ e < 2 ^ f.emin) := by
  obtain ⟨n, c, tiny, hb, ht, hr⟩ := roundF_between f md neg m e hf hm
  rw [hr]
  by_cases ho : f.infCode ≤ roundCut md neg n c
  · rw [if_pos ho, overflowCode_eq]
    have hnx : (fOF ||| fNX) &&& fNX ≠ 0 := by decide
    have huf : ¬ (fOF ||| fNX) &&& fUF ≠ 0 := by decide
    cases hg : goesOut md neg
    · exact ⟨n, c, f.infCode - 1, hb, rfl, .inl ⟨by omega, .inr ⟨hg, ho, rfl⟩⟩, iff_of_false hnx fun h => by omega,
        fun h => absurd h huf⟩
    · exact ⟨n, c, f.infCode, hb, rfl, .inr ⟨rfl, rfl, ho, rfl⟩, iff_of_false hnx fun h => by omega,
        fun h => absurd h huf⟩
  · rw [if_neg ho]
    refine ⟨n, c, roundCut md neg n c, hb, rfl, .inl ⟨not_le.mp ho, .inl rfl⟩, ?_, ?_⟩
    · rw [and_iff_left ⟨rfl, not_le.mp ho⟩]
      by_cases hc : c = 0
      · simp [hc]
      · cases tiny <;> simp only [hc, if_false, Bool.false_eq_true, if_true, iff_false] <;> decide
    · intro h
      by_cases hc : c = 0
      · simp [hc] at h
      · cases tiny
        · simp only [hc, if_false, Bool.false_eq_true] at h
          exact absurd h (by decide)
        · simp only [hc, if_false, if_true]
          exact ⟨by decide, ht rfl⟩

/-- The threshold of an overflow to nearest: halfway between the greatest finite magnitude and the next power of two. -/
theorem overflow_threshold_iff (f : Fmt) (heb : 2 ≤ f.eb) (neg : Bool) (X : ℚ) (hX : 0 ≤ X) (x : Dy)
    (hx : x.val = sgn neg * X) :
    (∀ u, finiteOf f (f.maxFin false) = some u → (u.add (dyOf false 1 (f.bias + 1))).le (x.mag.add x.mag)) ↔
      f.grid (f.infCode - 1) + f.grid f.infCode ≤ 2 * X := by
  have hi := f.infCode_pos (by omega)
  have hlt : f.infCode - 1 < f.signBit := (Nat.sub_le _ _).trans_lt f.infCode_lt_signBit
  have hmax : f.maxFin false = f.code false (f.infCode - 1) := rfl
  have hval : ∀ u, finiteOf f (f.maxFin false) = some u →
      ((u.add (dyOf false 1 (f.bias + 1))).le (x.mag.add x.mag) ↔
        f.grid (f.infCode - 1) + f.grid f.infCode ≤ 2 * X) := by
    intro u hu
    have hv := val_of_finiteOf_code f false _ u hlt (hmax ▸ hu)
    rw [Dy.le_iff, Dy.val_add, Dy.val_add, Dy.val_mag, hv, hx, abs_sgn_mul _ hX, val_dyOf, f.grid_infCode heb, two_mul]
    simp [sgn]
  cases hu : finiteOf f (f.maxFin false) with
  | none =>
    rw [hmax, finiteOf_code_eq_none_iff f _ _ hlt] at hu
    omega
  | some u =>
    exact ⟨fun h => (hval u hu).mp (h u rfl), fun h v hv => (hval v (hu.trans hv)).mpr h⟩

/-- Settles O9: the result's magnitude is `Kept` between two codes (`roundF_result`), each mode's clause is `Kept.modes`, and
an overflow lies past the greatest finite magnitude (`Between.pred_lt`), to nearest from its threshold on. -/
theorem floatRounding : Obligations.FloatRounding := by
  unfold Obligations.FloatRounding
  intro f md neg m e heb hfb hm x r
  have hi := f.infCode_pos (by omega)
  have hX : (0 : ℚ) < m * 2 ^ e := by positivity
  have hx : x.val = sgn neg * (m * 2 ^ e) := val_dyOf neg m e
  obtain ⟨n, c, w, hb, hr1, hw, hnx, huf⟩ := roundF_result f md neg m e hfb hi hm
  change r.1 = _ at hr1
  have hws : w < f.signBit := by have := f.infCode_lt_signBit; omega
  have hnone : finiteOf f r.1 = none ↔ f.infCode ≤ w := by rw [hr1, finiteOf_code_eq_none_iff f neg w hws]
  rw [hr1] at *
  refine ⟨?_, f.code_lt neg w hws, fun v hv => ?_, fun h => ?_, fun hmd => ?_⟩
  · rw [f.code_sign neg w hws]
    cases neg <;> simp
  · have hlt : w < f.infCode := by
      by_contra h
      rw [hnone.mpr (not_lt.mp h)] at hv
      cases hv
    have hk : Kept f md neg n c w := hw.elim And.right fun h => by omega
    have hval := val_of_finiteOf_code f neg w v hws hv
    refine ⟨?_, fun h => ?_, fun a u hu => ?_⟩
    · rw [hnx, Dy.same_iff, hval, hx, mul_right_inj' (sgn_ne_zero neg), hk.exact_iff hb hi, and_iff_left hlt]
    · obtain ⟨h1, h2⟩ := huf h
      refine ⟨h1, ?_⟩
      rw [Dy.le_iff, Dy.val_mag, hx, abs_sgn_mul _ hX.le, val_dyOf]
      simpa [sgn] using h2
    · obtain ⟨b, j, hj, huv⟩ := exists_of_finiteOf f a u hu
      rw [f.code_parity neg w hfb]
      exact hk.modes hb hi hX hj hx hval huv
  · obtain ⟨rfl, hg, ho, hr2⟩ := hw.resolve_left fun h' => absurd (hnone.mp h) (by omega)
    refine ⟨rfl, hr2, (goesOut_iff md neg).mp hg, fun a u hu => ?_⟩
    obtain ⟨b, j, hj, huv⟩ := exists_of_finiteOf f a u hu
    have hpast := hb.pred_lt f.grid_strictMono (roundCut_eq md neg n c) ne_of_roundsUp hi ho
    have hmax := f.grid_strictMono.monotone (show j ≤ f.infCode - 1 by omega)
    rw [Dy.le_iff, Dy.val_mag, Dy.val_mag, hx, huv, abs_sgn_mul _ hX.le, abs_sgn_mul _ (f.grid_nonneg j)]
    linarith
  · subst hmd
    have hround : f.infCode ≤ w ↔ f.infCode ≤ roundCut .rne neg n c := by
      rcases hw with ⟨hlt, rfl | ⟨hg, _⟩⟩ | ⟨rfl, _, ho, _⟩
      · exact Iff.rfl
      · simp [goesOut] at hg
      · exact iff_of_true le_rfl ho
    rw [hnone, hround, overflow_threshold_iff f heb neg _ hX.le x hx]
    exact hb.nearest_reaches f.grid_strictMono (by rw [roundCut_eq, roundsUp_rne]) hi (f.even_infCode hfb)

end Sys2Proof.Machine
end

section
/-! ## Queues, launches and placement (O51) -/

/-! ### Tables -/

namespace Sys2Proof

/-- Reading a table whose entries are all changed. -/
@[simp] theorem Table.get?_mapVals {α : Type} (t : Table α) (f : Nat → α → α) (k : Nat) :
    (Table.mapVals t f).get? k = (t.get? k).map (f k) := by
  induction t with
  | nil => rfl
  | cons e t ih =>
    obtain ⟨j, x⟩ := e
    by_cases h : j = k
    · subst h
      simp [Table.mapVals, Table.get?]
    · simpa [Table.mapVals, Table.get?, h] using ih

/-- A table holds nothing under a key that none of its entries has. -/
theorem Table.get?_eq_none_iff {α : Type} (t : Table α) (k : Nat) : t.get? k = none ↔ ∀ e ∈ t, e.1 ≠ k := by
  induction t with
  | nil => simp [Table.get?]
  | cons e t ih =>
    obtain ⟨j, x⟩ := e
    by_cases h : j = k <;> simp [Table.get?, h, ih]

theorem Table.mem_of_get? {α : Type} {t : Table α} {k : Nat} {x : α} (h : t.get? k = some x) : (k, x) ∈ t := by
  induction t with
  | nil => cases h
  | cons e t ih =>
    obtain ⟨j, y⟩ := e
    unfold Table.get? at h
    split at h
    · next hj =>
      cases h
      subst hj
      exact List.mem_cons_self
    · exact List.mem_cons_of_mem _ (ih h)

end Sys2Proof

namespace Sys2Proof.Machine

theorem State.launchAt?_modLaunch_self (s : State) (l : Nat) (f : Launch → Launch) :
    (s.modLaunch l f).launchAt? l = (s.launchAt? l).map f := by
  unfold State.modLaunch
  split
  · next h => rw [h]; rfl
  · next x h =>
    rw [h]
    simp [State.launchAt?, Table.get?_set]

/-! ### CORE_RESERVE and CORE_SPLIT_APPLY -/

@[simp] theorem State.unwatch_cores (s : State) : s.unwatch.cores = s.cores := by
  unfold State.unwatch
  split <;> rfl

/-- Ending the watches ends that of a launch whose group a core can hold. -/
theorem State.launchAt?_unwatch (s : State) (lid gid : Nat) (l : Launch) (hl : s.launchAt? lid = some l)
    (ho : s.offerOf l = some gid) (hd : (s.dieFor lid l gid []).isSome = true) :
    s.unwatch.launchAt? lid = some { l with offered := none } := by
  have hu : s.unwatched lid l = l.offered.isSome := by
    unfold State.unwatched
    rw [ho]
    cases l.offered <;> simp [hd]
  have hmem := Table.mem_of_get? hl
  unfold State.unwatch
  split
  · simp only [State.launchAt?, State.modCp_cp, Table.get?_mapVals] at hl ⊢
    rw [hl]
    cases hof : l.offered
    · simp [hu, hof]
      rw [← hof]
    · simp [hu, hof]
  · next hn =>
    have hf : s.unwatched lid l = false := by
      rw [Bool.eq_false_iff]
      exact fun h => hn (List.any_eq_true.mpr ⟨_, hmem, h⟩)
    rw [hu, Option.isSome_eq_false_iff, Option.isNone_iff_eq_none] at hf
    rw [hl, ← hf]

theorem coreReserve_steps (s : State) (launch gid : Nat) (l : Launch) (hl : s.launchAt? launch = some l)
    (ho : s.offerOf l = some gid) :
    ((s.dieFor launch l gid []).isSome = true → Steps (.coreReserve launch) s fun t =>
      t.launchAt? launch = some { l with offered := none } ∧ t.cores = s.cores) ∧
    (s.dieFor launch l gid [] = none → (∀ x, l.offered = some x → x.1 ≠ gid) → Steps (.coreReserve launch) s fun t =>
      t.launchAt? launch = some { l with offered := some (gid, s.chrono) } ∧ t.cores = s.cores) ∧
    (∀ since d core, s.dieFor launch l gid [] = none → l.offered = some (gid, since) → since + 1000000 ≤ s.chrono →
      (s.cores.any fun e => e.2.reserve.contains (launch, gid)) = false →
      leastBy s.residentDie (s.diesOf l.part) = some d →
      leastBy s.resident ((coresOfDie d).filter (s.holdsEmpty l.desc)) = some core →
      Steps (.coreReserve launch) s fun t =>
        t.coreAt core = { s.coreAt core with reserve := (s.coreAt core).reserve ++ [(launch, gid)] } ∧
        t.waves = s.waves ∧ t.cp = s.cp) := by
  have hex : exec (.coreReserve launch) s = execCoreReserve launch s := rfl
  refine ⟨fun hd => ⟨_, ?_, State.launchAt?_unwatch s launch gid l hl ho hd, s.unwatch_cores⟩, fun hd hn => ?_,
    fun since d core hd hof ht hr hdie hcore => ?_⟩
  · simp [hex, execCoreReserve, hl, ho, hd]
  · have hsince : (l.offered.filter fun o => o.1 == gid) = none := by
      cases hof : l.offered with
      | none => rfl
      | some x => simp [hn x hof]
    refine ⟨s.modLaunch launch fun l => { l with offered := some (gid, s.chrono) }, ?_, ?_, State.modLaunch_cores ..⟩
    · simp [hex, execCoreReserve, hl, ho, hd, hsince]
    · rw [State.launchAt?_modLaunch_self, hl]
      rfl
  · refine ⟨s.modCore core fun c => { c with reserve := c.reserve ++ [(launch, gid)] }, ?_, ?_, rfl, rfl⟩
    · have hnt : ¬ s.chrono < since + 1000000 := by omega
      simp only [hex, execCoreReserve, hl, ho, hd, hof, hr, hdie, hcore, hnt, Option.filter_some, beq_self_eq_true, if_true,
        Option.map_some, Option.isSome_none, Bool.false_eq_true, if_false, decide_false, Bool.or_self,
        Option.bind_some]
    · simp

theorem coreSplitApply_steps (s : State) (core n : Nat) (hp : (s.coreAt core).pendSplit = some n) :
    (s.groupsOn core (fun _ => true) ≠ [] → exec (.coreSplitApply core) s = .next s) ∧
    (s.groupsOn core (fun _ => true) = [] → Steps (.coreSplitApply core) s fun t =>
      t.coreAt core = { s.coreAt core with split := n, pendSplit := none, l1 := [] } ∧ t.waves = s.waves ∧
        t.mem = s.mem) := by
  have hex : exec (.coreSplitApply core) s = execCoreSplitApply core s := rfl
  refine ⟨fun h => ?_, fun h => ⟨s.modCore core fun c => { c with split := n, pendSplit := none, l1 := [] }, ?_, ?_, rfl, rfl⟩⟩
  · simp [hex, execCoreSplitApply, hp, h]
  · simp [hex, execCoreSplitApply, hp, h]
  · simp

/-! ### DEFICIT_CHARGE -/

theorem State.offerOf_congr {s t : State} (hl : t.cp.launches = s.cp.launches) (hi : t.cp.instances = s.cp.instances)
    (hh : t.host = s.host) (hc : ∀ c, ((t.ctxAt? c).map fun x => (x.st, x.ten)) = (s.ctxAt? c).map fun x => (x.st, x.ten))
    (l : Launch) : t.offerOf l = s.offerOf l := by
  have hst : (t.ctxAt? l.ctx).map (·.st) = (s.ctxAt? l.ctx).map (·.st) := by
    have := congrArg (Option.map Prod.fst) (hc l.ctx)
    rw [Option.map_map, Option.map_map] at this
    exact this
  have hstop : ((t.ctxAt? l.ctx).bind fun c => (s.host.tens.get? c.ten).map (·.stopped)) =
      (s.ctxAt? l.ctx).bind fun c => (s.host.tens.get? c.ten).map (·.stopped) := by
    have := congrArg (fun o => o.bind fun (p : CtxSt × Nat) => (s.host.tens.get? p.2).map (·.stopped)) (hc l.ctx)
    rw [Option.bind_map, Option.bind_map] at this
    exact this
  have hout : t.outstanding = s.outstanding := by
    funext n
    simp only [State.outstanding, State.launchAt?, hl, hi]
  have hmet : t.needMet l = s.needMet l := by
    funext n
    simp only [State.needMet, State.producerGone, Cp.instanceOf, hi]
  simp only [State.offerOf, hst, hh, hstop, hout, hmet]

/-- What is offered does not depend on the deficits. -/
theorem State.offers_congr {s t : State} (ho : t.cp.order = s.cp.order) (hl : t.cp.launches = s.cp.launches)
    (hi : t.cp.instances = s.cp.instances) (hh : t.host = s.host)
    (hc : ∀ c, ((t.ctxAt? c).map fun x => (x.st, x.ten)) = (s.ctxAt? c).map fun x => (x.st, x.ten)) : t.offers = s.offers := by
  simp only [State.offers, State.launchAt?, ho, hl, State.offerOf_congr hl hi hh hc]

/-- A context whose launches offer nothing keeps no positive deficit; the others keep theirs (R337). -/
theorem State.ctxAt?_clampDeficits (s : State) (c : Nat) :
    s.clampDeficits.ctxAt? c = (s.ctxAt? c).map fun x =>
      { x with deficit := if s.offers.any (fun o => o.2.1.ctx == c) then x.deficit else min x.deficit 0 } := by
  have ha : (s.offers.map fun o => o.2.1.ctx).contains c = s.offers.any fun o => o.2.1.ctx == c := by
    rw [List.contains_eq_any_beq, List.any_map]
    congr 1
    funext o
    exact Bool.beq_comm
  simp only [State.clampDeficits, State.ctxAt?, State.modCp_cp, Table.get?_mapVals]
  congr 1
  funext x
  rw [ha]
  split <;> rfl

/-- A microsecond of its resident waves is charged to every context (R337). -/
def State.charge (s : State) : State :=
  s.modCp fun c => { c with
    charged := c.charged + 1000
    ctxs := c.ctxs.mapVals fun n (x : Ctx) =>
      { x with deficit := x.deficit - ((s.waves.filter fun e => e.2.ctx == n).length : Nat) } }

theorem State.ctxAt?_charge (s : State) (c : Nat) :
    s.charge.ctxAt? c = (s.ctxAt? c).map fun x =>
      { x with deficit := x.deficit - ((s.waves.filter fun e => e.2.ctx == c).length : Nat) } := by
  simp only [State.charge, State.ctxAt?, State.modCp_cp, Table.get?_mapVals]

theorem State.offers_charge (s : State) : s.charge.offers = s.offers := by
  refine State.offers_congr rfl rfl rfl rfl fun c => ?_
  rw [State.ctxAt?_charge, Option.map_map]
  rfl

theorem State.sameMemory_of_eq {s t : State} (hm : t.mem = s.mem) (hg : t.groups = s.groups) : s.SameMemory t := by
  refine ⟨fun _ => by rw [hm], fun g x y hx hy => ?_⟩
  rw [State.groupAt?, hg] at hy
  cases hx.symm.trans hy
  exact fun _ => rfl

theorem deficitCharge_steps (s : State) :
    (s.chrono < s.cp.charged + 1000 → exec .deficitCharge s = .next s) ∧
    (s.cp.charged + 1000 ≤ s.chrono → Steps .deficitCharge s fun t => t.cp.charged = s.cp.charged + 1000 ∧
      t.waves = s.waves ∧ s.SameMemory t ∧ ∀ c, t.ctxAt? c = (s.ctxAt? c).map fun x =>
        let d : Int := x.deficit - ((s.waves.filter fun e => e.2.ctx == c).length : Nat)
        { x with deficit := if s.offers.any (fun o => o.2.1.ctx == c) then d else min d 0 }) := by
  have hex : exec .deficitCharge s = execDeficitCharge s := rfl
  refine ⟨fun h => by simp [hex, execDeficitCharge, h],
    fun h => ⟨s.charge.clampDeficits, ?_, rfl, rfl, State.sameMemory_of_eq rfl rfl, fun c => ?_⟩⟩
  · rw [hex, execDeficitCharge, if_neg (by omega)]
    rfl
  · rw [State.ctxAt?_clampDeficits, State.offers_charge, State.ctxAt?_charge, Option.map_map]
    rfl

/-! ### Pre-emption for a higher class -/

theorem State.ctxAt?_modCtx_self (s : State) (c : Nat) (f : Ctx → Ctx) :
    (s.modCtx c f).ctxAt? c = (s.ctxAt? c).map f := by
  unfold State.modCtx
  split
  · next h => rw [h]; rfl
  · next x h =>
    rw [h]
    simp [State.ctxAt?, Table.get?_set]

theorem groupDispatch_preempts (s : State) (die c : Nat) (x : Ctx) (hp : s.preemptNext = some c)
    (hc : s.ctxAt? c = some x) :
    Steps (.groupDispatch die) s fun t =>
      (∃ d : Int, d ≤ x.deficit ∧ t.ctxAt? c = some { x with st := .stopping, deficit := d }) ∧ t.waves = s.waves ∧
        s.SameMemory t := by
  have hex : exec (.groupDispatch die) s = execGroupDispatch die s := rfl
  refine ⟨(s.modCtx c fun x => { x with st := .stopping }).clampDeficits, ?_, ?_, ?_, ?_⟩
  · rw [hex, execGroupDispatch, hp]
  · rw [State.ctxAt?_clampDeficits, State.ctxAt?_modCtx_self, hc]
    refine ⟨_, ?_, rfl⟩
    dsimp only
    split
    · exact le_rfl
    · exact min_le_left ..
  · exact State.modCtx_waves ..
  · exact State.sameMemory_of_eq (State.modCtx_mem ..) (State.modCtx_groups ..)

/-! ### WP_PUBLISH -/

theorem Cp.not_mem_dropPub (c : Cp) (id : Nat) : ∀ y ∈ (c.dropPub id).pubs, y.id ≠ id := by
  intro y hy
  simpa using (List.mem_filter.mp hy).2

/-- A publication is marked as held. -/
def Cp.holdPub (c : Cp) (id : Nat) : Cp :=
  { c with pubs := c.pubs.map fun q => if q.id = id then { q with held := true } else q }

/-- A publication that none of its wave stands before is applied. -/
theorem exec_wpPublish (s : State) (p : Pub) (x : Launch)
    (hp : (s.cp.pubs.find? fun y => y.id == p.id && !y.held) = some p)
    (hb : ((s.cp.pubs.takeWhile fun y => y.id != p.id).filter fun y => y.launch == p.launch && y.who == p.who) = [])
    (hx : s.launchAt? p.launch = some x) :
    exec (.wpPublish p.id) s = .next (((s.modCp fun _ =>
      if (s.cp.publish p x).1 = 3 then (s.cp.publish p x).2.2.holdPub p.id else (s.cp.publish p x).2.2.dropPub p.id).giveCode p
        (s.cp.publish p x).1 (s.cp.publish p x).2.1).wpSettled) := by
  have hex : exec (.wpPublish p.id) s = execWpPublish p.id s := rfl
  simp only [hex, execWpPublish, hp, hb, hx, List.any_nil, Bool.false_eq_true, if_false, ne_eq, not_true_eq_false]
  rfl

/-- Changing the entry of a triple changes the one that is read for it. -/
theorem Cp.wpGet_wpMod (c : Cp) (ctx inst key : Nat) (f : WpEntry → WpEntry)
    (hf : ∀ e, (f e).named ctx inst key = e.named ctx inst key) :
    (c.wpMod ctx inst key f).wpGet ctx inst key = (c.wpGet ctx inst key).map f := by
  have hp : ((fun e => e.named ctx inst key) ∘ fun e => if e.named ctx inst key then f e else e) =
      fun e => e.named ctx inst key := by
    funext e
    by_cases h : e.named ctx inst key = true
    · simp only [Function.comp, h, if_true, hf]
    · simp [Function.comp, h]
  simp only [Cp.wpGet, Cp.wpMod, List.find?_map, hp]
  cases h : c.wp.find? fun e => e.named ctx inst key with
  | none => rfl
  | some e =>
    have := List.find?_some h
    simp only [Option.map_some, this, if_true]

/-- The entry of the triple is of generation `gen`, holds no publication and has at least `cur` consumers. -/
def Cp.At (ctx inst key gen cur : Nat) (c : Cp) : Prop :=
  ∃ e, c.wpGet ctx inst key = some e ∧ e.gen = gen ∧ cur ≤ e.cur ∧ e.held = none

section
variable {ctx inst key gen cur : Nat} {c : Cp}

theorem Cp.At.wpMod (h : c.At ctx inst key gen cur) (f : WpEntry → WpEntry)
    (hf : ∀ e, (f e).named ctx inst key = e.named ctx inst key ∧ (f e).gen = e.gen ∧ e.cur ≤ (f e).cur ∧ (f e).held = e.held) :
    (c.wpMod ctx inst key f).At ctx inst key gen cur := by
  obtain ⟨e, he, hg, hc, hh⟩ := h
  obtain ⟨_, hg', hc', hh'⟩ := hf e
  exact ⟨f e, by rw [Cp.wpGet_wpMod _ _ _ _ _ fun e => (hf e).1, he]; rfl, hg'.trans hg, hc.trans hc', hh'.trans hh⟩

theorem Cp.At.of_wp {c' : Cp} (h : c.At ctx inst key gen cur) (hw : c'.wp = c.wp) : c'.At ctx inst key gen cur := by
  unfold Cp.At Cp.wpGet at *
  rwa [hw]

theorem Cp.modLaunch_wp (c : Cp) (l : Nat) (f : Launch → Launch) : (c.modLaunch l f).wp = c.wp := by
  unfold Cp.modLaunch
  split <;> rfl

theorem Cp.launches_modLaunch_self (c : Cp) (l : Nat) (f : Launch → Launch) :
    (c.modLaunch l f).launches.get? l = (c.launches.get? l).map f := by
  unfold Cp.modLaunch
  split
  · next h => rw [h]; rfl
  · next x h =>
    rw [h]
    simp [Table.get?_set]

/-- Counting a registration takes nothing from its entry. -/
theorem Cp.At.countNeed (h : c.At ctx inst key gen cur) (g : Nat) (e : WpEntry) :
    (c.countNeed ctx inst key g e).1.At ctx inst key gen cur := by
  unfold Cp.countNeed
  split
  · exact h
  · split
    · split
      · exact h
      · exact h.wpMod _ fun e => ⟨rfl, rfl, Nat.le_succ _, rfl⟩
    · split
      · split
        · exact h
        · exact h.wpMod _ fun e => ⟨rfl, rfl, le_rfl, rfl⟩
      · exact h.wpMod _ fun e => ⟨rfl, rfl, le_rfl, rfl⟩

theorem Cp.At.retryNeeds (l acc : List Need) (h : c.At ctx inst key gen cur) :
    (c.retryNeeds ctx inst key l acc).1.At ctx inst key gen cur := by
  induction l generalizing acc c with
  | nil => exact h
  | cons n t ih =>
    unfold Cp.retryNeeds
    split
    · exact ih _ h
    · split
      · exact ih _ h
      · split
        · exact ih _ h
        · exact ih _ (h.countNeed _ _)
      · exact ih _ h

/-- A publication that takes effect makes its generation current, with the consumers that waited for it. -/
theorem Cp.at_wpAdvance {e : WpEntry} (he : c.wpGet ctx inst key = some e) :
    (c.wpAdvance ctx inst key).At ctx inst key (e.gen + 1) e.next := by
  have h0 : (c.wpMod ctx inst key fun e => { e with gen := e.gen + 1, cur := e.next, next := 0, held := none }).At
      ctx inst key (e.gen + 1) e.next := by
    have hm := Cp.wpGet_wpMod c ctx inst key (fun e => { e with gen := e.gen + 1, cur := e.next, next := 0, held := none })
      fun _ => rfl
    rw [he] at hm
    exact ⟨_, hm, rfl, le_rfl, rfl⟩
  refine Cp.At.wpMod (List.foldlRecOn _ _ h0 fun c h a _ => ?_) _ fun e => ⟨rfl, rfl, le_rfl, rfl⟩
  split
  · exact h
  · dsimp only
    split
    · exact (h.retryNeeds _ _).of_wp (Cp.modLaunch_wp ..)
    · exact h

end

theorem wpPublish_steps (s : State) (p : Pub) (x : Launch)
    (hp : (s.cp.pubs.find? fun y => y.id == p.id && !y.held) = some p)
    (hb : ((s.cp.pubs.takeWhile fun y => y.id != p.id).filter fun y => y.launch == p.launch && y.who == p.who) = [])
    (hx : s.launchAt? p.launch = some x) :
    let goes := fun (code gen : Nat) (P : State → Prop) =>
      ∃ u : State, exec (.wpPublish p.id) s = .next (u.giveCode p code gen).wpSettled ∧ P u
    let done := fun (u : State) => ∀ y ∈ u.cp.pubs, y.id ≠ p.id
    (s.cp.wpGet x.ctx x.inst p.key = none →
      (s.cp.wpRoom = true → goes 0 0 fun u => done u ∧
        u.cp.wp = s.cp.wp ++ [⟨x.ctx, x.inst, p.key, p.gen, 0, 0, false, none, p.launch⟩]) ∧
      (s.cp.wpRoom = false → goes 1 0 fun u => done u ∧ u.cp.wp = s.cp.wp ∧
        u.launchAt? p.launch = some { x with ovf := true })) ∧
    (∀ e, s.cp.wpGet x.ctx x.inst p.key = some e →
      (p.gen ≠ e.gen + 1 → goes 2 e.gen fun u => done u ∧ u.cp.wp = s.cp.wp) ∧
      (p.gen = e.gen + 1 → e.cur = 0 → goes 0 e.gen fun u => done u ∧ ∃ e', u.cp.wpGet x.ctx x.inst p.key = some e' ∧
        e'.gen = e.gen + 1 ∧ e.next ≤ e'.cur ∧ e'.held = none) ∧
      (p.gen = e.gen + 1 → e.cur ≠ 0 → e.held = none → goes 3 e.gen fun u =>
        u.cp.wpGet x.ctx x.inst p.key = some { e with held := some p.id } ∧ ∃ y ∈ u.cp.pubs, y.id = p.id ∧ y.held = true)) := by
  have hex := exec_wpPublish s p x hp hb hx
  have hdone := fun c => Cp.not_mem_dropPub c p.id
  dsimp only
  refine ⟨fun hn => ⟨fun hr => ?_, fun hr => ?_⟩, fun e he => ⟨fun hg => ?_, fun hg hc => ?_, fun hg hc hh => ?_⟩⟩
  · have hpub : s.cp.publish p x = (0, 0, s.cp.wpAdd x.ctx x.inst p.key p.gen p.launch) := by simp [Cp.publish, hn, hr]
    rw [hpub] at hex
    exact ⟨_, hex, hdone _, rfl⟩
  · have hpub : s.cp.publish p x = (1, 0, s.cp.modLaunch p.launch fun x => { x with ovf := true }) := by
      simp [Cp.publish, hn, hr]
    rw [hpub] at hex
    exact ⟨_, hex, hdone _, Cp.modLaunch_wp .., (Cp.launches_modLaunch_self ..).trans (congrArg _ hx)⟩
  · have hpub : s.cp.publish p x = (2, e.gen, s.cp) := by simp [Cp.publish, he, hg]
    rw [hpub] at hex
    exact ⟨_, hex, hdone _, rfl⟩
  · have hpub : s.cp.publish p x = (0, e.gen, s.cp.wpAdvance x.ctx x.inst p.key) := by simp [Cp.publish, he, hg, hc]
    rw [hpub] at hex
    exact ⟨_, hex, hdone _, (Cp.at_wpAdvance he).of_wp rfl⟩
  · have hpub : s.cp.publish p x = (3, e.gen, s.cp.wpMod x.ctx x.inst p.key fun e => { e with held := some p.id }) := by
      simp [Cp.publish, he, hg, hc, hh]
    rw [hpub] at hex
    have hm := Cp.wpGet_wpMod s.cp x.ctx x.inst p.key (fun e => { e with held := some p.id }) fun _ => rfl
    rw [he] at hm
    refine ⟨_, hex, hm, { p with held := true }, ?_, rfl, rfl⟩
    exact List.mem_map.mpr ⟨p, List.mem_of_find?_eq_some hp, if_pos rfl⟩

/-! ### LAUNCH_OPEN -/

/-- Registering changes the Waypoint Table alone. -/
theorem Cp.countNeed_rest (c : Cp) (ctx inst key g : Nat) (e : WpEntry) :
    (c.countNeed ctx inst key g e).1 = { c with wp := (c.countNeed ctx inst key g e).1.wp } := by
  unfold Cp.countNeed
  (repeat' split) <;> rfl

theorem Cp.register_rest (c : Cp) (l ctx inst key g : Nat) :
    (c.register l ctx inst key g).1 = { c with wp := (c.register l ctx inst key g).1.wp } := by
  unfold Cp.register
  split
  · exact Cp.countNeed_rest ..
  · split
    · rfl
    · dsimp only
      split
      · rw [Cp.countNeed_rest]
        rfl
      · rfl

theorem Cp.registerAll_rest (l ctx inst : Nat) (ws : List (Nat × Nat × WpMap × Nat)) (acc : List Need) (c : Cp) :
    (Cp.registerAll l ctx inst ws acc c).1 = { c with wp := (Cp.registerAll l ctx inst ws acc c).1.wp } := by
  induction ws generalizing acc c with
  | nil => rfl
  | cons w ws ih =>
    obtain ⟨g, i, m, key⟩ := w
    unfold Cp.registerAll
    dsimp only
    split
    · exact Cp.register_rest ..
    · rw [ih, Cp.register_rest]

theorem Cp.dropNeed_rest (c : Cp) (ctx inst : Nat) (n : Need) :
    c.dropNeed ctx inst n = { c with wp := (c.dropNeed ctx inst n).wp } := by
  unfold Cp.dropNeed
  split <;> rfl

theorem Cp.foldl_rest {α : Type} (f : Cp → α → Cp) (h : ∀ c a, f c a = { c with wp := (f c a).wp }) (l : List α) (c : Cp) :
    l.foldl f c = { c with wp := (l.foldl f c).wp } := by
  induction l generalizing c with
  | nil => rfl
  | cons a l ih => rw [List.foldl_cons, ih, h]

theorem Cp.modLaunch_rest (c : Cp) (l : Nat) (f : Launch → Launch) :
    c.modLaunch l f = { c with launches := (c.modLaunch l f).launches } := by
  unfold Cp.modLaunch
  split <;> rfl

/-- Withdrawing needs changes the Waypoint Table and the needs of the launch. -/
theorem Cp.withdraw_rest (c : Cp) (l : Nat) (p : Need → Bool) :
    c.withdraw l p = { c with wp := (c.withdraw l p).wp, launches := (c.withdraw l p).launches } := by
  unfold Cp.withdraw
  split
  · rfl
  · dsimp only
    rw [Cp.foldl_rest (fun c (n : Need) => c.fixDefer _ _ n.key) fun _ _ => rfl, Cp.modLaunch_rest,
      Cp.foldl_rest _ fun c (n : Need) => Cp.dropNeed_rest c _ _ n]

theorem Cp.launches_withdraw (c : Cp) (l : Nat) (p : Need → Bool) :
    (c.withdraw l p).launches.get? l = (c.launches.get? l).map fun x => { x with needs := x.needs.filter fun n => !p n } := by
  unfold Cp.withdraw
  split
  · next h => rw [h]; rfl
  · dsimp only
    rw [Cp.foldl_rest (fun c (n : Need) => c.fixDefer _ _ n.key) fun _ _ => rfl]
    rw [Cp.launches_modLaunch_self, Cp.foldl_rest _ fun c (n : Need) => Cp.dropNeed_rest c _ _ n]

theorem Cp.wpFault_rest (c : Cp) (l : Nat) :
    c.wpFault l = { c with wp := (c.wpFault l).wp, launches := (c.wpFault l).launches } := by
  unfold Cp.wpFault
  rw [Cp.modLaunch_rest, Cp.withdraw_rest]

theorem Cp.launches_wpFault (c : Cp) (l : Nat) :
    (c.wpFault l).launches.get? l =
      (c.launches.get? l).map fun x => { x with needs := x.needs.filter fun _ => false, fault := some (x.fault.getD 4) } := by
  rw [Cp.wpFault, Cp.launches_modLaunch_self, Cp.launches_withdraw, Option.map_map]
  rfl

/-- The state once the needs of launch `launch` are registered. -/
def State.registered (s : State) (launch : Nat) (l : Launch) : State :=
  let s := s.modCp fun c => { c with opens := c.opens ++ [launch] }
  let r := Cp.registerAll launch l.ctx l.inst l.wants [] s.cp
  (s.modCp fun _ => r.1).modLaunch launch fun l => { l with opened := true, needs := r.2.1 }

theorem State.launchAt?_registered (s : State) (launch : Nat) (l : Launch) (hl : s.launchAt? launch = some l) :
    (s.registered launch l).launchAt? launch = some { l with
      opened := true
      needs := (Cp.registerAll launch l.ctx l.inst l.wants [] { s.cp with opens := s.cp.opens ++ [launch] }).2.1 } := by
  rw [State.registered, State.launchAt?_modLaunch_self, State.launchAt?, State.modCp_cp, Cp.registerAll_rest]
  exact congrArg _ hl

theorem State.instances_registered (s : State) (launch : Nat) (l : Launch) :
    (s.registered launch l).cp.instances = s.cp.instances := by
  have hm : ∀ (t : State) f, (t.modLaunch launch f).cp.instances = t.cp.instances := fun t f => by
    unfold State.modLaunch
    split <;> rfl
  rw [State.registered, hm, State.modCp_cp, Cp.registerAll_rest]
  rfl

/-- LAUNCH_OPEN of a launch that may open: its needs are registered, and it faults where one is stale or lost. -/
theorem exec_launchOpen (s : State) (launch : Nat) (l : Launch) (hl : s.launchAt? launch = some l) (ho : l.opened = false)
    (hm : s.mayOpen l = true) (hf : l.fault = none) :
    let r := Cp.registerAll launch l.ctx l.inst l.wants [] { s.cp with opens := s.cp.opens ++ [launch] }
    exec (.launchOpen launch) s = .next
      (if r.2.2 || r.2.1.any (s.needLost l) then (s.registered launch l).modCp fun c => c.wpFault launch
        else s.registered launch l).wpSettled := by
  intro r
  have hex : exec (.launchOpen launch) s = execLaunchOpen launch s := rfl
  have hr := State.launchAt?_registered s launch l hl
  have hlost : ∀ ns, (s.registered launch l).needLost { l with opened := true, needs := ns } = s.needLost l := fun ns => by
    funext n
    simp only [State.needLost, State.producerGone, Cp.instanceOf, State.instances_registered]
  rw [hex, execLaunchOpen, hl]
  dsimp only
  rw [if_neg (by simp [ho, hm]), if_neg (by simp [hf])]
  unfold State.registered at hr hlost ⊢
  dsimp only at hr hlost ⊢
  rw [hr]
  dsimp only
  simp only [hlost]
  rfl

theorem launchOpen_steps (s : State) (launch : Nat) (l : Launch) (hl : s.launchAt? launch = some l) (ho : l.opened = false)
    (hm : s.mayOpen l = true) (hf : l.fault = none) :
    let r := Cp.registerAll launch l.ctx l.inst l.wants [] { s.cp with opens := s.cp.opens ++ [launch] }
    (r.2.2 = false → (∀ n ∈ r.2.1, s.needLost l n = false) →
      ∃ u : State, exec (.launchOpen launch) s = .next u.wpSettled ∧
        u.launchAt? launch = some { l with opened := true, needs := r.2.1 }) ∧
    (r.2.2 = true → ∃ (u : State) (l' : Launch), exec (.launchOpen launch) s = .next u.wpSettled ∧
      u.launchAt? launch = some l' ∧ l'.opened = true ∧ l'.fault = some 4) := by
  intro r
  have hex := exec_launchOpen s launch l hl ho hm hf
  have hr := State.launchAt?_registered s launch l hl
  refine ⟨fun hs hn => ⟨s.registered launch l, ?_, hr⟩, fun hs => ⟨(s.registered launch l).modCp fun c => c.wpFault launch, _, ?_,
    (Cp.launches_wpFault ..).trans (congrArg _ hr), rfl, ?_⟩⟩
  · rw [hex, if_neg]
    rw [hs, Bool.false_or, Bool.not_eq_true, List.any_eq_false]
    exact fun n h => by simp [hn n h]
  · rw [hex, if_pos]
    rw [hs, Bool.true_or]
  · simp [hf]

end Sys2Proof.Machine
end

section
namespace Sys2Proof.Machine

/-! ### Settling -/

@[simp] theorem MemSys.put_bytes (m : MemSys) (pa : Nat) (bs : List Byte) (whole : Bool) :
    (m.put pa bs whole).bytes = Memory.write m.bytes pa bs := by
  unfold MemSys.put
  dsimp only
  (repeat' split) <;> simp

@[simp] theorem MemSys.put_owners (m : MemSys) (pa : Nat) (bs : List Byte) (whole : Bool) :
    (m.put pa bs whole).owners = m.owners := by
  unfold MemSys.put MemSys.setHbmPoison
  dsimp only
  (repeat' split) <;> rfl

@[simp] theorem MemSys.put_moving (m : MemSys) (pa : Nat) (bs : List Byte) (whole : Bool) :
    (m.put pa bs whole).moving = m.moving := by
  unfold MemSys.put MemSys.setHbmPoison
  dsimp only
  (repeat' split) <;> rfl

@[simp] theorem State.everyGroup_waves (s : State) (f : Group → Group) : (s.everyGroup f).waves = s.waves := rfl

theorem State.modWave_waves (s : State) (k : Nat) (f : Wave → Wave) :
    (s.modWave k f).waves = ((s.waves.get? k).map fun w => s.waves.set k (f w)).getD s.waves := by
  unfold State.modWave State.waveAt?
  cases s.waves.get? k <;> rfl

/-- What a due access leaves of the waves and of the bytes depends on these alone. -/
theorem State.makeVisible_congr {s t : State} (a : Acc) (hw : s.waves = t.waves) (hb : s.mem.bytes = t.mem.bytes) :
    (s.makeVisible a).waves = (t.makeVisible a).waves ∧ (s.makeVisible a).mem.bytes = (t.makeVisible a).mem.bytes := by
  unfold State.makeVisible State.putDev
  dsimp only
  rw [hb]
  (repeat' split) <;> simp [hw, hb, State.modWave_waves]

theorem settleList_congr {s t : State} (n : Nat) (l : List Acc) (hw : s.waves = t.waves) (hb : s.mem.bytes = t.mem.bytes) :
    (settleList n l s).waves = (settleList n l t).waves ∧ (settleList n l s).mem.bytes = (settleList n l t).mem.bytes := by
  induction l generalizing s t with
  | nil => exact ⟨hw, hb⟩
  | cons a l ih =>
    unfold settleList
    split
    · obtain ⟨h1, h2⟩ := State.makeVisible_congr a hw hb
      exact ih h1 h2
    · exact ih hw hb

/-- What has come due by now changes the waves and the bytes alike, whatever else the states hold. -/
theorem State.settle_congr {s t : State} (hw : s.waves = t.waves) (hb : s.mem.bytes = t.mem.bytes)
    (ha : s.mem.accs = t.mem.accs) (hc : s.chrono = t.chrono) :
    s.settle.waves = t.settle.waves ∧ s.settle.mem.bytes = t.settle.mem.bytes := by
  unfold State.settle
  rw [ha, hc]
  exact settleList_congr _ _ hw hb

/-- A field that no due access changes is as it was once all are visible. -/
theorem State.settle_of_makeVisible {α : Type} (p : State → α) (h : ∀ s a, p (s.makeVisible a) = p s) (s : State) :
    p s.settle = p s := by
  have hl : ∀ (n : Nat) (l : List Acc) (s : State), p (settleList n l s) = p s := by
    intro n l
    induction l with
    | nil => exact fun s => rfl
    | cons a l ih =>
      intro s
      unfold settleList
      rw [ih]
      split
      · exact h s a
      · rfl
  exact hl _ _ s

@[simp] theorem State.settle_owners (s : State) : s.settle.mem.owners = s.mem.owners := by
  refine State.settle_of_makeVisible (fun s => s.mem.owners) (fun s a => ?_) s
  unfold State.makeVisible State.putDev
  dsimp only
  (repeat' split) <;> simp [MemSys.modAcc, MemSys.dropAcc]

@[simp] theorem State.settle_moving (s : State) : s.settle.mem.moving = s.mem.moving := by
  refine State.settle_of_makeVisible (fun s => s.mem.moving) (fun s a => ?_) s
  unfold State.makeVisible State.putDev
  dsimp only
  (repeat' split) <;> simp [MemSys.modAcc, MemSys.dropAcc]

@[simp] theorem State.everyGroup_waveAt? (s : State) (f : Group → Group) (k : Nat) :
    (s.everyGroup f).waveAt? k = s.waveAt? k :=
  rfl

@[simp] theorem State.waveAt?_modWave_isSome (s : State) (j k : Nat) (f : Wave → Wave) :
    ((s.modWave j f).waveAt? k).isSome = (s.waveAt? k).isSome := by
  rw [State.waveAt?_modWave]
  split
  · simp [*]
  · rfl

/-- Settling keeps which waves there are. -/
theorem State.waveAt?_settle_isSome (s : State) (k : Nat) : (s.settle.waveAt? k).isSome = (s.waveAt? k).isSome := by
  refine State.settle_of_makeVisible (fun s => (s.waveAt? k).isSome) (fun s a => ?_) s
  unfold State.makeVisible State.putDev
  dsimp only
  (repeat' split) <;> simp

theorem State.groupAt?_settle_isSome (s : State) (k : Nat) : (s.settle.groupAt? k).isSome = (s.groupAt? k).isSome := by
  refine State.settle_of_makeVisible (fun s => (s.groupAt? k).isSome) (fun s a => ?_) s
  unfold State.makeVisible State.putDev
  dsimp only
  (repeat' split) <;> simp [State.groupAt?, State.everyGroup]

/-- A walk of the tables reads the bytes and who owns them. -/
theorem walkFrom_congr {m m' : MemSys} (hb : m.bytes = m'.bytes) (ho : m.owners = m'.owners) (hv : m.moving = m'.moving)
    (cache : List TlbEntry) (ten ctx va pick : Nat) (l : List Nat) (base : Nat) (seen : List TlbEntry) :
    walkFrom m cache ten ctx va pick l base seen = walkFrom m' cache ten ctx va pick l base seen := by
  have hw : m.owns = m'.owns := by
    funext ten pa
    simp only [MemSys.owns, MemSys.owner, ho, hv]
  induction l generalizing base seen with
  | nil => rfl
  | cons lv l ih =>
    simp only [walkFrom, entry64, hb, hw, ih]
    rfl

/-- Dropping replicas changes no translation. -/
theorem State.translateCp_dropReplicas (s : State) (f : Nat → Leased → Bool) (ctx va : Nat) (w : Want) :
    (s.modMem fun m => m.dropReplicas f).translateCp ctx va w = s.translateCp ctx va w := by
  have hs := State.settle_congr (s := s.modMem fun m => m.dropReplicas f) (t := s) rfl rfl rfl rfl
  have hw : ∀ c, (s.modMem fun m => m.dropReplicas f).walkNow c ctx va = s.walkNow c ctx va := fun c =>
    walkFrom_congr hs.2 (by simp; rfl) (by simp; rfl) ..
  simp only [State.translateCp, hw, State.ctxAt?_modMem]
  rfl

end Sys2Proof.Machine
end

section
namespace Sys2Proof.Machine

/-! ### What writing a completion word leaves as it is -/

@[simp] theorem State.failAcc_cp_cores (s : State) (a : Acc) (c : Cause) (f : Failure) (addr : DWord) :
    (s.failAcc a c f addr).cp = s.cp ∧ (s.failAcc a c f addr).cores = s.cores := by
  simp only [State.failAcc]
  (repeat' split) <;> simp [State.modCopy]

@[simp] theorem State.failAll_cp_cores (s : State) (g : List Acc) (code : Nat) :
    (s.failAll g code).cp = s.cp ∧ (s.failAll g code).cores = s.cores := by
  unfold State.failAll
  induction g generalizing s with
  | nil => exact ⟨rfl, rfl⟩
  | cons a g ih =>
    obtain ⟨hp, hc⟩ := ih (s.failAcc a .fabric (s.failureOf a code) 0)
    obtain ⟨ap, ac⟩ := State.failAcc_cp_cores s a .fabric (s.failureOf a code) 0
    exact ⟨hp.trans ap, hc.trans ac⟩

@[simp] theorem State.setSlot_cp_cores (s : State) (r : SlotRef) (x : RSlot) :
    (s.setSlot r x).cp = s.cp ∧ (s.setSlot r x).cores = s.cores := by
  unfold State.setSlot
  split <;> simp

@[simp] theorem State.setStage_cp_cores (s : State) (g : List Acc) (st : Stage) :
    (s.setStage g st).cp = s.cp ∧ (s.setStage g st).cores = s.cores :=
  ⟨rfl, rfl⟩

@[simp] theorem State.sendOn_cp_cores (s : State) (p peer : Nat) (slot : SlotRef) (seq : BitVec 8) (r : PeerReq) :
    (s.sendOn p peer slot seq r).cp = s.cp ∧ (s.sendOn p peer slot seq r).cores = s.cores :=
  ⟨rfl, rfl⟩

@[simp] theorem State.sendRequest_cp_cores (s : State) (g : List Acc) (r : SlotRef) :
    (s.sendRequest g r).cp = s.cp ∧ (s.sendRequest g r).cores = s.cores := by
  cases g with
  | nil => exact ⟨rfl, rfl⟩
  | cons a g =>
    unfold State.sendRequest
    dsimp only
    (repeat' split) <;> simp

/-- An access whose number is in `ids` is queued with slot `j`. -/
def Acc.queuedIn (b : Acc) (ids : List Nat) (j : Nat) : Acc :=
  if ids.contains b.id then { b with slot := some j, stage := .queued } else b

theorem Acc.queuedIn_deed (b : Acc) (ids : List Nat) (j : Nat) :
    (b.queuedIn ids j).kind = b.kind ∧ (b.queuedIn ids j).tgt = b.tgt ∧ (b.queuedIn ids j).data = b.data := by
  unfold Acc.queuedIn
  split <;> exact ⟨rfl, rfl, rfl⟩

/-- Taking slots is over, or goes on after requests have failed, or after one has taken its slot and left. -/
theorem State.takeSlots_succ (s : State) (o : Owner) (n : Nat) :
    s.takeSlots o (n + 1) = s ∨ (∃ g, s.takeSlots o (n + 1) = (s.failAll g 6).takeSlots o n) ∨
      ∃ (t : State) (ids : List Nat) (j : Nat) (g : List Acc) (r : SlotRef), (t.cp = s.cp ∧ t.cores = s.cores) ∧
        t.mem.accs = s.mem.accs.map (·.queuedIn ids j) ∧
        s.takeSlots o (n + 1) = (t.sendRequest g r).takeSlots o n := by
  rw [State.takeSlots]
  split
  · exact .inl rfl
  · split
    · exact .inl rfl
    next a _ =>
      refine iteInduction (motive := fun u => u = s ∨ (∃ g, u = (s.failAll g 6).takeSlots o n) ∨
        ∃ (t : State) (ids : List Nat) (j : Nat) (g : List Acc) (r : SlotRef), (t.cp = s.cp ∧ t.cores = s.cores) ∧
          t.mem.accs = s.mem.accs.map (·.queuedIn ids j) ∧ u = (t.sendRequest g r).takeSlots o n)
        (fun _ => .inr (.inl ⟨_, rfl⟩)) fun _ => ?_
      split
      · exact .inl rfl
      next j _ =>
        refine .inr (.inr ⟨_, (s.mem.accs.filter fun b => b.stage == .needSlot && sameRequest a b).map (·.id), j, _, _, ?_, ?_, rfl⟩)
        · simp
        · simp only [State.modMem_mem, State.setSlot_mem]
          rfl

@[simp] theorem State.takeSlots_cp_cores (s : State) (o : Owner) (n : Nat) :
    (s.takeSlots o n).cp = s.cp ∧ (s.takeSlots o n).cores = s.cores := by
  induction n generalizing s with
  | zero => exact ⟨rfl, rfl⟩
  | succ n ih =>
    obtain h | ⟨g, h⟩ | ⟨t, ids, j, g, r, ht, -, h⟩ := s.takeSlots_succ o n
    · simp [h]
    · simp [h, ih]
    · simp [h, ih, ht]

@[simp] theorem State.engineAcc_cp_cores (s : State) (kind : AKind) (pa : Nat) (bs : List Byte)
    (after op launch : Nat) (page : Option (Nat × Nat)) :
    (s.engineAcc kind pa bs after op launch page).2.cp = s.cp ∧
      (s.engineAcc kind pa bs after op launch page).2.cores = s.cores := by
  unfold State.engineAcc
  dsimp only
  split <;> exact ⟨rfl, rfl⟩

@[simp] theorem State.engineFar_cp_cores (s : State) (kind : AKind) (tgt : Target) (bs : List Byte)
    (ctx launch : Nat) (page : Option (Nat × Nat)) :
    (s.engineFar kind tgt bs ctx launch page).cp = s.cp ∧
      (s.engineFar kind tgt bs ctx launch page).cores = s.cores := by
  simp [State.engineFar, State.fresh]

@[simp] theorem State.writeDone_cp_cores (s : State) (ctx done : Nat) (val : BitVec 32) (code : Nat) :
    (s.writeDone ctx done val code).cp = s.cp ∧ (s.writeDone ctx done val code).cores = s.cores := by
  unfold State.writeDone
  dsimp only
  (repeat' split) <;> simp

/-! ### A store under way -/

/-- A store of `bs` to device memory at `pa` is under way. -/
def State.storing (s : State) (pa : Nat) (bs : List Byte) : Prop :=
  ∃ a ∈ s.mem.accs, a.kind = .store ∧ a.tgt = .dev pa ∧ a.data = bs

/-- A store of `bs` to device memory at `pa` has been given the time at which it becomes visible. -/
def State.stored (s : State) (pa : Nat) (bs : List Byte) : Prop :=
  ∃ a ∈ s.mem.accs, (a.kind = .store ∧ a.tgt = .dev pa ∧ a.data = bs) ∧ a.wct?.isSome = true

theorem State.stored.storing {s : State} {pa : Nat} {bs : List Byte} (h : s.stored pa bs) : s.storing pa bs := by
  obtain ⟨a, ha, hs, -⟩ := h
  exact ⟨a, ha, hs⟩

theorem State.storing_congr {s t : State} {pa : Nat} {bs : List Byte} (h : t.mem.accs = s.mem.accs) (hs : s.storing pa bs) :
    t.storing pa bs := by
  unfold State.storing
  rw [h]
  exact hs

theorem State.stored_congr {s t : State} {pa : Nat} {bs : List Byte} (h : t.mem.accs = s.mem.accs) (hs : s.stored pa bs) :
    t.stored pa bs := by
  unfold State.stored
  rw [h]
  exact hs

/-- Accesses that keep what they do, though not their stages, keep a store under way. -/
theorem State.storing_of_map {s t : State} {pa : Nat} {bs : List Byte} {f : Acc → Acc}
    (hf : ∀ a, (f a).kind = a.kind ∧ (f a).tgt = a.tgt ∧ (f a).data = a.data)
    (h : t.mem.accs = s.mem.accs.map f) (hs : s.storing pa bs) : t.storing pa bs := by
  obtain ⟨a, ha, hk, ht, hd⟩ := hs
  obtain ⟨fk, ft, fd⟩ := hf a
  exact ⟨f a, h ▸ List.mem_map_of_mem ha, fk.trans hk, ft.trans ht, fd.trans hd⟩

theorem State.storing_setStage {s : State} {pa : Nat} {bs : List Byte} (g : List Acc) (st : Stage) (h : s.storing pa bs) :
    (s.setStage g st).storing pa bs := by
  refine State.storing_of_map (fun b => ?_) rfl h
  split <;> exact ⟨rfl, rfl, rfl⟩

/-- A request that leaves, or is held, changes at most the stage of its accesses. -/
theorem State.sendRequest_accs (s : State) (g : List Acc) (r : SlotRef) :
    (s.sendRequest g r).mem.accs = s.mem.accs ∨ ∃ st, (s.sendRequest g r).mem.accs = (s.setStage g st).mem.accs := by
  cases g with
  | nil => exact .inl rfl
  | cons a g =>
    have far : ∀ u : State, u.mem = s.mem → ∀ p peer x q,
        ((u.setStage (a :: g) .travelling).sendOn p peer r x q).mem.accs = (s.setStage (a :: g) .travelling).mem.accs := by
      intro u hu p peer x q
      simp [State.setStage, hu]
    have hw : (if r.tce then s else s.modWave r.owner fun w => w.count 9 1).mem = s.mem := by
      split <;> simp
    dsimp only [State.sendRequest]
    cases a.tgt with
    | remote peer win off =>
      dsimp only
      split
      · exact .inr ⟨.travelling, far _ hw ..⟩
      · exact .inr ⟨.queued, rfl⟩
    | mcast group win off =>
      dsimp only
      split
      · exact .inr ⟨.travelling, far _ hw ..⟩
      · exact .inr ⟨.queued, rfl⟩
    | host port addr => exact .inr ⟨.travelling, by dsimp only; split <;> rfl⟩
    | _ => exact .inl rfl

theorem State.storing_sendRequest {s : State} {pa : Nat} {bs : List Byte} (g : List Acc) (r : SlotRef) (h : s.storing pa bs) :
    (s.sendRequest g r).storing pa bs := by
  obtain he | ⟨st, he⟩ := s.sendRequest_accs g r
  · exact State.storing_congr he h
  · exact State.storing_congr he (State.storing_setStage g st h)

/-- A failure ends no access that has its time. -/
theorem State.stored_failAcc {s : State} {pa : Nat} {bs : List Byte} (a : Acc) (c : Cause) (f : Failure) (addr : DWord)
    (h : s.stored pa bs) : (s.failAcc a c f addr).stored pa bs := by
  have hacc : (s.failAcc a c f addr).mem.accs = s.mem.accs.filter fun b => !a.endsWith b := by
    unfold State.failAcc
    dsimp only
    (repeat' split) <;> simp [State.modCopy]
  obtain ⟨b, hb, hs, hw⟩ := h
  refine ⟨b, ?_, hs, hw⟩
  have hn : a.endsWith b = false := by
    unfold Acc.endsWith
    simp [Option.isNone_iff_eq_none, Option.isSome_iff_ne_none.mp hw]
  rw [hacc, List.mem_filter, hn]
  exact ⟨hb, rfl⟩

theorem State.stored_failAll {s : State} {pa : Nat} {bs : List Byte} (g : List Acc) (code : Nat)
    (h : s.stored pa bs) : (s.failAll g code).stored pa bs := by
  unfold State.failAll
  induction g generalizing s with
  | nil => exact h
  | cons a g ih => exact ih (State.stored_failAcc _ _ _ _ h)

/-- One request that takes its slot leaves a store that has its time under way. -/
theorem State.storing_takeSlots_one {s : State} {pa : Nat} {bs : List Byte} (o : Owner) (h : s.stored pa bs) :
    (s.takeSlots o 1).storing pa bs := by
  obtain he | ⟨g, he⟩ | ⟨t, ids, j, g, r, -, ht, he⟩ := s.takeSlots_succ o 0
  · rw [show s.takeSlots o 1 = s from he]
    exact h.storing
  · rw [show s.takeSlots o 1 = s.failAll g 6 from he]
    exact (State.stored_failAll g 6 h).storing
  · rw [show s.takeSlots o 1 = t.sendRequest g r from he]
    exact State.storing_sendRequest g r (State.storing_of_map (fun b => b.queuedIn_deed ids j) ht h.storing)

theorem State.engineAcc_accs (s : State) (kind : AKind) (pa : Nat) (bs : List Byte)
    (after op launch : Nat) (page : Option (Nat × Nat)) :
    ∃ a : Acc, (a.kind = kind ∧ a.tgt = .dev pa ∧ a.data = bs) ∧ a.wct?.isSome = true ∧
      (s.engineAcc kind pa bs after op launch page).2.mem.accs = s.mem.accs ++ [a] := by
  unfold State.engineAcc
  dsimp only
  split <;> exact ⟨_, ⟨rfl, rfl, rfl⟩, rfl, rfl⟩

/-- A completion word to device memory is a store that has its time. -/
theorem State.stored_writeDone_dev {s : State} {ctx done pa : Nat} (val : BitVec 32) (code : Nat) (hd : done ≠ 0)
    (ht : s.translateCp ctx done .store = .to (.dev pa)) :
    (s.writeDone ctx done val code).stored pa (bytesOf 8 (val.toNat + code * 2 ^ 32)) := by
  unfold State.writeDone
  simp only [hd, if_false, ht]
  obtain ⟨a, hs, hw, h⟩ := State.engineAcc_accs s .store pa (bytesOf 8 (val.toNat + code * 2 ^ 32)) 0 (ctx + 1) 0 (s.pageAt ctx done)
  exact ⟨a, by rw [h]; exact List.mem_append_right _ (List.mem_singleton_self a), hs, hw⟩

/-- Writing another completion word leaves a store that has its time under way. -/
theorem State.storing_writeDone {s : State} {pa : Nat} {bs : List Byte} (ctx done : Nat) (val : BitVec 32) (code : Nat)
    (h : s.stored pa bs) : (s.writeDone ctx done val code).storing pa bs := by
  have happ : ∀ (t : State) (a : Acc), t.mem.accs = s.mem.accs ++ [a] → t.stored pa bs := by
    intro t a ht
    obtain ⟨b, hb, hs⟩ := h
    exact ⟨b, by simp [ht, hb], hs⟩
  unfold State.writeDone
  dsimp only
  split
  · exact h.storing
  · split
    · next p _ =>
      obtain ⟨a, -, -, ha⟩ := State.engineAcc_accs s .store p (bytesOf 8 (val.toNat + code * 2 ^ 32)) 0 (ctx + 1) 0 (s.pageAt ctx done)
      exact (happ _ a ha).storing
    · exact h.storing
    · exact State.storing_takeSlots_one _ (happ _ _ rfl)
    · exact h.storing

/-! ### LAUNCH_RETIRE -/

theorem State.retireInstance_cores (s : State) (i : Instance) : (s.retireInstance i).cores = s.cores := by
  unfold State.retireInstance
  split <;> simp

theorem State.retireInstance_order (s : State) (i : Instance) : (s.retireInstance i).cp.order = s.cp.order := by
  unfold State.retireInstance
  split <;> simp

theorem State.storing_retireInstance {s : State} {pa : Nat} {bs : List Byte} (i : Instance) (h : s.stored pa bs) :
    (s.retireInstance i).storing pa bs := by
  unfold State.retireInstance
  split
  · exact h.storing
  · exact State.storing_writeDone _ _ _ _ (State.stored_congr rfl h)

theorem Cp.foldl_wpFault_order (lost : List Nat) (c : Cp) : (lost.foldl Cp.wpFault c).order = c.order := by
  induction lost generalizing c with
  | nil => rfl
  | cons n lost ih => rw [List.foldl_cons, ih, Cp.wpFault_rest]

/-- A state whose cores hold what others held, but for the reservations of a launch, holds none of that launch. -/
theorem State.reserve_of_filtered {s t : State} {launch : Nat} (h : t.cores = s.cores.mapVals fun _ (c : Core) =>
    { c with reserve := c.reserve.filter fun r => r.1 != launch }) (c : Nat) :
    ∀ r ∈ (t.coreAt c).reserve, r.1 ≠ launch := by
  unfold State.coreAt Table.getD
  rw [h, Table.get?_mapVals]
  cases s.cores.get? c with
  | none => simp [Core.init]
  | some x => simp

/-- The state once the completion word of a launch that is done is written. -/
def State.completed (s : State) (launch : Nat) (l : Launch) : State :=
  (s.settle.modMem fun m => m.dropReplicas fun _ x => x.launch == launch).writeDone l.ctx (descDone l.desc)
    (descDoneVal l.desc) (l.fault.getD 0)

theorem State.stored_completed (s : State) (launch : Nat) (l : Launch) (pa : Nat) (hd : descDone l.desc ≠ 0)
    (ht : s.settle.translateCp l.ctx (descDone l.desc) .store = .to (.dev pa)) :
    (s.completed launch l).stored pa (bytesOf 8 ((descDoneVal l.desc).toNat + l.fault.getD 0 * 2 ^ 32)) :=
  State.stored_writeDone_dev _ _ hd ((State.translateCp_dropReplicas ..).trans ht)

theorem launchRetire_steps (s : State) (launch : Nat) (l : Launch) (hl : s.launchAt? launch = some l) :
    (s.launchDone launch l = false → exec (.launchRetire launch) s =
      .next (if s.launchOver launch l = true then (s.postedOwners launch).foldl State.flushHost s else s)) ∧
    (s.launchDone launch l = true → ∃ u : State, exec (.launchRetire launch) s = .next u.wpSettled.clampDeficits ∧
      launch ∉ u.cp.order ∧ (∀ c, ∀ r ∈ (u.coreAt c).reserve, r.1 ≠ launch) ∧
      ∀ pa, descDone l.desc ≠ 0 → s.settle.translateCp l.ctx (descDone l.desc) .store = .to (.dev pa) →
        ∃ a ∈ u.mem.accs, a.kind = .store ∧ a.tgt = .dev pa ∧
          a.data = bytesOf 8 ((descDoneVal l.desc).toNat + l.fault.getD 0 * 2 ^ 32)) := by
  have hex : exec (.launchRetire launch) s = execLaunchRetire launch s := rfl
  refine ⟨fun hd => by simp [hex, execLaunchRetire, hl, hd], fun hd => ?_⟩
  simp only [hex, execLaunchRetire, hl, hd, Bool.not_true, Bool.false_eq_true, if_false]
  refine ⟨_, rfl, ?_, fun c r hr => ?_, fun pa hdone ht => ?_⟩
  · split
    · rw [State.retireInstance_order, State.modCp_cp, Cp.foldl_wpFault_order]
      simp
    · rw [State.modCp_cp, Cp.foldl_wpFault_order]
      simp
  · refine State.reserve_of_filtered (s := s.completed launch l) ?_ c r hr
    split
    · rw [State.retireInstance_cores]
      rfl
    · rfl
  · have hst := s.stored_completed launch l pa hdone ht
    split
    · exact State.storing_retireInstance _ (State.stored_congr rfl hst)
    · exact (State.stored_congr rfl hst).storing

end Sys2Proof.Machine
end

section
/-! ### Free slots -/

namespace Sys2Proof

/-- The slots of a block of keys that a table takes. -/
theorem Table.mem_slots {α : Type} (t : Table α) (n c i : Nat) (hn : 0 < n) :
    i ∈ ((t.filter fun e => e.1 / n == c).map fun e => e.1 % n) ↔ i < n ∧ (t.get? (c * n + i)).isSome = true := by
  constructor
  · intro h
    obtain ⟨e, he, rfl⟩ := List.mem_map.mp h
    obtain ⟨ht, hc⟩ := List.mem_filter.mp he
    have hc := beq_iff_eq.mp hc
    refine ⟨Nat.mod_lt _ hn, ?_⟩
    rw [← hc, Nat.div_add_mod', Option.isSome_iff_ne_none, Ne, Table.get?_eq_none_iff]
    exact fun h => h e ht rfl
  · rintro ⟨hi, hs⟩
    obtain ⟨x, hx⟩ := Option.isSome_iff_exists.mp hs
    refine List.mem_map.mpr ⟨(c * n + i, x), List.mem_filter.mpr ⟨Table.mem_of_get? hx, ?_⟩, ?_⟩
    · simp [Nat.mul_comm c n, Nat.mul_add_div hn, Nat.div_eq_of_lt hi]
    · simp [Nat.mul_comm c n, Nat.mod_eq_of_lt hi]

/-- Setting entries leaves what stands under the other keys. -/
theorem Table.get?_foldl_set_of_ne {α β : Type} (f : β → Nat) (g : β → α) (l : List β) (t : Table α) (k : Nat)
    (h : ∀ e ∈ l, f e ≠ k) : (l.foldl (fun t e => t.set (f e) (g e)) t).get? k = t.get? k := by
  induction l generalizing t with
  | nil => rfl
  | cons e l ih =>
    rw [List.foldl_cons, ih _ fun a ha => h a (List.mem_cons_of_mem _ ha), Table.get?_set, if_neg (h e List.mem_cons_self)]

/-- Setting entries under keys that differ puts each in place. -/
theorem Table.get?_foldl_set {α β : Type} (f : β → Nat) (g : β → α) (l : List β) (t : Table α)
    (hd : (l.map f).Nodup) {e : β} (he : e ∈ l) : (l.foldl (fun t e => t.set (f e) (g e)) t).get? (f e) = some (g e) := by
  induction l generalizing t with
  | nil => cases he
  | cons a l ih =>
    obtain ⟨ha, hd⟩ := List.nodup_cons.mp hd
    rcases List.mem_cons.mp he with rfl | he
    · rw [List.foldl_cons, Table.get?_foldl_set_of_ne, Table.get?_set, if_pos rfl]
      exact fun b hb hf => ha (List.mem_map.mpr ⟨b, hb, hf⟩)
    · exact ih _ hd he

end Sys2Proof

namespace Sys2Proof.Machine

theorem mem_lowestFree {used : List Nat} {limit n i : Nat} (h : i ∈ lowestFree used limit n) : i < limit ∧ i ∉ used := by
  have := List.mem_of_mem_take h
  simpa using this

theorem nodup_lowestFree (used : List Nat) (limit n : Nat) : (lowestFree used limit n).Nodup :=
  (List.nodup_range.filter _).sublist (List.take_sublist ..)

theorem lowestFree_congr {a b : List Nat} (h : ∀ i, i ∈ a ↔ i ∈ b) (limit n : Nat) :
    lowestFree a limit n = lowestFree b limit n := by
  simp [lowestFree, h]

/-- There are as many free numbers as are left. -/
theorem length_lowestFree {used : List Nat} {limit n : Nat} (h : used.length + n ≤ limit) :
    (lowestFree used limit n).length = n := by
  have hsplit := List.length_eq_length_filter_add (l := List.range limit) fun i => !used.contains i
  have hused : ((List.range limit).filter fun i => !!used.contains i).length ≤ used.length := by
    refine List.Subperm.length_le ((List.nodup_range.filter _).subperm fun i hi => ?_)
    simpa using (List.mem_filter.mp hi).2
  rw [List.length_range] at hsplit
  rw [lowestFree, List.length_take]
  omega

theorem mem_of_leastBy {f : Nat → Nat} {l : List Nat} {a : Nat} (h : leastBy f l = some a) : a ∈ l := by
  induction l generalizing a with
  | nil => cases h
  | cons b l ih =>
    rw [leastBy] at h
    split at h
    · exact List.mem_cons.mpr (.inl (Option.some.inj h).symm)
    · next c hc =>
      split at h
      · exact List.mem_cons_of_mem _ (ih (hc.trans h))
      · exact List.mem_cons.mpr (.inl (Option.some.inj h).symm)

/-! ### Room on a core -/

/-- The group slots of a core that are taken. -/
def State.groupSlots (s : State) (core : Nat) : List Nat := (s.groupsOn core fun _ => true).map fun e => e.1 % 16

/-- The wave slots of a core that are taken. -/
def State.waveSlots (s : State) (core : Nat) : List Nat := (s.waves.filter fun e => coreOfWave e.1 == core).map fun e => e.1 % 32

theorem State.mem_groupSlots (s : State) (core i : Nat) :
    i ∈ s.groupSlots core ↔ i < 16 ∧ (s.groupAt? (core * 16 + i)).isSome = true := by
  simp only [State.groupSlots, State.groupsOn, Bool.and_true]
  exact Table.mem_slots s.groups 16 core i (by decide)

theorem State.mem_waveSlots (s : State) (core i : Nat) :
    i ∈ s.waveSlots core ↔ i < 32 ∧ (s.waveAt? (core * 32 + i)).isSome = true :=
  Table.mem_slots s.waves 32 core i (by decide)

theorem State.room_slots {s : State} {l : Launch} {core : Nat} (h : s.room (fun _ => true) l core = true) :
    (s.groupSlots core).length + 1 ≤ 16 ∧ (s.waveSlots core).length + descWaves l.desc ≤ 32 := by
  simp only [State.room, Bool.and_eq_true, decide_eq_true_eq] at h
  obtain ⟨⟨⟨⟨⟨hw, hg⟩, -⟩, -⟩, -⟩, -⟩ := h
  refine ⟨by simpa [State.groupSlots] using hg, ?_⟩
  have : s.wavesOn core (fun _ => true) = (s.waveSlots core).length := by
    have hk : ∀ o : Option Group, (o.map fun _ => true).getD true = true := fun o => by cases o <;> rfl
    simp [State.wavesOn, State.waveSlots, hk]
  omega

/-! ### Placing a group -/

@[simp] theorem State.zeroGlobal_waves (s : State) (ctx k va n : Nat) : (s.zeroGlobal ctx k va n).waves = s.waves := by
  induction k generalizing s va n with
  | zero => rfl
  | succ k ih =>
    rw [State.zeroGlobal]
    split
    · rfl
    · rw [ih]
      split <;> rfl

theorem foldl_zeroGlobal_waves {α : Type} (ctx k n : Nat) (va : α → Nat) (l : List α) (s : State) :
    (l.foldl (fun s i => s.zeroGlobal ctx k (va i) n) s).waves = s.waves := by
  induction l generalizing s with
  | nil => rfl
  | cons i l ih => rw [List.foldl_cons, ih, State.zeroGlobal_waves]

/-- Group slot `g` of a core and wave slots `ws` are given to a group of a launch, a wave to each. -/
def State.placed (u s : State) (lid : Nat) (l : Launch) (gid core g : Nat) (ws : List Nat) : Prop :=
  ∃ (groups : Table Group) (y : Group) (mk : Nat × Nat → Wave), u.groups = groups.set g y ∧
    u.waves = ws.zipIdx.foldl (fun t e => t.set (core * 32 + e.1) (mk e)) s.waves ∧
    (y.launch = lid ∧ y.gid = gid ∧ y.size = descScr l.desc ∧ y.scratch = [] ∧ y.prio.val = descPrio l.desc % 4) ∧
    ∀ e, (mk e).group = g ∧ (mk e).launch = lid ∧ (mk e).waveid = e.2 ∧ (mk e).groupid = gid ∧ (mk e).v = [] ∧
      (mk e).s = [] ∧ (mk e).p = [] ∧ (mk e).launched = launchedLanes l.desc (e.2 + 1 == descWaves l.desc) ∧
      (mk e).frontier = [⟨BitVec.ofNat 64 (descEntry l.desc), (mk e).launched, 0, 0, .ready, 0, []⟩]

theorem State.placeGroup_placed (s : State) (lid : Nat) (l : Launch) (gid core : Nat) :
    ∃ u : State, s.placeGroup lid l gid core = u.wpSettled ∧
      u.placed s.settle lid l gid core (core * 16 + (lowestFree (s.settle.groupSlots core) 16 1).headD 0)
        (lowestFree (s.settle.waveSlots core) 32 (descWaves l.desc)) := by
  unfold State.placeGroup State.groupSlots State.waveSlots
  refine ⟨_, rfl, ?_⟩
  unfold State.placed
  simp only [State.modCp_groups, State.modCp_waves, State.modCtx_groups, State.modCtx_waves, State.modLaunch_groups,
    State.modLaunch_waves, foldl_zeroGlobal_waves]
  exact ⟨_, _, _, rfl, rfl, ⟨rfl, rfl, rfl, rfl, rfl⟩, fun e => ⟨rfl, rfl, rfl, rfl, rfl, rfl, rfl, rfl, rfl⟩⟩

/-- From `s` to `u` the group `y` of a launch is put in slot `g` of a core, its partition zero and its waves at the entry point. -/
def State.newGroup (s u : State) (lid : Nat) (l : Launch) (gid core g : Nat) (y : Group) : Prop :=
  coreOfGroup g = core ∧ s.groupAt? g = none ∧ u.groupAt? g = some y ∧ y.launch = lid ∧ y.gid = gid ∧
    y.size = descScr l.desc ∧ y.scratch = [] ∧ y.prio.val = descPrio l.desc % 4 ∧
    (∀ i, i < descWaves l.desc → ∃ k w, s.waveAt? k = none ∧ u.waveAt? k = some w ∧ coreOfWave k = core ∧ w.group = g ∧
      w.launch = lid ∧ w.waveid = i ∧ w.groupid = gid ∧ w.v = [] ∧ w.s = [] ∧ w.p = [] ∧
      w.launched = launchedLanes l.desc (i + 1 == descWaves l.desc) ∧
      w.frontier = [⟨BitVec.ofNat 64 (descEntry l.desc), w.launched, 0, 0, .ready, 0, []⟩]) ∧
    ∀ k, coreOfWave k ≠ core → u.waveAt? k = s.settle.waveAt? k

/-- A group that a core has room for is placed there. -/
theorem State.placeGroup_places (s : State) (lid : Nat) (l : Launch) (gid core : Nat)
    (hr : s.room (fun _ => true) l core = true) :
    ∃ (u : State) (g : Nat) (y : Group), s.placeGroup lid l gid core = u.wpSettled ∧ s.newGroup u lid l gid core g y := by
  obtain ⟨hgr, hwr⟩ := State.room_slots hr
  obtain ⟨u, hu, groups, y, mk, hug, huw, ⟨hyl, hyg, hys, hysc, hyp⟩, hmk⟩ := s.placeGroup_placed lid l gid core
  rw [lowestFree_congr (b := s.groupSlots core) fun i => by simp only [State.mem_groupSlots, State.groupAt?_settle_isSome]] at hug hmk
  rw [lowestFree_congr (b := s.waveSlots core) fun i => by simp only [State.mem_waveSlots, State.waveAt?_settle_isSome]] at huw
  have hwl := length_lowestFree hwr
  have hwd := nodup_lowestFree (s.waveSlots core) 32 (descWaves l.desc)
  have hwf : ∀ i ∈ lowestFree (s.waveSlots core) 32 (descWaves l.desc), i < 32 ∧ s.waveAt? (core * 32 + i) = none := by
    intro i hi
    obtain ⟨h32, hfree⟩ := mem_lowestFree hi
    simp only [State.mem_waveSlots, h32, true_and, Bool.not_eq_true, Option.isSome_eq_false_iff, Option.isNone_iff_eq_none] at hfree
    exact ⟨h32, hfree⟩
  generalize lowestFree (s.waveSlots core) 32 (descWaves l.desc) = ws at huw hwl hwd hwf
  obtain ⟨j, hj⟩ := List.length_eq_one_iff.mp (length_lowestFree hgr)
  obtain ⟨hj16, hjf⟩ := mem_lowestFree (hj ▸ List.mem_singleton_self j)
  simp only [State.mem_groupSlots, hj16, true_and, Bool.not_eq_true, Option.isSome_eq_false_iff, Option.isNone_iff_eq_none] at hjf
  rw [hj, List.headD_cons] at hug hmk
  refine ⟨u, core * 16 + j, y, hu, ?_, hjf, ?_, hyl, hyg, hys, hysc, hyp, fun i hi => ?_, fun k hk => ?_⟩
  · unfold coreOfGroup
    omega
  · rw [State.groupAt?, hug, Table.get?_set, if_pos rfl]
  · have hiw : i < ws.length := hwl ▸ hi
    obtain ⟨h32, hnone⟩ := hwf _ (List.getElem_mem hiw)
    refine ⟨core * 32 + ws[i], mk (ws[i], i), hnone, ?_, ?_, hmk (ws[i], i)⟩
    · rw [State.waveAt?, huw]
      refine Table.get?_foldl_set (fun e : Nat × Nat => core * 32 + e.1) mk ws.zipIdx _ (e := (ws[i], i)) ?_ ?_
      · have hmap : ws.zipIdx.map (fun e : Nat × Nat => core * 32 + e.1) = ws.map fun i => core * 32 + i := by
          rw [← List.zipIdx_map_fst 0 ws, List.map_map, List.zipIdx_map_fst]
          rfl
        rw [hmap]
        exact hwd.map fun a b h => Nat.add_left_cancel h
      · exact List.mk_mem_zipIdx_iff_getElem?.mpr (List.getElem?_eq_getElem hiw)
    · unfold coreOfWave
      omega
  · rw [State.waveAt?, huw]
    refine Table.get?_foldl_set_of_ne (fun e : Nat × Nat => core * 32 + e.1) mk ws.zipIdx _ k ?_
    rintro ⟨i, n⟩ he rfl
    have := (hwf i (List.fst_mem_of_mem_zipIdx he)).1
    refine hk ?_
    unfold coreOfWave
    dsimp only
    omega

/-! ### GROUP_DISPATCH -/

/-- Refilling changes deficits alone. -/
theorem State.refill_rest (s : State) (l : List Nat) :
    s.refill l = s.modCp fun c => { c with ctxs := (s.refill l).cp.ctxs } := by
  unfold State.refill
  induction l generalizing s with
  | nil => rfl
  | cons n l ih =>
    rw [List.foldl_cons, ih]
    unfold State.modCtx
    split <;> rfl

/-- The choice changes the state by refilling deficits. -/
theorem State.chooseIn_fst (s : State) (os : List (Nat × Launch × Nat)) (cs blocked : List Nat) :
    ∃ l, (s.chooseIn os cs blocked).1 = s.refill l := by
  induction cs generalizing blocked with
  | nil => exact ⟨[], rfl⟩
  | cons c cs ih =>
    have hs : ∀ (b : Bool) l, ∃ l', (if b then s else s.refill l) = s.refill l' := by
      rintro (_ | _) l
      exacts [⟨l, rfl⟩, ⟨[], rfl⟩]
    rw [State.chooseIn]
    split
    · exact ih _
    · dsimp only
      split
      · exact hs _ _
      · split
        · exact hs _ _
        · exact ih _

theorem groupDispatch_places (s : State) (die lid gid : Nat) (l : Launch) (core : Nat) (hp : s.preemptNext = none)
    (hc : s.choose.2 = some (lid, gid, die)) (hl : s.launchAt? lid = some l)
    (hcore : s.choose.1.coreFor lid l gid die = some core) :
    ∃ (u : State) (g : Nat) (y : Group), exec (.groupDispatch die) s = .next u.wpSettled.clampDeficits ∧
      s.newGroup u lid l gid core g y := by
  have hex : exec (.groupDispatch die) s = execGroupDispatch die s := rfl
  obtain ⟨cs, hcs⟩ := s.chooseIn_fst s.offers [3, 2, 1, 0] []
  have hch : s.choose.1 = s.modCp fun c => { c with ctxs := (s.refill cs).cp.ctxs } := hcs.trans (State.refill_rest s cs)
  have hl' : s.choose.1.launchAt? lid = some l := by rw [hch]; exact hl
  have hfit := (List.mem_filter.mp (mem_of_leastBy hcore)).2
  rw [State.fits, Bool.and_eq_true] at hfit
  obtain ⟨u, g, y, hu, hg, hfree, huy, hyl, hyg, hys, hysc, hyp, hw, hrest⟩ := s.choose.1.placeGroup_places lid l gid core hfit.2
  have hset : s.choose.1.settle.waves = s.settle.waves := by
    rw [hch]
    refine (State.settle_congr ?_ ?_ ?_ ?_).1 <;> rfl
  rw [hch] at hfree hw
  refine ⟨u, g, y, ?_, hg, hfree, huy, hyl, hyg, hys, hysc, hyp, hw, fun k hk => ?_⟩
  · simp [hex, execGroupDispatch, hp, hc, hl', hcore, hu]
  · rw [hrest k hk, State.waveAt?, hset]
    rfl

/-- Settles O51, one lemma for each instruction. -/
theorem launchSteps : Obligations.LaunchSteps := by
  unfold Obligations.LaunchSteps
  refine fun s => ⟨fun launch l hl => ⟨launchOpen_steps s launch l hl, fun gid ho => coreReserve_steps s launch gid l hl ho,
    launchRetire_steps s launch l hl⟩, wpPublish_steps s, fun die => ⟨groupDispatch_preempts s die, groupDispatch_places s die⟩,
    deficitCharge_steps s, coreSplitApply_steps s⟩

end Sys2Proof.Machine
end

section
/-! ## The checks before an instruction's own (O26) -/

namespace Sys2Proof.Machine

/-- The meaning of every instruction word is the issue of some body under some plan. -/
theorem exec_of_isWord (i : Instr) (s : State) (h : isWord i = true) : ∃ pl body, exec i s = issue i pl body s := by
  cases i with
  | pmovXv f =>
    cases hd : f.dir with
    | toPred pd pa => exact ⟨_, _, exec_of_predOf (.pmovXv f) s f.p f.pn _ (by simp only [predOf, hd]; rfl)⟩
    | toReg d pa => exact ⟨_, _, exec_pmov_toReg f d pa s hd⟩
  | iaddBv | iaddXv | isubBv | isubXv | iaddcBv | iaddcXv | imulBv | imulXv | imulhBv | imulhXv | imadBv | imadXv
  | iminBv | iminXv | imaxBv | imaxXv | iabsBv | iabsXv | idot4Bv | idot4Xv | andBv | andXv | orBv | orXv | xorBv
  | xorXv | andnBv | andnXv | lop3Xv | shlBv | shlXv | shrBv | shrXv | sarBv | sarXv | rotlBv | rotlXv | fshrBv
  | fshrXv | bfeBv | bfeXv | bfiBv | bfiXv | popcBv | popcXv | clzBv | clzXv | ctzBv | ctzXv | brevBv | brevXv
  | prmtBv | prmtXv | icmpXv | selBv | selXv | movBv | movXv | leaBv | leaXv | iadd3Bv | iadd3Xv | isadBv | isadXv
  | iadd2Bv | iadd2Xv | psetXv | icvtXv | faddBv | faddXv | fsubBv | fsubXv | fmulBv | fmulXv | ffmaBv | ffmaXv
  | fminBv | fminXv | fmaxBv | fmaxXv | fcmpXv | frndBv | frndXv | fclassBv | fclassXv | frcpBv | frcpXv | frsqBv
  | frsqXv | fsqrtBv | fsqrtXv | fexp2Bv | fexp2Xv | flog2Bv | flog2Xv | fsinBv | fsinXv | fcosBv | fcosXv | ftanhBv
  | ftanhXv | fdivBv | fdivXv | fcvtXv | ftoiXv | itofXv | npackXv | nunpkXv | fdot2Xv | fscaleBv | fscaleXv
  | xshfBv | xshfXv | xrotBv | xrotXv | xbflyBv | xbflyXv | xbcastBv | xbcastXv | xredBv | xredXv | xscanBv
  | xscanXv | ballotBv | ballotXv | voteBv | voteXv | matchBv | matchXv | electBv | electXv | nopBs | nopXt | braBb
  | bruBb | jmpiBs | jmpiXt | callBs | callXt | retBs | retXt | jmarkBs | jmarkXt | joinBs | joinXt | exitBs
  | exitXt | waitcBs | waitcXt | lwaitBs | lwaitXt | sleepBs | sleepXt | yieldBs | yieldXt | setprioBs | setprioXt
  | trapBs | trapXt | brkptBs | brkptXt | ldBm | ldXm | stBm | stXm | ldnfBm | ldnfXm | atomXm | atomfXm | redXm
  | redfXm | casXm | fenceXm | prefBm | prefXm | cinvBm | cinvXm | cdemoteBm | cdemoteXm | pgreqXm | mcredXm | sldBm
  | sldXm | sstBm | sstXm | tcopyXt | tstoreXt | tgatherXt | cpyXt | cpywaitBs | cpywaitXt | rdvinitXt | rdvarrXt
  | rdvexpXt | rdvwaitXt | rdvtestXt | pwaitXt | tmapXt | tunmapXt | tqueryXt | aclaimXt | arelXt | azeroXt | mmaXt
  | mmagXt | awaitBs | awaitXt | ardXt | adrainXt | aloadXt | oprdyBs | oprdyXt | wpubXt | wtestXt | launchXt
  | lparmXt | movsXt | movswXt | tretBs | tretXt | tlbinvXt | perfrdXt | dbgmarkBs | dbgmarkXt | haltwXt | syscallBs
  | syscallXt | pair => exact ⟨_, _, rfl⟩
  | _ => exact absurd h Bool.false_ne_true

/-- With nothing overdue, issuing is the checks of R78 and the body. -/
theorem issue_of_none_overdue {i : Instr} {pl : Plan} {body : Iss → State → Res} {s : State} {k : Nat} {w : Wave} {e : Entry}
    (hi : s.issuer = some (k, w, e)) (ho : ∀ t, s.overdue (coreOfWave k) t = []) :
    issue i pl body s = .next (issueAt i pl body k w e s) := by
  simp only [issue, hi, ho, if_true]

/-- With something overdue, the issue waits for its landing. -/
theorem issue_of_overdue {i : Instr} {pl : Plan} {body : Iss → State → Res} {s : State} {k k' : Nat} {w w' : Wave}
    {e e' : Entry} (hi : s.issuer = some (k, w, e))
    (ho : s.overdue (coreOfWave k) (slotOf (s.coreAt (coreOfWave k)) w pl).t ≠ [])
    (hi' : (s.landOverdue (coreOfWave k) (slotOf (s.coreAt (coreOfWave k)) w pl).t).issuer = some (k', w', e')) :
    issue i pl body s = .next (issueAt i pl body k' w' e'
      (s.landOverdue (coreOfWave k) (slotOf (s.coreAt (coreOfWave k)) w pl).t)) := by
  simp only [issue, hi, if_neg ho, hi']

theorem issueAt_due {i : Instr} {pl : Plan} {body : Iss → State → Res} {s : State} {k : Nat} {w : Wave} {e : Entry} {r : TrapRec}
    (h : w.dueTrap e = some r) : issueAt i pl body k w e s = (s.setWave k (w.dropDue e)).takeTrap k r := by
  simp only [issueAt, h]

section
variable {i : Instr} {pl : Plan} {body : Iss → State → Res} {s : State} {k : Nat} {w : Wave} {e : Entry}
  (hd : w.dueTrap e = none) (hf : w.fenceDue e = none)
include hd hf

theorem issueAt_runlen (h : 24 ≤ w.run.slots) :
    issueAt i pl body k w e s = s.takeTrap k (precise .runlen s.anyAddr e (s.execMask w e pl.p pl.pn) true) := by
  simp only [issueAt, hd, hf, ite_self, if_pos h]

theorem issueAt_illegal (h : w.run.slots < 24) {v : BitVec 8} (hb : bad i = some v) :
    issueAt i pl body k w e s =
      s.takeTrap k (precise .illegal (v.zeroExtend 64) e (s.execMask w e pl.p pl.pn) false) := by
  simp only [issueAt, hd, hf, ite_self, if_neg (Nat.not_le.mpr h), hb]

theorem issueAt_priv (h : w.run.slots < 24) (hb : bad i = none) (hp : privileged i = true) (hm : w.handler = none) :
    issueAt i pl body k w e s =
      s.takeTrap k (precise .priv s.anyAddr e (s.execMask w e pl.p pl.pn) false) := by
  simp only [issueAt, hd, hf, ite_self, if_neg (Nat.not_le.mpr h), hb, hp, hm, Option.isNone_none, Bool.and_self, if_true]

/-- Past the checks of R78, an instruction that names no register runs its body. -/
theorem issueAt_body (h : w.run.slots < 24) (hb : bad i = none) (hp : privileged i = false)
    (hr : regBad w (pl.srcs ++ pl.dsts) = none) :
    issueAt i pl body k w e s = settleRes k e (issOf i pl s k w e) pl.pipe s (body (issOf i pl s k w e) s) := by
  simp only [issueAt, hd, hf, ite_self, if_neg (Nat.not_le.mpr h), hb, hp, hr, Bool.false_and, Bool.false_eq_true, if_false]
  rfl
end

/-- An instruction of `aluOf` is the issue of its operation. -/
theorem exec_of_aluOf (i : Instr) (s : State) (p : Fin 16) (pn : Bool) (a : Alu) (h : aluOf s i = some (p, pn, a)) :
    exec i s = issue i (a.plan p pn) a.body s := by
  unfold aluOf at h
  split at h
  all_goals cases h
  all_goals rfl

/-- Settles O26: every instruction word is an `issue`, whose checks the lemmas above take in their order. -/
theorem checksBeforeIssue : Obligations.ChecksBeforeIssue := by
  unfold Obligations.ChecksBeforeIssue
  refine ⟨fun i s k w e hi his ho => ?_, fun s opc k w e his ho hd hf hs => ?_, fun i s p pn a k w e ha his ho k' w' e' his' => ?_⟩
  · obtain ⟨pl, body, hx⟩ := exec_of_isWord i s hi
    rw [hx, issue_of_none_overdue his ho]
    refine ⟨fun r hr => by rw [issueAt_due hr], fun hd hf => ⟨fun hs => ⟨_, by rw [issueAt_runlen hd hf hs]⟩,
      fun hs v hv => ⟨_, by rw [issueAt_illegal hd hf hs hv]⟩,
      fun hs hb hp hm => ⟨_, by rw [issueAt_priv hd hf hs hb hp hm]⟩⟩⟩
  · show issue (.nopBs false) plainPlan (fun _ _ => .trap .illegal (opc.zeroExtend 64)) s = _
    rw [issue_of_none_overdue his ho, issueAt_body hd hf hs rfl rfl rfl]
    rfl
  · rw [exec_of_aluOf i s p pn a ha]
    exact issue_of_overdue his ho his'

end Sys2Proof.Machine
end

section
/-! ## The issue of an instruction whose body changes its own wave alone -/

namespace Sys2Proof.Machine

/-- Flags that are set stay set. -/
theorem or_and_self_left (a b : DWord) : (a ||| b) &&& a = a := by
  ext i hi
  simp only [BitVec.getElem_and, BitVec.getElem_or]
  cases a[i] <;> simp

theorem State.SameOutside.refl (s : State) (k : Nat) : s.SameOutside s k where
  bytes _ := rfl
  scratch g x y hx hy a := by rw [Option.some.inj (hx.symm.trans hy)]
  mem := rfl
  groups := rfl
  quads := rfl
  cp := rfl
  host := rfl
  mer := rfl
  house := rfl
  links := rfl
  outbox := rfl
  script := rfl
  chrono := rfl
  waves _ _ := rfl
  cores _ _ := rfl
  core := rfl

theorem State.SameOutside.trans {s t u : State} {k : Nat} (h : s.SameOutside t k) (g : t.SameOutside u k) :
    s.SameOutside u k where
  bytes a := (g.bytes a).trans (h.bytes a)
  scratch j x y hx hy := by
    have he : t.groupAt? j = some x := by rw [State.groupAt?, h.groups]; exact hx
    exact g.scratch j x y he hy
  mem := g.mem.trans h.mem
  groups := g.groups.trans h.groups
  quads := g.quads.trans h.quads
  cp := g.cp.trans h.cp
  host := g.host.trans h.host
  mer := g.mer.trans h.mer
  house := g.house.trans h.house
  links := g.links.trans h.links
  outbox := g.outbox.trans h.outbox
  script := g.script.trans h.script
  chrono := g.chrono.trans h.chrono
  waves j hj := (g.waves j hj).trans (h.waves j hj)
  cores c hc := (g.cores c hc).trans (h.cores c hc)
  core := by rw [g.core, h.core]

theorem State.sameOutside_setWave (s : State) (k : Nat) (w : Wave) : s.SameOutside (s.setWave k w) k :=
  { State.SameOutside.refl s k with
    waves := fun j hj => by rw [State.waveAt?_setWave, if_neg (Ne.symm hj)] }

theorem State.sameOutside_modWave (s : State) (k : Nat) (f : Wave → Wave) : s.SameOutside (s.modWave k f) k := by
  unfold State.modWave
  split
  · exact State.SameOutside.refl s k
  · exact State.sameOutside_setWave s k _

theorem State.sameOutside_fresh (s : State) (k : Nat) : s.SameOutside s.fresh.2 k := { State.SameOutside.refl s k with }

theorem State.sameOutside_takeSlot (s : State) (u : Iss) (p : Pipe) : s.SameOutside (s.takeSlot u p) u.k := by
  constructor
  case scratch =>
    intro g x y hx hy
    simp only [State.groupAt?, State.takeSlot_groups] at hx hy
    simp_all
  case waves =>
    intro j hj
    rw [State.waveAt?_takeSlot, if_neg (Ne.symm hj)]
  case cores =>
    intro c hc
    rw [State.coreAt_takeSlot, if_neg (Ne.symm hc)]
  case core => rw [State.coreAt_takeSlot, if_pos rfl]
  all_goals simp

/-- An instruction that goes on leaves what its body leaves, past its slot and its PC. -/
theorem issue_next {i : Instr} {pl : Plan} {s s1 : State} {k : Nat} {w w1 : Wave} {e : Entry} {body : Iss → State → Res}
    (hr : Ready i pl s k w e) (hw : s1.waveAt? k = some w1) (hb : body (issOf i pl s k w e) s = .ok s1 .seq) :
    ∃ t, issue i pl body s = .next (t.closeIf (rbOf i) k) ∧
      t.waveAt? k = some ((w1.slotted (issOf i pl s k w e)).advance (byteLen i)) ∧ s1.SameOutside t k := by
  refine ⟨(s1.takeSlot (issOf i pl s k w e) pl.pipe).modWave k fun w => w.advance (byteLen i), ?_, ?_, ?_⟩
  · rw [issue_ready hr, hb, settleRes, State.after_seq]
    rfl
  · rw [State.waveAt?_modWave, if_pos rfl, State.waveAt?_takeSlot]
    simp [issOf, hw]
  · exact (State.sameOutside_takeSlot s1 (issOf i pl s k w e) pl.pipe).trans (State.sameOutside_modWave _ k _)

section
variable {i : Instr} {pl : Plan} {s s1 : State} {k : Nat} {w w1 : Wave} {e : Entry} {body : Iss → State → Res}
  (hr : Ready i pl s k w e) (hs : s.SameOutside s1 k) (hw : s1.waveAt? k = some w1)
include hr hs hw

theorem issue_seq (hb : body (issOf i pl s k w e) s = .ok s1 .seq) :
    ∃ t, issue i pl body s = .next (t.closeIf (rbOf i) k) ∧
      t.waveAt? k = some ((w1.slotted (issOf i pl s k w e)).advance (byteLen i)) ∧ s.SameOutside t k := by
  obtain ⟨t, ht, hw', hs'⟩ := issue_next hr hw hb
  exact ⟨t, ht, hw', hs.trans hs'⟩

theorem issue_split {es : List Entry} (hb : body (issOf i pl s k w e) s = .ok s1 (.split es)) :
    ∃ t, issue i pl body s = .next (t.endRun k) ∧
      t.waveAt? k = some { w1.slotted (issOf i pl s k w e) with frontier := es ++ w1.frontier.tail } ∧ s.SameOutside t k := by
  refine ⟨(s1.takeSlot (issOf i pl s k w e) pl.pipe).modWave k fun w => { w with frontier := es ++ w.frontier.tail }, ?_, ?_, ?_⟩
  · rw [issue_ready hr, hb, settleRes]
    rfl
  · rw [State.waveAt?_modWave, if_pos rfl, State.waveAt?_takeSlot]
    simp [issOf, hw, Wave.slotted_frontier]
  · exact hs.trans ((State.sameOutside_takeSlot s1 (issOf i pl s k w e) pl.pipe).trans (State.sameOutside_modWave _ k _))

end

/-! ### Reading sources -/

/-- Under `readsOk` no DEADREAD trap is raised. -/
theorem deadRead_of_readsOk {w : Wave} {x : Mask} {srcs : List Opnd} (h : readsOk w x srcs) :
    (if w.strict then deadRead w x srcs else none) = none := by
  split
  · next hs => exact h hs
  · rfl

/-- With no DEADREAD trap the sources are read, and the instruction goes on. -/
theorem reading_of_readsOk {u : Iss} {srcs : List Opnd} (h : readsOk u.w u.exec srcs) (lit : Option DWord) (s : State)
    (c : State → Res) : reading u lit srcs s c = c (s.readBy u.k u.w u.exec lit srcs) := by
  simp only [reading, deadRead_of_readsOk h]
  rfl

/-- A source that fills and kills nothing sets flags of WSTAT alone. -/
theorem readEffects_opnd (s : State) (w : Wave) (x : Mask) (lit : Option DWord) (a : Src) (r : Rd) :
    readEffects s w x lit [opnd a r] w = w.stat (srcStat w x (opnd a r)) := by
  simp [readEffects, opnd, State.fillSrc, Wave.killSrc]

theorem State.waveAt?_readBy {s : State} {k : Nat} {w : Wave} (h : s.waveAt? k = some w) (x : Mask) (lit : Option DWord)
    (srcs : List Opnd) : (s.readBy k w x lit srcs).waveAt? k = some (readEffects s w x lit srcs w) := by
  rw [State.readBy, State.waveAt?_modWave, if_pos rfl, h]
  rfl

theorem State.sameOutside_readBy (s : State) (k : Nat) (w : Wave) (x : Mask) (lit : Option DWord) (srcs : List Opnd) :
    s.SameOutside (s.readBy k w x lit srcs) k := State.sameOutside_modWave s k _

end Sys2Proof.Machine
end

section
/-! ## Branches (O19) -/

namespace Sys2Proof.Machine

/-- What a branch leaves: `w0` is the wave once its source is read. -/
theorem branch_goes {i : Instr} {pl : Plan} {s s1 : State} {k : Nat} {w w0 : Wave} {e : Entry} {body : Iss → State → Res}
    {m : Mask} {target : DWord} {prio : Fin 4} (hr : Ready i pl s k w e) (hs : s.SameOutside s1 k)
    (hw : s1.waveAt? k = some w0) (hf : w0.frontier = w.frontier)
    (hb : body (issOf i pl s k w e) s = branchTo (issOf i pl s k w e) m target prio s1) :
    ∃ (t : State) (w' : Wave), t.waveAt? k = some w' ∧ s.SameOutside t k ∧
      (m = 0 → issue i pl body s = .next (t.closeIf (rbOf i) k) ∧
        w0.Moved w' (e.past (byteLen i) :: w.frontier.tail)) ∧
      (m ≠ 0 → issue i pl body s = .next (t.endRun k) ∧
        w0.Moved w' (entryAt m target prio :: e.others m (byteLen i) :: w.frontier.tail)) := by
  by_cases hm : m = 0
  · obtain ⟨t, ht, hw', hs'⟩ := issue_seq hr hs hw (hb.trans (if_pos hm))
    have hf' : (w0.slotted (issOf i pl s k w e)).frontier = e :: w.frontier.tail := by
      rw [Wave.slotted_frontier, hf]
      exact hr.entry
    rw [Wave.advance_eq _ _ _ _ hf'] at hw'
    exact ⟨t, _, hw', hs', fun _ => ⟨ht, Wave.moved_of w0 _ _⟩, fun h => absurd hm h⟩
  · obtain ⟨t, ht, hw', hs'⟩ := issue_split hr hs hw (hb.trans (if_neg hm))
    rw [hf] at hw'
    exact ⟨t, _, hw', hs', fun h => absurd h hm, fun _ => ⟨ht, Wave.moved_of w0 _ _⟩⟩

theorem bruBody_of_readsOk (f : Bb) (u : Iss) (s : State) (h : readsOk u.w u.exec [bruSrc f]) :
    bruBody f u s = branchTo u (if ((s.readS u.w f.p.val != 0) != f.n) = true then u.e.mask else 0) (bbTarget f u.e.pc) f.pr
      (s.readBy u.k u.w u.exec none [bruSrc f]) := by
  rw [bruBody, reading_of_readsOk h]
  rfl

/-- Settles O19: a BRU reads its s register, which fills and kills nothing; the rest is `branch_goes`. -/
theorem branches : Obligations.Branches := by
  unfold Obligations.Branches
  refine fun f s k w e => ⟨fun hr => ?_, fun hr hd => ?_⟩
  · exact branch_goes hr (State.SameOutside.refl s k) hr.wave rfl rfl
  · have hw : (s.readBy k w (s.execMask w e 0 false) none [bruSrc f]).waveAt? k =
        some (w.stat (srcStat w (s.execMask w e 0 false) (bruSrc f))) :=
      (State.waveAt?_readBy hr.wave ..).trans (congrArg some (readEffects_opnd ..))
    exact branch_goes hr (State.sameOutside_readBy ..) hw rfl (bruBody_of_readsOk f (issOf _ _ s k w e) s hd)

end Sys2Proof.Machine
end

section
/-! ## Operations that are counted as they issue -/

namespace Sys2Proof.Machine

theorem mem_retireOps {l : List LOp} {o : LOp} (ho : o ∈ l) (hf : o.finished = false) (b : List Ctr) :
    o ∈ (retireOps l b).1 := by
  induction l generalizing b with
  | nil => cases ho
  | cons q t ih =>
    rw [retireOps]
    rcases List.mem_cons.mp ho with rfl | h
    · simp [hf]
    · dsimp only
      split
      · exact ih h b
      · exact List.mem_cons_of_mem _ (ih h _)

theorem perfLand_rest (w : Wave) (o : LOp) (c : Nat) : perfLand w o c = { w with perf := (perfLand w o c).perf } := by
  unfold perfLand
  split
  · split <;> rfl
  · rfl

/-- Retiring operations changes the pending ones and the load counters. -/
theorem Wave.retire_rest (w : Wave) (c : Nat) :
    w.retire c = { w with lops := (retireOps w.lops []).1, perf := (w.retire c).perf } := by
  have h : ∀ (l : List LOp) (v : Wave), l.foldl (fun w o => perfLand w o c) v =
      { v with perf := (l.foldl (fun w o => perfLand w o c) v).perf } := by
    intro l
    induction l with
    | nil => exact fun v => rfl
    | cons o t ih =>
      intro v
      rw [List.foldl_cons, ih, perfLand_rest v o c]
  exact h _ _

/-- An operation as it stands among the pending ones: marked where an earlier write is still in its pipeline (R38). -/
def Wave.entered (w : Wave) (o : LOp) : LOp :=
  { o with writes := o.writes.map fun x => { x with met := x.met ||| (x.mask &&& w.time.pending x.reg.code o.issued) } }

theorem LOp.bare_entered (w : Wave) (o : LOp) : (w.entered o).bare = o.bare := by
  simp only [LOp.bare, Wave.entered, List.map_map]
  rfl

theorem LOp.bare_writes (o : LOp) (h : ∀ x ∈ o.writes, x.met = 0) : o.bare.writes = o.writes := by
  refine (List.map_congr_left fun x hx => ?_).trans (List.map_id o.writes)
  rw [← h x hx]
  rfl

/-- Taking an issue slot changes the run, the performance counters and the suspension. -/
theorem Wave.slotted_rest (w : Wave) (u : Iss) : w.slotted u =
    { w with perf := (w.slotted u).perf, run := { w.run with slots := w.run.slots + 1, prev := u.slot.t }, susp := none } := by
  simp only [Wave.slotted, Wave.count]
  cases w.susp <;> rfl

/-- The wave with one more operation pending. -/
def Wave.queue (w : Wave) (o : LOp) (c : Nat) : Wave := (w.enter o).retire c

theorem Wave.queue_rest (w : Wave) (o : LOp) (c : Nat) :
    w.queue o c = { w with lops := (w.queue o c).lops, perf := (w.queue o c).perf } := by
  rw [Wave.queue, Wave.retire_rest]
  rfl

theorem Wave.queue_kept (w : Wave) (o q : LOp) (c : Nat) (hq : q ∈ w.lops) (hf : q.finished = false) : q ∈ (w.queue o c).lops := by
  rw [Wave.queue, Wave.retire_rest]
  exact mem_retireOps (l := (w.enter o).lops) (List.mem_append_left _ hq) hf []

theorem Wave.queue_new (w : Wave) (o : LOp) (c : Nat) (hf : o.finished = false) : w.entered o ∈ (w.queue o c).lops := by
  rw [Wave.queue, Wave.retire_rest]
  exact mem_retireOps (l := (w.enter o).lops) (List.mem_append_right _ (List.mem_singleton.mpr rfl)) hf []

theorem State.waveAt?_addOp (s : State) (k : Nat) (o : Nat → LOp) (w : Wave) (h : s.waveAt? k = some w) :
    (s.addOp k o).waveAt? k = some (w.queue (o s.nextId) (s.coreAt (coreOfWave k)).cycle) := by
  rw [State.addOp]
  dsimp only
  rw [State.waveAt?_modWave, if_pos rfl, State.waveAt?_fresh, h]
  rfl

theorem State.sameOutside_addOp (s : State) (k : Nat) (o : Nat → LOp) : s.SameOutside (s.addOp k o) k :=
  (State.sameOutside_fresh s k).trans (State.sameOutside_modWave _ k _)

/-- Reading sources has made `w0` of `w`: nothing but slots, flags and the registers killed has changed. -/
def Wave.HasRead (w w0 : Wave) (kills : List Nat) : Prop :=
  (∃ d up time b, w0 = { w with dead := d, up := up, time := time, wstat := b }) ∧ w.SameRegs w0 kills

theorem Wave.hasRead_readEffects (s : State) (w : Wave) (x : Mask) (lit : Option DWord) (srcs : List Opnd) :
    w.HasRead (readEffects s w x lit srcs w) (killsOf srcs) :=
  ⟨⟨_, _, _, _, readEffects_rest s w x lit srcs w⟩, fun n L _ _ => readEffects_vLane s w x lit srcs w n L,
    fun n _ => readEffects_sReg s w x lit srcs w n⟩

theorem Wave.HasRead.stat {w w0 : Wave} {kills : List Nat} (h : w.HasRead w0 kills) (b : DWord) :
    w.HasRead (w0.stat b) kills := by
  obtain ⟨⟨_, _, _, _, rfl⟩, hr⟩ := h
  exact ⟨⟨_, _, _, _, rfl⟩, hr⟩

section
variable {w w0 : Wave} {kills : List Nat} (h : w.HasRead w0 kills) (u : Iss) (o : LOp) (c len : Nat)
include h

/-- The wave of an instruction that reads its sources and queues an operation. -/
theorem Wave.queued_issued {i : Instr} {pl : Plan} {s : State} {k : Nat} {e : Entry} (hr : Ready i pl s k w e) :
    w.Queued (((w0.queue o c).slotted u).advance len) (e.past len :: w.frontier.tail) := by
  have hk : ∀ q ∈ w.lops, q.finished = false → q ∈ (w0.queue o c).lops := by
    obtain ⟨⟨_, _, _, _, rfl⟩, -⟩ := h
    exact fun q hq => Wave.queue_kept _ o q c hq
  obtain ⟨⟨_, _, _, _, hw⟩, -⟩ := h
  have hf : ((w0.queue o c).slotted u).frontier = e :: w.frontier.tail := by
    rw [Wave.slotted_frontier, Wave.queue_rest, hw]
    exact hr.entry
  rw [Wave.advance_eq _ _ _ _ hf]
  refine ⟨rfl, ?_, fun q hq hqf => ?_, ?_⟩
  · rw [Wave.slotted_rest, Wave.queue_rest, hw]
  · exact (Wave.slotted_lops (w0.queue o c) u).symm ▸ hk q hq hqf
  · rw [Wave.slotted_rest, Wave.queue_rest, hw]

theorem Wave.sameRegs_queued : w.SameRegs (((w0.queue o c).slotted u).advance len) kills := by
  obtain ⟨-, hv, hs⟩ := h
  refine ⟨fun n L hn hL => ?_, fun n hn => ?_⟩
  · rw [Wave.issued_vLane, ← hv n L hn hL, Wave.queue_rest]
    rfl
  · rw [Wave.issued_sReg, ← hs n hn, Wave.queue_rest]
    rfl

end

/-- What an instruction leaves that reads its sources, queues an operation and goes on. -/
theorem issue_queues {i : Instr} {pl : Plan} {s : State} {k : Nat} {w w0 : Wave} {e : Entry} {body : Iss → State → Res}
    {kills : List Nat} {o : Nat → LOp} (hr : Ready i pl s k w e) (h : w.HasRead w0 kills)
    (hb : body (issOf i pl s k w e) s = .ok ((s.setWave k w0).addOp k o) .seq) :
    ∃ (t : State) (w' : Wave), issue i pl body s = .next (t.closeIf (rbOf i) k) ∧ t.waveAt? k = some w' ∧
      w.Queued w' (e.past (byteLen i) :: w.frontier.tail) ∧ w.SameRegs w' kills ∧ s.SameOutside t k ∧
      w'.wstat = w0.wstat ∧ ((o s.nextId).finished = false → w0.entered (o s.nextId) ∈ w'.lops) := by
  have hw : (s.setWave k w0).waveAt? k = some w0 := by rw [State.waveAt?_setWave, if_pos rfl]
  obtain ⟨t, ht, hw', hs⟩ := issue_seq hr ((State.sameOutside_setWave s k w0).trans (State.sameOutside_addOp _ k o))
    (State.waveAt?_addOp _ k o w0 hw) hb
  refine ⟨t, _, ht, hw', Wave.queued_issued h _ _ _ _ hr, Wave.sameRegs_queued h .., hs, ?_, fun hf => ?_⟩
  · rw [Wave.issued_wstat, Wave.queue_rest]
  · rw [Wave.issued_lops]
    exact Wave.queue_new w0 _ _ hf

end Sys2Proof.Machine
end

section
/-! ## Class L functions (O14) -/

namespace Sys2Proof.Machine

theorem map_perLane {α β : Type} (f : Nat → α) (g : α → β) : (perLane f).map g = perLane fun L => g (f L) := List.map_map

/-- The results of the executing lanes, with their flags. -/
def Fun.results (a : Fun) (s : State) (w : Wave) (x : Mask) : List (DWord × FFlags) :=
  perLane fun L => if inMask x L then a.lane s w L else (0, 0)

/-- The values that a class L function leaves pending. -/
def Fun.vals (a : Fun) (s : State) (w : Wave) (x : Mask) : List DWord :=
  match a.d with
  | .s _ => perLane fun _ => ((a.results s w x).getD (lowestLane x) (0, 0)).1
  | _ => (a.results s w x).map (·.1)

/-- The flags of the executing lanes. -/
def Fun.flags (a : Fun) (s : State) (w : Wave) (x : Mask) : List FFlags :=
  perLane fun L => if inMask x L then (a.lane s w L).2 else 0

/-- The operation that a class L function queues. -/
def Fun.op (a : Fun) (s : State) (u : Iss) (id : Nat) : LOp :=
  (mkOp id .xc u.e.pc (landLanes a.d u.exec) (groupWrites a.d (if a.wide then 2 else 1) (landLanes a.d u.exec) (a.vals s u.w u.exec))
    u.slot.t (allFlags u.exec (a.flags s u.w u.exec))).promptBy u.w

theorem Fun.results_flags (a : Fun) (s : State) (w : Wave) (x : Mask) : (a.results s w x).map (·.2) = a.flags s w x := by
  rw [Fun.results, map_perLane, Fun.flags]
  congr 1
  funext L
  split <;> rfl

theorem Fun.body_ok (a : Fun) (u : Iss) (s : State) (hd : readsOk u.w u.exec a.srcs) (hx : u.w.full .xc = false)
    (hf : flagsOk u.w u.exec (a.flags s u.w u.exec)) :
    a.body u s = .ok ((s.setWave u.k (readEffects s u.w u.exec a.lit a.srcs u.w)).addOp u.k (a.op s u)) .seq := by
  have hr : (perLane fun L => if inMask u.exec L then a.f (a.srcs.map fun o => s.readOpnd u.w a.lit o L) else (0, 0)) =
      a.results s u.w u.exec := rfl
  have he : ¬ (enabledFlags u.w.enables u.exec (a.flags s u.w u.exec)).1 ≠ 0 := fun h => h hf
  simp only [Fun.body, deadRead_of_readsOk hd, hx, hr, Fun.results_flags, Bool.false_eq_true, if_false]
  rw [if_neg he]
  rfl

/-- An instruction of `funOf` is the issue of its function. -/
theorem exec_of_funOf (i : Instr) (s : State) (p : Fin 16) (pn : Bool) (a : Fun) (h : funOf s i = some (p, pn, a)) :
    exec i s = issue i (a.plan p pn) a.body s := by
  unfold funOf at h
  split at h
  all_goals cases h
  all_goals rfl

theorem landLanes_ne_zero (d : Dst) {x : Mask} (hx : x ≠ 0) : landLanes d x ≠ 0 := by
  unfold landLanes
  split
  · rw [if_neg hx]
    decide
  · exact hx

theorem Fun.finished_op (a : Fun) (s : State) (u : Iss) (id : Nat) (hx : u.exec ≠ 0) : (a.op s u id).finished = false := by
  show (landLanes a.d u.exec == 0 && true) = false
  rw [beq_false_of_ne (landLanes_ne_zero a.d hx)]
  rfl

theorem groupWrites_met (d : Dst) (n : Nat) (m : Mask) (vals : List DWord) : ∀ x ∈ groupWrites d n m vals, x.met = 0 := by
  cases d with
  | v r =>
    intro x hx
    obtain ⟨_, -, rfl⟩ := List.mem_map.mp hx
    rfl
  | s r =>
    rintro x (_ | ⟨_, ⟨⟩⟩)
    rfl
  | null => exact fun x hx => nomatch hx

theorem Fun.vals_v (a : Fun) (s : State) (w : Wave) (x : Mask) {r : Fin 128} (hv : a.d = .v r) (L : Nat) (hL : L < 64)
    (hx : inMask x L = true) : (a.vals s w x).getD L 0 = (a.lane s w L).1 := by
  simp only [Fun.vals, hv, Fun.results, map_perLane]
  rw [perLane_getD _ _ _ hL, if_pos hx]

/-- The registers that a class L function with a v destination writes, each with its 32 bits of the results. -/
theorem Fun.writes_v (a : Fun) (s : State) (u : Iss) (id : Nat) {r : Fin 128} (hv : a.d = .v r) {n : Nat}
    (hn : n < if a.wide then 2 else 1) :
    (⟨.v (r.val + n), u.exec, (a.vals s u.w u.exec).map fun (x : DWord) => ((x >>> (32 * n)) &&& 0xFFFFFFFF : DWord), 0⟩ : LWrite) ∈
      (a.op s u id).writes := by
  have hw : (a.op s u id).writes = groupWrites a.d (if a.wide then 2 else 1) (landLanes a.d u.exec) (a.vals s u.w u.exec) := rfl
  rw [hw, hv]
  exact List.mem_map.mpr ⟨n, List.mem_range.mpr hn, rfl⟩

theorem Fun.writes_s (a : Fun) (s : State) (u : Iss) (id : Nat) {r : Fin 64} (hs : a.d = .s r) (hx : u.exec ≠ 0) :
    (a.op s u id).writes = [⟨.s r.val, 1, [(a.lane s u.w (lowestLane u.exec)).1], 0⟩] := by
  obtain ⟨hl, hm⟩ := lowestLane_mem u.exec hx
  have hv : ∀ n, n < 64 → (a.vals s u.w u.exec).getD n 0 = (a.lane s u.w (lowestLane u.exec)).1 := fun n hn => by
    simp only [Fun.vals, hs]
    rw [perLane_getD _ _ _ hn, Fun.results, perLane_getD _ _ _ hl, if_pos hm]
  have hw : (a.op s u id).writes = groupWrites a.d (if a.wide then 2 else 1) (landLanes a.d u.exec) (a.vals s u.w u.exec) := rfl
  rw [hw, hs, landLanes, if_neg hx, groupWrites, hv (lowestLane 1) (by decide)]

/-- Settles O14: the function queues `Fun.op` (`Fun.body_ok`), whose writes the lemmas above give. -/
theorem classLFunction : Obligations.ClassLFunction := by
  unfold Obligations.ClassLFunction
  intro i s p pn a k w e hi hr hd hx hf
  obtain ⟨t, w', ht, hw', hq, hregs, hs, -, hop⟩ := issue_queues hr
    (Wave.hasRead_readEffects s w (s.execMask w e p pn) a.lit a.srcs) (Fun.body_ok a (issOf i (a.plan p pn) s k w e) s hd hx hf)
  refine ⟨t, w', (exec_of_funOf i s p pn a hi).trans ht, hw', hq, hregs, hs, fun hne => ?_⟩
  refine ⟨_, hop (a.finished_op s _ _ hne), rfl, rfl, rfl, rfl, rfl, rfl, fun r n hv hn => ?_, fun r hsr => ?_⟩
  · refine ⟨_, List.mem_map_of_mem (Fun.writes_v a s _ _ hv hn), rfl, rfl, fun L hL hm => ?_⟩
    rw [← Fun.vals_v a s w _ hv L hL hm]
    have h0 : ((0 : DWord) >>> (32 * n)) &&& 0xFFFFFFFF = 0 := by simp
    exact (congrArg _ h0.symm).trans (List.getD_map _ 0 (fun x : DWord => (x >>> (32 * n)) &&& 0xFFFFFFFF))
  · rw [LOp.bare_entered, LOp.bare_writes (a.op s _ _) (groupWrites_met _ _ _ _)]
    exact Fun.writes_s a s _ _ hsr hne

end Sys2Proof.Machine
end

section
/-! ## Cross-lane instructions without a member mask (O15) -/

namespace Sys2Proof.Machine

/-- The operation that an exchange among the executing lanes queues. -/
def Xl1.op (x : Xl1) (s : State) (u : Iss) (id : Nat) : LOp :=
  (mkOp id .xc u.e.pc (x.spec.lanes u.exec)
    (if x.spec.lanes u.exec = 0 then [] else x.spec.writes (x.spec.lanes u.exec) (x.result s u.w u.exec).vals) u.slot.t
    (allFlags u.exec (x.result s u.w u.exec).flags)).promptBy u.w

/-- The wave once a cross-lane instruction has read its sources, with NOSRC where a lane's source lies outside. -/
def Xl1.readWave (x : Xl1) (s : State) (w : Wave) (m : Mask) : Wave :=
  let w' := readEffects s w m x.lit x.srcs w
  if (x.result s w m).nosrc then w'.stat statNosrc else w'

theorem Xl1.body_ok (x : Xl1) (i : Instr) (u : Iss) (s : State) (hm : x.mem = none) (hd : readsOk u.w u.exec x.srcs)
    (hx : u.w.full .xc = false) (hf : flagsOk u.w u.exec (x.result s u.w u.exec).flags) :
    x.body i u s = .ok ((s.setWave u.k (x.readWave s u.w u.exec)).addOp u.k (x.op s u)) .seq := by
  have he : ¬ (enabledFlags u.w.enables u.exec (x.result s u.w u.exec).flags).1 ≠ 0 := fun h => h hf
  have hb : x.body i u s = x.open_ u s := by
    simp only [Xl1.body, hm, Option.toList_none, List.append_nil, deadRead_of_readsOk hd]
  rw [hb, Xl1.open_, hx, if_neg Bool.false_ne_true]
  exact if_neg he

/-- An instruction of `xlOf` is the issue of its exchange. -/
theorem exec_of_xlOf (i : Instr) (s : State) (x : Xl1) (h : xlOf i = some x) : exec i s = issue i x.plan (x.body i) s := by
  have hx : exec i s = runXl i (xlOf i) s := by
    unfold xlOf at h
    split at h
    case h_21 => cases h
    all_goals rfl
  rw [hx, h]
  rfl

theorem Xl1.hasRead_readWave (x : Xl1) (s : State) (w : Wave) (m : Mask) : w.HasRead (x.readWave s w m) (killsOf x.srcs) := by
  unfold Xl1.readWave
  split
  · exact (Wave.hasRead_readEffects ..).stat statNosrc
  · exact Wave.hasRead_readEffects ..

theorem Xl1.readWave_nosrc (x : Xl1) (s : State) (w : Wave) (m : Mask) (h : (x.result s w m).nosrc = true) :
    (x.readWave s w m).wstat &&& 4 = 4 := by
  rw [Xl1.readWave, if_pos h, Wave.stat]
  ext i hi
  simp [statNosrc]
  tauto

theorem XSpec.lanes_ne_zero (x : XSpec) {m : Mask} (hm : m ≠ 0) : x.lanes m ≠ 0 := by
  unfold XSpec.lanes
  split
  · exact landLanes_ne_zero x.d hm
  · exact hm

theorem XSpec.writes_met (x : XSpec) (m : Mask) (vals : List DWord) : ∀ y ∈ x.writes m vals, y.met = 0 := by
  unfold XSpec.writes
  split
  · exact groupWrites_met _ _ _ _
  · exact groupWrites_met _ _ _ _
  · split
    · rintro y (_ | ⟨_, ⟨⟩⟩)
      rfl
    · exact fun y hy => nomatch hy
  · rintro y (_ | ⟨_, ⟨⟩⟩)
    rfl

/-- Settles O15: the exchange queues `Xl1.op` (`Xl1.body_ok`). -/
theorem crossLaneOpen : Obligations.CrossLaneOpen := by
  unfold Obligations.CrossLaneOpen
  intro i s x k w e hi hm hr hd hx hf
  obtain ⟨t, w', ht, hw', hq, hregs, hs, hst, hop⟩ := issue_queues hr (x.hasRead_readWave s w (s.execMask w e x.p x.pn))
    (Xl1.body_ok x i (issOf i x.plan s k w e) s hm hd hx hf)
  refine ⟨t, w', (exec_of_xlOf i s x hi).trans ht, hw', hq, hregs, hs, fun hn => hst ▸ x.readWave_nosrc s w _ hn, fun hne => ?_⟩
  have hl := x.spec.lanes_ne_zero hne
  have hfin : (x.op s (issOf i x.plan s k w e) s.nextId).finished = false := by
    show (x.spec.lanes (s.execMask w e x.p x.pn) == 0 && true) = false
    rw [beq_false_of_ne hl]
    rfl
  have hwr : (x.op s (issOf i x.plan s k w e) s.nextId).writes =
      x.spec.writes (x.spec.lanes (s.execMask w e x.p x.pn)) (x.result s w (s.execMask w e x.p x.pn)).vals := if_neg hl
  refine ⟨_, hop hfin, rfl, rfl, rfl, rfl, rfl, ?_⟩
  rw [LOp.bare_entered, LOp.bare_writes _ (hwr ▸ XSpec.writes_met _ _ _), hwr]

end Sys2Proof.Machine
end

section
/-! ## Latches and operand cache slots -/

namespace Sys2Proof.Machine

theorem Latch.inMask_put (l : Latch) (m : Mask) (vals : List DWord) (L : Nat) :
    inMask (l.put m vals).valid L = (inMask l.valid L || inMask m L) := BitVec.getLsbD_or

theorem Latch.lane_put (l : Latch) (m : Mask) (vals : List DWord) (L : Nat) (hL : L < 64) :
    (l.put m vals).lane L = if inMask m L = true then vals.getD L 0 else l.lane L := by
  rw [Latch.lane, Latch.inMask_put, Latch.put, mergeLanes_getD _ _ _ _ _ hL, Latch.lane]
  cases inMask m L <;> simp

theorem Latch.sameLane_put (l : Latch) (m : Mask) (vals : List DWord) (L : Nat) (hL : L < 64) (hm : inMask m L = false) :
    l.SameLane (l.put m vals) L := by
  constructor
  · rw [Latch.inMask_put, hm, Bool.or_false]
  · rw [Latch.lane_put _ _ _ _ hL, hm, if_neg Bool.false_ne_true]

/-- The upper levels after a slot, if one is named, takes lanes of a result (R29). -/
def Upper.putSlot (u : Upper) (x : Mask) (slot : Option (Fin 8)) (vals : List DWord) : Upper :=
  match slot with
  | some j => { u with o := u.o.set j.val ((u.slot j.val).put x vals) }
  | .none => u

/-- The upper levels after a result (R26 to R29, R119). -/
def Upper.result (u : Upper) (x : Mask) (pipeB scalar : Bool) (slot : Option (Fin 8)) (vals : List DWord) : Upper :=
  if scalar then
    if x = 0 then u
    else Upper.putSlot { u with ls := vals.getD (lowestLane x) 0, lsValid := true } x slot
      (perLane fun _ => vals.getD (lowestLane x) 0)
  else
    (if pipeB then { u with lb := u.lb.put x vals } else { u with la := u.la.put x vals }).putSlot x slot vals

theorem Wave.up_putV (w : Wave) (n : Nat) (m : Mask) (vals : List DWord) : (w.putV n m vals).up = w.up := by
  unfold Wave.putV; split <;> rfl

theorem Wave.up_putSlot (w : Wave) (x : Mask) (t : Nat) (c : TClass) (slot : Option (Fin 8)) (vals : List DWord) :
    (w.putSlot x t c slot vals).up = w.up.putSlot x slot vals := by
  cases slot <;> rfl

theorem Wave.up_putResult (w : Wave) (x : Mask) (t : Nat) (c : TClass) (pipeB scalar : Bool) (d : Dst)
    (slot : Option (Fin 8)) (wide : Bool) (vals : List DWord) :
    (w.putResult x t c pipeB scalar d slot wide vals).up = w.up.result x pipeB scalar slot vals := by
  unfold Wave.putResult Upper.result
  cases scalar with
  | true =>
    rw [if_pos rfl, if_pos rfl]
    split
    · rfl
    · refine Eq.trans ?_ (Wave.up_putSlot (w.putLs t c (vals.getD (lowestLane x) 0)) x t c slot _)
      cases d <;> rfl
  | false =>
    rw [if_neg Bool.false_ne_true, if_neg Bool.false_ne_true]
    have h : ((w.putLatch x t c pipeB vals).putSlot x t c slot vals).up =
        (if pipeB then { w.up with lb := w.up.lb.put x vals } else { w.up with la := w.up.la.put x vals }).putSlot x slot vals := by
      rw [Wave.up_putSlot]
      cases pipeB <;> rfl
    rw [← h]
    cases d with
    | v r =>
      cases wide
      · exact Wave.up_putV ..
      · exact (Wave.up_putV ..).trans (Wave.up_putV ..)
    | s r => rfl
    | null => rfl

/-! ### What a result leaves at each level -/

theorem Upper.slot_putSlot (u : Upper) (x : Mask) (slot : Option (Fin 8)) (vals : List DWord) (j : Fin 8) :
    (u.putSlot x slot vals).slot j.val = if slot = some j then (u.slot j.val).put x vals else u.slot j.val := by
  cases slot with
  | none => rfl
  | some i =>
    simp only [Upper.putSlot, Upper.slot, Table.getD_set, Option.some.injEq, Fin.ext_iff]
    split
    · next h => rw [h]
    · rfl

@[simp] theorem Upper.la_putSlot (u : Upper) (x : Mask) (slot : Option (Fin 8)) (vals : List DWord) :
    (u.putSlot x slot vals).la = u.la := by cases slot <;> rfl
@[simp] theorem Upper.lb_putSlot (u : Upper) (x : Mask) (slot : Option (Fin 8)) (vals : List DWord) :
    (u.putSlot x slot vals).lb = u.lb := by cases slot <;> rfl
@[simp] theorem Upper.ls_putSlot (u : Upper) (x : Mask) (slot : Option (Fin 8)) (vals : List DWord) :
    (u.putSlot x slot vals).ls = u.ls := by cases slot <;> rfl
@[simp] theorem Upper.lsValid_putSlot (u : Upper) (x : Mask) (slot : Option (Fin 8)) (vals : List DWord) :
    (u.putSlot x slot vals).lsValid = u.lsValid := by cases slot <;> rfl

section
variable (u : Upper) (x : Mask) (pipeB : Bool) (slot : Option (Fin 8)) (vals : List DWord)

/-- A result on the scalar pipe leaves the latches of the vector pipes. -/
theorem Upper.result_scalar_latches :
    (u.result x pipeB true slot vals).la = u.la ∧ (u.result x pipeB true slot vals).lb = u.lb := by
  rw [Upper.result, if_pos rfl]
  split <;> simp

theorem Upper.result_scalar_ls (hx : x ≠ 0) :
    (u.result x pipeB true slot vals).ls = vals.getD (lowestLane x) 0 ∧ (u.result x pipeB true slot vals).lsValid = true := by
  rw [Upper.result, if_pos rfl, if_neg hx]
  simp

/-- A result on a vector pipe leaves the scalar latch. -/
theorem Upper.result_vector_ls :
    (u.result x pipeB false slot vals).ls = u.ls ∧ (u.result x pipeB false slot vals).lsValid = u.lsValid := by
  rw [Upper.result, if_neg Bool.false_ne_true]
  cases pipeB <;> simp

theorem Upper.result_vector_la :
    (u.result x pipeB false slot vals).la = if pipeB then u.la else u.la.put x vals := by
  rw [Upper.result, if_neg Bool.false_ne_true]
  cases pipeB <;> simp

theorem Upper.result_vector_lb :
    (u.result x pipeB false slot vals).lb = if pipeB then u.lb.put x vals else u.lb := by
  rw [Upper.result, if_neg Bool.false_ne_true]
  cases pipeB <;> simp

theorem Upper.result_none_o (scalar : Bool) : (u.result x pipeB scalar .none vals).o = u.o := by
  cases scalar with
  | true =>
    rw [Upper.result, if_pos rfl]
    split <;> rfl
  | false =>
    rw [Upper.result, if_neg Bool.false_ne_true]
    cases pipeB <;> rfl

theorem Upper.result_slot (scalar : Bool) (j : Fin 8) :
    (u.result x pipeB scalar slot vals).slot j.val =
      if slot = some j ∧ (scalar = true → x ≠ 0) then
        (u.slot j.val).put x (if scalar then perLane fun _ => vals.getD (lowestLane x) 0 else vals)
      else u.slot j.val := by
  cases scalar with
  | true =>
    by_cases hx : x = 0
    · subst hx
      rw [if_neg (by simp)]
      rfl
    · rw [Upper.result, if_pos rfl, if_neg hx, Upper.slot_putSlot]
      simp only [hx, ne_eq, not_false_eq_true, implies_true, and_true, if_true]
      rfl
  | false =>
    rw [Upper.result, if_neg Bool.false_ne_true, Upper.slot_putSlot]
    simp only [Bool.false_eq_true, false_implies, and_true, if_false]
    cases pipeB <;> rfl

end

/-! ### Fills -/

theorem State.fillSrc_up (s : State) (before : Wave) (lit : Option DWord) (w : Wave) (o : Opnd) :
    ∃ t, (s.fillSrc before lit w o).up = { w.up with o := t } := by
  unfold State.fillSrc
  split <;> exact ⟨_, rfl⟩

/-- Fills change the slots alone. -/
theorem State.fillAll_up (s : State) (before : Wave) (lit : Option DWord) (l : List Opnd) (w : Wave) :
    ∃ t, (l.foldl (s.fillSrc before lit) w).up = { w.up with o := t } := by
  induction l generalizing w with
  | nil => exact ⟨_, rfl⟩
  | cons o l ih =>
    obtain ⟨t, ht⟩ := ih (s.fillSrc before lit w o)
    obtain ⟨t', ht'⟩ := s.fillSrc_up before lit w o
    exact ⟨t, by rw [List.foldl_cons, ht, ht']⟩

/-- What a fill puts into its slot (R29). -/
def State.fillOf (s : State) (before : Wave) (lit : Option DWord) (o : Opnd) : Latch :=
  ⟨perLane fun L => s.readSel before lit o.rd o.sel L, fullMask⟩

theorem State.slot_fillSrc (s : State) (before : Wave) (lit : Option DWord) (w : Wave) (o : Opnd) (j : Fin 8) :
    (s.fillSrc before lit w o).up.slot j.val = if o.fill = some j then s.fillOf before lit o else w.up.slot j.val := by
  unfold State.fillSrc
  cases h : o.fill with
  | none => rfl
  | some i =>
    simp only [Upper.slot, Table.getD_set, Option.some.injEq, Fin.ext_iff]
    rfl

/-- A slot that one source alone fills holds what it read. -/
theorem State.slot_fillAll (s : State) (before : Wave) (lit : Option DWord) (o : Opnd) (j : Fin 8) (hj : o.fill = some j)
    (l : List Opnd) (w : Wave) (hl : ∀ q ∈ l, q.fill = some j → q = o)
    (h : o ∈ l ∨ w.up.slot j.val = s.fillOf before lit o) :
    (l.foldl (s.fillSrc before lit) w).up.slot j.val = s.fillOf before lit o := by
  induction l generalizing w with
  | nil => exact h.resolve_left (List.not_mem_nil)
  | cons q l ih =>
    refine ih _ (fun p hp => hl p (List.mem_cons_of_mem q hp)) ?_
    rw [State.slot_fillSrc]
    by_cases hq : q.fill = some j
    · have he := hl q List.mem_cons_self hq
      rw [if_pos hq, he]
      exact .inr rfl
    · rw [if_neg hq]
      refine h.imp_left fun hm => (List.mem_cons.mp hm).resolve_left fun he => hq (by rw [← he]; exact hj)

theorem State.slot_fillAll_none (s : State) (before : Wave) (lit : Option DWord) (j : Fin 8) (l : List Opnd) (w : Wave)
    (hl : ∀ q ∈ l, q.fill ≠ some j) : (l.foldl (s.fillSrc before lit) w).up.slot j.val = w.up.slot j.val := by
  induction l generalizing w with
  | nil => rfl
  | cons q l ih =>
    rw [List.foldl_cons, ih _ fun p hp => hl p (List.mem_cons_of_mem q hp), State.slot_fillSrc,
      if_neg (hl q List.mem_cons_self)]

theorem readEffects_up (s : State) (before : Wave) (x : Mask) (lit : Option DWord) (srcs : List Opnd) (w : Wave) :
    (readEffects s before x lit srcs w).up = (srcs.foldl (s.fillSrc before lit) w).up := by
  simp only [readEffects, Wave.stat]
  rw [Wave.killAll_rest]

theorem State.lane_fillOf (s : State) (before : Wave) (lit : Option DWord) (o : Opnd) (L : Nat) (hL : L < 64) :
    inMask (s.fillOf before lit o).valid L = true ∧ (s.fillOf before lit o).lane L = s.readSel before lit o.rd o.sel L := by
  have h : inMask fullMask L = true := by
    rw [inMask, fullMask, BitVec.getLsbD_allOnes, decide_eq_true hL]
  refine ⟨h, ?_⟩
  rw [Latch.lane, State.fillOf, if_pos h, perLane_getD _ _ _ hL]

end Sys2Proof.Machine
end

section
/-! ## Results of class A and W instructions (O10) -/

namespace Sys2Proof.Machine

/-- The wave once a class A or W operation has read its sources and written its result. -/
def Alu.wave (a : Alu) (s : State) (w : Wave) (x : Mask) (t : Nat) (b : Bool) : Wave :=
  a.write s w x t b (readEffects s w x a.lit a.srcs w)

/-- An operation that nothing stops leaves `Alu.wave`. -/
theorem Alu.body_ok (a : Alu) (u : Iss) (s : State) (h : a.stops s u.w u.exec = none) :
    a.body u s = .ok (s.setWave u.k (a.wave s u.w u.exec u.slot.t u.slot.pipeB)) .seq := by
  simp only [Alu.body, h]
  rfl

theorem paired_of_aluOf (i : Instr) (s : State) (p : Fin 16) (pn : Bool) (a : Alu) (h : aluOf s i = some (p, pn, a)) :
    a.paired = false := by
  unfold aluOf at h
  split at h
  all_goals cases h
  all_goals rfl

/-- What a class A or W instruction leaves that nothing stops. -/
theorem alu_issues {i : Instr} {s : State} {p : Fin 16} {pn : Bool} {a : Alu} {k : Nat} {w : Wave} {e : Entry}
    (hi : aluOf s i = some (p, pn, a)) (hr : Ready i (a.plan p pn) s k w e) (hs : a.stops s w (s.execMask w e p pn) = none) :
    ∃ t, exec i s = .next (t.closeIf (rbOf i) k) ∧
      t.waveAt? k = some (((a.wave s w (s.execMask w e p pn) (issOf i (a.plan p pn) s k w e).slot.t
        (issOf i (a.plan p pn) s k w e).slot.pipeB).slotted (issOf i (a.plan p pn) s k w e)).advance (byteLen i)) ∧
      s.SameOutside t k := by
  obtain ⟨t, ht, hw, ho⟩ := settle_seq hr (Alu.body_ok a (issOf i (a.plan p pn) s k w e) s hs)
  exact ⟨t, (exec_of_aluOf i s p pn a hi).trans ht, hw, ho⟩

/-- Without an F64 operation the issue takes pipe A. -/
theorem Alu.pipeA_of_f64 (a : Alu) (c : Core) (w : Wave) (p : Fin 16) (pn : Bool) (h : a.f64 = false) :
    (slotOf c w (a.plan p pn)).pipeB = false := by
  have hp : ((a.plan p pn).pipe == .f64) = false := by
    show (a.pipe == .f64) = false
    rw [Alu.pipe, h]
    cases a.scalar <;> rfl
  simp only [slotOf, hp, Bool.false_and]

section
variable (a : Alu) (s : State) (w : Wave) (x : Mask) (t : Nat) (b : Bool)

theorem Alu.results_getD (L : Nat) (hL : L < 64) (hx : inMask x L = true) :
    ((a.results s w x).map (·.1)).getD L 0 = a.lane s w L := by
  rw [Alu.results, map_perLane, perLane_getD _ _ _ hL, if_pos hx]
  rfl

theorem Alu.results_lowest (hx : x ≠ 0) :
    ((a.results s w x).map (·.1)).getD (lowestLane x) 0 = a.lane s w (lowestLane x) := by
  obtain ⟨hl, hm⟩ := lowestLane_mem x hx
  exact a.results_getD s w x _ hl hm

theorem Alu.scalar_of_v {r : Fin 128} (h : a.d = .v r) : a.scalar = false := by
  rw [Alu.scalar, h, onScalar, Bool.and_false]

theorem Alu.scalar_of_s {r : Fin 64} (hp : a.paired = false) (h : a.d = .s r) : a.scalar = true := by
  rw [Alu.scalar, h, hp]
  rfl

/-- What a vector register's lane holds after the operation: its part of the result, or what it held, zero where a source
killed it. -/
def Alu.vLaneAfter (n L : Nat) : Word :=
  match (if inMask x L then destPart a.d a.wide n else none) with
  | some sh => (a.lane s w L >>> sh).truncate 32
  | none => if (killsOf a.srcs).contains n then 0 else w.vLane n L

/-- The vector registers once the operation has written its result (R32, R33, R119). -/
theorem Alu.wave_vLane (n L : Nat) (hn : n < 128) (hL : L < 64) :
    (a.wave s w x t b).vLane n L = a.vLaneAfter s w x n L := by
  refine (Wave.vLane_putResult _ _ _ _ _ _ _ _ _ _ _ _ hn hL fun r hr => a.scalar_of_v hr).trans ?_
  unfold Alu.vLaneAfter
  cases hd : (if inMask x L then destPart a.d a.wide n else none) with
  | none => exact readEffects_vLane s w x a.lit a.srcs w n L
  | some sh =>
    have hx : inMask x L = true := by
      by_contra h
      rw [if_neg h] at hd
      cases hd
    exact congrArg (fun y : DWord => (y >>> sh).truncate 32) (a.results_getD s w x L hL hx)

/-- The scalar registers once the operation has written its result (R27, R32, R119). -/
theorem Alu.wave_sReg (hp : a.paired = false) (hw : ∀ r, a.d = .v r → a.wide = true → r.val + 1 < 128) (n : Fin 64) :
    (a.wave s w x t b).sReg n.val =
      if a.d = .s n ∧ x ≠ 0 then a.lane s w (lowestLane x)
      else if (killsOf a.srcs).contains (128 + n.val) then 0 else w.sReg n.val := by
  have hv : ∀ y, ((readEffects s w x a.lit a.srcs w).stat y).sReg n.val =
      if (killsOf a.srcs).contains (128 + n.val) then 0 else w.sReg n.val :=
    fun y => readEffects_sReg s w x a.lit a.srcs w n.val
  rw [Alu.wave, Alu.write, Wave.sReg_putResult _ _ _ _ _ _ _ _ _ _ _ (fun r hr => a.scalar_of_s hp hr) hw, hv]
  by_cases h : a.d = .s n ∧ x ≠ 0
  · rw [if_pos h, if_pos h, a.results_lowest s w x h.2]
  · rw [if_neg h, if_neg h]

/-- The upper levels: fills first, then the result. -/
theorem Alu.wave_up : (a.wave s w x t b).up =
    (a.srcs.foldl (s.fillSrc w a.lit) w).up.result x b a.scalar a.slot ((a.results s w x).map (·.1)) := by
  rw [Alu.wave, Alu.write, Wave.up_putResult, ← readEffects_up s w x]
  rfl

/-- A result on the scalar pipe goes to `ls` and into the slot it names (R27, R29, R119). -/
theorem Alu.wave_scalar_levels (hs : a.scalar = true) (hx : x ≠ 0) :
    (a.wave s w x t b).up.lsValid = true ∧ (a.wave s w x t b).up.ls = a.lane s w (lowestLane x) ∧
      ∀ j, a.slot = some j → ∀ L, L < 64 → inMask x L = true →
        inMask ((a.wave s w x t b).up.slot j.val).valid L = true ∧
          ((a.wave s w x t b).up.slot j.val).lane L = a.lane s w (lowestLane x) := by
  rw [Alu.wave_up, hs]
  obtain ⟨hls, hv⟩ := Upper.result_scalar_ls (a.srcs.foldl (s.fillSrc w a.lit) w).up x b a.slot
    ((a.results s w x).map (·.1)) hx
  refine ⟨hv, hls.trans (a.results_lowest s w x hx), fun j hj L hL hm => ?_⟩
  rw [Upper.result_slot, if_pos ⟨hj, fun _ => hx⟩, Latch.inMask_put, hm, Latch.lane_put _ _ _ _ hL, if_pos hm, if_pos rfl,
    perLane_getD _ _ _ hL]
  exact ⟨Bool.or_true _, a.results_lowest s w x hx⟩

/-- The latch of a vector pipe. -/
def Upper.latch (u : Upper) (pipeB : Bool) : Latch := if pipeB then u.lb else u.la

/-- A result on a vector pipe goes to the latch of the pipe and into the slot it names (R26, R28, R29). -/
theorem Alu.wave_vector_levels (hs : a.scalar = false) (L : Nat) (hL : L < 64) (hm : inMask x L = true) :
    (inMask ((a.wave s w x t b).up.latch b).valid L = true ∧ ((a.wave s w x t b).up.latch b).lane L = a.lane s w L) ∧
      ∀ j, a.slot = some j → inMask ((a.wave s w x t b).up.slot j.val).valid L = true ∧
        ((a.wave s w x t b).up.slot j.val).lane L = a.lane s w L := by
  have hput : ∀ l : Latch, inMask (l.put x ((a.results s w x).map (·.1))).valid L = true ∧
      (l.put x ((a.results s w x).map (·.1))).lane L = a.lane s w L := fun l => by
    rw [Latch.inMask_put, hm, Latch.lane_put _ _ _ _ hL, if_pos hm]
    exact ⟨Bool.or_true _, a.results_getD s w x L hL hm⟩
  rw [Alu.wave_up, hs, Upper.latch, Upper.result_vector_la, Upper.result_vector_lb]
  refine ⟨?_, fun j hj => ?_⟩
  · cases b <;> exact hput _
  · rw [Upper.result_slot, if_pos ⟨hj, fun h => absurd h Bool.false_ne_true⟩]
    exact hput _

end

/-- A pair that a ready instruction writes has its second register (R16). -/
theorem Alu.wide_lt {i : Instr} {s : State} {p : Fin 16} {pn : Bool} {a : Alu} {k : Nat} {w : Wave} {e : Entry}
    (hr : Ready i (a.plan p pn) s k w e) (r : Fin 128) (hd : a.d = .v r) (hw : a.wide = true) : r.val + 1 < 128 := by
  have h := (regBad_append w _ _ hr.regs).2
  have hds : (a.plan p pn).dsts = [(.v r, 2)] := by
    show dstNamed a.d a.wide = _
    rw [hd, hw]
    rfl
  rw [hds] at h
  have := (regBad_v w r 2 h).1
  omega

/-- Settles O10: the wave that the operation leaves is `Alu.wave`, whose registers and upper levels the lemmas above give. -/
theorem classAWResult : Obligations.ClassAWResult := by
  unfold Obligations.ClassAWResult
  refine ⟨fun i s p pn a k w e hi hr hs => ?_, fun i s p pn a k w e hi hr hs => ?_⟩
  · obtain ⟨t, ht, hw, -⟩ := alu_issues hi hr hs
    refine ⟨t, _, ht, hw, fun n L hn hL => ?_, fun n => ?_⟩
    · rw [Wave.issued_vLane]
      exact a.wave_vLane s w _ _ _ n L hn hL
    · rw [Wave.issued_sReg]
      exact a.wave_sReg s w _ _ _ (paired_of_aluOf i s p pn a hi) (Alu.wide_lt hr) n
  · obtain ⟨t, ht, hw, -⟩ := alu_issues hi hr hs
    refine ⟨t, _, ht, hw, fun hsc hx => ?_, fun hsc L hL hm => ?_⟩
    · rw [Wave.issued_up]
      exact a.wave_scalar_levels s w _ _ _ hsc hx
    · rw [Wave.issued_up]
      obtain ⟨hl, hslot⟩ := a.wave_vector_levels s w _ (issOf i (a.plan p pn) s k w e).slot.t
        (issOf i (a.plan p pn) s k w e).slot.pipeB hsc L hL hm
      refine ⟨⟨_, ?_, fun hf => ?_, hl⟩, hslot⟩
      · exact (ite_eq_or_eq _ _ _).symm
      · rw [show (issOf i (a.plan p pn) s k w e).slot.pipeB = false from a.pipeA_of_f64 _ w p pn hf]
        rfl

end Sys2Proof.Machine
end

section
/-! ## The frame of class A and W instructions (O11) -/

namespace Sys2Proof.Machine

section
variable (a : Alu) (s : State) (w : Wave) (x : Mask) (t : Nat) (b : Bool)

theorem Alu.computed_wave : w.Computed (a.wave s w x t b) :=
  ((Wave.computed_readEffects s w x a.lit a.srcs w).trans (Wave.computed_stat ..)).trans (Wave.computed_putResult ..)

/-- The flags of WSTAT: those of reading and those of the operation (R34, R141). -/
theorem Alu.wave_wstat : (a.wave s w x t b).wstat =
    w.wstat ||| a.srcs.foldl (fun m o => m ||| srcStat w x o) 0 ||| flagBits (allFlags x ((a.results s w x).map (·.2))) := by
  rw [Alu.wave, Alu.write, Wave.wstat_putResult, Wave.stat, readEffects_rest]

theorem Alu.wave_wstat_sticky : (a.wave s w x t b).wstat &&& w.wstat = w.wstat := by
  rw [Alu.wave_wstat, BitVec.or_assoc]
  exact or_and_self_left ..

theorem Alu.sameOps_wave : w.SameOps (a.wave s w x t b) := by
  have h : w.SameOps ((readEffects s w x a.lit a.srcs w).stat (flagBits (allFlags x ((a.results s w x).map (·.2))))) := by
    rw [readEffects_rest]
    rfl
  exact h.trans (Wave.sameOps_putResult ..)

theorem Alu.wave_pMask (n : Nat) : (a.wave s w x t b).pMask n = w.pMask n := by
  rw [Alu.wave, Alu.write, Wave.pMask_putResult]
  exact readEffects_pMask s w x a.lit a.srcs w n

/-- On the scalar pipe the vector latches stay, and without an executing lane `ls` does. -/
theorem Alu.wave_scalar_frame (hs : a.scalar = true) :
    (a.wave s w x t b).up.la = w.up.la ∧ (a.wave s w x t b).up.lb = w.up.lb ∧
      (x = 0 → (a.wave s w x t b).up.ls = w.up.ls ∧ (a.wave s w x t b).up.lsValid = w.up.lsValid) := by
  obtain ⟨o, ho⟩ := s.fillAll_up w a.lit a.srcs w
  rw [Alu.wave_up, hs, ho]
  obtain ⟨hla, hlb⟩ := Upper.result_scalar_latches { w.up with o := o } x b a.slot ((a.results s w x).map (·.1))
  refine ⟨hla, hlb, ?_⟩
  rintro rfl
  exact ⟨rfl, rfl⟩

/-- On a vector pipe `ls` stays, and so do the other pipe's latch and the lanes that do not execute. -/
theorem Alu.wave_vector_frame (hs : a.scalar = false) :
    (a.wave s w x t b).up.ls = w.up.ls ∧ (a.wave s w x t b).up.lsValid = w.up.lsValid ∧
      (if b then (a.wave s w x t b).up.la = w.up.la else (a.wave s w x t b).up.lb = w.up.lb) ∧
      ∀ L, L < 64 → inMask x L = false →
        w.up.la.SameLane (a.wave s w x t b).up.la L ∧ w.up.lb.SameLane (a.wave s w x t b).up.lb L := by
  obtain ⟨o, ho⟩ := s.fillAll_up w a.lit a.srcs w
  rw [Alu.wave_up, hs, ho, Upper.result_vector_la, Upper.result_vector_lb]
  obtain ⟨hls, hv⟩ := Upper.result_vector_ls { w.up with o := o } x b a.slot ((a.results s w x).map (·.1))
  refine ⟨hls, hv, ?_, fun L hL hx => ?_⟩
  · cases b <;> rfl
  · have hput : ∀ l : Latch, l.SameLane (l.put x ((a.results s w x).map (·.1))) L := fun l => l.sameLane_put _ _ L hL hx
    cases b
    · exact ⟨hput _, rfl, rfl⟩
    · exact ⟨⟨rfl, rfl⟩, hput _⟩

/-- A slot's lane that takes no result is as the fills left it. -/
theorem Alu.wave_slot_frame (j : Fin 8) (L : Nat) (hL : L < 64) (hx : a.slot = some j → inMask x L = false) :
    ((a.srcs.foldl (s.fillSrc w a.lit) w).up.slot j.val).SameLane ((a.wave s w x t b).up.slot j.val) L := by
  rw [Alu.wave_up, Upper.result_slot]
  split
  · next h => exact Latch.sameLane_put _ _ _ L hL (hx h.1)
  · exact ⟨rfl, rfl⟩

end

/-! ### Flags of reading -/

theorem srcStat_eq_zero_iff (w : Wave) (x : Mask) (o : Opnd) :
    srcStat w x o = 0 ↔ ¬ (x != 0 && deadSrc w o) = true ∧ ¬ staleSrc w x o = true := by
  unfold srcStat
  generalize (x != 0 && deadSrc w o) = d, staleSrc w x o = b
  revert d b
  decide

theorem srcStat_dead_iff (w : Wave) (x : Mask) (o : Opnd) :
    srcStat w x o &&& statDead ≠ 0 ↔ (x != 0 && deadSrc w o) = true := by
  unfold srcStat
  generalize (x != 0 && deadSrc w o) = d, staleSrc w x o = b
  revert d b
  decide

theorem srcStat_stale_iff (w : Wave) (x : Mask) (o : Opnd) : srcStat w x o &&& statStale ≠ 0 ↔ staleSrc w x o = true := by
  unfold srcStat
  generalize (x != 0 && deadSrc w o) = d, staleSrc w x o = b
  revert d b
  decide

theorem srcStat_eq_stale_iff (w : Wave) (x : Mask) (o : Opnd) :
    srcStat w x o = statStale ↔ ¬ (x != 0 && deadSrc w o) = true ∧ staleSrc w x o = true := by
  unfold srcStat
  generalize (x != 0 && deadSrc w o) = d, staleSrc w x o = b
  revert d b
  decide

/-- What a source gives DEADREAD as its address: a dead register its code, a level 256 more (R34). -/
def Opnd.names (w : Wave) (x : Mask) (o : Opnd) (y : DWord) : Prop :=
  (srcStat w x o &&& statDead ≠ 0 ∧ y = BitVec.ofNat 64 (srcCode o.sel)) ∨
    (srcStat w x o = statStale ∧ y = BitVec.ofNat 64 (256 + srcCode o.sel))

/-- DEADREAD goes through the sources in field order. -/
theorem deadRead_cons_iff (w : Wave) (x : Mask) (o : Opnd) (l : List Opnd) (y : DWord) :
    deadRead w x (o :: l) = some y ↔ o.names w x y ∨ (srcStat w x o = 0 ∧ deadRead w x l = some y) := by
  rw [Opnd.names, srcStat_dead_iff, srcStat_eq_stale_iff, srcStat_eq_zero_iff, deadRead]
  generalize (x != 0 && deadSrc w o) = d, staleSrc w x o = b
  cases d with
  | true => simp [eq_comm (a := y)]
  | false => cases b <;> simp [eq_comm (a := y)]

theorem deadRead_iff (w : Wave) (x : Mask) (l : List Opnd) (y : DWord) :
    deadRead w x l = some y ↔ ∃ pre o post, l = pre ++ o :: post ∧ (∀ q ∈ pre, srcStat w x q = 0) ∧ o.names w x y := by
  induction l with
  | nil => simp [deadRead]
  | cons q l ih =>
    rw [deadRead_cons_iff, ih]
    constructor
    · rintro (h | ⟨h0, pre, o, post, rfl, hpre, h⟩)
      · exact ⟨[], q, l, rfl, List.forall_mem_nil _, h⟩
      · exact ⟨q :: pre, o, post, rfl, List.forall_mem_cons.mpr ⟨h0, hpre⟩, h⟩
    · rintro ⟨pre, o, post, hl, hpre, h⟩
      cases pre with
      | nil =>
        obtain ⟨rfl, rfl⟩ := List.cons.inj hl
        exact .inl h
      | cons p pre =>
        obtain ⟨rfl, rfl⟩ := List.cons.inj hl
        obtain ⟨h0, hpre⟩ := List.forall_mem_cons.mp hpre
        exact .inr ⟨h0, pre, o, post, rfl, hpre, h⟩

theorem deadSrc_iff (w : Wave) (o : Opnd) : deadSrc w o = true ↔
    (∃ r, o.sel = .v r ∧ (r.val ∈ w.dead ∨ (o.rd.wide = true ∧ r.val + 1 ∈ w.dead))) ∨
      ∃ r, o.sel = .s r ∧ 128 + r.val ∈ w.dead := by
  unfold deadSrc
  cases o.sel <;> simp

theorem staleSrc_iff (w : Wave) (x : Mask) (o : Opnd) : staleSrc w x o = true ↔ ∃ L, L < 64 ∧ inMask x L = true ∧
    let out := fun (l : Latch) => inMask w.launched (permLane o.perm o.amt L) = true ∧
      inMask l.valid (permLane o.perm o.amt L) = false
    ((o.sel = .la ∧ out w.up.la) ∨ (o.sel = .lb ∧ out w.up.lb) ∨ (∃ j, o.sel = .o j ∧ out (w.up.slot j.val)) ∨
      (o.sel = .ls ∧ w.up.lsValid = false)) := by
  unfold staleSrc
  cases o.sel with
  | ls =>
    simp only [Bool.and_eq_true, bne_iff_ne, Bool.not_eq_true']
    constructor
    · rintro ⟨hx, hv⟩
      obtain ⟨hL, hm⟩ := lowestLane_mem x hx
      exact ⟨_, hL, hm, by simp [hv]⟩
    · rintro ⟨L, -, hm, h⟩
      refine ⟨fun h0 => ?_, by simpa using h⟩
      rw [h0, inMask_zero] at hm
      exact Bool.false_ne_true hm
  | _ => simp [mem_lanesIn, and_assoc]

/-- An operation that is stopped traps precisely (R34, R141). -/
theorem Alu.stops_iff (a : Alu) (s : State) (w : Wave) (x : Mask) (c : Cause) (y : DWord) (h : a.stops s w x = some (c, y)) :
    (w.strict = true ∧ c = .deadread ∧ deadRead w x a.srcs = some y) ∨
      (readsOk w x a.srcs ∧ c = .fpexc ∧ (a.raises s w x).1 ≠ 0) := by
  unfold Alu.stops at h
  cases hd : a.deadread w x with
  | some z =>
    simp only [hd, Option.some.injEq, Prod.mk.injEq] at h
    obtain ⟨rfl, rfl⟩ := h
    rw [Alu.deadread] at hd
    split at hd
    · next hs => exact .inl ⟨hs, rfl, hd⟩
    · cases hd
  | none =>
    simp only [hd] at h
    split at h
    · next hf =>
      simp only [Option.some.injEq, Prod.mk.injEq] at h
      refine .inr ⟨fun hs => ?_, h.1.symm, hf⟩
      rwa [Alu.deadread, if_pos hs] at hd
    · cases h

/-- Settles O11: the wave that the operation leaves is `Alu.wave`; what stops it is `Alu.stops_iff`, and what reading sets is
`deadRead_iff`, `deadSrc_iff` and `staleSrc_iff`. -/
theorem classAWFrame : Obligations.ClassAWFrame := by
  unfold Obligations.ClassAWFrame
  refine ⟨fun i s p pn a k w e hi hr hs => ?_, fun i s p pn a k w e hi hr hs => ?_, fun i s p pn a k w e c y hi hr hs => ?_,
    deadRead_iff, fun w x o => ⟨?_, ?_⟩⟩
  · obtain ⟨t, ht, hw, ho⟩ := alu_issues hi hr hs
    refine ⟨t, _, ht, hw, Wave.ran_issued hr _ _ (Alu.wave_wstat_sticky ..) (Alu.computed_wave ..), fun n _ => ?_, ?_, ?_, ho⟩
    · rw [Wave.issued_pMask, Alu.wave_pMask]
    · rw [Wave.issued_lops]
      exact Alu.sameOps_wave ..
    · rw [Wave.issued_wstat, Alu.wave_wstat]
  · obtain ⟨t, ht, hw, -⟩ := alu_issues hi hr hs
    refine ⟨t, _, ht, hw, fun hsc => ?_, fun hsc => ?_, fun j L hL hx => ?_⟩
    · rw [Wave.issued_up]
      exact Alu.wave_scalar_frame a s w _ _ _ hsc
    · rw [Wave.issued_up]
      obtain ⟨hls, hv, hl, hlanes⟩ := Alu.wave_vector_frame a s w (s.execMask w e p pn) (issOf i (a.plan p pn) s k w e).slot.t
        (issOf i (a.plan p pn) s k w e).slot.pipeB hsc
      refine ⟨hls, hv, ?_, hlanes⟩
      cases hf : a.f64 with
      | false =>
        have hb : (issOf i (a.plan p pn) s k w e).slot.pipeB = false := a.pipeA_of_f64 _ w p pn hf
        rw [hb, if_neg Bool.false_ne_true] at hl
        rw [hb]
        exact .inl hl
      | true =>
        split at hl
        · exact .inr ⟨rfl, hl⟩
        · exact .inl hl
    · rw [Wave.issued_up]
      obtain ⟨hv, hl⟩ := Alu.wave_slot_frame a s w (s.execMask w e p pn) (issOf i (a.plan p pn) s k w e).slot.t
        (issOf i (a.plan p pn) s k w e).slot.pipeB j L hL hx
      refine ⟨fun o ho hj hq => ?_, fun hn => ?_⟩
      · rw [hv, hl, s.slot_fillAll w a.lit o j hj a.srcs w hq (.inl ho)]
        exact s.lane_fillOf w a.lit o L hL
      · rw [s.slot_fillAll_none w a.lit j a.srcs w hn] at hv hl
        exact ⟨hv, hl⟩
  · refine ⟨?_, Alu.stops_iff a s w _ c y hs⟩
    have hb : a.body (issOf i (a.plan p pn) s k w e) s = .trap c y := by
      have hs' : a.stops s (issOf i (a.plan p pn) s k w e).w (issOf i (a.plan p pn) s k w e).exec = some (c, y) := hs
      simp only [Alu.body, hs']
    rw [exec_of_aluOf i s p pn a hi, issue_ready hr, hb]
    rfl
  · rw [srcStat_dead_iff, Bool.and_eq_true, deadSrc_iff, bne_iff_ne]
  · rw [srcStat_stale_iff, staleSrc_iff]

end Sys2Proof.Machine
end

section
/-! ## Special registers (O40) -/

namespace Sys2Proof.Machine

/-! ### MOVS and PERFRD -/

/-- What MOVS and PERFRD write lane by lane, `v`, of the value `val`: all of it on the scalar pipe, its low 32 bits in a
vector register (R372, R373). -/
structure SpecialRead (d : Dst) (val v : Nat → DWord) (sc : Bool) : Prop where
  vec : ∀ r, d = .v r → sc = false ∧ ∀ L, L < 64 → v L = val L &&& 0xFFFFFFFF
  ofS : ∀ r, d = .s r → sc = true
  scalar : sc = true → v = val

theorem lane_and_low32 (L : Nat) (hL : L < 64) : (BitVec.ofNat 64 L : DWord) = BitVec.ofNat 64 L &&& 0xFFFFFFFF := by
  apply BitVec.eq_of_toNat_eq
  rw [BitVec.toNat_and, BitVec.toNat_ofNat, show (0xFFFFFFFF : DWord).toNat = 2 ^ 32 - 1 from rfl, Nat.and_two_pow_sub_one_eq_mod]
  omega

theorem movs_specialRead (f : Xt) (y : DWord) :
    SpecialRead f.d (fun L => if f.e8.toNat = 1 then BitVec.ofNat 64 L else y)
      (fun L => if f.e8.toNat = 1 then BitVec.ofNat 64 L else narrow (match f.d with | .s _ => true | _ => false) y)
      (match f.d with | .s _ => true | _ => false) := by
  refine ⟨fun r hr => ?_, fun r hr => ?_, fun hs => ?_⟩
  · rw [hr]
    refine ⟨rfl, fun L hL => ?_⟩
    dsimp only
    split
    · exact lane_and_low32 L hL
    · rfl
  · rw [hr]
  · rw [hs]
    rfl

/-- The wave once the value stands in its destination and latch. -/
def Wave.special (w : Wave) (x : Mask) (t : Nat) (sc : Bool) (d : Dst) (v : Nat → DWord) : Wave :=
  w.putResult x t .a false sc d none false (perLane v)

/-- MOVS and PERFRD leave `Wave.special`. -/
theorem exec_special {i : Instr} {f : Xt} {pl : Plan} {val : Iss → Nat → DWord} {s : State} {k : Nat} {w : Wave} {e : Entry}
    (h : (i = .movsXt f ∧ pl = xtPlan f [] (dstNamed f.d false) (dstPipe f.d) ∧
          val = fun u L => if f.e8.toNat = 1 then BitVec.ofNat 64 L else s.sreg u f.e8.toNat) ∨
        (i = .perfrdXt f ∧ pl = basePlan [] (dstNamed f.d true) .scalar ∧ (∀ r, f.d ≠ .v r) ∧
          val = fun u _ => perfVal u f.e8.toNat)) (hr : Ready i pl s k w e) :
    ∃ sc v t, SpecialRead f.d (val (issOf i pl s k w e)) v sc ∧ (i = .perfrdXt f → sc = true) ∧
      exec i s = .next (t.closeIf (rbOf i) k) ∧ s.SameOutside t k ∧
      t.waveAt? k = some (((w.special (s.execMask w e pl.p pl.pn) (issOf i pl s k w e).slot.t sc f.d v).slotted
        (issOf i pl s k w e)).advance (byteLen i)) := by
  have goes : ∀ (sc : Bool) (v : Nat → DWord) (body : Iss → State → Res), body (issOf i pl s k w e) s =
      .ok (s.modWave k fun w0 => w0.special (s.execMask w e pl.p pl.pn) (issOf i pl s k w e).slot.t sc f.d v) .seq →
      ∃ t, issue i pl body s = .next (t.closeIf (rbOf i) k) ∧ s.SameOutside t k ∧
        t.waveAt? k = some (((w.special (s.execMask w e pl.p pl.pn) (issOf i pl s k w e).slot.t sc f.d v).slotted
          (issOf i pl s k w e)).advance (byteLen i)) := fun sc v body hb => by
    have hw := (State.modWave_of s k (fun w0 => w0.special (s.execMask w e pl.p pl.pn) (issOf i pl s k w e).slot.t sc f.d v)
      w hr.wave) ▸ hb
    obtain ⟨t, ht, hw', hs⟩ := settle_seq hr hw
    exact ⟨t, ht, hs, hw'⟩
  rcases h with ⟨rfl, rfl, rfl⟩ | ⟨rfl, rfl, hd, rfl⟩
  · obtain ⟨t, ht⟩ := goes _ _ (movsBody f) rfl
    exact ⟨_, _, t, movs_specialRead f (s.sreg (issOf _ _ s k w e) f.e8.toNat), fun h => (by cases h), ht⟩
  · obtain ⟨t, ht⟩ := goes true (fun _ => perfVal (issOf _ _ s k w e) f.e8.toNat) (perfrdBody f) rfl
    exact ⟨true, _, t, ⟨fun r hv => absurd hv (hd r), fun _ _ => rfl, fun _ => rfl⟩, fun _ => rfl, ht⟩

section
variable {d : Dst} {val v : Nat → DWord} {sc : Bool} (h : SpecialRead d val v sc) (w : Wave) (x : Mask) (t : Nat)
include h

theorem Wave.special_vLane (n L : Nat) (hn : n < 128) (hL : L < 64) : (w.special x t sc d v).vLane n L =
    if (∃ r, d = .v r ∧ r.val = n) ∧ inMask x L = true then (val L).truncate 32 else w.vLane n L := by
  rw [Wave.special, Wave.vLane_putResult _ _ _ _ _ _ _ _ _ _ _ _ hn hL fun r hr => (h.vec r hr).1, perLane_getD _ _ _ hL]
  cases d with
  | v r =>
    obtain ⟨-, hv⟩ := h.vec r rfl
    have ht : (v L).truncate 32 = ((val L).truncate 32 : Word) := by
      rw [hv L hL, BitVec.truncate_eq_setWidth, BitVec.setWidth_and]
      exact BitVec.and_allOnes
    cases inMask x L with
    | false => simp
    | true => by_cases hr : n = r.val <;> simp [destPart, hr, eq_comm (b := n), ht]
  | s r => simp [destPart]
  | null => simp [destPart]

theorem Wave.special_sReg (n : Fin 64) : (w.special x t sc d v).sReg n.val =
    if d = .s n ∧ x ≠ 0 then val (lowestLane x) else w.sReg n.val := by
  rw [Wave.special, Wave.sReg_putResult _ _ _ _ _ _ _ _ _ _ _ h.ofS fun _ _ h => absurd h Bool.false_ne_true]
  refine ite_congr rfl (fun hd => ?_) fun _ => rfl
  rw [perLane_getD _ _ _ (lowestLane_mem x hd.2).1, h.scalar (h.ofS n hd.1)]

theorem Wave.special_slots (j L : Nat) : (w.up.slot j).SameLane ((w.special x t sc d v).up.slot j) L ∧
    w.up.lb.SameLane (w.special x t sc d v).up.lb L := by
  have hl : (w.special x t sc d v).up.o = w.up.o ∧ (w.special x t sc d v).up.lb = w.up.lb := by
    rw [Wave.special, Wave.up_putResult]
    cases sc with
    | true => exact ⟨Upper.result_none_o .., (Upper.result_scalar_latches ..).2⟩
    | false => exact ⟨Upper.result_none_o .., Upper.result_vector_lb ..⟩
  rw [Upper.slot, Upper.slot, hl.1, hl.2]
  exact ⟨⟨rfl, rfl⟩, rfl, rfl⟩

omit h in
theorem Wave.special_computed : w.Computed (w.special x t sc d v) := Wave.computed_putResult ..

/-- On the scalar pipe the value goes to `ls` (R27). -/
theorem Wave.special_scalar (hs : sc = true) : (w.special x t sc d v).up.la = w.up.la ∧
    (x ≠ 0 → (w.special x t sc d v).up.lsValid = true ∧ (w.special x t sc d v).up.ls = val (lowestLane x)) ∧
    (x = 0 → (w.special x t sc d v).up.lsValid = w.up.lsValid ∧ (w.special x t sc d v).up.ls = w.up.ls) := by
  have hv := h.scalar hs
  subst hs hv
  rw [Wave.special, Wave.up_putResult]
  refine ⟨(Upper.result_scalar_latches ..).1, fun hx => ?_, ?_⟩
  · obtain ⟨hls, hval⟩ := Upper.result_scalar_ls w.up x false none (perLane v) hx
    exact ⟨hval, hls.trans (perLane_getD _ _ _ (lowestLane_mem x hx).1)⟩
  · rintro rfl
    exact ⟨rfl, rfl⟩

/-- On a vector pipe the executing lanes of `la` take what the register takes (R26, R28). -/
theorem Wave.special_vector {r : Fin 128} (hd : d = .v r) : (w.special x t sc d v).up.ls = w.up.ls ∧
    (w.special x t sc d v).up.lsValid = w.up.lsValid ∧
    ∀ L, L < 64 → if inMask x L = true then
        inMask (w.special x t sc d v).up.la.valid L = true ∧ (w.special x t sc d v).up.la.lane L = val L &&& 0xFFFFFFFF
      else w.up.la.SameLane (w.special x t sc d v).up.la L := by
  obtain ⟨rfl, hv⟩ := h.vec r hd
  rw [Wave.special, Wave.up_putResult, Upper.result_vector_la]
  obtain ⟨hls, hval⟩ := Upper.result_vector_ls w.up x false none (perLane v)
  refine ⟨hls, hval, fun L hL => ?_⟩
  split
  · next hx =>
    rw [if_neg Bool.false_ne_true, Latch.inMask_put, hx, Latch.lane_put _ _ _ _ hL, if_pos hx, perLane_getD _ _ _ hL]
    exact ⟨Bool.or_true _, hv L hL⟩
  · next hx => exact Latch.sameLane_put _ _ _ L hL (Bool.eq_false_of_not_eq_true hx)

end

/-! ### MOVSW -/

theorem State.ctxAt?_congr {s t : State} (h : t.cp = s.cp) (c : Nat) : t.ctxAt? c = s.ctxAt? c := by
  rw [State.ctxAt?, h, State.ctxAt?]

theorem State.ctxAt?_modCtx (s : State) (c d : Nat) (g : Ctx → Ctx) :
    (s.modCtx c g).ctxAt? d = (s.ctxAt? d).map (if d = c then g else id) := by
  unfold State.modCtx
  cases h : s.ctxAt? c with
  | none =>
    by_cases hd : d = c
    · rw [hd, h]
      rfl
    · rw [if_neg hd, Option.map_id]
      rfl
  | some x =>
    show (Table.set s.cp.ctxs c (g x)).get? d = _
    rw [Table.get?_set]
    by_cases hd : d = c
    · rw [if_pos hd.symm, if_pos hd, hd, h]
      rfl
    · rw [if_neg (Ne.symm hd), if_neg hd, Option.map_id]
      rfl

theorem ite_intro {c a b : Prop} [Decidable c] (ha : c → a) (hb : ¬ c → b) : if c then a else b := by
  split
  · exact ha ‹_›
  · exact hb ‹_›

theorem movswBody_of_none {f : Xt} {u : Iss} {s : State} (hd : readsOk u.w u.exec [uni f.a])
    (h : (s.readBy u.k u.w u.exec f.lit [uni f.a]).writeSreg u f.e8.toNat (u.val f.lit f.a s) = none) :
    movswBody f u s = .trap .illegal (f.e8.zeroExtend 64) := by
  rw [movswBody, reading_of_readsOk hd]
  simp only [h]

theorem movswBody_of_some {f : Xt} {u : Iss} {s t : State} (hd : readsOk u.w u.exec [uni f.a])
    (h : (s.readBy u.k u.w u.exec f.lit [uni f.a]).writeSreg u f.e8.toNat (u.val f.lit f.a s) = some t) :
    movswBody f u s = .ok t .seq := by
  rw [movswBody, reading_of_readsOk hd]
  simp only [h]

/-- HSAVE0 to HSAVE7 are written (R370). -/
theorem State.writeSreg_hsave (s : State) (u : Iss) (n : Nat) (x : DWord) (h : 0x80 ≤ n) (h' : n ≤ 0x87) :
    s.writeSreg u n x = some (s.modWave u.k fun w => { w with hsave := w.hsave.set (n - 0x80) x }) := by
  unfold State.writeSreg
  split
  case h_7 => exact if_pos ⟨h, h'⟩
  all_goals omega

/-- Every other index is read-only (R18, R370). -/
theorem State.writeSreg_readOnly (s : State) (u : Iss) (n : Nat) (x : DWord)
    (h : n ∉ [0x0B, 0x0C, 0x18, 0x89, 0x8C, 0x8D]) (h' : n < 0x80 ∨ 0x87 < n) : s.writeSreg u n x = none := by
  unfold State.writeSreg
  split
  case h_7 => exact if_neg (by omega)
  all_goals exact absurd h (by decide)

/-- The state once MOVSW has read its source. -/
def State.movswRead (s : State) (f : Xt) (k : Nat) (w : Wave) (e : Entry) : State :=
  s.readBy k w (s.execMask w e 0 false) f.lit [uni f.a]

/-- WSTAT once MOVSW has read its source. -/
def State.movswStat (s : State) (f : Xt) (w : Wave) (e : Entry) : DWord :=
  w.wstat ||| srcStat w (s.execMask w e 0 false) (uni f.a)

/-- The wave once MOVSW has read its source. -/
def State.movswWave (s : State) (f : Xt) (w : Wave) (e : Entry) : Wave := { w with wstat := s.movswStat f w e }

/-- WSTAT once MOVSW is done: a write of WSTAT clears the bits that it names (R20, R372). -/
def State.movswStatAfter (s : State) (f : Xt) (w : Wave) (e : Entry) : DWord :=
  if f.e8.toNat = 0x0C then s.movswStat f w e &&& ~~~s.readOpnd w f.lit (uni f.a) 0 else s.movswStat f w e

/-- What MOVSW writes to its special register, if that may be written. -/
def State.movswWrites (s : State) (f : Xt) (k : Nat) (w : Wave) (e : Entry) : Option State :=
  (s.movswRead f k w e).writeSreg (issOf (.movswXt f) (basePlan [uni f.a] [] .scalar) s k w e) f.e8.toNat
    (s.readOpnd w f.lit (uni f.a) 0)

section
variable {f : Xt} {s : State} {k : Nat} {w : Wave} {e : Entry}
  (hr : Ready (.movswXt f) (basePlan [uni f.a] [] .scalar) s k w e)
include hr

theorem waveAt?_movswRead : (s.movswRead f k w e).waveAt? k = some (s.movswWave f w e) :=
  (State.waveAt?_readBy hr.wave ..).trans (congrArg some (readEffects_opnd ..))

variable (hd : readsOk w (s.execMask w e 0 false) [uni f.a])
include hd

theorem movsw_refuses (h : s.movswWrites f k w e = none) :
    exec (.movswXt f) s = .next (s.takeTrap k (precise .illegal (f.e8.zeroExtend 64) e (s.execMask w e 0 false) false)) := by
  show issue _ _ (movswBody f) s = _
  rw [issue_ready hr, movswBody_of_none (u := issOf (.movswXt f) (basePlan [uni f.a] [] .scalar) s k w e) hd h]
  rfl

/-- A special register of the wave is written, and of its flags those of `b` stay set. -/
theorem movsw_sets (g : Wave → Wave) {b : DWord}
    (h : s.movswWrites f k w e = some ((s.movswRead f k w e).modWave k g))
    (hw : g (s.movswWave f w e) = { w with
      fpmode := (g (s.movswWave f w e)).fpmode
      peerst := (g (s.movswWave f w e)).peerst
      retpc := (g (s.movswWave f w e)).retpc
      traprun := (g (s.movswWave f w e)).traprun
      hsave := (g (s.movswWave f w e)).hsave
      wstat := (g (s.movswWave f w e)).wstat })
    (hst : (g (s.movswWave f w e)).wstat &&& b = b) (hy : (g (s.movswWave f w e)).wstat = s.movswStatAfter f w e) :
    Issues (.movswXt f) s k fun t w' =>
      ({ g (s.movswWave f w e) with wstat := b } : Wave).Ran w' (e.past (byteLen (.movswXt f)) :: w.frontier.tail) ∧
        w.SameRegs w' [] ∧ w.SamePreds w' ∧ s.SameOutside t k ∧ w'.wstat = s.movswStatAfter f w e := by
  have hwave : ((s.movswRead f k w e).modWave k g).waveAt? k = some (g (s.movswWave f w e)) := by
    rw [State.waveAt?_modWave, if_pos rfl, waveAt?_movswRead hr]
    rfl
  generalize g (s.movswWave f w e) = w1 at *
  obtain ⟨t, ht, hw', hs⟩ := issue_seq hr ((State.sameOutside_readBy ..).trans (State.sameOutside_modWave _ k g)) hwave
    (movswBody_of_some (u := issOf (.movswXt f) (basePlan [uni f.a] [] .scalar) s k w e) hd h)
  have hf : (w1.slotted (issOf (.movswXt f) (basePlan [uni f.a] [] .scalar) s k w e)).frontier = e :: w.frontier.tail := by
    rw [Wave.slotted_frontier, hw]
    exact hr.entry
  refine ⟨t, _, ht, hw', ?_, ⟨fun n L _ _ => ?_, fun n _ => ?_⟩, fun n _ => ?_, hs, ?_⟩
  · rw [Wave.advance_eq _ _ _ _ hf]
    exact Wave.ran_of { w1 with wstat := b } w1 _ _ hst rfl
  · rw [Wave.issued_vLane, hw]
    rfl
  · rw [Wave.issued_sReg, hw]
    rfl
  · rw [Wave.issued_pMask, hw]
    rfl
  · rw [Wave.issued_wstat, hy]

/-- A special register of the context is written. -/
theorem movsw_setsCtx {g : Ctx → Ctx} (h : s.movswWrites f k w e = some ((s.movswRead f k w e).modCtx w.ctx g)) :
    Issues (.movswXt f) s k fun t w' =>
      w.Ran w' (e.past (byteLen (.movswXt f)) :: w.frontier.tail) ∧ w.SameRegs w' [] ∧ w.SamePreds w' ∧ s.SameMemory t ∧
        (∀ j, j ≠ k → t.waveAt? j = s.waveAt? j) ∧ ∀ c, t.ctxAt? c = (s.ctxAt? c).map (if c = w.ctx then g else id) := by
  have hread : s.SameOutside (s.movswRead f k w e) k := State.sameOutside_readBy ..
  have hwave : ((s.movswRead f k w e).modCtx w.ctx g).waveAt? k = some (s.movswWave f w e) := by
    rw [State.waveAt?_modCtx, waveAt?_movswRead hr]
  obtain ⟨t, ht, hw', hs⟩ := issue_next hr hwave
    (movswBody_of_some (u := issOf (.movswXt f) (basePlan [uni f.a] [] .scalar) s k w e) hd h)
  refine ⟨t, _, ht, hw', Wave.ran_issued hr _ _ (or_and_self_left ..) rfl, ⟨fun n L _ _ => ?_, fun n _ => ?_⟩,
    fun n _ => ?_, State.sameMemory_of_eq ?_ ?_, fun j hj => ?_, fun c => ?_⟩
  · rw [Wave.issued_vLane]
    rfl
  · rw [Wave.issued_sReg]
    rfl
  · rw [Wave.issued_pMask]
    rfl
  · rw [hs.mem, State.modCtx_mem]
    exact hread.mem
  · rw [hs.groups, State.modCtx_groups]
    exact hread.groups
  · rw [hs.waves j hj, State.waveAt?_modCtx]
    exact hread.waves j hj
  · rw [State.ctxAt?_congr hs.cp, State.ctxAt?_modCtx, State.ctxAt?_congr hread.cp]

end

theorem movswWrites_of (s : State) (f : Xt) (k : Nat) (w : Wave) (e : Entry) {n : Nat} (hn : f.e8.toNat = n) :
    s.movswWrites f k w e = (s.movswRead f k w e).writeSreg (issOf (.movswXt f) (basePlan [uni f.a] [] .scalar) s k w e) n
      (s.readOpnd w f.lit (uni f.a) 0) := by
  rw [State.movswWrites, hn]

/-- Settles O40: MOVS and PERFRD leave `Wave.special` (`exec_special`); what MOVSW writes is `State.writeSreg`, index by index. -/
theorem systemRegisters : Obligations.SystemRegisters := by
  unfold Obligations.SystemRegisters
  refine ⟨fun i f pl val s k w e hi hr => ?_, fun f s k w e hr hd => ?_⟩
  · obtain ⟨sc, v, t, hv, hsc, ht, ho, hw⟩ := exec_special hi hr
    refine ⟨t, _, ht, hw, Wave.ran_issued hr _ _ ?_ (Wave.special_computed ..), fun n _ => ?_, ?_, ?_, ho,
      fun n L hn hL => ?_, fun n => ?_, fun j L _ => ?_, fun hs => ?_, ?_⟩
    · rw [Wave.special, Wave.wstat_putResult, BitVec.and_self]
    · rw [Wave.issued_pMask]
      exact Wave.pMask_putResult ..
    · rw [Wave.issued_wstat]
      exact Wave.wstat_putResult ..
    · rw [Wave.issued_lops]
      exact Wave.sameOps_putResult ..
    · rw [Wave.issued_vLane]
      exact Wave.special_vLane hv w _ _ n L hn hL
    · rw [Wave.issued_sReg]
      exact Wave.special_sReg hv w _ _ n
    · rw [Wave.issued_up]
      exact Wave.special_slots hv w _ _ j L
    · rw [Wave.issued_up]
      exact Wave.special_scalar hv w _ _ (hs.elim (fun ⟨r, hr⟩ => hv.ofS r hr) hsc)
    · rintro ⟨r, hr⟩
      rw [Wave.issued_up]
      exact Wave.special_vector hv w _ _ hr
  · have keeps : f.e8.toNat ≠ 0x0C → s.movswStat f w e = s.movswStatAfter f w e := fun h => (if_neg h).symm
    set x := s.readOpnd w f.lit (uni f.a) 0
    refine ⟨fun hn => ?_, fun hn => ?_, fun hn => ?_, fun hn => ?_, fun h h' => ?_, fun hn => ?_, fun hn => ?_,
      fun h h' => movsw_refuses hr hd (State.writeSreg_readOnly _ _ _ _ h h')⟩
    · refine ite_intro (fun h => ?_) fun h => movsw_refuses hr hd ((movswWrites_of s f k w e hn).trans (if_neg h))
      exact movsw_sets hr hd (fun v => { v with fpmode := x }) (b := w.wstat)
        ((movswWrites_of s f k w e hn).trans (if_pos h)) rfl (or_and_self_left ..) (keeps (by omega))
    · refine ite_intro (fun h => ?_) fun h => movsw_refuses hr hd ((movswWrites_of s f k w e hn).trans (if_neg h))
      exact movsw_sets hr hd (fun v => { v with wstat := v.wstat &&& ~~~x }) (b := s.movswStat f w e &&& ~~~x)
        ((movswWrites_of s f k w e hn).trans (if_pos h)) rfl (BitVec.and_self) (if_pos hn).symm
    · refine ite_intro (fun h => ?_) fun h => movsw_refuses hr hd ((movswWrites_of s f k w e hn).trans (if_neg h))
      exact movsw_sets hr hd (fun v => { v with peerst := v.peerst &&& ~~~(x &&& peerstW1c) }) (b := w.wstat)
        ((movswWrites_of s f k w e hn).trans (if_pos h)) rfl (or_and_self_left ..) (keeps (by omega))
    · refine ite_intro (fun h => ?_) fun h => movsw_refuses hr hd ((movswWrites_of s f k w e hn).trans (if_neg h))
      exact movsw_sets hr hd (fun v => { v with retpc := x, traprun := v.traprun ||| 32 }) (b := w.wstat)
        ((movswWrites_of s f k w e hn).trans (if_pos h)) rfl (or_and_self_left ..) (keeps (by omega))
    · exact movsw_sets hr hd (fun v => { v with hsave := v.hsave.set (f.e8.toNat - 0x80) x }) (b := w.wstat)
        (State.writeSreg_hsave _ _ _ _ h h') rfl (or_and_self_left ..) (keeps (by omega))
    · exact ite_intro (fun h => movsw_setsCtx hr hd ((movswWrites_of s f k w e hn).trans (if_pos h)))
        fun h => movsw_refuses hr hd ((movswWrites_of s f k w e hn).trans (if_neg h))
    · exact ite_intro (fun h => movsw_setsCtx hr hd ((movswWrites_of s f k w e hn).trans (if_pos h)))
        fun h => movsw_refuses hr hd ((movswWrites_of s f k w e hn).trans (if_neg h))

end Sys2Proof.Machine
end

section
/-! ## Runs, suspensions and saves (O42) -/

namespace Sys2Proof.Machine

/-! ### RUN_START -/

/-- Of two entries at most one goes before the other (R160). -/
theorem Entry.before_asymm {a b : Entry} (h : a.before b = true) : b.before a = false := by
  unfold Entry.before at *
  simp only [or_comm (a := 64 ≤ b.starve)]
  split at h
  · next hs =>
    rw [if_pos hs]
    simp at h ⊢
    omega
  · next hs =>
    rw [if_neg hs]
    simp at h ⊢
    omega

/-- The selection among READY entries: what stands at the end is the one that goes before the others. -/
def firstEntry (b : Option Entry) (e : Entry) : Option Entry :=
  match b with
  | none => some e
  | some x => if e.before x then some e else some x

theorem foldl_firstEntry {e : Entry} (l : List Entry) (b : Option Entry) (hl : ∀ x ∈ l, x ≠ e → e.before x = true)
    (hb : ∀ x, b = some x → x ≠ e → e.before x = true) (h : e ∈ l ∨ b = some e) : l.foldl firstEntry b = some e := by
  induction l generalizing b with
  | nil => exact h.resolve_left List.not_mem_nil
  | cons a l ih =>
    obtain ⟨ha, hl⟩ := List.forall_mem_cons.mp hl
    refine ih _ hl (fun x hx hne => ?_) ?_
    · cases b with
      | none =>
        obtain rfl := Option.some.inj hx
        exact ha hne
      | some y =>
        unfold firstEntry at hx
        dsimp only at hx
        split at hx
        · obtain rfl := Option.some.inj hx
          exact ha hne
        · exact hb x hx hne
    · rcases h with h | h
      · rcases List.mem_cons.mp h with rfl | h
        · refine .inr ?_
          cases b with
          | none => rfl
          | some y =>
            by_cases hy : y = e
            · subst hy
              exact ite_self _
            · exact if_pos (hb y rfl hy)
        · exact .inl h
      · refine .inr ?_
        rw [h]
        by_cases hae : a = e
        · subst hae
          exact ite_self _
        · exact if_neg (by rw [Entry.before_asymm (ha hae)]; exact Bool.false_ne_true)

theorem Entry.ready_iff (e : Entry) : e.ready = true ↔ e.st = .ready := beq_iff_eq

theorem selectEntry_of_first {l : List Entry} {e : Entry} (ht : ∀ x ∈ l, x.trapping = false) (he : e ∈ l) (hr : e.st = .ready)
    (hf : ∀ x ∈ l, x.st = .ready → x ≠ e → e.before x = true) : selectEntry l = some e := by
  have hn : l.find? Entry.trapping = none := List.find?_eq_none.mpr fun x hx => by simp [ht x hx]
  have hfold : (l.filter Entry.ready).foldl firstEntry none = some e := by
    refine foldl_firstEntry _ none (fun x hx hne => ?_) (fun x hx => by cases hx) (.inl ?_)
    · obtain ⟨hm, hxr⟩ := List.mem_filter.mp hx
      exact hf x hm (x.ready_iff.mp hxr) hne
    · exact List.mem_filter.mpr ⟨he, e.ready_iff.mpr hr⟩
  simp only [selectEntry, hn]
  exact hfold

theorem startEntries_of_first {l : List Entry} {e : Entry} (h : selectEntry l = some e) :
    startEntries l = { e with starve := 0 } ::
      (l.erase e).map fun x => if x.st = .ready then { x with starve := min 127 (x.starve + 1) } else x := by
  simp only [startEntries, h, Entry.ready_iff]

/-- The next wave of a core in rotation (R23). -/
theorem State.nextWave_of_first {s : State} {core i : Nat} {w : Wave} (hi : i < 32)
    (hw : s.waveAt? (core * 32 + ((s.coreAt core).last + 1 + i) % 32) = some w) (hs : s.selectable w = true)
    (hj : ∀ j, j < i → ∀ x, s.waveAt? (core * 32 + ((s.coreAt core).last + 1 + j) % 32) = some x → s.selectable x = false) :
    s.nextWave core = some (core * 32 + ((s.coreAt core).last + 1 + i) % 32) := by
  unfold State.nextWave
  dsimp only
  rw [List.find?_map, List.find?_range_eq_some.mpr ⟨?_, List.mem_range.mpr hi, fun j hlt => ?_⟩]
  · rfl
  · simp only [Function.comp, hw, hs]
  · cases hx : s.waveAt? (core * 32 + ((s.coreAt core).last + 1 + j) % 32) with
    | none => simp only [Function.comp, hx, Bool.not_false]
    | some x => simp only [Function.comp, hx, hj j hlt x hx, Bool.not_false]

/-- RUN_START starts the run of the wave whose turn it is, on its first entry (R23, R24, R160). -/
theorem runStart_starts {s : State} {core k : Nat} {w : Wave} {e : Entry} (hrun : (s.coreAt core).run = none)
    (hn : s.nextWave core = some k) (hw : s.waveAt? k = some w) (he : selectEntry w.frontier = some e) :
    Steps (.runStart core) s fun t => s.SameMemory t ∧ t.cp = s.cp ∧ (∀ j, j ≠ k → t.waveAt? j = s.waveAt? j) ∧
      (t.coreAt core).run = some k ∧ ∃ w', t.waveAt? k = some w' ∧ w'.run.isOpen = true ∧ w'.run.slots = 0 ∧
        w' = { w with up := Upper.none, run := w'.run, perf := w'.perf, frontier := { e with starve := 0 } ::
          (w.frontier.erase e).map fun x => if x.st = .ready then { x with starve := min 127 (x.starve + 1) } else x } := by
  refine ⟨_, rfl, ?_⟩
  simp only [hrun, Option.isSome_none, Bool.false_eq_true, if_false, hn]
  have hwk := (State.waveAt?_modWave s k k (fun w =>
    { w with frontier := startEntries w.frontier, up := Upper.none, run := ⟨true, 0, (s.coreAt core).cycle + s.freeNum 1⟩ }.count 2 1))
  rw [if_pos rfl, hw] at hwk
  refine ⟨State.sameMemory_of_eq (by simp) (by simp), by simp, fun j hj => ?_, ?_, _, hwk, rfl, rfl, ?_⟩
  · rw [State.waveAt?_modCore, State.waveAt?_modWave, if_neg (Ne.symm hj)]
  · rw [State.coreAt_modCore, if_pos rfl]
  · simp only [Wave.count, startEntries_of_first he]

/-! ### Suspensions -/

/-- A wave once its core has taken it back: what was saved of it returns (R25). -/
def Wave.back (w : Wave) (saved : Option (Upper × Nat)) : Wave :=
  { w with
    up := (saved.map (·.1)).getD w.up
    run := (saved.map fun x => { w.run with isOpen := true, slots := x.2 }).getD w.run }

theorem State.takeBack_modWave (s : State) (k : Nat) (saved : Option (Upper × Nat)) (g : Wave → Wave) {w : Wave}
    (hw : s.waveAt? k = some w) :
    s.SameMemory ((s.takeBack k saved).modWave k g) ∧
      (((s.takeBack k saved).modWave k g).coreAt (coreOfWave k)).run = some k ∧
      ((s.takeBack k saved).modWave k g).waveAt? k = some (g (w.back saved)) := by
  refine ⟨State.sameMemory_of_eq (by simp [State.takeBack]) (by simp [State.takeBack]), ?_, ?_⟩
  · rw [State.coreAt_modWave, State.takeBack, State.coreAt_modCore, if_pos rfl]
  · rw [State.waveAt?_modWave, if_pos rfl, State.takeBack, State.waveAt?_modCore, State.waveAt?_modWave, if_pos rfl, hw]
    cases saved <;> rfl

/-- Without a request that needs a slot, taking slots changes nothing. -/
theorem State.takeSlots_of_none {s : State} {o : Owner} (h : s.needsSlots o = false) (n : Nat) : s.takeSlots o n = s := by
  have hf : (s.mem.accs.find? fun a => a.owner == o && a.stage == .needSlot && !s.hostFollows a) = none := by
    refine List.find?_eq_none.mpr fun a ha => ?_
    have := List.any_eq_false.mp h a ha
    simp_all
  cases n with
  | zero => rfl
  | succ n =>
    rw [State.takeSlots]
    split
    · rfl
    · simp only [hf]

/-- Nothing differs but the stages of accesses and what leaves the device, and no access has come to need a slot. -/
structure State.OnlyPosts (s t : State) : Prop where
  rest : t = { s with mem := { s.mem with accs := t.mem.accs }, outbox := t.outbox }
  slots : ∀ o, s.needsSlots o = false → t.needsSlots o = false

theorem State.OnlyPosts.refl (s : State) : s.OnlyPosts s := ⟨rfl, fun _ h => h⟩

theorem State.OnlyPosts.trans {s t u : State} (h : s.OnlyPosts t) (h' : t.OnlyPosts u) : s.OnlyPosts u := by
  refine ⟨?_, fun o ho => h'.slots o (h.slots o ho)⟩
  rw [h'.rest, h.rest]

theorem State.onlyPosts_post (s : State) (a : Acc) (o : Out) : s.OnlyPosts ((s.setStage [a] .posted).send o) := by
  refine ⟨rfl, fun o' h => List.any_eq_false.mpr fun b hb => ?_⟩
  obtain ⟨c, hc, rfl⟩ := List.mem_map.mp hb
  have := List.any_eq_false.mp h c hc
  split
  · simp
  · exact this

/-- Host writes that leave change their stage and what leaves the device alone (R222). -/
theorem State.onlyPosts_pushHost (s : State) (o : Owner) : s.OnlyPosts (s.pushHost o) := by
  refine List.foldlRecOn (motive := fun t => s.OnlyPosts t) _ _ (State.OnlyPosts.refl s) fun t ht a _ => ?_
  cases a.tgt with
  | host port addr =>
    dsimp only
    split
    · exact ht.trans (t.onlyPosts_post a _)
    · exact ht
  | _ => exact ht

theorem Wave.advance_cons {w : Wave} {e : Entry} {l : List Entry} (h : w.frontier = e :: l) (len : Nat) :
    w.advance len = { w with frontier := e.past len :: l } := by
  simp only [Wave.advance, h]
  rfl

/-- A suspended wave whose last requests have left goes on past its instruction (R25, R295). -/
theorem suspendResume_rest {s : State} {k len : Nat} {w : Wave} {x : Susp} {e : Entry} (hw : s.waveAt? k = some w)
    (hc : s.canTake k = true) (ht : w.trapWait = none) (hx : w.susp = some x) (hk : x.kind = .rest len false [])
    (hs : s.needsSlots (.wave k) = false) (hf : w.frontier = e :: w.frontier.tail) :
    Steps (.suspendResume k) s fun t => s.SameMemory t ∧ (t.coreAt (coreOfWave k)).run = some k ∧
      ∃ w', t.waveAt? k = some w' ∧ w'.susp = none ∧ w'.frontier = e.past len :: w.frontier.tail ∧ w.SameRegs w' [] ∧
        w.SamePreds w' := by
  obtain ⟨hrest, hslots⟩ := s.onlyPosts_pushHost (.wave k)
  generalize hp : s.pushHost (.wave k) = p at hrest hslots
  have hwp : p.waveAt? k = some w := by rw [hrest]; exact hw
  have hsm : s.SameMemory p := by
    rw [hrest]
    exact ⟨fun _ => rfl, fun g x y hx hy _ => by cases hx.symm.trans hy; rfl⟩
  obtain ⟨hm, hr, hv⟩ := State.takeBack_modWave p k x.saved (fun w =>
    { (w.advance len).count 5 (((p.takeBack k x.saved).coreAt (coreOfWave k)).cycle - x.since) with susp := none }) hwp
  have hback : (w.back x.saved).advance len = { w.back x.saved with frontier := e.past len :: w.frontier.tail } :=
    Wave.advance_cons (w := w.back x.saved) hf len
  refine ⟨_, rfl, ?_⟩
  simp only [hw, hc, ht, hx, hk, State.takeSlots_of_none hs, hp, State.postAll, hslots _ hs, Bool.not_true, Bool.or_self,
    bne_self_eq_false, Bool.false_eq_true, if_false]
  refine ⟨⟨fun a => (hm.bytes a).trans (hsm.bytes a), fun g x y hx hy a => ?_⟩, hr, _, hv, rfl, ?_, ?_, fun n _ => ?_⟩
  · refine hm.scratch g x y ?_ hy a
    rw [hrest]
    exact hx
  · rw [hback]
    rfl
  · rw [hback]
    exact ⟨fun n L _ _ => rfl, fun n _ => rfl⟩
  · rw [hback]
    rfl

/-! ### The obligation -/

/-- SUSPEND_SAVE saves the levels of a held wave and frees its core (R25). -/
theorem suspendSave_saves {s : State} {k : Nat} {w : Wave} (hw : s.waveAt? k = some w) (hh : w.heldSince.isSome = true)
    (hr : (s.coreAt (coreOfWave k)).run = some k) :
    Steps (.suspendSave k) s fun t => s.SameMemory t ∧ (t.coreAt (coreOfWave k)).run = none ∧ t.waveAt? k = some { w with
      susp := w.susp.map fun x => { x with saved := some (w.up, w.run.slots) },
      trapWait := w.trapWait.map fun x => { x with saved := some (w.up, w.run.slots) } } := by
  obtain ⟨since, hs⟩ := Option.isSome_iff_exists.mp hh
  refine ⟨_, rfl, ?_⟩
  simp only [hw, hs, hr, ne_eq, not_true_eq_false, if_false]
  refine ⟨State.sameMemory_of_eq (by simp [State.leaveCore]) (by simp [State.leaveCore]), ?_, ?_⟩
  · rw [State.leaveCore, State.coreAt_modCore, if_pos rfl, State.coreAt_modWave, State.coreAt_modCore, if_pos rfl, if_pos hr]
  · rw [State.leaveCore, State.waveAt?_modCore, State.waveAt?_modWave, if_pos rfl, State.waveAt?_modCore, hw]
    rfl

/-- Settles O42, by the selection of R23 and R160 for a run's start, and by the cases of a suspension. -/
theorem runSteps : Obligations.RunSteps := by
  intro s k w hw
  refine ⟨fun i e hrun hi hk hs ht hj he hr hf => ?_, fun hc => ⟨fun x hn hx hk => ?_, fun x len e hn hx hk hq hf => ?_,
    fun x hx ha => ?_, fun x e hx ha hf => ?_⟩, suspendSave_saves hw⟩
  · have hnext : s.nextWave (coreOfWave k) = some k := by
      have := State.nextWave_of_first (core := coreOfWave k) hi (by rw [← hk]; exact hw) hs hj
      rwa [← hk] at this
    exact runStart_starts hrun hnext hw (selectEntry_of_first ht he hr hf)
  · refine ⟨_, ?_, State.takeBack_modWave s k x.saved
      (fun w => { w with susp := some { x with kind := .trying, saved := none } }) hw⟩
    simp only [exec, execSuspendResume, hw, hc, hn, hx, hk, Bool.not_true, Bool.false_eq_true, if_false]
  · exact suspendResume_rest hw hc hn hx hk hq hf
  · refine ⟨_, ?_, State.takeBack_modWave s k x.saved (fun w => { w with trapWait := none }) hw⟩
    simp only [exec, execSuspendResume, hw, hc, hx, ha, Bool.not_true, Bool.false_eq_true, if_false]
  · refine ⟨_, State.takeBack_modWave s k x.saved (fun w => { w with trapWait := none }) hw, ?_⟩
    simp only [exec, execSuspendResume, hw, hc, hx, ha, Bool.not_true, Bool.false_eq_true, if_false]
    rw [hf]

end Sys2Proof.Machine
end

section
/-! ## Local accesses at issue (O29) -/

namespace Sys2Proof.Machine

/-- The wave of a placed instruction, with the instruction's address in s2. -/
def loader : Wave := { placedWave with s := [(2, BitVec.ofNat 64 placedPc)] }

/-- The number that the first access of the next memory instruction will get. -/
def nextAccess : Nat := State.reset.nextId + 1

/-- A host write of wave 0 that has not left, with that number already. -/
def aheadWrite : Acc :=
  ⟨nextAccess, .wave 0, 0, 0, 0, 0, .store, .host 0 0, 4, [0, 0, 0, 0], 0, 0, 0, 1, none, .travelling, none, false, none⟩

/-- Nothing is at work but `loader` and that write. -/
def aheadState : State :=
  let s := (State.reset.place 0 0).setWave 0 loader
  { s with mem := { s.mem with accs := [aheadWrite] } }

/-- sld.b64 s9, [s2]. -/
def loadOnce : Instr := .sldBm ⟨false, .s 9, .s 2, 0, .b64⟩

/-- After a step, what each access does and where it stands. -/
def accStages : Host.Outcome State Fault Refusal → List (AKind × Stage)
  | .next t => t.mem.accs.map fun a => (a.kind, a.stage)
  | _ => []

/-- As the host write leaves, the load that has its number is marked as a host write that has left. -/
theorem accStages_loadOnce : accStages (exec loadOnce aheadState) = [(.store, .posted), (.load, .posted)] := by decide +kernel

/-- That load as it is read, and the entry that issues it. -/
def onceI : MemI := memBm .sld ⟨false, .s 9, .s 2, 0, .b64⟩
def onceEntry : Entry := ⟨BitVec.ofNat 64 placedPc, fullMask, 0, 0, .ready, 0, []⟩

theorem aheadState_ready : Ready loadOnce onceI.plan aheadState 0 loader onceEntry where
  issuer := by decide +kernel
  home := by decide +kernel
  isOpen := by decide +kernel
  landed := by decide +kernel
  due := by decide +kernel
  fence := by decide +kernel
  room := by decide +kernel
  legal := by decide +kernel
  mode := by decide +kernel
  regs := by decide +kernel

/-- The checks have passed for lane 0 alone, with one part: eight bytes of the device memory at the placed program. -/
def oneLocalPart : Except (LaneRes × Nat) (List (Nat × Option Parts)) → Bool
  | .ok [(0, some [(0, 8, .dev pa, _)])] => pa == placedPc
  | _ => false

theorem eq_ok_of_oneLocalPart {r : Except (LaneRes × Nat) (List (Nat × Option Parts))} (h : oneLocalPart r = true) :
    ∃ pg, r = .ok [(0, some [(0, 8, .dev placedPc, pg)])] := by
  unfold oneLocalPart at h
  split at h
  · exact ⟨_, by rw [beq_iff_eq.mp h]⟩
  · cases h

/-- Refutes O29: the accesses under way are not said to be numbered below the state's next number, and an access is known by
its number. Here a host write of the wave that leaves as the load issues bears the load's: the load is marked as having left
for a host port, and does not travel to the device memory it reads. -/
theorem not_memoryIssue : ¬ Obligations.MemoryIssue := by
  intro h
  obtain ⟨pg, hchecks⟩ :=
    eq_ok_of_oneLocalPart (r := (onceI.checks (issOf loadOnce onceI.plan aheadState 0 loader onceEntry) aheadState).2)
      (by decide +kernel)
  have hlocal : ∀ q ∈ [((0 : Nat), some [((0 : Nat), (8 : Nat), Target.dev placedPc, pg)])], ∀ p, q.2 = some p →
      ∀ y ∈ p, y.2.2.1.isLocal = true := by
    intro q hq p hp y hy
    obtain rfl := List.mem_singleton.mp hq
    obtain rfl := Option.some.inj hp
    obtain rfl := List.mem_singleton.mp hy
    rfl
  have hsettled : aheadState.Settled := by
    unfold State.Settled
    decide +kernel
  obtain ⟨t, w', ht, -, -, -, -, -, -, -, hacc, -⟩ := h loadOnce aheadState onceI 0 loader onceEntry _ rfl aheadState_ready
    (by decide +kernel) hchecks hlocal hsettled (by decide +kernel) (by decide +kernel) (by decide +kernel) (by decide +kernel)
  obtain ⟨a, ha, -, -, -, -, -, hk, hs, -⟩ := hacc _ List.mem_cons_self _ rfl _ List.mem_cons_self
  have hstage : (a.kind, a.stage) ∈ accStages (exec loadOnce aheadState) := by
    rw [ht]
    exact List.mem_map_of_mem (f := fun a : Acc => (a.kind, a.stage)) ha
  rw [accStages_loadOnce, hk, hs] at hstage
  revert hstage
  decide

end Sys2Proof.Machine
end

section
/-! ## Landings (O44) -/

namespace Sys2Proof.Machine

theorem Wave.merged_handler (w : Wave) : w.merged.handler = w.handler := by
  unfold Wave.merged
  split <;> rfl

theorem Wave.merged_sReg (w : Wave) (n : Nat) : w.merged.sReg n = w.sReg n := by
  unfold Wave.merged
  split <;> rfl

/-- A wave without entries, in no handler, has no wait that could write its registers as it ends. -/
theorem Wave.eachEntry_sReg {w : Wave} (hf : w.frontier = []) (f : Bool → Wave → Entry → Wave × List Entry)
    (hh : (w.eachEntry f).handler = none) (n : Nat) : (w.eachEntry f).sReg n = w.sReg n := by
  unfold Wave.eachEntry at hh ⊢
  cases hw : w.handler with
  | none =>
    simp only [hf, List.foldl_nil, Wave.merged_sReg]
    rfl
  | some h =>
    simp [hw, Wave.merged_handler] at hh

theorem State.waveAt?_wakeWave {s : State} {k : Nat} {w : Wave} (hw : s.waveAt? k = some w) :
    (s.wakeWave k).waveAt? k = some (w.eachEntry (s.wakeEntry k)) := by
  simp only [State.wakeWave, hw, State.clearErr]
  split <;> simp

/-- An operation whose write names a vector register beyond the file: v133 has the code of s5. -/
def strayOp : LOp := ⟨5, .xc, 4096, .value, 1, 1, 1, [⟨.v 133, 1, [3], 0⟩], true, false, none, 0, 0, none⟩

/-- A wave with that operation whose s5 is dead and holds 7. -/
def strayWave : Wave := { placedWave with s := [(5, 7)], dead := [133], frontier := [], lops := [strayOp] }

def strayState : State := (State.reset.place 0 0).setWave 0 strayWave

/-- What a scalar register of a wave reads as after a step, in a wave without a handler. -/
def sRegAfter (k n : Nat) : Host.Outcome State Fault Refusal → Option DWord
  | .next t => (t.waveAt? k).bind fun w => if w.handler.isNone then some (w.sReg n) else none
  | _ => none

/-- The landing brings s5 back to life. -/
theorem sRegAfter_stray : sRegAfter 0 5 (exec (.classLLand 0 5) strayState) = some 7 := by decide +kernel

theorem State.sReg_of_wakeWave {u : State} {k : Nat} {w : Wave} (hw : u.waveAt? k = some w) (hf : w.frontier = []) {n : Nat}
    {x : DWord} (h : sRegAfter k n (.next (u.wakeWave k)) = some x) : w.sReg n = x := by
  simp only [sRegAfter, State.waveAt?_wakeWave hw, Option.bind_some, Option.isNone_iff_eq_none, Option.ite_none_right_eq_some,
    Option.some.injEq] at h
  obtain ⟨hh, hx⟩ := h
  rw [← hx, Wave.eachEntry_sReg hf _ hh]

/-- Refutes O44: an operation's writes are not said to name registers that exist. One to v133 shares its code with s5, and as it
lands s5, dead before, reads as the 7 it held when it was killed. -/
theorem not_landingSteps : ¬ Obligations.LandingSteps := by
  intro h
  obtain ⟨hland, -⟩ := h.1 strayState 0 5 strayWave strayOp (by decide +kernel) (by decide +kernel)
  obtain ⟨u, w', hu, hw, -, -, -, hf, -, -, hs, -⟩ := hland (.classLLand 0 5) fullMask
    (.inr ⟨rfl, rfl, by simp [strayOp], by simp [strayOp], by simp [strayOp]⟩)
  have hafter : w'.sReg 5 = 7 := State.sReg_of_wakeWave hw hf (hu ▸ sRegAfter_stray)
  have hbefore : w'.sReg 5 = strayWave.sReg 5 := hs 5 (by decide) (by simp [strayOp])
  rw [hbefore] at hafter
  exact absurd hafter (by decide +kernel)

end Sys2Proof.Machine
end

section
/-! ## Fields and selector codes (O1, O2)

A word's bits give a list of fields, each of a width and a value, when cutting them up gives the values (`Reads`). The
decoder takes a word for an instruction exactly when the word reads as the fields that the encoder writes. -/

namespace Sys2Proof

/-! ### Fields -/

/-- The bits of `x`, the lowest first, are the fields `l`. -/
def Reads (l : List (Nat × Nat)) (x : Nat) : Prop := unpack (l.map Prod.fst) x = l.map Prod.snd

/-- Each field's value fits its width. -/
def Fits (l : List (Nat × Nat)) : Prop := ∀ e ∈ l, e.2 < 2 ^ e.1

/-- The bits that the fields take. -/
def bitLen (l : List (Nat × Nat)) : Nat := (l.map Prod.fst).sum

@[simp] theorem reads_nil (x : Nat) : Reads [] x := rfl

theorem reads_cons (w v : Nat) (l : List (Nat × Nat)) (x : Nat) :
    Reads ((w, v) :: l) x ↔ x % 2 ^ w = v ∧ Reads l (x / 2 ^ w) :=
  List.cons_eq_cons

theorem fits_cons (w v : Nat) (l : List (Nat × Nat)) : Fits ((w, v) :: l) ↔ v < 2 ^ w ∧ Fits l :=
  List.forall_mem_cons

@[simp] theorem fits_nil : Fits [] := fun _ h => nomatch h

theorem fits_append (l m : List (Nat × Nat)) : Fits (l ++ m) ↔ Fits l ∧ Fits m :=
  List.forall_mem_append

theorem bitLen_cons (w v : Nat) (l : List (Nat × Nat)) : bitLen ((w, v) :: l) = w + bitLen l :=
  List.sum_cons

theorem bitLen_append (l m : List (Nat × Nat)) : bitLen (l ++ m) = bitLen l + bitLen m := by
  simp [bitLen]

/-- Cutting up bits into fields is joining the fields into the bits. -/
theorem reads_iff (l : List (Nat × Nat)) (x : Nat) : Reads l x ↔ Fits l ∧ pack l = x % 2 ^ bitLen l := by
  induction l generalizing x with
  | nil => simp [pack, bitLen, Nat.mod_one]
  | cons e l ih =>
    obtain ⟨w, v⟩ := e
    have hpos : 0 < 2 ^ w := by positivity
    rw [reads_cons, fits_cons, ih, bitLen_cons, pow_add, Nat.mod_mul, pack]
    constructor
    · rintro ⟨rfl, hf, hp⟩
      exact ⟨⟨Nat.mod_lt _ hpos, hf⟩, by rw [hp]⟩
    · rintro ⟨⟨hv, hf⟩, hp⟩
      have hmod := congrArg (· % 2 ^ w) hp
      have hdiv := congrArg (· / 2 ^ w) hp
      simp only [Nat.add_mul_mod_self_left, Nat.mod_mod, Nat.mod_eq_of_lt hv] at hmod
      simp only [Nat.add_mul_div_left _ _ hpos, Nat.div_eq_of_lt hv, Nat.div_eq_of_lt (Nat.mod_lt x hpos), zero_add] at hdiv
      exact ⟨hmod.symm, hf, hdiv⟩

theorem Reads.fits {l : List (Nat × Nat)} {x : Nat} (h : Reads l x) : Fits l := ((reads_iff l x).mp h).1

theorem reads_append (l m : List (Nat × Nat)) (x : Nat) : Reads (l ++ m) x ↔ Reads l x ∧ Reads m (x / 2 ^ bitLen l) := by
  induction l generalizing x with
  | nil => simp [bitLen]
  | cons e l ih =>
    obtain ⟨w, v⟩ := e
    rw [List.cons_append, reads_cons, reads_cons, ih, bitLen_cons, pow_add, Nat.div_div_eq_div_mul, and_assoc]

/-- Bits above the fields do not matter. -/
theorem reads_mod (l : List (Nat × Nat)) (x n : Nat) (h : bitLen l = n) : Reads l (x % 2 ^ n) ↔ Reads l x := by
  rw [reads_iff, reads_iff, h, Nat.mod_mod]

/-! ### Single fields -/

theorem bind_eq_ok {ε α β : Type} (r : Except ε α) (f : α → Except ε β) (b : β) :
    (r >>= f) = .ok b ↔ ∃ a, r = .ok a ∧ f a = .ok b := by
  cases r with
  | error e => exact iff_of_false (fun h => nomatch h) fun ⟨_, h, _⟩ => nomatch h
  | ok a => exact ⟨fun h => ⟨a, rfl, h⟩, fun ⟨_, h, h'⟩ => Except.ok.inj h ▸ h'⟩

theorem ite_eq_ok {ε α : Type} (p : Prop) [Decidable p] (e : ε) (a b : α) :
    (if p then Except.ok a else Except.error e) = .ok b ↔ p ∧ a = b := by
  split <;> simp [*]

theorem orBad_eq_ok {α : Type} (v : BitVec 8) (o : Option α) (a : α) : orBad v o = .ok a ↔ o = some a := by
  cases o <;> simp [orBad]

theorem need_eq_ok (v : BitVec 8) (b : Bool) (u : Unit) : need v b = .ok u ↔ b = true := by
  cases b <;> simp [need]

theorem beq_one_iff_bitOf (n : Nat) (h : n < 2) (b : Bool) : (n == 1) = b ↔ n = bitOf b := by
  obtain rfl | rfl : n = 0 ∨ n = 1 := by omega
  all_goals cases b <;> simp [bitOf]

theorem bitOf_beq_one (n : Nat) (h : n < 2) : bitOf (n == 1) = n :=
  ((beq_one_iff_bitOf n h _).mp rfl).symm

theorem beq_bitOf_one (b : Bool) : (bitOf b == 1) = b := by cases b <;> rfl

theorem finOfNat_eq_iff (m : Nat) [NeZero m] (n : Nat) (h : n < m) (i : Fin m) : Fin.ofNat m n = i ↔ n = i.val := by
  rw [Fin.ext_iff, Fin.val_ofNat, Nat.mod_eq_of_lt h]

theorem bitVecOfNat_eq_iff (w n : Nat) (h : n < 2 ^ w) (x : BitVec w) : BitVec.ofNat w n = x ↔ n = x.toNat := by
  rw [← BitVec.toNat_inj, BitVec.toNat_ofNat, Nat.mod_eq_of_lt h]

/-! The decoder's table of codes and the encoder's are inverse to each other, wherever there is a code (R46 to R49, R55,
R58, R59, R62, R66). -/

theorem src8_eq_ok (n : Nat) (h : n < 256) (x : Src) : src8 n = .ok x ↔ n = srcCode x := by
  constructor
  · unfold src8
    intro hx
    split_ifs at hx <;> cases hx <;> simp only [srcCode, Fin.val_ofNat] <;> omega
  · rintro rfl
    cases x <;> simp (disch := omega) only [srcCode, src8, if_pos, if_neg, if_true, Nat.add_sub_cancel_left,
      Fin.ofNat_val_eq_self]

theorem src7_eq_iff (n : Nat) (h : n < 128) (x : Src) : src7 n = x ↔ n = srcCode7 x := by
  constructor
  · rintro rfl
    unfold src7
    split_ifs <;> simp (disch := omega) only [srcCode7, Fin.val_ofNat, if_pos] <;> omega
  · rintro rfl
    unfold srcCode7 at h ⊢
    cases x with
    | v | s | const =>
      dsimp only at h ⊢
      split at h
      · simp (disch := omega) only [src7, if_pos, if_neg, Nat.add_sub_cancel_left, Fin.ofNat_val_eq_self]
      · omega
    | width => exact absurd h (by decide)
    | o | la | lb | ls | lane | lit =>
      simp (disch := omega) only [src7, if_pos, if_neg, if_true, Nat.add_sub_cancel_left, Fin.ofNat_val_eq_self]

theorem dst8_eq_ok (n : Nat) (h : n < 256) (x : Dst) : dst8 n = .ok x ↔ n = dstCode x := by
  constructor
  · unfold dst8
    intro hx
    split_ifs at hx <;> cases hx <;> simp only [dstCode, Fin.val_ofNat] <;> omega
  · rintro rfl
    cases x with
    | v | s =>
      simp (disch := omega) only [dstCode, dst8, if_pos, if_neg, Nat.add_sub_cancel_left, Fin.ofNat_val_eq_self]
    | null => rfl

theorem dst7_eq_ok (n : Nat) (h : n < 128) (x : Dst) : dst7 n = .ok x ↔ n = dstCode7 x := by
  constructor
  · unfold dst7
    intro hx
    split_ifs at hx <;> cases hx <;> simp (disch := omega) only [dstCode7, Fin.val_ofNat, if_pos] <;> omega
  · rintro rfl
    unfold dstCode7 at h ⊢
    cases x with
    | v | s =>
      dsimp only at h ⊢
      split at h
      · simp (disch := omega) only [dst7, if_pos, if_neg, Nat.add_sub_cancel_left, Fin.ofNat_val_eq_self]
      · omega
    | null => rfl

theorem pred8_eq_ok (n : Nat) (x : Fin 16) : pred8 n = .ok x ↔ n = x.val := by
  unfold pred8
  split
  · next h => rw [Except.ok.injEq, finOfNat_eq_iff 16 n h]
  · exact iff_of_false (fun h => nomatch h) (by omega)

theorem slotField_eq_ok (opc : BitVec 8) (v n : Nat) (hv : v < 2) (hn : n < 8) (x : Option (Fin 8)) :
    slotField opc v n = .ok x ↔ v = (slotBits x).1 ∧ n = (slotBits x).2 := by
  unfold slotField
  obtain rfl | rfl : v = 0 ∨ v = 1 := by omega
  · by_cases h0 : n = 0 <;> cases x <;> simp [slotBits, h0]
  · cases x with
    | none => simp [slotBits]
    | some i => simpa [slotBits, eq_comm] using finOfNat_eq_iff 8 n hn i

theorem permOf_eq_some (n : Nat) (x : PermKind) : permOf n = some x ↔ n = permCode x := by
  unfold permOf
  split <;> cases x <;> simp_all [permCode]

theorem sizeOf3_eq_some (n : Nat) (x : Size) : sizeOf3 n = some x ↔ n = sizeCode x := by
  unfold sizeOf3
  split <;> cases x <;> simp_all [sizeCode]

theorem scopeOf3_eq_some (n : Nat) (x : Scope) : scopeOf3 n = some x ↔ n = scopeCode x := by
  unfold scopeOf3
  split <;> cases x <;> simp_all [scopeCode]

theorem ordOf2_eq_iff (n : Nat) (h : n < 4) (x : Ord) : ordOf2 n = x ↔ n = ordCode x := by
  obtain rfl | rfl | rfl | rfl : n = 0 ∨ n = 1 ∨ n = 2 ∨ n = 3 := by omega
  all_goals cases x <;> simp [ordOf2, ordCode]

theorem pairOpOf_eq_some (n : Nat) (x : PairOp) : pairOpOf n = some x ↔ n = x.code ∧ x.code ≠ 0 := by
  constructor
  · unfold pairOpOf
    intro h
    split at h <;> cases h <;> exact ⟨rfl, by decide⟩
  · rintro ⟨rfl, h⟩
    cases x with
    | int op => cases op <;> rfl
    | fp op t => cases op <;> cases t <;> revert h <;> decide

/-- The ticket field with its valid bit (R59). -/
theorem ticket_eq_iff (tkv tk : Nat) (hv : tkv < 2) (ht : tk < 4) (o : Option (Fin 4)) :
    (tkv = 1 ∨ tk = 0) ∧ (if tkv = 1 then some (Fin.ofNat 4 tk) else none) = o ↔
      tkv = bitOf o.isSome ∧ tk = (o.map Fin.val).getD 0 := by
  obtain rfl | rfl : tkv = 0 ∨ tkv = 1 := by omega
  · cases o <;> simp [bitOf]
  · cases o with
    | none => simp [bitOf]
    | some i => simpa [bitOf] using finOfNat_eq_iff 4 tk ht i

theorem srcCode_lt (x : Src) : srcCode x < 256 := by
  cases x <;> simp only [srcCode] <;> omega

theorem dstCode_lt (x : Dst) : dstCode x < 256 := by
  cases x <;> simp only [dstCode] <;> omega

theorem ordCode_lt (x : Ord) : ordCode x < 4 := by
  cases x <;> decide

theorem bitOf_lt (b : Bool) : bitOf b < 2 := by cases b <;> decide

theorem src7_srcCode7 {x : Src} (h : srcCode7 x < 128) : src7 (srcCode7 x) = x := (src7_eq_iff _ h x).mpr rfl

theorem dst7_dstCode7 {x : Dst} (h : dstCode7 x < 128) : dst7 (dstCode7 x) = .ok x := (dst7_eq_ok _ h x).mpr rfl

theorem srcCode7_src7 (n : Nat) : srcCode7 (src7 (n % 128)) = n % 128 :=
  ((src7_eq_iff _ (Nat.mod_lt _ (by decide)) _).mp rfl).symm

theorem dst7_mod_eq_ok (n : Nat) (x : Dst) : dst7 (n % 128) = .ok x ↔ n % 128 = dstCode7 x :=
  dst7_eq_ok _ (Nat.mod_lt _ (by decide)) x

theorem slotBits_lt (x : Option (Fin 8)) : (slotBits x).1 < 2 ∧ (slotBits x).2 < 8 := by
  cases x with
  | none => decide
  | some n => exact ⟨Nat.one_lt_two, n.isLt⟩

theorem permCode_lt (x : PermKind) : permCode x < 8 := by cases x <;> decide

theorem sizeCode_lt (x : Size) : sizeCode x < 8 := by cases x <;> decide

theorem scopeCode_lt (x : Scope) : scopeCode x < 8 := by cases x <;> decide

theorem pairCode_lt (x : PairOp) : x.code < 64 := by
  cases x with
  | int op => cases op <;> decide
  | fp op t => cases op <;> cases t <;> decide

end Sys2Proof
end

section
/-! ## The forms of an instruction word (O1, O2) -/

namespace Sys2Proof

/-! ### The parts of a form -/

/-- The BS form of a BS instruction's fields (R90). -/
def BsF.form : BsF → BaseK
  | .none => .bs0
  | .jmpi _ _ => .bsJmpi
  | .call _ _ => .bsCall
  | .ret _ => .bsRet
  | .jmark _ _ => .bsJmark
  | .join _ => .bsJoin
  | .waitc _ _ _ => .bsWaitc
  | .lwait _ _ => .bsLwait
  | .sleep _ => .bsSleep
  | .setprio _ => .bsSetprio
  | .code _ => .bsCode
  | .cpywait _ _ => .bsCpywait
  | .await _ => .bsAwait

/-- The base form that the fields are of, if any (R42, R52 to R56). -/
def Body.baseForm : Body → Option BaseK
  | .bv _ => some .bv
  | .bv1 _ => some .bv1
  | .ballot _ => some .ballot
  | .vote _ => some .vote
  | .elect _ => some .elect
  | .bb _ => some .bb
  | .bm _ => some .bm
  | .hint _ => some .hint
  | .bs _ f => some f.form
  | _ => none

/-- The source has no permutation, for which a C field has no bits (R57, R62). -/
def SrcX.Still (x : SrcX) : Prop := x.perm = .none ∧ x.amt = 0

/-- The fields are of the extended form `k`, and what the form has no bits for has its one value (R57, R61, R65, R130, R177). -/
def Body.OfExt (k : ExtK) : Body → Prop
  | .xv f => k = .xv ∧ f.c.Still
  | .cmp _ => k = .cmp
  | .pset _ => k = .pset
  | .pmov _ => k = .pmov
  | .pred f => f.c.Still ∧
      (k = .predBallot ∧ f.pd = 0 ∨ k = .predVote ∧ f.d = .null ∨ k = .predElect ∧ f.d = .null ∧ f.pa = 0)
  | .xm _ => k = .xm
  | .xt _ => k = .xt
  | .pair f => k = .pair ∧ f.x.op.code ≠ 0 ∧ f.y.op.code ≠ 0
  | _ => False

/-- RB (R44). -/
def Body.rb : Body → Bool
  | .bv f => f.rb
  | .bv1 f => f.rb
  | .ballot f => f.rb
  | .vote f => f.rb
  | .elect f => f.rb
  | .bb f => f.rb
  | .bm f => f.rb
  | .hint f => f.rb
  | .bs rb _ => rb
  | .xv f => f.rb
  | .cmp f => f.rb
  | .pset f => f.rb
  | .pmov f => f.rb
  | .pred f => f.rb
  | .xm f => f.rb
  | .xt f => f.rb
  | .pair f => f.rb

/-- The literal, if the instruction has one (R43). -/
def Body.lit : Body → Option DWord
  | .bv f => f.lit
  | .bb f => f.lit
  | .xv f => f.lit
  | .cmp f => f.lit
  | .pmov f => f.lit
  | .pred f => f.lit
  | .xm f => f.lit
  | .xt f => f.lit
  | _ => none

/-- The fields of an XV before its selectors are read. -/
def RawXv.fields (r : RawXv) : List (Nat × Nat) :=
  [(8, r.d), (3, r.dos), (1, r.dov), (4, r.p.val), (1, bitOf r.pn), (3, r.mod3.val), (1, 0),
   (8, r.a), (1, r.ak), (3, r.afs), (1, r.afv), (3, r.apat), (6, r.aamt),
   (8, r.b), (1, r.bk), (1, 0), (3, r.bfs), (1, r.bfv), (3, r.bpat), (6, r.bamt),
   (8, r.c), (1, r.ck), (3, r.cfs), (1, r.cfv), (6, r.func6.val)]

/-- The raw fields of an XV from its selectors' values and its sources (R57). -/
def rawXvOf (d : Nat) (slot : Option (Fin 8)) (p : Fin 16) (pn : Bool) (mod3 : Fin 8) (a : Nat) (ax : SrcX) (b : Nat)
    (bx : SrcX) (c : Nat) (cx : SrcX) (f6 : Fin 64) : RawXv :=
  ⟨d, (slotBits slot).2, (slotBits slot).1, p, pn, mod3, a, bitOf ax.kill, (slotBits ax.fill).2, (slotBits ax.fill).1,
    permCode ax.perm, ax.amt.val, b, bitOf bx.kill, (slotBits bx.fill).2, (slotBits bx.fill).1, permCode bx.perm, bx.amt.val,
    c, bitOf cx.kill, (slotBits cx.fill).2, (slotBits cx.fill).1, f6⟩

/-- The fields between the opcode and the literal. -/
def Body.fields (opc : Nat) : Body → List (Nat × Nat)
  | .bv f => [(7, dstCode7 f.d), (7, srcCode7 f.a), (7, srcCode7 f.b)]
  | .bv1 f => [(7, dstCode7 f.d), (7, srcCode7 f.a), (7, 0)]
  | .ballot f => [(7, dstCode7 f.d), (7, f.pa.val), (7, 0)]
  | .vote f => [(7, f.pd.val), (7, f.pa.val), (7, 0)]
  | .elect f => [(7, f.pd.val), (7, 0), (7, 0)]
  | .bb f => [(4, f.p.val), (1, bitOf f.n), (2, f.pr.val), (14, f.ofs.toNat)]
  | .bm f => [(7, dstCode7 f.d), (7, srcCode7 f.a), (4, f.off4.val), (3, sizeCode f.sz)]
  | .hint f => [(7, 0), (7, srcCode7 f.a), (4, f.off4.val), (3, 0)]
  | .bs _ f => bsBits f
  | .xv f => (rawXvOf (dstCode f.d) f.slot f.p f.pn f.mod3 (srcCode f.a.sel) f.a (srcCode f.b.sel) f.b (srcCode f.c.sel) f.c
      f.func6).fields
  | .cmp f => (rawXvOf f.pd.val none f.p f.pn f.cond (srcCode f.a.sel) f.a (srcCode f.b.sel) f.b 0 SrcX.unused f.func6).fields
  | .pset f => (rawXvOf f.pd.val none f.p f.pn 0 (f.pa.val + 16 * (f.tt.toNat % 16)) SrcX.unused
      (f.pb.val + 16 * (f.tt.toNat / 16)) SrcX.unused f.pc.val SrcX.unused 4).fields
  | .pmov f =>
    match f.dir with
    | .toPred pd a => (rawXvOf pd.val none f.p f.pn 0 (srcCode a.sel) a 0 SrcX.unused 0 SrcX.unused 0).fields
    | .toReg d pa => (rawXvOf (dstCode d) none f.p f.pn 0 pa.val SrcX.unused 0 SrcX.unused 0 SrcX.unused 4).fields
  | .pred f => (rawXvOf (if opc = 0x66 then dstCode f.d else f.pd.val) none f.p f.pn f.mod3 f.pa.val SrcX.unused 0 SrcX.unused
      (srcCode f.c.sel) f.c f.func6).fields
  | .xm f => [(8, dstCode f.d), (4, f.p.val), (1, bitOf f.pn), (3, sizeCode f.sz), (3, scopeCode f.scope), (2, ordCode f.ord),
      (8, srcCode f.a), (1, bitOf f.ak), (8, srcCode f.x), (3, f.xsh.val), (12, 0), (20, f.ofs.toNat), (2, f.cls.val),
      (1, bitOf f.tk.isSome), (2, (f.tk.map Fin.val).getD 0), (1, 0), (6, f.func6.val)]
  | .xt f => [(8, dstCode f.d), (4, f.p.val), (1, bitOf f.pn), (8, f.e8.toNat), (8, srcCode f.a), (8, srcCode f.b),
      (8, srcCode f.c), (8, srcCode f.x), (32, f.imm.toNat)]
  | .pair f => [(6, f.x.op.code), (7, dstCode7 f.x.d), (7, srcCode7 f.x.a), (1, bitOf f.x.ak), (7, srcCode7 f.x.b),
      (1, bitOf f.x.bk), (6, f.y.op.code), (7, dstCode7 f.y.d), (7, srcCode7 f.y.a), (1, bitOf f.y.ak), (3, 0),
      (7, srcCode7 f.y.b), (1, bitOf f.y.bk), (4, f.x.p.val), (4, f.y.p.val), (1, bitOf f.x.pn), (1, bitOf f.y.pn), (14, 0)]

/-- LEN, which tells the form's length and whether a literal follows (R41, R42). -/
def Body.len (b : Body) : Nat := bif b.baseForm.isSome then lenB b.lit else lenX b.lit

/-- A word is its head, the form's fields and the literal (R40). -/
theorem bodyBits_eq (opc : Nat) (b : Body) :
    bodyBits opc b = headBits b.len b.rb opc ++ b.fields opc ++ litBits b.lit := by
  cases b with
  | pmov f => obtain ⟨_, _, _, _ | _, _⟩ := f <;> rfl
  | xm f => obtain ⟨_, _, _, _, _, _, _, _, _, _, _, _, _, _ | _, _, _⟩ := f <;> rfl
  | bv | bb | xv | cmp | pred | xt => rfl
  | bv1 | ballot | vote | elect | bm | hint | bs | pset | pair => exact (List.append_nil _).symm

theorem Body.bitLen_fields (opc : Nat) (b : Body) : bitLen (b.fields opc) = bif b.baseForm.isSome then 21 else 85 := by
  cases b with
  | pmov f => obtain ⟨_, _, _, _ | _, _⟩ := f <;> simp [Body.fields, Body.baseForm, bitLen, RawXv.fields]
  | bs _ f => cases f <;> rfl
  | _ => simp [Body.fields, Body.baseForm, bitLen, RawXv.fields]

/-! ### The extended formats' fields (R57) -/

theorem rawXv_eq_ok (opc : BitVec 8) (x : Nat) (r : RawXv) : rawXv opc x = .ok r ↔ Reads r.fields x := by
  constructor
  · unfold rawXv
    intro h
    split at h
    next d dos dov p pn mod3 r1 a ak afs afv apat aamt b bk r2 bfs bfv bpat bamt c ck cfs cfv f6 hu =>
      split at h
      next h0 =>
        obtain ⟨rfl, rfl⟩ := h0
        cases h
        have hr : Reads [(8, d), (3, dos), (1, dov), (4, p), (1, pn), (3, mod3), (1, 0), (8, a), (1, ak), (3, afs), (1, afv),
          (3, apat), (6, aamt), (8, b), (1, bk), (1, 0), (3, bfs), (1, bfv), (3, bpat), (6, bamt), (8, c), (1, ck), (3, cfs),
          (1, cfv), (6, f6)] x := hu
        have hf := hr.fits
        simp only [fits_cons, Nat.reducePow] at hf
        obtain ⟨-, -, -, hp, hpn, hm, -, -, -, -, -, -, -, -, -, -, -, -, -, -, -, -, -, -, h6, -⟩ := hf
        simpa only [RawXv.fields, Fin.val_ofNat, Nat.mod_eq_of_lt hp, Nat.mod_eq_of_lt hm, Nat.mod_eq_of_lt h6,
          bitOf_beq_one pn hpn] using hr
      · cases h
    · cases h
  · intro h
    have hu : unpack xvW x = r.fields.map Prod.snd := h
    rw [rawXv, hu]
    simp only [RawXv.fields, List.map_cons, List.map_nil, and_self, if_true, Fin.ofNat_val_eq_self, beq_bitOf_one]

/-- The raw fields of a source that an XV form reads, or of one that it leaves blank (`SrcX.unused`). -/
theorem srcXOf_eq_ok (opc : BitVec 8) (sel k fs fv pat amt : Nat) (hs : sel < 2 ^ 8) (hk : k < 2 ^ 1) (hf : fs < 2 ^ 3)
    (hv : fv < 2 ^ 1) (ha : amt < 2 ^ 6) (x : SrcX) :
    srcXOf opc sel k fs fv pat amt = .ok x ↔ sel = srcCode x.sel ∧ k = bitOf x.kill ∧ fs = (slotBits x.fill).2 ∧
      fv = (slotBits x.fill).1 ∧ pat = permCode x.perm ∧ amt = x.amt.val := by
  simp only [srcXOf, bind_eq_ok, orBad_eq_ok, src8_eq_ok sel hs, slotField_eq_ok opc fv fs hv hf, permOf_eq_some]
  constructor
  · rintro ⟨s, rfl, f, ⟨rfl, rfl⟩, p, rfl, h⟩
    cases h
    exact ⟨rfl, (bitOf_beq_one k hk).symm, rfl, rfl, rfl, (Nat.mod_eq_of_lt ha).symm⟩
  · rintro ⟨rfl, rfl, rfl, rfl, rfl, rfl⟩
    exact ⟨_, rfl, _, ⟨rfl, rfl⟩, _, rfl, by rw [beq_bitOf_one, Fin.ofNat_val_eq_self]⟩

/-- The raw A source is the extended source `x`; `B` and `C` likewise. -/
def RawXv.HasA (r : RawXv) (x : SrcX) : Prop :=
  r.ak = bitOf x.kill ∧ r.afs = (slotBits x.fill).2 ∧ r.afv = (slotBits x.fill).1 ∧ r.apat = permCode x.perm ∧
    r.aamt = x.amt.val
def RawXv.HasB (r : RawXv) (x : SrcX) : Prop :=
  r.bk = bitOf x.kill ∧ r.bfs = (slotBits x.fill).2 ∧ r.bfv = (slotBits x.fill).1 ∧ r.bpat = permCode x.perm ∧
    r.bamt = x.amt.val
def RawXv.HasC (r : RawXv) (x : SrcX) : Prop :=
  r.ck = bitOf x.kill ∧ r.cfs = (slotBits x.fill).2 ∧ r.cfv = (slotBits x.fill).1

section
variable {r : RawXv} (hf : Fits r.fields)
include hf

theorem RawXv.dst_eq_ok (x : Dst) : dst8 r.d = .ok x ↔ r.d = dstCode x := by
  simp only [RawXv.fields, fits_cons] at hf
  exact dst8_eq_ok _ hf.1 x

theorem RawXv.slot_eq_ok (v : BitVec 8) (x : Option (Fin 8)) :
    slotField v r.dov r.dos = .ok x ↔ r.dov = (slotBits x).1 ∧ r.dos = (slotBits x).2 := by
  simp only [RawXv.fields, fits_cons] at hf
  obtain ⟨-, hs, hv, -⟩ := hf
  exact slotField_eq_ok _ _ _ hv hs x

theorem RawXv.srcA_eq_ok (v : BitVec 8) (x : SrcX) : r.srcA v = .ok x ↔ r.a = srcCode x.sel ∧ r.HasA x := by
  simp only [RawXv.fields, fits_cons] at hf
  obtain ⟨-, -, -, -, -, -, -, ha, hk, hfs, hfv, -, ham, -⟩ := hf
  exact srcXOf_eq_ok _ _ _ _ _ _ _ ha hk hfs hfv ham x

theorem RawXv.srcB_eq_ok (v : BitVec 8) (x : SrcX) : r.srcB v = .ok x ↔ r.b = srcCode x.sel ∧ r.HasB x := by
  simp only [RawXv.fields, fits_cons] at hf
  obtain ⟨-, -, -, -, -, -, -, -, -, -, -, -, -, hb, hk, -, hfs, hfv, -, ham, -⟩ := hf
  exact srcXOf_eq_ok _ _ _ _ _ _ _ hb hk hfs hfv ham x

/-- The C field has no permutation (R57). -/
theorem RawXv.srcC_eq_ok (v : BitVec 8) (x : SrcX) :
    r.srcC v = .ok x ↔ r.c = srcCode x.sel ∧ r.HasC x ∧ x.Still := by
  simp only [RawXv.fields, fits_cons] at hf
  obtain ⟨-, -, -, -, -, -, -, -, -, -, -, -, -, -, -, -, -, -, -, -, hc, hk, hfs, hfv, -⟩ := hf
  rw [RawXv.srcC, srcXOf_eq_ok _ _ _ _ _ _ _ hc hk hfs hfv (by decide), RawXv.HasC, SrcX.Still, and_assoc,
    and_assoc, ← permOf_eq_some]
  simp only [permOf, Option.some.injEq, eq_comm (b := x.perm), eq_comm (b := x.amt.val), Fin.val_eq_zero_iff]

end

/-- An XV's raw fields are those of its selectors' values, its slot and its sources. -/
theorem RawXv.eq_rawXvOf {r : RawXv} {slot : Option (Fin 8)} {a b c : SrcX}
    (hs : r.dov = (slotBits slot).1 ∧ r.dos = (slotBits slot).2) (ha : r.HasA a) (hb : r.HasB b) (hc : r.HasC c) :
    r = rawXvOf r.d slot r.p r.pn r.mod3 r.a a r.b b r.c c r.func6 := by
  obtain ⟨⟩ := r
  obtain ⟨rfl, rfl⟩ := hs
  obtain ⟨rfl, rfl, rfl, rfl, rfl⟩ := ha
  obtain ⟨rfl, rfl, rfl, rfl, rfl⟩ := hb
  obtain ⟨rfl, rfl, rfl⟩ := hc
  rfl

section
variable (d : Nat) (slot : Option (Fin 8)) (p : Fin 16) (pn : Bool) (mod3 : Fin 8) (a : Nat) (ax : SrcX) (b : Nat) (bx : SrcX)
  (c : Nat) (cx : SrcX) (f6 : Fin 64)

theorem RawXv.hasA_rawXvOf : (rawXvOf d slot p pn mod3 a ax b bx c cx f6).HasA ax := ⟨rfl, rfl, rfl, rfl, rfl⟩

theorem RawXv.hasB_rawXvOf : (rawXvOf d slot p pn mod3 a ax b bx c cx f6).HasB bx := ⟨rfl, rfl, rfl, rfl, rfl⟩

theorem RawXv.hasC_rawXvOf : (rawXvOf d slot p pn mod3 a ax b bx c cx f6).HasC cx := ⟨rfl, rfl, rfl⟩

end

/-- A bare field is that of an unused source (R45, R130). -/
theorem RawXv.aBare_iff (r : RawXv) : r.aBare = true ↔ r.HasA SrcX.unused := by
  simp [RawXv.aBare, RawXv.HasA, SrcX.unused, bitOf, slotBits, permCode, and_assoc]

theorem RawXv.bBare_iff (r : RawXv) : r.bBare = true ↔ r.HasB SrcX.unused := by
  simp [RawXv.bBare, RawXv.HasB, SrcX.unused, bitOf, slotBits, permCode, and_assoc]

theorem RawXv.cBare_iff (r : RawXv) : r.cBare = true ↔ r.HasC SrcX.unused := by
  simp [RawXv.cBare, RawXv.HasC, SrcX.unused, bitOf, slotBits, and_assoc]

theorem RawXv.noDo_iff (r : RawXv) : r.noDo = true ↔ r.dov = (slotBits none).1 ∧ r.dos = (slotBits none).2 := by
  simp [RawXv.noDo, slotBits, and_comm]

/-! ### The extended forms -/

section
variable {b : Body}

theorem Body.ofExt_xv : b.OfExt .xv ↔ ∃ f, b = .xv f ∧ f.c.Still := by
  cases b <;> simp [Body.OfExt]

theorem Body.ofExt_cmp : b.OfExt .cmp ↔ ∃ f, b = .cmp f := by
  cases b <;> simp [Body.OfExt]

theorem Body.ofExt_pset : b.OfExt .pset ↔ ∃ f, b = .pset f := by
  cases b <;> simp [Body.OfExt]

theorem Body.ofExt_pmov : b.OfExt .pmov ↔ ∃ f, b = .pmov f := by
  cases b <;> simp [Body.OfExt]

theorem Body.ofExt_predBallot :
    b.OfExt .predBallot ↔ ∃ f, b = .pred f ∧ f.c.Still ∧ f.pd = 0 := by
  cases b <;> simp [Body.OfExt]

theorem Body.ofExt_predVote :
    b.OfExt .predVote ↔ ∃ f, b = .pred f ∧ f.c.Still ∧ f.d = .null := by
  cases b <;> simp [Body.OfExt]

theorem Body.ofExt_predElect :
    b.OfExt .predElect ↔ ∃ f, b = .pred f ∧ f.c.Still ∧ f.d = .null ∧ f.pa = 0 := by
  cases b <;> simp [Body.OfExt]

theorem Body.ofExt_xm : b.OfExt .xm ↔ ∃ f, b = .xm f := by
  cases b <;> simp [Body.OfExt]

theorem Body.ofExt_xt : b.OfExt .xt ↔ ∃ f, b = .xt f := by
  cases b <;> simp [Body.OfExt]

theorem Body.ofExt_pair : b.OfExt .pair ↔ ∃ f, b = .pair f ∧ f.x.op.code ≠ 0 ∧ f.y.op.code ≠ 0 := by
  cases b <;> simp [Body.OfExt]

end

section
variable (v : BitVec 8) (opc : Nat) (rb : Bool) (lit : Option DWord) (x : Nat) (b : Body)

/-- XV (R57). -/
theorem decXv_eq_ok :
    decXv v rb lit x = .ok b ↔ b.OfExt .xv ∧ b.rb = rb ∧ b.lit = lit ∧ Reads (b.fields opc) x := by
  simp only [decXv, bind_eq_ok, rawXv_eq_ok, Body.ofExt_xv]
  constructor
  · rintro ⟨r, hr, d, hd, slot, hs, a, ha, b, hb, c, hc, h⟩
    rw [RawXv.dst_eq_ok hr.fits] at hd
    rw [RawXv.slot_eq_ok hr.fits] at hs
    rw [RawXv.srcA_eq_ok hr.fits] at ha
    rw [RawXv.srcB_eq_ok hr.fits] at hb
    rw [RawXv.srcC_eq_ok hr.fits] at hc
    cases h
    refine ⟨⟨_, rfl, hc.2.2⟩, rfl, rfl, ?_⟩
    rwa [RawXv.eq_rawXvOf hs ha.2 hb.2 hc.2.1, hd, ha.1, hb.1, hc.1] at hr
  · rintro ⟨⟨f, rfl, hc⟩, rfl, rfl, hr⟩
    simp only [Body.fields] at hr
    exact ⟨_, hr, f.d, (RawXv.dst_eq_ok hr.fits _).mpr rfl, f.slot, (RawXv.slot_eq_ok hr.fits _ _).mpr ⟨rfl, rfl⟩,
      f.a, (RawXv.srcA_eq_ok hr.fits _ _).mpr ⟨rfl, RawXv.hasA_rawXvOf ..⟩,
      f.b, (RawXv.srcB_eq_ok hr.fits _ _).mpr ⟨rfl, RawXv.hasB_rawXvOf ..⟩,
      f.c, (RawXv.srcC_eq_ok hr.fits _ _).mpr ⟨rfl, RawXv.hasC_rawXvOf .., hc⟩, rfl⟩

/-- XV of ICMP and FCMP (R132, R145). -/
theorem decCmp_eq_ok :
    decCmp v rb lit x = .ok b ↔ b.OfExt .cmp ∧ b.rb = rb ∧ b.lit = lit ∧ Reads (b.fields opc) x := by
  simp only [decCmp, bind_eq_ok, rawXv_eq_ok, need_eq_ok, pred8_eq_ok, Bool.and_eq_true, beq_iff_eq, RawXv.cBare_iff,
    RawXv.noDo_iff, exists_const, Body.ofExt_cmp]
  constructor
  · rintro ⟨r, hr, pd, hd, a, ha, b, hb, hc, ⟨hC, hs⟩, h⟩
    rw [RawXv.srcA_eq_ok hr.fits] at ha
    rw [RawXv.srcB_eq_ok hr.fits] at hb
    cases h
    refine ⟨⟨_, rfl⟩, rfl, rfl, ?_⟩
    rwa [RawXv.eq_rawXvOf hs ha.2 hb.2 hC, hd, ha.1, hb.1, hc] at hr
  · rintro ⟨⟨f, rfl⟩, rfl, rfl, hr⟩
    simp only [Body.fields] at hr
    exact ⟨_, hr, f.pd, rfl, f.a, (RawXv.srcA_eq_ok hr.fits _ _).mpr ⟨rfl, RawXv.hasA_rawXvOf ..⟩,
      f.b, (RawXv.srcB_eq_ok hr.fits _ _).mpr ⟨rfl, RawXv.hasB_rawXvOf ..⟩, rfl, ⟨RawXv.hasC_rawXvOf .., rfl, rfl⟩, rfl⟩

/-- XV of PSET (R133): the upper halves of the A and B fields hold the truth table. -/
theorem decPset_eq_ok :
    decPset v rb lit x = .ok b ↔ b.OfExt .pset ∧ b.rb = rb ∧ b.lit = lit ∧ Reads (b.fields opc) x := by
  simp only [decPset, bind_eq_ok, rawXv_eq_ok, need_eq_ok, pred8_eq_ok, Bool.and_eq_true, beq_iff_eq, RawXv.aBare_iff,
    RawXv.bBare_iff, RawXv.cBare_iff, RawXv.noDo_iff, exists_const, Option.isNone_iff_eq_none, Body.ofExt_pset]
  constructor
  · rintro ⟨r, hr, pd, hd, pc, hc, ⟨⟨⟨⟨⟨⟨hA, hB⟩, hC⟩, hs⟩, h6⟩, hm⟩, hl⟩, h⟩
    cases h
    refine ⟨⟨_, rfl⟩, rfl, hl.symm, ?_⟩
    have hf := hr.fits
    simp only [RawXv.fields, fits_cons, Nat.reducePow] at hf
    obtain ⟨-, -, -, -, -, -, -, ha, -, -, -, -, -, hb, -⟩ := hf
    have htt : r.a / 16 + 16 * (r.b / 16) < 256 := by omega
    rw [RawXv.eq_rawXvOf hs hA hB hC, hd, hc, h6, hm] at hr
    simp only [Body.fields, Fin.val_ofNat, BitVec.toNat_ofNat, Nat.reducePow, Nat.mod_eq_of_lt htt]
    convert hr using 3 <;> omega
  · rintro ⟨⟨f, rfl⟩, rfl, rfl, hr⟩
    simp only [Body.fields] at hr
    refine ⟨_, hr, f.pd, rfl, f.pc, rfl, ⟨⟨⟨⟨⟨⟨RawXv.hasA_rawXvOf .., RawXv.hasB_rawXvOf ..⟩, RawXv.hasC_rawXvOf ..⟩, rfl,
      rfl⟩, rfl⟩, rfl⟩, rfl⟩, ?_⟩
    have htt := f.tt.isLt
    have hpa : Fin.ofNat 16 ((f.pa.val + 16 * (f.tt.toNat % 16)) % 16) = f.pa := by
      rw [finOfNat_eq_iff 16 _ (Nat.mod_lt _ (by decide))]
      omega
    have hpb : Fin.ofNat 16 ((f.pb.val + 16 * (f.tt.toNat / 16)) % 16) = f.pb := by
      rw [finOfNat_eq_iff 16 _ (Nat.mod_lt _ (by decide))]
      omega
    have ht : BitVec.ofNat 8 ((f.pa.val + 16 * (f.tt.toNat % 16)) / 16 + 16 * ((f.pb.val + 16 * (f.tt.toNat / 16)) / 16)) =
        f.tt := by
      rw [bitVecOfNat_eq_iff 8 _ (by omega)]
      omega
    simp only [rawXvOf, hpa, hpb, ht, Body.rb]

/-- XV of PMOV (R134). -/
theorem decPmov_eq_ok :
    decPmov v rb lit x = .ok b ↔ b.OfExt .pmov ∧ b.rb = rb ∧ b.lit = lit ∧ Reads (b.fields opc) x := by
  simp only [decPmov, bind_eq_ok, rawXv_eq_ok, need_eq_ok, Bool.and_eq_true, beq_iff_eq, RawXv.bBare_iff, RawXv.cBare_iff,
    RawXv.noDo_iff, exists_const, Body.ofExt_pmov]
  constructor
  · rintro ⟨r, hr, hb, hc, ⟨⟨⟨hB, hC⟩, hs⟩, hm⟩, h⟩
    split at h
    · next h6 =>
      simp only [bind_eq_ok, pred8_eq_ok, RawXv.srcA_eq_ok hr.fits] at h
      obtain ⟨pd, hd, a, ha, h⟩ := h
      cases h
      refine ⟨⟨_, rfl⟩, rfl, rfl, ?_⟩
      rwa [RawXv.eq_rawXvOf hs ha.2 hB hC, hd, ha.1, hb, hc, hm, h6] at hr
    · split at h
      · next h6 =>
        simp only [bind_eq_ok, pred8_eq_ok, need_eq_ok, RawXv.aBare_iff, RawXv.dst_eq_ok hr.fits, exists_const] at h
        obtain ⟨d, hd, pa, ha, hA, h⟩ := h
        cases h
        refine ⟨⟨_, rfl⟩, rfl, rfl, ?_⟩
        rwa [RawXv.eq_rawXvOf hs hA hB hC, hd, ha, hb, hc, hm, h6] at hr
      · cases h
  · rintro ⟨⟨⟨_, p, pn, dir, _⟩, rfl⟩, rfl, rfl, hr⟩
    cases dir with
    | toPred pd a =>
      simp only [Body.fields] at hr
      refine ⟨_, hr, rfl, rfl, ⟨⟨⟨RawXv.hasB_rawXvOf .., RawXv.hasC_rawXvOf ..⟩, rfl, rfl⟩, rfl⟩, ?_⟩
      refine (if_pos rfl).trans ?_
      simp only [bind_eq_ok, pred8_eq_ok, RawXv.srcA_eq_ok hr.fits]
      exact ⟨pd, rfl, a, ⟨rfl, RawXv.hasA_rawXvOf ..⟩, rfl⟩
    | toReg d pa =>
      simp only [Body.fields] at hr
      refine ⟨_, hr, rfl, rfl, ⟨⟨⟨RawXv.hasB_rawXvOf .., RawXv.hasC_rawXvOf ..⟩, rfl, rfl⟩, rfl⟩, ?_⟩
      refine ((if_neg (show ¬ (4 : Fin 64) = 0 by decide)).trans (if_pos rfl)).trans ?_
      simp only [bind_eq_ok, pred8_eq_ok, need_eq_ok, RawXv.aBare_iff, RawXv.dst_eq_ok hr.fits, exists_const]
      exact ⟨d, rfl, pa, rfl, RawXv.hasA_rawXvOf .., rfl⟩

/-- What BALLOT, VOTE and ELECT read before their predicates: A and B are blank and there is no DO. -/
theorem exists_predRaw_iff (P : RawXv → SrcX → Prop) :
    (∃ r : RawXv, Reads r.fields x ∧ ∃ c, r.srcC v = .ok c ∧ r.b = 0 ∧
      ((r.HasA SrcX.unused ∧ r.HasB SrcX.unused) ∧ r.dov = (slotBits none).1 ∧ r.dos = (slotBits none).2) ∧ P r c) ↔
    ∃ d p pn m a c f6, Reads (rawXvOf d none p pn m a SrcX.unused 0 SrcX.unused (srcCode c.sel) c f6).fields x ∧ c.Still ∧
      P (rawXvOf d none p pn m a SrcX.unused 0 SrcX.unused (srcCode c.sel) c f6) c := by
  constructor
  · rintro ⟨r, hr, c, hc, hb, ⟨⟨hA, hB⟩, hs⟩, h⟩
    obtain ⟨hsel, hC, hst⟩ := (RawXv.srcC_eq_ok hr.fits v c).mp hc
    have he := RawXv.eq_rawXvOf hs hA hB hC
    rw [hb, hsel] at he
    exact ⟨_, _, _, _, _, c, _, he ▸ hr, hst, he ▸ h⟩
  · rintro ⟨d, p, pn, m, a, c, f6, hr, hst, h⟩
    exact ⟨_, hr, c, (RawXv.srcC_eq_ok hr.fits v c).mpr ⟨rfl, RawXv.hasC_rawXvOf .., hst⟩, rfl,
      ⟨⟨RawXv.hasA_rawXvOf .., RawXv.hasB_rawXvOf ..⟩, rfl, rfl⟩, h⟩

/-- XV of BALLOT (R177). -/
theorem decPred_ballot_eq_ok (h66 : opc = 0x66) :
    decPred .predBallot v rb lit x = .ok b ↔ b.OfExt .predBallot ∧ b.rb = rb ∧ b.lit = lit ∧ Reads (b.fields opc) x := by
  simp only [decPred, bind_eq_ok, rawXv_eq_ok, need_eq_ok, pred8_eq_ok, Bool.and_eq_true, beq_iff_eq, RawXv.aBare_iff,
    RawXv.bBare_iff, RawXv.noDo_iff, exists_const, exists_predRaw_iff, Body.ofExt_predBallot]
  constructor
  · rintro ⟨_, p, pn, m, _, c, f6, hr, hc, d, hd, pa, rfl, h⟩
    obtain rfl := (RawXv.dst_eq_ok hr.fits d).mp hd
    cases h
    exact ⟨⟨_, rfl, hc, rfl⟩, rfl, rfl, by simp only [Body.fields, if_pos h66]; exact hr⟩
  · rintro ⟨⟨f, rfl, hc, hpd⟩, rfl, rfl, hr⟩
    simp only [Body.fields, if_pos h66] at hr
    exact ⟨_, _, _, _, _, f.c, _, hr, hc, f.d, (RawXv.dst_eq_ok hr.fits _).mpr rfl, f.pa, rfl, hpd ▸ rfl⟩

/-- XV of VOTE (R177). -/
theorem decPred_vote_eq_ok (h66 : opc ≠ 0x66) :
    decPred .predVote v rb lit x = .ok b ↔ b.OfExt .predVote ∧ b.rb = rb ∧ b.lit = lit ∧ Reads (b.fields opc) x := by
  simp only [decPred, bind_eq_ok, rawXv_eq_ok, need_eq_ok, pred8_eq_ok, Bool.and_eq_true, beq_iff_eq, RawXv.aBare_iff,
    RawXv.bBare_iff, RawXv.noDo_iff, exists_const, exists_predRaw_iff, Body.ofExt_predVote]
  constructor
  · rintro ⟨_, p, pn, m, _, c, f6, hr, hc, pd, rfl, pa, rfl, h⟩
    cases h
    exact ⟨⟨_, rfl, hc, rfl⟩, rfl, rfl, by simp only [Body.fields, if_neg h66]; exact hr⟩
  · rintro ⟨⟨f, rfl, hc, hd⟩, rfl, rfl, hr⟩
    simp only [Body.fields, if_neg h66] at hr
    exact ⟨_, _, _, _, _, f.c, _, hr, hc, f.pd, rfl, f.pa, rfl, hd ▸ rfl⟩

/-- XV of ELECT (R177). -/
theorem decPred_elect_eq_ok (h66 : opc ≠ 0x66) :
    decPred .predElect v rb lit x = .ok b ↔ b.OfExt .predElect ∧ b.rb = rb ∧ b.lit = lit ∧ Reads (b.fields opc) x := by
  simp only [decPred, bind_eq_ok, rawXv_eq_ok, need_eq_ok, pred8_eq_ok, Bool.and_eq_true, beq_iff_eq, RawXv.aBare_iff,
    RawXv.bBare_iff, RawXv.noDo_iff, exists_const, exists_predRaw_iff, Body.ofExt_predElect]
  constructor
  · rintro ⟨_, p, pn, m, _, c, f6, hr, hc, pd, rfl, rfl, h⟩
    cases h
    exact ⟨⟨_, rfl, hc, rfl, rfl⟩, rfl, rfl, by simp only [Body.fields, if_neg h66]; exact hr⟩
  · rintro ⟨⟨f, rfl, hc, hd, hpa⟩, rfl, rfl, hr⟩
    simp only [Body.fields, if_neg h66, hpa] at hr
    exact ⟨_, _, _, _, _, f.c, _, hr, hc, f.pd, rfl, rfl, hd ▸ hpa ▸ rfl⟩

/-- XM (R59). -/
theorem decXm_eq_ok :
    decXm v rb lit x = .ok b ↔ b.OfExt .xm ∧ b.rb = rb ∧ b.lit = lit ∧ Reads (b.fields opc) x := by
  rw [Body.ofExt_xm]
  constructor
  · unfold decXm
    intro h
    split at h
    next d p pn sz sc od a ak ix xsh r1 ofs cls tkv tk r2 f6 hu =>
      have hr : Reads [(8, d), (4, p), (1, pn), (3, sz), (3, sc), (2, od), (8, a), (1, ak), (8, ix), (3, xsh), (12, r1),
        (20, ofs), (2, cls), (1, tkv), (2, tk), (1, r2), (6, f6)] x := hu
      have hf := hr.fits
      simp only [fits_cons, Nat.reducePow] at hf
      obtain ⟨hd, hp, hpn, hsz, hsc, hod, ha, hak, hix, hxsh, -, hofs, hcls, htkv, htk, -, h6, -⟩ := hf
      simp only [bind_eq_ok, dst8_eq_ok d hd, orBad_eq_ok, sizeOf3_eq_some, scopeOf3_eq_some, src8_eq_ok a ha,
        src8_eq_ok ix hix, need_eq_ok, Bool.and_eq_true, Bool.or_eq_true, beq_iff_eq, exists_const] at h
      obtain ⟨d, rfl, sz, rfl, sc, rfl, a, rfl, ix, rfl, ⟨⟨rfl, rfl⟩, ht⟩, h⟩ := h
      cases h
      refine ⟨⟨_, rfl⟩, rfl, rfl, ?_⟩
      obtain ⟨ht1, ht2⟩ := (ticket_eq_iff tkv tk htkv htk _).mp ⟨ht, rfl⟩
      simp only [Body.fields, Fin.val_ofNat, BitVec.toNat_ofNat, Nat.reducePow, Nat.mod_eq_of_lt hp, bitOf_beq_one pn hpn,
        ← (ordOf2_eq_iff od hod _).mp rfl, bitOf_beq_one ak hak, Nat.mod_eq_of_lt hxsh, Nat.mod_eq_of_lt hofs,
        Nat.mod_eq_of_lt hcls, Nat.mod_eq_of_lt h6, ← ht1, ← ht2]
      exact hr
    · cases h
  · rintro ⟨⟨f, rfl⟩, rfl, rfl, hr⟩
    have hu : unpack xmW x = ((Body.xm f).fields opc).map Prod.snd := hr
    obtain ⟨ht1, ht2⟩ := (ticket_eq_iff _ _ (bitOf_lt _) (by cases f.tk <;> simp) f.tk).mpr ⟨rfl, rfl⟩
    rw [decXm, hu]
    simp only [Body.fields, List.map_cons, List.map_nil, bind_eq_ok, dst8_eq_ok _ (dstCode_lt _), orBad_eq_ok,
      sizeOf3_eq_some, scopeOf3_eq_some, src8_eq_ok _ (srcCode_lt _), need_eq_ok, Bool.and_eq_true, Bool.or_eq_true, beq_iff_eq,
      exists_const, and_self, true_and]
    refine ⟨f.d, rfl, f.sz, rfl, f.scope, rfl, f.a, rfl, f.x, rfl, ht1, ?_⟩
    simp only [ht2, Fin.ofNat_val_eq_self, beq_bitOf_one, (ordOf2_eq_iff _ (ordCode_lt _) _).mpr rfl, BitVec.ofNat_toNat,
      BitVec.setWidth_eq]
    rfl

/-- XT (R61). -/
theorem decXt_eq_ok :
    decXt v rb lit x = .ok b ↔ b.OfExt .xt ∧ b.rb = rb ∧ b.lit = lit ∧ Reads (b.fields opc) x := by
  rw [Body.ofExt_xt]
  constructor
  · unfold decXt
    intro h
    split at h
    next d p pn e8 a b c ex imm hu =>
      have hr : Reads [(8, d), (4, p), (1, pn), (8, e8), (8, a), (8, b), (8, c), (8, ex), (32, imm)] x := hu
      have hf := hr.fits
      simp only [fits_cons, Nat.reducePow] at hf
      obtain ⟨hd, hp, hpn, he, ha, hb, hc, hx, hi, -⟩ := hf
      simp only [bind_eq_ok, dst8_eq_ok d hd, src8_eq_ok a ha, src8_eq_ok b hb, src8_eq_ok c hc, src8_eq_ok ex hx] at h
      obtain ⟨d, rfl, a, rfl, b, rfl, c, rfl, ex, rfl, h⟩ := h
      cases h
      refine ⟨⟨_, rfl⟩, rfl, rfl, ?_⟩
      simp only [Body.fields, Fin.val_ofNat, BitVec.toNat_ofNat, Nat.reducePow, Nat.mod_eq_of_lt hp, bitOf_beq_one pn hpn,
        Nat.mod_eq_of_lt he, Nat.mod_eq_of_lt hi]
      exact hr
    · cases h
  · rintro ⟨⟨f, rfl⟩, rfl, rfl, hr⟩
    have hu : unpack xtW x = ((Body.xt f).fields opc).map Prod.snd := hr
    rw [decXt, hu]
    simp only [Body.fields, List.map_cons, List.map_nil, bind_eq_ok, dst8_eq_ok _ (dstCode_lt _), src8_eq_ok _ (srcCode_lt _)]
    refine ⟨f.d, rfl, f.a, rfl, f.b, rfl, f.c, rfl, f.x, rfl, ?_⟩
    simp only [Fin.ofNat_val_eq_self, beq_bitOf_one, BitVec.ofNat_toNat, BitVec.setWidth_eq]
    rfl

/-- PAIR (R65). -/
theorem decPair_eq_ok :
    decPair v rb x = .ok b ↔ b.OfExt .pair ∧ b.rb = rb ∧ Reads (b.fields opc) x := by
  rw [Body.ofExt_pair]
  constructor
  · unfold decPair
    intro h
    split at h
    next opa da aa aak ba bak opb db ab abk r1 bb bbk pa pb pan pbn r2 hu =>
      have hr : Reads [(6, opa), (7, da), (7, aa), (1, aak), (7, ba), (1, bak), (6, opb), (7, db), (7, ab), (1, abk), (3, r1),
        (7, bb), (1, bbk), (4, pa), (4, pb), (1, pan), (1, pbn), (14, r2)] x := hu
      have hf := hr.fits
      simp only [fits_cons, Nat.reducePow] at hf
      obtain ⟨-, hda, haa, haak, hba, hbak, -, hdb, hab, habk, -, hbb, hbbk, hpa, hpb, hpan, hpbn, -⟩ := hf
      simp only [bind_eq_ok, orBad_eq_ok, pairOpOf_eq_some, dst7_eq_ok da hda, dst7_eq_ok db hdb, need_eq_ok, Bool.and_eq_true,
        beq_iff_eq, exists_const] at h
      obtain ⟨oa, ⟨rfl, hoa⟩, da, rfl, ob, ⟨rfl, hob⟩, db, rfl, ⟨rfl, rfl⟩, h⟩ := h
      cases h
      refine ⟨⟨_, rfl, hoa, hob⟩, rfl, ?_⟩
      simp only [Body.fields, Fin.val_ofNat, Nat.mod_eq_of_lt hpa, Nat.mod_eq_of_lt hpb, bitOf_beq_one _ haak,
        bitOf_beq_one _ hbak, bitOf_beq_one _ habk, bitOf_beq_one _ hbbk, bitOf_beq_one _ hpan, bitOf_beq_one _ hpbn,
        ← (src7_eq_iff _ haa _).mp rfl, ← (src7_eq_iff _ hba _).mp rfl, ← (src7_eq_iff _ hab _).mp rfl,
        ← (src7_eq_iff _ hbb _).mp rfl]
      exact hr
    · cases h
  · rintro ⟨⟨f, rfl, hx, hy⟩, rfl, hr⟩
    have hu : unpack pairW x = ((Body.pair f).fields opc).map Prod.snd := hr
    have hf := hr.fits
    simp only [Body.fields, fits_cons, Nat.reducePow] at hf
    obtain ⟨-, hda, haa, -, hba, -, -, hdb, hab, -, -, hbb, -⟩ := hf
    rw [decPair, hu]
    simp only [Body.fields, List.map_cons, List.map_nil, bind_eq_ok, orBad_eq_ok, pairOpOf_eq_some,
      dst7_eq_ok _ hda, dst7_eq_ok _ hdb, need_eq_ok, Bool.and_eq_true, beq_iff_eq, exists_const, and_self, true_and]
    refine ⟨f.x.op, ⟨rfl, hx⟩, f.x.d, rfl, f.y.op, ⟨rfl, hy⟩, f.y.d, rfl, ?_⟩
    simp only [Fin.ofNat_val_eq_self, beq_bitOf_one, src7_srcCode7 haa, src7_srcCode7 hba, src7_srcCode7 hab,
      src7_srcCode7 hbb]
    rfl

/-- The extended forms, by the one that the opcode accepts. -/
theorem decExt_eq_ok (k : ExtK) (h66 : k = .predBallot ↔ opc = 0x66) :
    decExt k v rb lit x = .ok b ↔ b.OfExt k ∧ b.rb = rb ∧ b.lit = lit ∧ Reads (b.fields opc) x := by
  cases k with
  | none => exact iff_of_false (fun h => nomatch h) fun h => by cases b <;> simp [Body.OfExt] at h
  | xv => exact decXv_eq_ok ..
  | cmp => exact decCmp_eq_ok ..
  | pset => exact decPset_eq_ok ..
  | pmov => exact decPmov_eq_ok ..
  | predBallot => exact decPred_ballot_eq_ok _ _ _ _ _ _ (h66.mp rfl)
  | predVote => exact decPred_vote_eq_ok _ _ _ _ _ _ fun h => nomatch h66.mpr h
  | predElect => exact decPred_elect_eq_ok _ _ _ _ _ _ fun h => nomatch h66.mpr h
  | xm => exact decXm_eq_ok ..
  | xt => exact decXt_eq_ok v opc rb lit x b
  | pair =>
    have hl : b.OfExt .pair → b.lit = none := fun h => by
      obtain ⟨f, rfl, -⟩ := Body.ofExt_pair.mp h
      rfl
    cases lit with
    | none =>
      refine (decPair_eq_ok v opc rb x b).trans ⟨fun ⟨h, hrb, hr⟩ => ⟨h, hrb, hl h, hr⟩, fun ⟨h, hrb, _, hr⟩ => ⟨h, hrb, hr⟩⟩
    | some l => exact iff_of_false (fun h => nomatch h) fun ⟨h, _, h', _⟩ => nomatch (hl h).symm.trans h'

end

/-! ### The base forms -/

/-- The BS forms, by the one that the opcode accepts (R56, R90). -/
theorem decBs_eq_ok (k : BaseK) (v : BitVec 8) (rb : Bool) (x : Nat) (hx : x < 2 ^ 21) (b : Body) :
    decBs k v rb x = .ok b ↔ ∃ f : BsF, f.form = k ∧ b = .bs rb f ∧ Reads (bsBits f) x := by
  constructor
  · intro h
    cases k with
    | bs0 | bsJmpi | bsRet | bsJmark | bsJoin | bsWaitc | bsSetprio | bsCode | bsCpywait | bsAwait =>
      simp only [decBs, unpack, ite_eq_ok, Nat.reducePow] at h
      obtain ⟨h0, rfl⟩ := h
      refine ⟨_, rfl, rfl, ?_⟩
      simp only [bsBits, reads_cons, reads_nil, and_self, h0, Fin.val_ofNat, BitVec.toNat_ofNat, Nat.reducePow, Nat.mod_mod,
        srcCode7_src7, Nat.zero_mod]
    | bsLwait | bsSleep =>
      cases h
      refine ⟨_, rfl, rfl, ?_⟩
      simp only [bsBits, reads_cons, reads_nil, Fin.val_ofNat, BitVec.toNat_ofNat, Nat.reducePow, Nat.mod_mod, and_self]
    | bsCall =>
      simp only [decBs, unpack, bind_eq_ok, Nat.reducePow, dst7_mod_eq_ok] at h
      obtain ⟨d, hd, h⟩ := h
      cases h
      refine ⟨_, rfl, rfl, ?_⟩
      simp only [bsBits, reads_cons, reads_nil, hd, BitVec.toNat_ofNat, Nat.reducePow, Nat.mod_mod, and_self]
    | none | bv | bv1 | ballot | vote | elect | bb | bm | hint => cases h
  · rintro ⟨f, rfl, rfl, hr⟩
    have hf := hr.fits
    cases f with
    | none => exact if_pos ((Nat.mod_eq_of_lt hx).symm.trans ((reads_cons ..).mp hr).1)
    | sleep ns =>
      have hn : BitVec.ofNat 21 x = ns :=
        (bitVecOfNat_eq_iff 21 x hx ns).mpr ((Nat.mod_eq_of_lt hx).symm.trans ((reads_cons ..).mp hr).1)
      rw [BsF.form, decBs, hn]
    | jmpi | ret =>
      simp only [bsBits, reads_cons, fits_cons, Nat.reducePow] at hr hf
      simp only [decBs, BsF.form, unpack, hr, Nat.reducePow, if_true, Fin.ofNat_val_eq_self, src7_srcCode7 hf.1]
    | call =>
      simp only [bsBits, reads_cons, fits_cons, Nat.reducePow] at hr hf
      simp only [decBs, BsF.form, unpack, hr, Nat.reducePow, dst7_dstCode7 hf.1, BitVec.ofNat_toNat, BitVec.setWidth_eq]
      rfl
    | jmark | join | waitc | lwait | setprio | code | cpywait | await =>
      simp only [bsBits, reads_cons, Nat.reducePow] at hr
      simp only [decBs, BsF.form, unpack, hr, Nat.reducePow, if_true, Fin.ofNat_val_eq_self, BitVec.ofNat_toNat,
        BitVec.setWidth_eq]

section
variable {k : BaseK} {v : BitVec 8} (opc : Nat) {rb : Bool} {lit : Option DWord} {x : Nat} (hx : x < 2 ^ 21) {b : Body}
include hx

/-- What a base form decodes to is of that form, and its fields are the bits. -/
theorem reads_of_decBase (h : decBase k v rb lit x = .ok b) :
    b.baseForm = some k ∧ b.rb = rb ∧ b.lit = lit ∧ Reads (b.fields opc) x := by
  cases k with
  | none => cases h
  | bv =>
    simp only [decBase, unpack, bind_eq_ok, Nat.reducePow, dst7_mod_eq_ok] at h
    obtain ⟨d, hd, h⟩ := h
    cases h
    refine ⟨rfl, rfl, rfl, ?_⟩
    simp only [Body.fields, reads_cons, reads_nil, hd, Nat.reducePow, srcCode7_src7, and_self]
  | bv1 =>
    simp only [decBase, unpack, bind_eq_ok, Nat.reducePow, dst7_mod_eq_ok, need_eq_ok, beq_iff_eq, Option.isNone_iff_eq_none,
      exists_const] at h
    obtain ⟨d, hd, h0, rfl, h⟩ := h
    cases h
    refine ⟨rfl, rfl, rfl, ?_⟩
    simp only [Body.fields, reads_cons, reads_nil, hd, h0, Nat.reducePow, srcCode7_src7, and_self]
  | ballot =>
    simp only [decBase, unpack, bind_eq_ok, Nat.reducePow, dst7_mod_eq_ok, pred8_eq_ok, need_eq_ok, beq_iff_eq,
      Option.isNone_iff_eq_none, exists_const] at h
    obtain ⟨d, hd, pa, ha, h0, rfl, h⟩ := h
    cases h
    refine ⟨rfl, rfl, rfl, ?_⟩
    simp only [Body.fields, reads_cons, reads_nil, hd, ha, h0, Nat.reducePow, and_self]
  | vote =>
    simp only [decBase, unpack, bind_eq_ok, Nat.reducePow, pred8_eq_ok, need_eq_ok, beq_iff_eq, Option.isNone_iff_eq_none,
      exists_const] at h
    obtain ⟨pd, hd, pa, ha, h0, rfl, h⟩ := h
    cases h
    refine ⟨rfl, rfl, rfl, ?_⟩
    simp only [Body.fields, reads_cons, reads_nil, hd, ha, h0, Nat.reducePow, and_self]
  | elect =>
    simp only [decBase, unpack, bind_eq_ok, Nat.reducePow, pred8_eq_ok, need_eq_ok, beq_iff_eq, Option.isNone_iff_eq_none,
      exists_const] at h
    obtain ⟨pd, hd, ha, h0, rfl, h⟩ := h
    cases h
    refine ⟨rfl, rfl, rfl, ?_⟩
    simp only [Body.fields, reads_cons, reads_nil, hd, ha, h0, Nat.reducePow, and_self]
  | bb =>
    cases h
    refine ⟨rfl, rfl, rfl, ?_⟩
    simp only [Body.fields, reads_cons, reads_nil, Fin.val_ofNat, BitVec.toNat_ofNat, Nat.reducePow, Nat.mod_mod, pow_one,
      bitOf_beq_one _ (Nat.mod_lt _ (by decide : 0 < 2)), and_self]
  | bm =>
    simp only [decBase, unpack, bind_eq_ok, Nat.reducePow, dst7_mod_eq_ok, orBad_eq_ok, sizeOf3_eq_some, need_eq_ok,
      Option.isNone_iff_eq_none, exists_const] at h
    obtain ⟨d, hd, sz, hs, rfl, h⟩ := h
    cases h
    refine ⟨rfl, rfl, rfl, ?_⟩
    simp only [Body.fields, reads_cons, reads_nil, hd, hs, Nat.reducePow, srcCode7_src7, Fin.val_ofNat, Nat.mod_mod, and_self]
  | hint =>
    simp only [decBase, unpack, bind_eq_ok, Nat.reducePow, need_eq_ok, beq_iff_eq, Bool.and_eq_true, Option.isNone_iff_eq_none,
      exists_const] at h
    obtain ⟨hd, ⟨hs, rfl⟩, h⟩ := h
    cases h
    refine ⟨rfl, rfl, rfl, ?_⟩
    simp only [Body.fields, reads_cons, reads_nil, hd, hs, Nat.reducePow, srcCode7_src7, Fin.val_ofNat, Nat.mod_mod, and_self]
  | bs0 | bsJmpi | bsCall | bsRet | bsJmark | bsJoin | bsWaitc | bsLwait | bsSleep | bsSetprio | bsCode | bsCpywait | bsAwait =>
    cases lit with
    | none =>
      simp only [decBase, Option.isNone_none, if_true] at h
      obtain ⟨f, hk, rfl, hr⟩ := (decBs_eq_ok _ v rb x hx b).mp h
      exact ⟨congrArg some hk, rfl, rfl, hr⟩
    | some l => cases h

/-- Bits that are a base form's fields decode to it. -/
theorem decBase_of_reads (hk : b.baseForm = some k) (hr : Reads (b.fields opc) x) :
    decBase k v b.rb b.lit x = .ok b := by
  have hf := hr.fits
  cases b with
  | bv f =>
    cases hk
    simp only [Body.fields, reads_cons, fits_cons, Nat.reducePow] at hr hf
    obtain ⟨hd, ha, hb, -⟩ := hf
    simp only [decBase, unpack, hr, Nat.reducePow, dst7_dstCode7 hd, src7_srcCode7 ha, src7_srcCode7 hb]
    rfl
  | bv1 f =>
    cases hk
    simp only [Body.fields, reads_cons, fits_cons, Nat.reducePow] at hr hf
    obtain ⟨hd, ha, -⟩ := hf
    simp only [decBase, unpack, hr, Nat.reducePow, dst7_dstCode7 hd, src7_srcCode7 ha]
    rfl
  | ballot f =>
    cases hk
    simp only [Body.fields, reads_cons, fits_cons, Nat.reducePow] at hr hf
    simp only [decBase, unpack, hr, Nat.reducePow, dst7_dstCode7 hf.1, (pred8_eq_ok _ f.pa).mpr rfl]
    rfl
  | vote f =>
    cases hk
    simp only [Body.fields, reads_cons, Nat.reducePow] at hr
    simp only [decBase, unpack, hr, Nat.reducePow, (pred8_eq_ok _ f.pd).mpr rfl, (pred8_eq_ok _ f.pa).mpr rfl]
    rfl
  | elect f =>
    cases hk
    simp only [Body.fields, reads_cons, Nat.reducePow] at hr
    simp only [decBase, unpack, hr, Nat.reducePow, (pred8_eq_ok _ f.pd).mpr rfl]
    rfl
  | bb f =>
    cases hk
    simp only [Body.fields, reads_cons, Nat.reducePow, pow_one] at hr
    simp only [decBase, unpack, hr, Nat.reducePow, pow_one, Fin.ofNat_val_eq_self, beq_bitOf_one, BitVec.ofNat_toNat,
      BitVec.setWidth_eq]
    rfl
  | bm f =>
    cases hk
    simp only [Body.fields, reads_cons, fits_cons, Nat.reducePow] at hr hf
    obtain ⟨hd, ha, -⟩ := hf
    simp only [decBase, unpack, hr, Nat.reducePow, dst7_dstCode7 hd, src7_srcCode7 ha, Fin.ofNat_val_eq_self,
      (sizeOf3_eq_some _ f.sz).mpr rfl]
    rfl
  | hint f =>
    cases hk
    simp only [Body.fields, reads_cons, fits_cons, Nat.reducePow] at hr hf
    obtain ⟨-, ha, -⟩ := hf
    simp only [decBase, unpack, hr, Nat.reducePow, src7_srcCode7 ha, Fin.ofNat_val_eq_self]
    rfl
  | bs rb f =>
    have hs : decBase k v rb none x = decBs k v rb x := by
      cases f <;> cases hk <;> rfl
    exact hs.trans ((decBs_eq_ok k v rb x hx _).mpr ⟨f, Option.some.inj hk, rfl, hr⟩)
  | xv | cmp | pset | pmov | pred | xm | xt | pair => cases hk

theorem decBase_eq_ok : decBase k v rb lit x = .ok b ↔
    b.baseForm = some k ∧ b.rb = rb ∧ b.lit = lit ∧ Reads (b.fields opc) x :=
  ⟨reads_of_decBase opc hx, fun ⟨hk, hrb, hl, hr⟩ => hrb ▸ hl ▸ decBase_of_reads opc hx hk hr⟩

end

end Sys2Proof
end

section
/-! ## Instruction words (O1, O2, O4) -/

namespace Sys2Proof

/-! ### Whole words -/

theorem Body.baseForm_of_ofExt {b : Body} {k : ExtK} (h : b.OfExt k) : b.baseForm = none := by
  cases b with
  | xv | cmp | pset | pmov | pred | xm | xt | pair => rfl
  | bv | bv1 | ballot | vote | elect | bb | bm | hint | bs => exact h.elim

theorem decBase_mod_eq_ok (k : BaseK) (v : BitVec 8) (opc : Nat) (rb : Bool) (lit : Option DWord) (y : Nat) (b : Body) :
    decBase k v rb lit (y % 2 ^ 21) = .ok b ↔
      b.baseForm = some k ∧ b.rb = rb ∧ b.lit = lit ∧ Reads (b.fields opc) y := by
  rw [decBase_eq_ok opc (Nat.mod_lt y (by positivity))]
  refine and_congr_right fun hk => ?_
  rw [reads_mod _ _ _ (by rw [Body.bitLen_fields, hk]; rfl)]

theorem decExt_mod_eq_ok (k : ExtK) (v : BitVec 8) (opc : Nat) (rb : Bool) (lit : Option DWord) (y : Nat) (b : Body)
    (h66 : k = .predBallot ↔ opc = 0x66) :
    decExt k v rb lit (y % 2 ^ 85) = .ok b ↔ b.OfExt k ∧ b.rb = rb ∧ b.lit = lit ∧ Reads (b.fields opc) y := by
  rw [decExt_eq_ok v opc rb lit _ b k h66]
  refine and_congr_right fun hk => ?_
  rw [reads_mod _ _ _ (by rw [Body.bitLen_fields, Body.baseForm_of_ofExt hk]; rfl)]

theorem reads_headBits (len : Nat) (rb : Bool) (opc x : Nat) :
    Reads (headBits len rb opc) x ↔ x % 4 = len ∧ rb = (x / 4 % 2 == 1) ∧ x / 8 % 256 = opc := by
  have hrb : rb = (x / 4 % 2 == 1) ↔ x / 4 % 2 = bitOf rb :=
    eq_comm.trans (beq_one_iff_bitOf _ (Nat.mod_lt _ (by decide)) rb)
  rw [hrb]
  simp only [headBits, reads_cons, reads_nil, and_true, Nat.reducePow, Nat.div_div_eq_div_mul, Nat.reduceMul]

theorem reads_litBits (lit : Option DWord) (x : Nat) :
    Reads (litBits lit) x ↔ lit = none ∨ lit = some (BitVec.ofNat 64 x) := by
  cases lit with
  | none => exact iff_of_true rfl (.inl rfl)
  | some l => simp [litBits, reads_cons, ← BitVec.toNat_inj, eq_comm]

theorem lenB_and_reads (lit : Option DWord) (n x : Nat) :
    n = lenB lit ∧ Reads (litBits lit) x ↔ n = 0 ∧ lit = none ∨ n = 2 ∧ lit = some (BitVec.ofNat 64 x) := by
  rw [reads_litBits]
  cases lit <;> simp [lenB]

theorem lenX_and_reads (lit : Option DWord) (n x : Nat) :
    n = lenX lit ∧ Reads (litBits lit) x ↔ n = 1 ∧ lit = none ∨ n = 3 ∧ lit = some (BitVec.ofNat 64 x) := by
  rw [reads_litBits]
  cases lit <;> simp [lenX]

/-- A word of a base form: its literal begins at bit 32 (R40 to R43). -/
theorem reads_bodyBits_base (opc : Nat) (b : Body) (x : Nat) (h : b.baseForm.isSome = true) :
    Reads (bodyBits opc b) x ↔ b.rb = (x / 4 % 2 == 1) ∧ x / 8 % 256 = opc ∧ Reads (b.fields opc) (x / 2 ^ 11) ∧
      (x % 4 = 0 ∧ b.lit = none ∨ x % 4 = 2 ∧ b.lit = some (BitVec.ofNat 64 (x / 2 ^ 32))) := by
  have hh : bitLen (headBits b.len b.rb opc) = 11 := rfl
  rw [bodyBits_eq, reads_append, reads_append, reads_headBits, bitLen_append, Body.bitLen_fields, hh, ← lenB_and_reads,
    Body.len, h]
  simp only [cond_true, Nat.reduceAdd]
  tauto

/-- A word of an extended form: its literal begins at bit 96 (R40 to R43). -/
theorem reads_bodyBits_ext (opc : Nat) (b : Body) (x : Nat) (h : b.baseForm = none) :
    Reads (bodyBits opc b) x ↔ b.rb = (x / 4 % 2 == 1) ∧ x / 8 % 256 = opc ∧ Reads (b.fields opc) (x / 2 ^ 11) ∧
      (x % 4 = 1 ∧ b.lit = none ∨ x % 4 = 3 ∧ b.lit = some (BitVec.ofNat 64 (x / 2 ^ 96))) := by
  have hh : bitLen (headBits b.len b.rb opc) = 11 := rfl
  rw [bodyBits_eq, reads_append, reads_append, reads_headBits, bitLen_append, Body.bitLen_fields, hh, ← lenX_and_reads,
    Body.len, h]
  simp only [Option.isSome_none, cond_false, Nat.reduceAdd]
  tauto

/-- The opcode takes the fields' form (the Forms columns of the Opcode Map). -/
def Body.TakenBy (b : Body) (k : BaseK × ExtK) : Prop := b.baseForm = some k.1 ∨ b.OfExt k.2

/-- A word's bits decode to the fields that write them, where the opcode takes their form. -/
theorem decBody_eq_ok (k : BaseK × ExtK) (v : BitVec 8) (x : Nat) (b : Body)
    (h66 : k.2 = .predBallot ↔ x / 8 % 256 = 0x66) :
    decBody k v x = .ok b ↔ b.TakenBy k ∧ Reads (bodyBits (x / 8 % 256) b) x := by
  rw [Body.TakenBy, or_and_right, and_congr_right fun h => reads_bodyBits_base _ b x (by rw [h]; rfl),
    and_congr_right fun h => reads_bodyBits_ext _ b x (Body.baseForm_of_ofExt h)]
  unfold decBody
  obtain h | h | h | h : x % 4 = 0 ∨ x % 4 = 1 ∨ x % 4 = 2 ∨ x % 4 = 3 := by omega
  all_goals
    simp only [h, decBase_mod_eq_ok k.1 v (x / 8 % 256), decExt_mod_eq_ok k.2 v (x / 8 % 256) _ _ _ _ h66, Nat.reduceEqDiff,
      OfNat.zero_ne_ofNat, zero_ne_one, one_ne_zero, OfNat.one_ne_ofNat, OfNat.ofNat_ne_zero, OfNat.ofNat_ne_one]
    tauto

/-! ### The opcode map -/

theorem build_of_bodyOf (i : Instr) (opc : Nat) (b : Body) (h : bodyOf i = some (opc, b)) : build opc b = some i := by
  cases i <;> cases h <;> rfl

theorem bodyOf_of_buildBs {opc : Nat} {k : BaseK × ExtK} (hk : kindOf opc = some k) (rb : Bool) (f : BsF)
    (hf : f.form = k.1) (i : Instr) (h : buildBs opc rb f = some i) : bodyOf i = some (opc, .bs rb f) := by
  unfold kindOf at hk
  split at hk <;> cases hk
  all_goals cases f <;> cases hf <;> cases h <;> rfl

theorem bodyOf_of_build {opc : Nat} {k : BaseK × ExtK} (hk : kindOf opc = some k) {b : Body} (ht : b.TakenBy k) {i : Instr}
    (h : build opc b = some i) : bodyOf i = some (opc, b) := by
  cases b with
  | bs rb f =>
    exact bodyOf_of_buildBs hk rb f (ht.elim Option.some.inj False.elim) i h
  | bv | xv | bv1 | cmp | pset | pmov | ballot | pred | vote | elect | xt | bb | bm | xm | hint | pair =>
    simp only [build, buildBv, buildXv, buildBv1, buildCmpXv, buildPsetXv, buildPmovXv, buildBallotBv, buildPredXv,
      buildVoteBv, buildElectBv, buildXt, buildBb, buildBm, buildXm, buildBmHint, buildPair] at h
    split at h <;> cases h <;> rfl

/-- Opcodes are bytes, and only BALLOT's takes its own extended form. -/
theorem kindOf_some {opc : Nat} {k : BaseK × ExtK} (h : kindOf opc = some k) :
    opc < 256 ∧ (k.2 = .predBallot ↔ opc = 0x66) := by
  unfold kindOf at h
  split at h <;> cases h <;> decide

/-- An instruction is what bits decode to exactly when it is legal, its opcode takes its form and its fields are the bits. -/
theorem decode_eq_ok (x : Nat) (i : Instr) : decode x = .ok i ↔ bad i = none ∧
    ∃ opc b k, bodyOf i = some (opc, b) ∧ kindOf opc = some k ∧ b.TakenBy k ∧ Reads (bodyBits opc b) x := by
  unfold decode
  constructor
  · intro h
    dsimp only at h
    split at h
    · cases h
    next k hk =>
      split at h
      · cases h
      next b hb =>
        obtain ⟨ht, hr⟩ := (decBody_eq_ok k _ x b (kindOf_some hk).2).mp hb
        split at h
        · cases h
        next j hj =>
          split at h
          · cases h
          next hbad =>
            cases h
            exact ⟨hbad, _, b, k, bodyOf_of_build hk ht hj, hk, ht, hr⟩
  · rintro ⟨hbad, opc, b, k, hi, hk, ht, hr⟩
    obtain rfl : x / 8 % 256 = opc := by
      rw [bodyBits_eq, reads_append, reads_append, reads_headBits] at hr
      exact hr.1.1.2.2
    have hb := (decBody_eq_ok k (BitVec.ofNat 8 (x / 8 % 256)) x b (kindOf_some hk).2).mpr ⟨ht, hr⟩
    simp only [hk, hb, build_of_bodyOf i _ b hi, hbad]

/-! ### Legal instructions have an encoding -/

theorem firstBad_eq_none (l : List Bad) : firstBad l = none ↔ ∀ b ∈ l, b = none := by
  induction l with
  | nil => simp [firstBad]
  | cons b l ih => cases b <;> simp [firstBad, ih]

theorem badIf_eq_none (b : Bool) (v : BitVec 8) : badIf b v = none ↔ b = false := by
  cases b <;> simp [badIf]

/-- The selector has a compact code (R46). -/
theorem srcCode7_lt {x : Src} (h : compactBad x = none) : srcCode7 x < 128 := by
  rw [compactBad, badIf_eq_none, beq_eq_false_iff_ne] at h
  have hle : srcCode7 x ≤ 128 := by
    unfold srcCode7
    split <;> (try split) <;> omega
  omega

theorem dstCode7_lt {x : Dst} (h : compactDstBad x = none) : dstCode7 x < 128 := by
  rw [compactDstBad, badIf_eq_none, beq_eq_false_iff_ne] at h
  have hle : dstCode7 x ≤ 128 := by
    unfold dstCode7
    split <;> (try split) <;> omega
  omega

theorem srcCode7_lt_of_bmAddrBad {x : Src} (h : bmAddrBad x = none) : srcCode7 x < 128 := by
  unfold bmAddrBad at h
  split at h
  · simp only [badIf_eq_none, Bool.or_eq_false_iff, decide_eq_false_iff_not] at h
    rw [srcCode7, if_pos (by omega)]
    omega
  · simp only [badIf_eq_none, decide_eq_false_iff_not] at h
    rw [srcCode7, if_pos (by omega)]
    omega
  · cases h

theorem dstCode7_lt_of_targetDstBad {x : Dst} (h : targetDstBad x = none) : dstCode7 x < 128 := by
  unfold targetDstBad at h
  split at h
  · simp only [badIf_eq_none, Bool.or_eq_false_iff, decide_eq_false_iff_not] at h
    rw [dstCode7, if_pos (by omega)]
    omega
  · simp only [badIf_eq_none, decide_eq_false_iff_not] at h
    rw [dstCode7, if_pos (by omega)]
    omega
  · cases h

theorem still_of_maskBad {lit : Option DWord} {c : SrcX} (h : maskBad lit c = none) : c.Still := by
  unfold maskBad at h
  split at h
  · next hc => subst hc; exact ⟨rfl, rfl⟩
  · simp only [firstBad_eq_none, badIf_eq_none, List.forall_mem_cons] at h
    obtain ⟨-, hc, -⟩ := h
    simpa [SrcX.Still] using hc

theorem still_of_xvBad {opc : BitVec 8} {sh : Shape} {f : Xv} (h : xvBad opc sh f = none) : f.c.Still := by
  simp only [xvBad, firstBad_eq_none, badIf_eq_none, List.forall_mem_cons] at h
  obtain ⟨-, -, -, -, -, -, hc, -⟩ := h
  simpa [SrcX.Still] using hc

/-- The checks of an XV operation come after those of its own fields. -/
theorem still_of_checks {b : Bad} {opc : BitVec 8} {sh : Shape} {f : Xv} (h : firstBad [b, xvBad opc sh f] = none) :
    f.c.Still := by
  simp only [firstBad_eq_none, List.forall_mem_cons] at h
  exact still_of_xvBad h.2.1

theorem still_of_intXvBad {op : IOp} {f : Xv} (h : intXvBad op f = none) : f.c.Still := by
  unfold intXvBad at h
  dsimp only at h
  split at h
  · cases h
  · exact still_of_checks h

theorem still_of_fpXvBad {op : FOp} {f : Xv} (h : fpXvBad op f = none) : f.c.Still := by
  unfold fpXvBad at h
  dsimp only at h
  split at h
  · cases h
  · exact still_of_checks h

theorem still_of_sfXvBad {op : SOp} {f : Xv} (h : sfXvBad op f = none) : f.c.Still := by
  unfold sfXvBad at h
  dsimp only at h
  split at h
  · cases h
  · exact still_of_checks h

theorem still_of_xlXvBad {op : XOp} {f : Xv} (h : xlXvBad op f = none) : f.c.Still := by
  unfold xlXvBad at h
  dsimp only at h
  split at h
  · cases h
  · simp only [firstBad_eq_none, List.forall_mem_cons] at h
    obtain ⟨-, -, -, hc, -⟩ := h
    exact still_of_maskBad hc

theorem still_of_icvtBad {f : Xv} (h : icvtBad f = none) : f.c.Still := still_of_checks h

theorem still_of_fcvtBad {f : Xv} (h : fcvtBad f = none) : f.c.Still := by
  unfold fcvtBad at h
  split at h
  · exact still_of_checks h
  · cases h

theorem still_of_ftoiBad {f : Xv} (h : ftoiBad f = none) : f.c.Still := by
  unfold ftoiBad at h
  split at h
  · exact still_of_checks h
  · cases h

theorem still_of_itofBad {f : Xv} (h : itofBad f = none) : f.c.Still := by
  unfold itofBad at h
  split at h
  · exact still_of_checks h
  · cases h

theorem still_of_npackBad {f : Xv} (h : npackBad f = none) : f.c.Still := by
  unfold npackBad at h
  split at h
  · exact still_of_checks h
  · cases h

theorem still_of_nunpkBad {f : Xv} (h : nunpkBad f = none) : f.c.Still := by
  unfold nunpkBad at h
  split at h
  · exact still_of_checks h
  · cases h

/-! ### Legal fields fit their widths -/

theorem fits_rawXvOf {d a b c : Nat} {slot : Option (Fin 8)} {p : Fin 16} {pn : Bool} {mod3 : Fin 8} {ax bx cx : SrcX}
    {f6 : Fin 64} (hd : d < 256) (ha : a < 256) (hb : b < 256) (hc : c < 256) :
    Fits (rawXvOf d slot p pn mod3 a ax b bx c cx f6).fields := by
  simp only [RawXv.fields, rawXvOf, fits_cons, Nat.reducePow]
  exact ⟨hd, (slotBits_lt _).2, (slotBits_lt _).1, p.isLt, bitOf_lt _, mod3.isLt, by decide, ha, bitOf_lt _, (slotBits_lt _).2,
    (slotBits_lt _).1, permCode_lt _, ax.amt.isLt, hb, bitOf_lt _, by decide, (slotBits_lt _).2, (slotBits_lt _).1,
    permCode_lt _, bx.amt.isLt, hc, bitOf_lt _, (slotBits_lt _).2, (slotBits_lt _).1, f6.isLt, fits_nil⟩

/-- The selectors of a BS form have compact codes. -/
def BsF.Compact : BsF → Prop
  | .jmpi a _ => srcCode7 a < 128
  | .call d _ => dstCode7 d < 128
  | .ret a => srcCode7 a < 128
  | _ => True

theorem fits_bsBits {f : BsF} (h : f.Compact) : Fits (bsBits f) := by
  cases f <;> simp only [bsBits, fits_cons]
  case none => exact ⟨by decide, fits_nil⟩
  case jmpi a pr => exact ⟨h, pr.isLt, by decide, fits_nil⟩
  case call d ofs => exact ⟨h, ofs.isLt, fits_nil⟩
  case ret a => exact ⟨h, by decide, fits_nil⟩
  case jmark j ofs => exact ⟨j.isLt, by decide, ofs.isLt, fits_nil⟩
  case join j => exact ⟨j.isLt, by decide, fits_nil⟩
  case waitc l c x => exact ⟨l.isLt, c.isLt, x.isLt, by decide, fits_nil⟩
  case lwait t ns => exact ⟨t.isLt, ns.isLt, fits_nil⟩
  case sleep ns => exact ⟨ns.isLt, fits_nil⟩
  case setprio pr => exact ⟨pr.isLt, by decide, fits_nil⟩
  case code c => exact ⟨c.isLt, by decide, fits_nil⟩
  case cpywait t n => exact ⟨t.isLt, n.isLt, by decide, fits_nil⟩
  case await b => exact ⟨b.isLt, by decide, fits_nil⟩

section
variable (o : Nat)

theorem fits_bv {f : Bv} (hd : compactDstBad f.d = none) (ha : compactBad f.a = none) (hb : compactBad f.b = none) :
    Fits ((Body.bv f).fields o) := by
  simp only [Body.fields, fits_cons]
  exact ⟨dstCode7_lt hd, srcCode7_lt ha, srcCode7_lt hb, fits_nil⟩

theorem fits_of_bvBad {f : Bv} {opc : BitVec 8} {sh : Shape} (h : bvBad opc sh f = none) : Fits ((Body.bv f).fields o) := by
  simp only [bvBad, firstBad_eq_none, List.forall_mem_cons] at h
  obtain ⟨hd, ha, hb, -⟩ := h
  exact fits_bv o hd ha hb

theorem fits_of_xlBvBad {f : Bv} {op : XOp} (h : xlBvBad op f = none) : Fits ((Body.bv f).fields o) := by
  simp only [xlBvBad, bvBad, firstBad_eq_none, List.forall_mem_cons] at h
  obtain ⟨⟨-, ha, hb, -⟩, hd, -⟩ := h
  exact fits_bv o hd ha hb

theorem fits_bv1 {f : Bv1} (hd : compactDstBad f.d = none) (ha : compactBad f.a = none) : Fits ((Body.bv1 f).fields o) := by
  simp only [Body.fields, fits_cons]
  exact ⟨dstCode7_lt hd, srcCode7_lt ha, by decide, fits_nil⟩

theorem fits_of_bv1Bad {f : Bv1} {sh : Shape} (h : bv1Bad sh f = none) : Fits ((Body.bv1 f).fields o) := by
  simp only [bv1Bad, firstBad_eq_none, List.forall_mem_cons] at h
  obtain ⟨hd, ha, -⟩ := h
  exact fits_bv1 o hd ha

theorem fits_of_xlBv1Bad {f : Bv1} {op : XOp} (h : xlBv1Bad op f = none) : Fits ((Body.bv1 f).fields o) := by
  simp only [xlBv1Bad, bv1Bad, firstBad_eq_none, List.forall_mem_cons] at h
  obtain ⟨⟨-, ha, -⟩, hd, -⟩ := h
  exact fits_bv1 o hd ha

theorem fits_of_ballotBvBad {f : BallotBv} (h : ballotBvBad f = none) : Fits ((Body.ballot f).fields o) := by
  simp only [ballotBvBad, firstBad_eq_none, List.forall_mem_cons] at h
  simp only [Body.fields, fits_cons]
  exact ⟨dstCode7_lt h.1, by omega, by decide, fits_nil⟩

theorem fits_of_bmBad {f : Bm} {op : MOp} (h : bmBad op f = none) : Fits ((Body.bm f).fields o) := by
  simp only [bmBad, firstBad_eq_none, List.forall_mem_cons] at h
  obtain ⟨hd, -, ha, -⟩ := h
  simp only [Body.fields, fits_cons]
  exact ⟨dstCode7_lt hd, srcCode7_lt_of_bmAddrBad ha, f.off4.isLt, sizeCode_lt _, fits_nil⟩

theorem fits_hint {f : BmHint} (h : bmAddrBad f.a = none) : Fits ((Body.hint f).fields o) := by
  simp only [Body.fields, fits_cons]
  exact ⟨by decide, srcCode7_lt_of_bmAddrBad h, f.off4.isLt, by decide, fits_nil⟩

theorem fits_bb (f : Bb) : Fits ((Body.bb f).fields o) := by
  simp only [Body.fields, fits_cons]
  exact ⟨f.p.isLt, bitOf_lt _, f.pr.isLt, f.ofs.isLt, fits_nil⟩

theorem fits_vote (f : VoteBv) : Fits ((Body.vote f).fields o) := by
  simp only [Body.fields, fits_cons]
  exact ⟨by omega, by omega, by decide, fits_nil⟩

theorem fits_elect (f : ElectBv) : Fits ((Body.elect f).fields o) := by
  simp only [Body.fields, fits_cons]
  exact ⟨by omega, by decide, by decide, fits_nil⟩

theorem fits_xv (f : Xv) : Fits ((Body.xv f).fields o) :=
  fits_rawXvOf (dstCode_lt _) (srcCode_lt _) (srcCode_lt _) (srcCode_lt _)

theorem fits_cmp (f : CmpXv) : Fits ((Body.cmp f).fields o) :=
  fits_rawXvOf (by omega) (srcCode_lt _) (srcCode_lt _) (by decide)

theorem fits_pset (f : PsetXv) : Fits ((Body.pset f).fields o) := by
  have ht := f.tt.isLt
  exact fits_rawXvOf (by omega) (by omega) (by omega) (by omega)

theorem fits_pmov (f : PmovXv) : Fits ((Body.pmov f).fields o) := by
  obtain ⟨_, _, _, _ | _, _⟩ := f
  · exact fits_rawXvOf (by omega) (srcCode_lt _) (by decide) (by decide)
  · exact fits_rawXvOf (dstCode_lt _) (by omega) (by decide) (by decide)

theorem fits_pred (f : PredXv) : Fits ((Body.pred f).fields o) := by
  have hd := dstCode_lt f.d
  exact fits_rawXvOf (by split <;> omega) (by omega) (by decide) (srcCode_lt _)

theorem fits_xm (f : Xm) : Fits ((Body.xm f).fields o) := by
  have ht : (f.tk.map Fin.val).getD 0 < 4 := by cases f.tk <;> simp
  simp only [Body.fields, fits_cons]
  exact ⟨dstCode_lt _, f.p.isLt, bitOf_lt _, sizeCode_lt _, scopeCode_lt _, ordCode_lt _, srcCode_lt _, bitOf_lt _,
    srcCode_lt _, f.xsh.isLt, by decide, f.ofs.isLt, f.cls.isLt, bitOf_lt _, ht, by decide, f.func6.isLt, fits_nil⟩

theorem fits_xt (f : Xt) : Fits ((Body.xt f).fields o) := by
  simp only [Body.fields, fits_cons]
  exact ⟨dstCode_lt _, f.p.isLt, bitOf_lt _, f.e8.isLt, srcCode_lt _, srcCode_lt _, srcCode_lt _, srcCode_lt _, f.imm.isLt,
    fits_nil⟩

end

/-- Both operations of a legal half have a pair code, and its registers have compact ones (R46, R47, R66). -/
theorem codes_of_halfBad {f : PairHalf} (h : halfBad f = none) :
    f.op.code ≠ 0 ∧ srcCode7 f.a < 128 ∧ srcCode7 f.b < 128 ∧ dstCode7 f.d < 128 := by
  simp only [halfBad, firstBad_eq_none, List.forall_mem_cons] at h
  obtain ⟨hop, ha, hb, hd, -⟩ := h
  exact ⟨by simpa [badIf_eq_none] using hop, srcCode7_lt ha, srcCode7_lt hb, dstCode7_lt hd⟩

/-- The instruction's opcode takes its form, and its fields hold the values of its selectors. -/
def Encodable (i : Instr) : Prop :=
  ∃ opc b k, bodyOf i = some (opc, b) ∧ kindOf opc = some k ∧ b.TakenBy k ∧ Fits (b.fields opc)


theorem encodable_pair {f : Pair} (h : pairBad f = none) : Encodable (.pair f) := by
  simp only [pairBad, firstBad_eq_none, List.forall_mem_cons] at h
  obtain ⟨hx, hy, -⟩ := h
  obtain ⟨hxo, hxa, hxb, hxd⟩ := codes_of_halfBad hx
  obtain ⟨hyo, hya, hyb, hyd⟩ := codes_of_halfBad hy
  refine ⟨_, _, _, rfl, rfl, .inr ⟨rfl, hxo, hyo⟩, ?_⟩
  simp only [Body.fields, fits_cons]
  exact ⟨pairCode_lt _, hxd, hxa, bitOf_lt _, hxb, bitOf_lt _, pairCode_lt _, hyd, hya, bitOf_lt _, by decide, hyb, bitOf_lt _,
    f.x.p.isLt, f.y.p.isLt, bitOf_lt _, bitOf_lt _, by decide, fits_nil⟩

/-- An XV instruction whose C field has no permutation is encodable. -/
theorem encodable_xv {i : Instr} {f : Xv} {opc : Nat} {k : BaseK} (hi : bodyOf i = some (opc, .xv f))
    (hk : kindOf opc = some (k, .xv)) (h : f.c.Still) : Encodable i :=
  ⟨_, _, _, hi, hk, .inr ⟨rfl, h⟩, fits_xv _ f⟩

/-- A BS instruction whose selectors have compact codes is encodable. -/
theorem encodable_bs {i : Instr} {rb : Bool} {f : BsF} {opc : Nat} {k : BaseK × ExtK} (hi : bodyOf i = some (opc, .bs rb f))
    (hk : kindOf opc = some k) (hf : f.form = k.1) (h : f.Compact) : Encodable i :=
  ⟨_, _, _, hi, hk, .inl (congrArg some hf), fits_bsBits h⟩

theorem ballotXv_ofExt {f : PredXv} (h : ballotXvBad f = none) : (Body.pred f).OfExt .predBallot := by
  simp only [ballotXvBad, firstBad_eq_none, List.forall_mem_cons, badIf_eq_none] at h
  obtain ⟨hf, hc, -⟩ := h
  simp only [Bool.or_eq_false_iff, bne_eq_false_iff_eq] at hf
  exact ⟨still_of_maskBad hc, .inl ⟨rfl, hf.2⟩⟩

theorem voteXv_ofExt {f : PredXv} (h : voteXvBad f = none) : (Body.pred f).OfExt .predVote := by
  simp only [voteXvBad, firstBad_eq_none, List.forall_mem_cons, badIf_eq_none] at h
  obtain ⟨hf, hc, -⟩ := h
  simp only [Bool.or_eq_false_iff, bne_eq_false_iff_eq] at hf
  exact ⟨still_of_maskBad hc, .inr (.inl ⟨rfl, hf.2⟩)⟩

theorem electXv_ofExt {f : PredXv} (h : electXvBad f = none) : (Body.pred f).OfExt .predElect := by
  simp only [electXvBad, firstBad_eq_none, List.forall_mem_cons, badIf_eq_none] at h
  obtain ⟨hf, hc, -⟩ := h
  simp only [Bool.or_eq_false_iff, bne_eq_false_iff_eq] at hf
  exact ⟨still_of_maskBad hc, .inr (.inr ⟨rfl, hf.1.2, hf.2⟩)⟩

/-- Every legal instruction word is encodable. -/
theorem encodable_of_bad (i : Instr) (hw : isWord i = true) (h : bad i = none) : Encodable i := by
  cases i with
  | iaddBv | isubBv | iaddcBv | imulBv | imulhBv | imadBv | iminBv | imaxBv | idot4Bv | andBv | orBv | xorBv | andnBv | shlBv
  | shrBv | sarBv | rotlBv | fshrBv | bfeBv | bfiBv | prmtBv | selBv | leaBv | iadd3Bv | isadBv | iadd2Bv | faddBv | fsubBv
  | fmulBv | ffmaBv | fminBv | fmaxBv | fdivBv | fscaleBv =>
    unfold bad at h
    exact ⟨_, _, _, rfl, rfl, .inl rfl, fits_of_bvBad _ h⟩
  | xshfBv | xrotBv | xbflyBv | xbcastBv =>
    unfold bad at h
    exact ⟨_, _, _, rfl, rfl, .inl rfl, fits_of_xlBvBad _ h⟩
  | iabsBv | popcBv | clzBv | ctzBv | brevBv | movBv | frndBv | fclassBv | frcpBv | frsqBv | fsqrtBv | fexp2Bv | flog2Bv
  | fsinBv | fcosBv | ftanhBv =>
    unfold bad at h
    exact ⟨_, _, _, rfl, rfl, .inl rfl, fits_of_bv1Bad _ h⟩
  | xredBv | xscanBv | matchBv =>
    unfold bad at h
    exact ⟨_, _, _, rfl, rfl, .inl rfl, fits_of_xlBv1Bad _ h⟩
  | iaddXv | isubXv | iaddcXv | imulXv | imulhXv | imadXv | iminXv | imaxXv | iabsXv | idot4Xv | andXv | orXv | xorXv | andnXv
  | shlXv | shrXv | sarXv | rotlXv | fshrXv | bfeXv | bfiXv | popcXv | clzXv | ctzXv | brevXv | prmtXv | selXv | movXv | leaXv
  | iadd3Xv | isadXv | iadd2Xv =>
    exact encodable_xv rfl rfl (still_of_intXvBad h)
  | faddXv | fsubXv | fmulXv | ffmaXv | fminXv | fmaxXv | frndXv | fclassXv | fdot2Xv | fscaleXv =>
    exact encodable_xv rfl rfl (still_of_fpXvBad h)
  | frcpXv | frsqXv | fsqrtXv | fexp2Xv | flog2Xv | fsinXv | fcosXv | ftanhXv | fdivXv =>
    exact encodable_xv rfl rfl (still_of_sfXvBad h)
  | xshfXv | xrotXv | xbflyXv | xbcastXv | xredXv | xscanXv | matchXv =>
    exact encodable_xv rfl rfl (still_of_xlXvBad h)
  | lop3Xv =>
    unfold bad at h
    exact encodable_xv rfl rfl (still_of_xvBad h)
  | icvtXv => exact encodable_xv rfl rfl (still_of_icvtBad h)
  | fcvtXv => exact encodable_xv rfl rfl (still_of_fcvtBad h)
  | ftoiXv => exact encodable_xv rfl rfl (still_of_ftoiBad h)
  | itofXv => exact encodable_xv rfl rfl (still_of_itofBad h)
  | npackXv => exact encodable_xv rfl rfl (still_of_npackBad h)
  | nunpkXv => exact encodable_xv rfl rfl (still_of_nunpkBad h)
  | icmpXv f | fcmpXv f => exact ⟨_, _, _, rfl, rfl, .inr rfl, fits_cmp _ f⟩
  | psetXv f => exact ⟨_, _, _, rfl, rfl, .inr rfl, fits_pset _ f⟩
  | pmovXv f => exact ⟨_, _, _, rfl, rfl, .inr rfl, fits_pmov _ f⟩
  | ballotBv => exact ⟨_, _, _, rfl, rfl, .inl rfl, fits_of_ballotBvBad _ h⟩
  | voteBv f => exact ⟨_, _, _, rfl, rfl, .inl rfl, fits_vote _ f⟩
  | electBv f => exact ⟨_, _, _, rfl, rfl, .inl rfl, fits_elect _ f⟩
  | ballotXv f => exact ⟨_, _, _, rfl, rfl, .inr (ballotXv_ofExt h), fits_pred _ f⟩
  | voteXv f => exact ⟨_, _, _, rfl, rfl, .inr (voteXv_ofExt h), fits_pred _ f⟩
  | electXv f => exact ⟨_, _, _, rfl, rfl, .inr (electXv_ofExt h), fits_pred _ f⟩
  | braBb f | bruBb f => exact ⟨_, _, _, rfl, rfl, .inl rfl, fits_bb _ f⟩
  | ldBm | stBm | ldnfBm | sldBm | sstBm => exact ⟨_, _, _, rfl, rfl, .inl rfl, fits_of_bmBad _ h⟩
  | prefBm | cinvBm | cdemoteBm => exact ⟨_, _, _, rfl, rfl, .inl rfl, fits_hint _ h⟩
  | ldXm f | stXm f | ldnfXm f | atomXm f | atomfXm f | redXm f | redfXm f | casXm f | fenceXm f | prefXm f | cinvXm f
  | cdemoteXm f | pgreqXm f | mcredXm f | sldXm f | sstXm f => exact ⟨_, _, _, rfl, rfl, .inr rfl, fits_xm _ f⟩
  | nopXt f | jmpiXt f | callXt f | retXt f | jmarkXt f | joinXt f | exitXt f | waitcXt f | lwaitXt f | sleepXt f | yieldXt f
  | setprioXt f | trapXt f | brkptXt f | tcopyXt f | tstoreXt f | tgatherXt f | cpyXt f | cpywaitXt f | rdvinitXt f | rdvarrXt f
  | rdvexpXt f | rdvwaitXt f | rdvtestXt f | pwaitXt f | tmapXt f | tunmapXt f | tqueryXt f | aclaimXt f | arelXt f | azeroXt f
  | mmaXt f | mmagXt f | awaitXt f | ardXt f | adrainXt f | aloadXt f | oprdyXt f | wpubXt f | wtestXt f | launchXt f
  | lparmXt f | movsXt f | movswXt f | tretXt f | tlbinvXt f | perfrdXt f | dbgmarkXt f | haltwXt f | syscallXt f =>
    exact ⟨_, _, _, rfl, rfl, .inr rfl, fits_xt _ f⟩
  | jmpiBs | retBs => exact encodable_bs rfl rfl rfl (srcCode7_lt_of_bmAddrBad h)
  | callBs => exact encodable_bs rfl rfl rfl (dstCode7_lt_of_targetDstBad h)
  | nopBs | exitBs | yieldBs | oprdyBs | tretBs | jmarkBs | joinBs | waitcBs | lwaitBs | sleepBs | setprioBs | trapBs | brkptBs
  | cpywaitBs | awaitBs | dbgmarkBs | syscallBs => exact encodable_bs rfl rfl rfl trivial
  | pair => exact encodable_pair h
  | _ => exact absurd hw Bool.false_ne_true


/-! ### The obligations -/

theorem pack_lt {l : List (Nat × Nat)} (h : Fits l) : pack l < 2 ^ bitLen l := by
  induction l with
  | nil => exact Nat.one_pos
  | cons e l ih =>
    obtain ⟨w, v⟩ := e
    obtain ⟨hv, hl⟩ := (fits_cons w v l).mp h
    rw [pack, bitLen_cons, pow_add]
    calc v + 2 ^ w * pack l < 2 ^ w * (1 + pack l) := by rw [mul_add, mul_one]; omega
      _ ≤ 2 ^ w * 2 ^ bitLen l := Nat.mul_le_mul_left _ (by have := ih hl; omega)

/-- Fields read back from the bits they are packed into, whatever follows these. -/
theorem reads_pack {l : List (Nat × Nat)} (h : Fits l) (rest : Nat) : Reads l (pack l + 2 ^ bitLen l * rest) := by
  rw [reads_iff, Nat.add_mul_mod_self_left, Nat.mod_eq_of_lt (pack_lt h)]
  exact ⟨h, rfl⟩

theorem fits_litBits (lit : Option DWord) : Fits (litBits lit) := by
  cases lit with
  | none => exact fits_nil
  | some l => exact (fits_cons ..).mpr ⟨l.isLt, fits_nil⟩

theorem Body.len_lt (b : Body) : b.len < 4 := by
  unfold Body.len lenB lenX
  cases b.baseForm <;> cases b.lit <;> simp

theorem fits_bodyBits {opc : Nat} {b : Body} (ho : opc < 256) (h : Fits (b.fields opc)) : Fits (bodyBits opc b) := by
  rw [bodyBits_eq, fits_append, fits_append, headBits]
  simp only [fits_cons]
  exact ⟨⟨⟨b.len_lt, bitOf_lt _, ho, fits_nil⟩, h⟩, fits_litBits _⟩

/-- An instruction takes 4, 12 or 20 bytes (R41). -/
theorem bitLen_bodyBits (opc : Nat) (b : Body) :
    ∃ n, (n = 4 ∨ n = 12 ∨ n = 20) ∧ bitLen (bodyBits opc b) = 8 * n := by
  rw [bodyBits_eq, bitLen_append, bitLen_append, Body.bitLen_fields]
  have hh : bitLen (headBits b.len b.rb opc) = 11 := rfl
  rw [hh]
  cases b.baseForm <;> cases b.lit
  · exact ⟨12, by decide, rfl⟩
  · exact ⟨20, by decide, rfl⟩
  · exact ⟨4, by decide, rfl⟩
  · exact ⟨12, by decide, rfl⟩

section
variable {i : Instr} {opc : Nat} {b : Body} (h : bodyOf i = some (opc, b))
include h

theorem encodeBits_of_bodyOf : encodeBits i = pack (bodyBits opc b) := by
  simp only [encodeBits, h]

theorem byteLen_of_bodyOf : bitLen (bodyBits opc b) = 8 * byteLen i ∧ (byteLen i = 4 ∨ byteLen i = 12 ∨ byteLen i = 20) := by
  obtain ⟨n, hn, hl⟩ := bitLen_bodyBits opc b
  have hb : byteLen i = bitLen (bodyBits opc b) / 8 := by simp only [byteLen, h]; rfl
  omega

end

/-- Settles O1: a legal instruction is `Encodable`, so that the bits it is packed into read as its fields again
(`reads_pack`), and bits that do decode to it (`decode_eq_ok`). -/
theorem encodeThenDecode : Obligations.EncodeThenDecode := by
  unfold Obligations.EncodeThenDecode
  intro i rest hw hbad
  obtain ⟨opc, b, k, hi, hk, ht, hf⟩ := encodable_of_bad i hw hbad
  refine (decode_eq_ok _ i).mpr ⟨hbad, opc, b, k, hi, hk, ht, ?_⟩
  rw [encodeBits_of_bodyOf hi, ← (byteLen_of_bodyOf hi).1]
  exact reads_pack (fits_bodyBits (kindOf_some hk).1 hf) rest

/-- Settles O2: bits that decode read as the instruction's fields (`decode_eq_ok`), which is to be packed from them
(`reads_iff`). -/
theorem decodedWordsAreEncodings : Obligations.DecodedWordsAreEncodings := by
  unfold Obligations.DecodedWordsAreEncodings
  refine ⟨fun x i h => ?_, fun x i h => ?_⟩ <;> obtain ⟨hbad, opc, b, k, hi, -, -, hr⟩ := (decode_eq_ok x i).mp h
  · rw [encodeBits_of_bodyOf hi, ← (byteLen_of_bodyOf hi).1]
    exact ((reads_iff _ x).mp hr).2
  · exact ⟨hbad, by rw [isWord, hi]; rfl, (byteLen_of_bodyOf hi).2⟩

/-- Settles O4, by running the decoder on the five words. -/
theorem specWords : Obligations.SpecWords := by
  unfold Obligations.SpecWords
  decide +kernel

end Sys2Proof
end

section
/-! ## Pairs (O13) -/

namespace Sys2Proof.Machine

/-- Nothing stops an operation that raises neither trap. -/
theorem Alu.stops_eq_none_iff (a : Alu) (s : State) (w : Wave) (x : Mask) :
    a.stops s w x = none ↔ a.deadread w x = none ∧ (a.raises s w x).1 = 0 := by
  unfold Alu.stops
  cases hd : a.deadread w x with
  | some y => simp
  | none => simp

/-- A pair goes on when nothing stops either operation. -/
theorem pairStops_eq_none {a b : Alu} {s : State} {w : Wave} {xa xb : Mask} (ha : a.stops s w xa = none)
    (hb : b.stops s w xb = none) : pairStops a b s w xa xb = none := by
  obtain ⟨hda, hra⟩ := (a.stops_eq_none_iff s w xa).mp ha
  obtain ⟨hdb, hrb⟩ := (b.stops_eq_none_iff s w xb).mp hb
  simp only [pairStops, hda, hdb, Option.orElse_none]
  exact if_pos ⟨hra, hrb⟩

theorem halfAlu_scalar (h : PairHalf) (fl : Bool) : (halfAlu h fl).scalar = false := by
  unfold halfAlu
  cases h.op <;> rfl

/-! ### What one operation's writes change -/

section
variable (a : Alu) (s : State) (before : Wave) (x : Mask) (t : Nat) (b : Bool) (w : Wave)

/-- What the operation writes to a vector register's lane, if anything (R119). -/
def Alu.vLaneWritten (n L : Nat) : Option Word :=
  (if inMask x L then destPart a.d a.wide n else none).map fun sh => (a.lane s before L >>> sh).truncate 32

theorem Alu.vLane_write (hs : a.scalar = false) (n L : Nat) (hn : n < 128) (hL : L < 64) :
    (a.write s before x t b w).vLane n L = (a.vLaneWritten s before x n L).getD (w.vLane n L) := by
  refine (Wave.vLane_putResult _ _ _ _ _ _ _ _ _ _ _ _ hn hL fun _ _ => hs).trans ?_
  unfold Alu.vLaneWritten
  by_cases hx : inMask x L = true
  · rw [if_pos hx, a.results_getD s before x L hL hx]
    cases destPart a.d a.wide n <;> rfl
  · rw [if_neg hx]
    rfl

theorem Alu.computed_write : w.Computed (a.write s before x t b w) :=
  (Wave.computed_stat ..).trans (Wave.computed_putResult ..)

theorem Alu.wstat_write :
    (a.write s before x t b w).wstat = w.wstat ||| flagBits (allFlags x ((a.results s before x).map (·.2))) :=
  Wave.wstat_putResult ..

theorem Alu.pMask_write (n : Nat) : (a.write s before x t b w).pMask n = w.pMask n := Wave.pMask_putResult ..

/-- The operation's result goes to the latch of its own pipe, in its executing lanes (R28, R67). -/
theorem Alu.latch_write (hs : a.scalar = false) (L : Nat) (hL : L < 64) (hx : inMask x L = true) :
    ((a.write s before x t b w).up.latch b).lane L = a.lane s before L := by
  have hput : ∀ l : Latch, (l.put x ((a.results s before x).map (·.1))).lane L = a.lane s before L := fun l => by
    rw [Latch.lane_put _ _ _ _ hL, if_pos hx, a.results_getD s before x L hL hx]
  rw [Alu.write, Wave.up_putResult, hs, Upper.latch, Upper.result_vector_la, Upper.result_vector_lb]
  cases b <;> exact hput _

/-- A result on pipe B leaves the latch of pipe A. -/
theorem Alu.la_write (hs : a.scalar = false) : (a.write s before x t true w).up.la = w.up.la := by
  rw [Alu.write, Wave.up_putResult, hs, Upper.result_vector_la]
  rfl

end

/-! ### The wave that a pair leaves -/

theorem killsOf_append (l m : List Opnd) : killsOf (l ++ m) = killsOf l ++ killsOf m := List.flatMap_append

/-- The wave once both operations of a pair have read their sources. -/
def pairRead (a b : Alu) (s : State) (w : Wave) (xa xb : Mask) : Wave :=
  readEffects s w xb none b.srcs (readEffects s w xa none a.srcs w)

/-- The wave once both operations of a pair, which read `w`, have written. -/
def pairWave (a b : Alu) (s : State) (w : Wave) (xa xb : Mask) (t : Nat) : Wave :=
  b.write s w xb t true (a.write s w xa t false (pairRead a b s w xa xb))

theorem pairBody_ok {a b : Alu} {pb : Fin 16} {pbn : Bool} {u : Iss} {s : State} (ha : a.stops s u.w u.exec = none)
    (hb : b.stops s u.w (s.execMask u.w u.e pb pbn) = none) :
    pairBody a b pb pbn u s =
      .ok (s.setWave u.k (pairWave a b s u.w u.exec (s.execMask u.w u.e pb pbn) u.slot.t)) .seq := by
  have h : pairStops a b s u.w u.exec (halfExec s u pb pbn) = none := pairStops_eq_none ha hb
  simp only [pairBody, h]
  rfl

section
variable (a b : Alu) (s : State) (w : Wave) (xa xb : Mask) (t : Nat)

theorem pairRead_vLane (n L : Nat) :
    (pairRead a b s w xa xb).vLane n L = if (killsOf (a.srcs ++ b.srcs)).contains n then 0 else w.vLane n L := by
  rw [pairRead, readEffects_vLane, readEffects_vLane, killsOf_append]
  simp only [List.contains_iff_mem, List.mem_append]
  by_cases h : n ∈ killsOf b.srcs <;> simp [h]

theorem computed_pairWave : w.Computed (pairWave a b s w xa xb t) :=
  (((Wave.computed_readEffects s w xa none a.srcs w).trans (Wave.computed_readEffects ..)).trans
    (a.computed_write ..)).trans (b.computed_write ..)

theorem pairWave_wstat_sticky : (pairWave a b s w xa xb t).wstat &&& w.wstat = w.wstat := by
  rw [pairWave, Alu.wstat_write, Alu.wstat_write, pairRead, readEffects_rest, readEffects_rest]
  simp only [BitVec.or_assoc]
  exact or_and_self_left ..

theorem pairWave_pMask (n : Nat) : (pairWave a b s w xa xb t).pMask n = w.pMask n := by
  rw [pairWave, Alu.pMask_write, Alu.pMask_write, pairRead, readEffects_pMask, readEffects_pMask]

/-- Operation B's part of a register where it writes one, else A's, else what the reads left. -/
theorem pairWave_vLane (ha : a.scalar = false) (hb : b.scalar = false) (n L : Nat) (hn : n < 128) (hL : L < 64) :
    (pairWave a b s w xa xb t).vLane n L = (b.vLaneWritten s w xb n L).getD
      ((a.vLaneWritten s w xa n L).getD (if (killsOf (a.srcs ++ b.srcs)).contains n then 0 else w.vLane n L)) := by
  rw [pairWave, b.vLane_write _ _ _ _ _ _ hb n L hn hL, a.vLane_write _ _ _ _ _ _ ha n L hn hL, pairRead_vLane]

theorem pairWave_la (ha : a.scalar = false) (hb : b.scalar = false) (L : Nat) (hL : L < 64) (hx : inMask xa L = true) :
    (pairWave a b s w xa xb t).up.la.lane L = a.lane s w L := by
  rw [pairWave, b.la_write _ _ _ _ _ hb]
  exact a.latch_write s w xa t false _ ha L hL hx

theorem pairWave_lb (hb : b.scalar = false) (L : Nat) (hL : L < 64) (hx : inMask xb L = true) :
    (pairWave a b s w xa xb t).up.lb.lane L = b.lane s w L :=
  b.latch_write s w xb t true _ hb L hL hx

end

/-- Settles O13: a pair that nothing stops leaves `pairWave` (`pairBody_ok`), whose registers (`pairWave_vLane`) and latches
(`pairWave_la`, `pairWave_lb`) hold both results, computed from the wave as it was read. -/
theorem pairResult : Obligations.PairResult := by
  unfold Obligations.PairResult
  intro f s k w e a b xa xb hr ha hb
  have hsa : a.scalar = false := halfAlu_scalar ..
  have hsb : b.scalar = false := halfAlu_scalar ..
  obtain ⟨t, ht, hw, ho⟩ := settle_seq hr (pairBody_ok (pb := f.y.p) (pbn := f.y.pn) (u := issOf (.pair f) _ s k w e) ha hb)
  refine ⟨t, _, ht, hw, Wave.ran_issued hr _ _ (pairWave_wstat_sticky ..) (computed_pairWave ..), fun n _ => ?_, ho,
    fun n L hn hL => ?_, fun L hL => ⟨fun hx => ?_, fun hx => ?_⟩⟩
  · rw [Wave.issued_pMask]
    exact pairWave_pMask ..
  · rw [Wave.issued_vLane]
    refine (pairWave_vLane a b s w xa xb _ hsa hsb n L hn hL).trans ?_
    unfold Alu.vLaneWritten
    cases (if inMask xb L then destPart b.d b.wide n else none) <;>
      cases (if inMask xa L then destPart a.d a.wide n else none) <;> rfl
  · rw [Wave.issued_up]
    exact pairWave_la a b s w xa xb _ hsa hsb L hL hx
  · rw [Wave.issued_up]
    exact pairWave_lb a b s w xa xb _ hsb L hL hx

end Sys2Proof.Machine
end

section
/-! ## The checks of an access (O28) -/

namespace Sys2Proof.Machine

section
variable (s : State) (u : Iss) (want : Want) (priv : Bool) {size va : Nat} (L : Nat)

theorem State.laneAccess_misaligned (h : va % size ≠ 0) : s.laneAccess u want priv size L va = (s, .trap .misalign) := by
  simp only [State.laneAccess, if_pos h]

theorem State.laneAccess_partition (h : va % size = 0) (h1 : 0xFE00000000000000 ≤ va) (h2 : va < 0xFF00000000000000)
    {g : Group} (hg : s.groupAt? u.w.group = some g) :
    s.laneAccess u want priv size L va =
      if va - 0xFE00000000000000 + size ≤ g.size then
        (s, .go [(0, size, .scratch u.w.group (va - 0xFE00000000000000), none)])
      else (s, .trap .aperture) := by
  simp only [State.laneAccess, if_neg (not_not.mpr h), if_neg (show ¬ va < 2 ^ 57 by omega), if_neg (Nat.not_le.mpr h2),
    if_pos h1, hg]
  simp only [← Nat.not_le, ite_not]

theorem State.laneAccess_ownWindow (h : va % size = 0) (h1 : 0xFF00000000000000 ≤ va) {l : Launch}
    (hl : s.launchAt? u.w.launch = some l) (hp : priv = false ∨ l.pb < va - 0xFF00000000000000 + size) :
    s.laneAccess u want priv size L va = (s, .trap .aperture) := by
  have hout : (!priv || decide (l.pb < va - 0xFF00000000000000 + size)) = true := by
    rcases hp with rfl | hp
    · rfl
    · rw [decide_eq_true hp, Bool.or_true]
  simp only [State.laneAccess, if_neg (not_not.mpr h), if_neg (show ¬ va < 2 ^ 57 by omega), if_pos h1, hl, if_pos hout]

theorem State.laneAccess_noWindow (h : va % size = 0) (h1 : 2 ^ 57 ≤ va) (h2 : va < 0xFE00000000000000) :
    s.laneAccess u want priv size L va = (s, .trap .aperture) := by
  simp only [State.laneAccess, if_neg (not_not.mpr h), if_neg (Nat.not_lt.mpr h1),
    if_neg (show ¬ 0xFF00000000000000 ≤ va by omega), if_neg (Nat.not_le.mpr h2)]

end

/-- An instruction of `accessOf` is the issue of its accesses. -/
theorem exec_of_accessOf {i : Instr} {m : MemI} (h : accessOf i = some m) (s : State) :
    exec i s = issue i m.plan m.body s := by
  unfold accessOf at h
  split at h
  all_goals cases h
  all_goals rfl

/-- The lowest failing lane's trap is the instruction's. -/
theorem MemI.body_of_trap {m : MemI} {u : Iss} {s : State} {c : Cause} {va : Nat} (hd : m.dead u.w u.exec = none)
    (hc : (m.checks u s).2 = .error (.trap c, va)) : m.body u s = .trap c (BitVec.ofNat 64 va) := by
  unfold MemI.checks at hc
  simp only [MemI.body, hd, hc]

/-- Settles O28: the checks of a lane by its address, and the trap of the lowest failing lane as what the issue comes to. -/
theorem accessChecks : Obligations.AccessChecks := by
  unfold Obligations.AccessChecks
  refine ⟨fun s u want priv size L va => ⟨s.laneAccess_misaligned u want priv L,
    fun h h1 h2 g hg => s.laneAccess_partition u want priv L h h1 h2 hg,
    fun h h1 l hl hp => s.laneAccess_ownWindow u want priv L h h1 hl hp, s.laneAccess_noWindow u want priv L⟩,
    fun i s m k w e c va hi hr hd hc => ?_⟩
  rw [exec_of_accessOf hi, issue_ready hr, MemI.body_of_trap (u := issOf i m.plan s k w e) hd hc]
  rfl

end Sys2Proof.Machine
end

section
/-! ## Commands on tenancies (O53) -/

namespace Sys2Proof.Machine

/-- A tenancy of partition 0 that session 7 created. -/
def sessionTenancy : Tenancy := ⟨0, 0, 7, none, [], [], [], 0, false, false, []⟩

/-- The device after reset with session 7 at port A, and with that tenancy listed twice as tenancy 0. -/
def twiceListed : State :=
  State.reset.modHost fun h => { h with
    tens := [(0, sessionTenancy), (0, sessionTenancy)]
    spdm := [(0, { Spdm.init with sessions := [(7, (0, 0))] })] }

/-- A command over that session. -/
def sessionCommand : MbReq := ⟨0, some 7, none⟩

/-- After a step, a tenancy has an entry. -/
def hasTenancy (ten : Nat) : Host.Outcome State Fault Refusal → Bool
  | .next t => (t.host.tens.get? ten).isSome
  | _ => false

/-- Destroying the tenancy takes one of its two entries away. -/
theorem hasTenancy_twiceListed : hasTenancy 0 (exec (.tenDestroy sessionCommand 0) twiceListed) = true := by decide +kernel

/-- Refutes O53: the table of tenancies is not said to list each once. Of two entries of a tenancy a TEN_DESTROY that its session
sends removes the first, and the tenancy is not gone. -/
theorem not_tenancyCommands : ¬ Obligations.TenancyCommands := by
  intro h
  obtain ⟨-, -, -, hten, -⟩ := h twiceListed sessionCommand 0 (by decide +kernel) (by decide +kernel)
  obtain ⟨-, hdestroy, -⟩ := hten 0 sessionTenancy rfl (by decide +kernel)
  obtain ⟨u, hu, -, hgone⟩ := hdestroy rfl (by decide +kernel)
  obtain ⟨hnone, -⟩ := hgone (Nat.zero_le 15) rfl rfl
  have hsome := hasTenancy_twiceListed
  rw [hu] at hsome
  change (u.host.tens.get? 0).isSome = true at hsome
  rw [hnone] at hsome
  cases hsome

end Sys2Proof.Machine
end

section
/-! ## The steps of an access (O45) -/

namespace Sys2Proof.Machine

/-! ### Memory and numbers as bytes -/

theorem Memory.get_write (m : Memory) (a b : Nat) (l : List Byte) (h : m.wf = true) :
    Memory.get (Memory.write m a l) b = if a ≤ b ∧ b < a + l.length then l.getD (b - a) 0 else Memory.get m b :=
  (readAfterWrite m a b l h).2

theorem Memory.read_eq_map (m : Memory) (a n : Nat) : Memory.read m a n = (List.range n).map fun i => Memory.get m (a + i) := by
  induction n generalizing a with
  | zero => rfl
  | succ n ih =>
    rw [Memory.read, ih, List.range_succ_eq_map, List.map_cons, List.map_map]
    congr 1
    exact List.map_congr_left fun i _ => by rw [Function.comp_apply]; congr 1; omega

/-- Bytes make a number that gives them back. -/
theorem bytesOf_ofBytes (l : List Byte) : bytesOf l.length (ofBytes l) = l := by
  induction l with
  | nil => rfl
  | cons b l ih =>
    have hb := b.isLt
    simp only [List.length_cons, bytesOf, ofBytes]
    rw [show (b.toNat + 256 * ofBytes l) / 256 = ofBytes l by omega, ih]
    congr 1
    apply BitVec.eq_of_toNat_eq
    simp only [BitVec.toNat_ofNat]
    omega

/-- A location that an atomic does not write keeps its value. -/
theorem atomNew_of_not_writes {op : AtomOp} {w v x : Nat} (h : atomWrites op w v x = false) : atomNew op w v x = v := by
  cases op
  case cas => exact if_neg (of_decide_eq_false h)
  all_goals cases h

theorem length_read (m : Memory) (a n : Nat) : (Memory.read m a n).length = n := by
  rw [Memory.read_eq_map, List.length_map, List.length_range]

/-- Bytes that are read and put back change none. -/
theorem get_of_read (m : Memory) (a b n : Nat) :
    Memory.get m b = if a ≤ b ∧ b < a + (Memory.read m a n).length then (Memory.read m a n).getD (b - a) 0 else Memory.get m b := by
  rw [length_read]
  split
  · next h =>
    have hr : (Memory.read m a n)[b - a]? = some (Memory.get m b) := by
      rw [Memory.read_eq_map, List.getElem?_map, List.getElem?_range (by omega), Option.map_some, Nat.add_sub_cancel' h.1]
    rw [List.getD_eq_getElem?_getD, hr, Option.getD_some]
  · rfl

/-! ### Nothing is due -/

theorem settleList_of_not_due {n : Nat} {l : List Acc} (s : State) (h : ∀ a ∈ l, a.due n = false) : settleList n l s = s := by
  induction l with
  | nil => rfl
  | cons a l ih =>
    rw [settleList, if_neg (by rw [h a List.mem_cons_self]; decide)]
    exact ih fun b hb => h b (List.mem_cons_of_mem _ hb)

theorem State.Settled.settle {s : State} (h : s.Settled) : s.settle = s := settleList_of_not_due s h

/-! ### What a completion leaves alone -/

@[simp] theorem State.deliver_groupAt? (s : State) (a : Acc) (bs : List Byte) (g : Nat) :
    (s.deliver a bs).groupAt? g = s.groupAt? g := by
  unfold State.deliver State.modCopy
  dsimp only
  split <;> simp

/-! ### The partition -/

theorem seeByte_nil (off : Nat) (f : Stale → Bool) (b : Byte) : seeByte off f b [] = b := rfl

/-- With no write that may still show its old value, and no byte lost, a wave reads what stands in the partition. -/
theorem State.scratchRead_clean {s : State} {g : Nat} {x : Group} (k off n : Nat) (hg : s.groupAt? g = some x)
    (hs : x.stale = []) (hb : x.bad = []) :
    s.scratchRead k g off n = (List.range n).map fun i => Memory.get x.scratch (off + i) := by
  simp only [State.scratchRead, State.scratchBytes, hg, State.scratchByte, hs, hb, List.contains_nil, Bool.false_eq_true,
    if_false, seeByte_nil]

theorem foldl_sawByte_nil (k off : Nat) (f : Nat → Stale → Bool) (l : List Nat) :
    l.foldl (fun l i => sawByte k (off + i) (f i) l) [] = [] := by
  induction l with
  | nil => rfl
  | cons i l ih => exact ih

theorem State.groupAt?_scratchSaw_clean {s : State} {g : Nat} {x : Group} (k off n j : Nat) (hg : s.groupAt? g = some x)
    (hs : x.stale = []) : (s.scratchSaw k g off n).groupAt? j = s.groupAt? j := by
  unfold State.scratchSaw
  rw [State.groupAt?_modGroup, hg]
  split
  · next h =>
    subst h
    rw [hg, Option.map_some, hs, foldl_sawByte_nil, ← hs]
  · rfl

theorem State.flushCredits_of_none {s : State} {g : Nat} (h : ∀ x, s.groupAt? g = some x → x.credits = []) :
    s.flushCredits g = s := by
  unfold State.flushCredits
  split
  · rfl
  · next x hx => rw [h x hx]; rfl

/-- A write at an offset that none of the writes has comes after them, and its byte stands. -/
theorem putWrite_fst_of_new {atop : Stale → Bool} {new : Stale} {b : Byte} (cur : Byte) {l : List Stale}
    (h : ∀ e ∈ l, e.off ≠ new.off) : putWrite atop new b cur l = (b, l ++ [{ new with old := cur }]) := by
  induction l with
  | nil => rfl
  | cons e l ih =>
    rw [putWrite, if_pos (h e List.mem_cons_self), ih fun e' he' => h e' (List.mem_cons_of_mem _ he')]
    rfl

/-- Bytes written above every write that may still show its old value all stand. -/
theorem State.scratchPuts_clean (s : State) (g k id : Nat) (by_ : Writer) (off : Nat) (bs : List Byte) (n : Nat) (x : Group)
    (h : ∀ e ∈ x.stale, e.off < off + n) :
    let y := (bs.zipIdx n).foldl (fun x e => s.scratchPut1 g k id by_ x (off + e.2) e.1) x
    y.scratch = Memory.write x.scratch (off + n) bs ∧ y.credits = x.credits := by
  induction bs generalizing n x with
  | nil => exact ⟨rfl, rfl⟩
  | cons b bs ih =>
    let x' := s.scratchPut1 g k id by_ x (off + n) b
    have hput := putWrite_fst_of_new (b := b) (Memory.get x.scratch (off + n))
      (atop := fun (e : Stale) => e.meets k id (by_ == .wave k) &&
        s.freeBit (2 ^ 58 + (g * 2 ^ 40 + id * 2 ^ 20 + (off + n)) * 2 ^ 20 + e.id % 2 ^ 20))
      (new := ⟨id, if (by_ == .wave k) = true then some s.nextId else none, by_, off + n, 0, [], [], [], false, [], false, false⟩)
      fun e he => Nat.ne_of_lt (h e he)
    have hscr : x'.scratch = Memory.set x.scratch (off + n) b := by
      simp only [x', State.scratchPut1, hput]
    have hst : ∀ e ∈ x'.stale, e.off < off + (n + 1) := by
      intro e he
      simp only [x', State.scratchPut1, hput, List.mem_append, List.mem_singleton] at he
      rcases he with he | rfl
      · have := h e he
        omega
      · exact Nat.lt_succ_self _
    obtain ⟨hs, hc⟩ := ih (n + 1) x' hst
    rw [List.zipIdx_cons, List.foldl_cons]
    exact ⟨by rw [hs, hscr]; rfl, hc⟩

/-! ### What the steps come to -/

theorem exec_homeAccess_of_dev {s : State} {a : Acc} {pa : Nat} (ha : s.mem.acc? a.id = some a) (ht : a.tgt = .dev pa) :
    exec (.homeAccess a.id) s = .next (s.perform a.id) := by
  change execHomeAccess a.id s = _
  unfold execHomeAccess
  rw [ha, Option.map_some, ht]

theorem exec_homeAccess_of_scratch {s : State} {a : Acc} {g off : Nat} (ha : s.mem.acc? a.id = some a)
    (ht : a.tgt = .scratch g off) : exec (.homeAccess a.id) s = .next ((s.perform a.id).flushCredits g) := by
  change execHomeAccess a.id s = _
  unfold execHomeAccess
  rw [ha, Option.map_some, ht]

section
variable {s : State} {a : Acc} (ha : s.mem.acc? a.id = some a) (hst : a.stage = .travelling)
  (hf : s.mem.accs.any (s.mustFollow a) = false)
include ha hst hf

theorem State.perform_of_scratch {g off : Nat} (ht : a.tgt = .scratch g off) (hi : s.initHeld a off = false) :
    s.perform a.id = s.scratchAcc a g off := by
  simp only [State.perform, ha, hst, hf, ht, hi, ne_eq, not_true_eq_false, decide_false, Bool.false_and, Bool.or_self,
    Bool.false_eq_true, if_false]

theorem State.perform_of_dev {pa : Nat} (ht : a.tgt = .dev pa) (hs : s.Settled) :
    s.perform a.id = if s.tagMiss a pa = true then s.failAcc a .prot ⟨0, 0, false, 0, 0⟩ (a.vaddr pa)
      else if a.kind.isLoad = true then (if inWindow s.house pa = true then s.loadWindow a pa else s.loadDev a pa (lineOf pa))
      else s.acceptBatch a (lineOf pa) := by
  simp only [State.perform, ha, hst, hf, ht, hs.settle, ne_eq, not_true_eq_false, decide_false, Bool.false_and, Bool.or_self,
    Bool.false_eq_true, if_false]

end

/-! ### At the partition -/

section
variable {s : State} {a : Acc} {k g off : Nat} {x : Group} (ha : s.mem.acc? a.id = some a) (hst : a.stage = .travelling)
  (hf : s.mem.accs.any (s.mustFollow a) = false) (ho : a.owner = .wave k) (ht : a.tgt = .scratch g off)
  (hg : s.groupAt? g = some x) (hstale : x.stale = []) (hc : x.credits = []) (hi : s.initHeld a off = false)
include ha hst hf ho ht hg hstale hc hi

/-- A load gives its operation what stands in the partition. -/
theorem homeAccess_scratch_load (hbad : x.bad = []) (hk : a.kind = .load) : Steps (.homeAccess a.id) s fun t =>
    ∃ u : State, t = u.deliver a ((List.range a.size).map fun i => Memory.get x.scratch (off + i)) ∧ u.mem = s.mem ∧
      u.waves = s.waves ∧ u.chrono = s.chrono ∧ ∀ j, u.groupAt? j = s.groupAt? j := by
  have hgroups : ∀ j, (s.scratchSaw k g off a.size).groupAt? j = s.groupAt? j := fun j =>
    State.groupAt?_scratchSaw_clean k off a.size j hg hstale
  have hacc : s.scratchAcc a g off =
      (s.scratchSaw k g off a.size).deliver a ((List.range a.size).map fun i => Memory.get x.scratch (off + i)) := by
    simp only [State.scratchAcc, ho, hk, State.scratchRead_clean k off a.size hg hstale hbad]
  refine ⟨_, exec_homeAccess_of_scratch ha ht, s.scratchSaw k g off a.size, ?_, by simp, ?_, ?_, hgroups⟩
  · rw [State.perform_of_scratch ha hst hf ht hi, hacc]
    refine State.flushCredits_of_none fun y hy => ?_
    rw [State.deliver_groupAt?, hgroups, hg] at hy
    cases hy
    exact hc
  · simp [State.scratchSaw]
  · simp [State.scratchSaw]

/-- A store puts its bytes there. -/
theorem homeAccess_scratch_store (hk : a.kind = .store) (hwf : x.scratch.wf = true) : Steps (.homeAccess a.id) s fun t =>
    t.mem = s.mem.dropAcc a.id ∧ t.waves = s.waves ∧ ∃ y, t.groupAt? g = some y ∧ ∀ b, Memory.get y.scratch b =
      if off ≤ b ∧ b < off + a.data.length then a.data.getD (b - off) 0 else Memory.get x.scratch b := by
  have hacc : s.scratchAcc a g off = (s.scratchWrite g k a.id (.wave k) off a.data).modMem fun m => m.dropAcc a.id := by
    simp only [State.scratchAcc, ho, hk]
  obtain ⟨hs, hcr⟩ := s.scratchPuts_clean g k a.id (.wave k) off a.data 0 x (by simp [hstale])
  have hgroup : ((s.scratchWrite g k a.id (.wave k) off a.data).modMem fun m => m.dropAcc a.id).groupAt? g =
      some (a.data.zipIdx.foldl (fun x e => s.scratchPut1 g k a.id (.wave k) x (off + e.2) e.1) x) := by
    rw [State.groupAt?_modMem, State.scratchWrite, State.groupAt?_modGroup, if_pos rfl, hg, Option.map_some]
  refine ⟨(s.scratchWrite g k a.id (.wave k) off a.data).modMem fun m => m.dropAcc a.id, ?_, ?_, ?_, _, hgroup, fun b => ?_⟩
  · rw [exec_homeAccess_of_scratch ha ht, State.perform_of_scratch ha hst hf ht hi, hacc, State.flushCredits_of_none]
    intro y hy
    rw [hgroup] at hy
    cases hy
    exact hcr.trans hc
  · simp [State.modMem]
  · simp [State.scratchWrite]
  · rw [hs]
    exact Memory.get_write _ _ _ _ hwf

end

/-! ### At the home -/

@[simp] theorem MemSys.evict_accs (m : MemSys) (key : Nat) : (m.evict key).accs = m.accs := by
  unfold MemSys.evict MemSys.setHbmPoison
  dsimp only
  (repeat' split) <;> rfl

@[simp] theorem MemSys.evict_lines (m : MemSys) (key : Nat) : (m.evict key).lines = m.lines := by
  unfold MemSys.evict MemSys.setHbmPoison
  dsimp only
  (repeat' split) <;> rfl

@[simp] theorem MemSys.llcTouch_accs (m : MemSys) (key cls ten : Nat) : (m.llcTouch key cls ten).accs = m.accs := by
  simp only [MemSys.llcTouch]
  (repeat' split) <;> simp

@[simp] theorem MemSys.llcTouch_lines (m : MemSys) (key cls ten : Nat) : (m.llcTouch key cls ten).lines = m.lines := by
  simp only [MemSys.llcTouch]
  (repeat' split) <;> simp

@[simp] theorem MemSys.fillReplica_accs (m : MemSys) (die line ten : Nat) (x : Leased) :
    (m.fillReplica die line ten x).accs = m.accs := by
  simp only [MemSys.fillReplica]
  split <;> simp

/-- The line that an access touches is as poisoned as it was: what fills it brings the poison of the HBM (R430). -/
theorem MemSys.linePoison_llcTouch {h : House} {line : Nat} (m : MemSys) (cls ten : Nat)
    (hw : inWindow h (line * 128) = false) : (m.llcTouch line cls ten).linePoison h line = m.linePoison h line := by
  have hfilled : (if m.hbmPoison line = 0 then 0 else 3) =
      if inWindow h (line * 128) = true ∨ m.hbmPoison line = 0 then m.hbmPoison line else 3 := by
    rw [hw]
    by_cases h0 : m.hbmPoison line = 0 <;> simp [h0]
  simp only [MemSys.llcTouch]
  split
  · next l hl => simp only [MemSys.linePoison, Table.get?_set, if_pos, hl]
  · next hl =>
    split
    · simp only [MemSys.linePoison, Table.get?_set, if_pos, hl]
      exact hfilled
    · split
      · simp only [MemSys.linePoison, hl]
        rfl
      · simp only [MemSys.linePoison, Table.get?_set, if_pos, hl]
        exact hfilled

/-- An address and the line it lies in are in one granule. -/
theorem inWindow_lineOf (h : House) (pa : Nat) : inWindow h (lineOf pa * 128) = inWindow h pa := by
  unfold inWindow lineOf
  rw [show pa / 128 * 128 / 2 ^ 21 = pa / 2 ^ 21 by omega]

/-- A load that the home serves without poison gives its operation what device memory holds. -/
theorem State.serveLoad_clean {s : State} {a : Acc} {pa : Nat} (hw : inWindow s.house pa = false)
    (hp : meetsPoison (s.linePoison (lineOf pa)) pa a.size = false) :
    ∃ u : State, s.serveLoad a pa (lineOf pa) = u.deliver a (Memory.read s.mem.bytes pa a.size) ∧
      u.mem.bytes = s.mem.bytes ∧ u.mem.accs = s.mem.accs ∧ u.waves = s.waves := by
  have hp' : meetsPoison ((s.modMem fun m => m.llcTouch (lineOf pa) a.cls a.ten).linePoison (lineOf pa)) pa a.size = false := by
    rw [State.linePoison]
    exact (congrArg (meetsPoison · pa a.size)
      (s.mem.linePoison_llcTouch a.cls a.ten ((inWindow_lineOf s.house pa).trans hw))).trans hp
  simp only [State.serveLoad, hw, hp', Bool.false_eq_true, if_false]
  split
  · exact ⟨_, rfl, by simp, by simp, by simp⟩
  · refine ⟨_, rfl, ?_⟩
    (repeat' split) <;> simp

section
variable {s : State} {a : Acc} {pa : Nat} (ha : s.mem.acc? a.id = some a) (hst : a.stage = .travelling)
  (hf : s.mem.accs.any (s.mustFollow a) = false) (ht : a.tgt = .dev pa) (hs : s.Settled)
include ha hst hf ht hs

theorem homeAccess_tagMiss (hm : s.tagMiss a pa = true) :
    exec (.homeAccess a.id) s = .next (s.failAcc a .prot ⟨0, 0, false, 0, 0⟩ (a.vaddr pa)) := by
  rw [exec_homeAccess_of_dev ha ht, State.perform_of_dev ha hst hf ht hs, if_pos hm]

/-- A store or atomic is accepted with the write completion time of R203. -/
theorem homeAccess_accepts (hm : s.tagMiss a pa = false) (hk : a.kind ≠ .load)
    (hw : inWindow s.house (lineOf pa * 128) = false) :
    let v := max s.chrono (max ((s.mem.line (lineOf pa)).emax + 1) (s.mem.line (lineOf pa)).wprev)
    Steps (.homeAccess a.id) s fun t => t.mem.bytes = s.mem.bytes ∧ t.waves = s.waves ∧ t.groups = s.groups ∧
      (t.mem.line (lineOf pa)).wprev = v ∧
      ∃ b ∈ t.mem.accs, b.id = a.id ∧ b.stage = .pending v ∧ b.tgt = a.tgt ∧ b.data = a.data ∧ b.kind = a.kind := by
  intro v
  have hload : a.kind.isLoad = false := by
    cases h : a.kind
    case load => exact absurd h hk
    all_goals rfl
  have hv : s.wctFor (lineOf pa) = v := by simp [State.wctFor, hw, v]
  have hbatch : a ∈ s.batchOf a := List.mem_filter.mpr ⟨List.mem_of_find?_eq_some ha, by simp [hst]⟩
  refine ⟨s.acceptBatch a (lineOf pa), ?_, by simp, ?_, ?_, ?_, ?_⟩
  · rw [exec_homeAccess_of_dev ha ht, State.perform_of_dev ha hst hf ht hs, hm, hload]
    rfl
  · simp [State.acceptBatch, hw]
  · simp [State.acceptBatch, hw]
  · simp [State.acceptBatch, hw, MemSys.line, Table.getD_set, hv]
  · simp only [State.acceptBatch, hw, Bool.false_eq_true, if_false, MemSys.llcTouch_accs, hv]
    exact ⟨_, List.mem_append_right _ (List.mem_map_of_mem hbatch), rfl, rfl, rfl, rfl, rfl⟩

/-- A load that no copy serves reads device memory. -/
theorem homeAccess_loads (hm : s.tagMiss a pa = false) (hk : a.kind = .load) (hw : inWindow s.house pa = false)
    (hown : (s.mem.accs.any fun b => s.sameSource a b && !b.kind.isLoad && b.wct?.isSome && a.meets b) = false)
    (hcopy : s.copyFor a pa (lineOf pa) = none) (hp : meetsPoison (s.linePoison (lineOf pa)) pa a.size = false) :
    Steps (.homeAccess a.id) s fun t => ∃ u : State, t = u.deliver a (Memory.read s.mem.bytes pa a.size) ∧
      u.mem.bytes = s.mem.bytes ∧ u.mem.accs = s.mem.accs ∧ u.waves = s.waves := by
  have hawaits : s.awaitsOwn a = false := by rw [State.awaitsOwn, hown, Bool.and_false]
  have hload : s.loadDev a pa (lineOf pa) = s.serveLoad a pa (lineOf pa) := by
    simp only [State.loadDev, hawaits, hcopy, Bool.false_eq_true, if_false]
  obtain ⟨u, hu, hsame⟩ := State.serveLoad_clean (a := a) hw hp
  refine ⟨s.serveLoad a pa (lineOf pa), ?_, u, hu, hsame⟩
  rw [exec_homeAccess_of_dev ha ht, State.perform_of_dev ha hst hf ht hs, hm, hk, hw, hload]
  rfl

end

/-! ### An access becomes visible -/

theorem foldl_noteWord_scratch (old : Memory) (n : Nat) (l : List Nat) (g : Group) :
    (l.foldl (Group.noteWord old n) g).scratch = g.scratch := by
  induction l generalizing g with
  | nil => rfl
  | cons w l ih =>
    rw [List.foldl_cons, ih, Group.noteWord]
    split <;> rfl

/-- What is written to device memory stands there; no partition, wave, queue or launch changes. -/
structure State.Wrote (s t : State) (pa : Nat) (bs : List Byte) : Prop where
  bytes : s.mem.bytes.wf = true → ∀ b, Memory.get t.mem.bytes b =
    if pa ≤ b ∧ b < pa + bs.length then bs.getD (b - pa) 0 else Memory.get s.mem.bytes b
  scratch : ∀ g, (t.groupAt? g).map (·.scratch) = (s.groupAt? g).map (·.scratch)
  waves : t.waves = s.waves
  queues : t.cp.queues = s.cp.queues
  launches : t.cp.launches = s.cp.launches

theorem State.wrote_putDev (s : State) (pa : Nat) (bs : List Byte) (whole : Bool) (n : Nat) :
    s.Wrote (s.putDev pa bs whole n) pa bs where
  bytes hwf b := by
    simp only [State.putDev, State.modMem, State.everyGroup_mem, MemSys.put_bytes]
    exact Memory.get_write _ _ _ _ hwf
  scratch g := by
    rw [State.putDev, State.groupAt?_modMem, State.everyGroup, State.groupAt?, Table.get?_mapVals, Option.map_map]
    exact congrArg (fun f => Option.map f (s.groups.get? g)) (funext fun x => foldl_noteWord_scratch ..)
  waves := rfl
  queues := rfl
  launches := rfl

theorem State.wrote_read (s : State) (pa n : Nat) : s.Wrote s pa (Memory.read s.mem.bytes pa n) :=
  ⟨fun _ _ => get_of_read .., fun _ => rfl, rfl, rfl, rfl⟩

/-- An atomic's new value stands at its location, whether it writes it or its comparison fails (R218, R236). -/
theorem State.wrote_atomic (s : State) (op : AtomOp) (pa n x t : Nat) :
    let old := Memory.read s.mem.bytes pa n
    s.Wrote (if atomWrites op (8 * n) (ofBytes old) x = true
        then s.putDev pa (bytesOf n (atomNew op (8 * n) (ofBytes old) x)) false t else s)
      pa (bytesOf n (atomNew op (8 * n) (Memory.num s.mem.bytes pa n) x)) := by
  intro old
  cases h : atomWrites op (8 * n) (ofBytes old) x with
  | true => exact s.wrote_putDev ..
  | false =>
    have hold : bytesOf n (ofBytes old) = old := by
      have := bytesOf_ofBytes old
      rwa [length_read] at this
    rw [Memory.num, atomNew_of_not_writes h, hold]
    exact s.wrote_read pa n

/-- An access that has become visible waits for its WCT to return, or is gone. -/
def State.afterVisible (s : State) (a : Acc) : State :=
  match a.stage with
  | .pending w => s.modMem fun m => m.modAcc a.id fun b => { b with stage := .performed w }
  | _ => s.modMem fun m => m.dropAcc a.id

@[simp] theorem State.afterVisible_waves (s : State) (a : Acc) : (s.afterVisible a).waves = s.waves := by
  unfold State.afterVisible
  split <;> rfl

theorem State.Wrote.afterVisible {s t : State} {pa : Nat} {bs : List Byte} (h : s.Wrote t pa bs) (a : Acc) :
    s.Wrote (t.afterVisible a) pa bs := by
  obtain ⟨hb, hg, hw, hq, hl⟩ := h
  unfold State.afterVisible
  split <;> exact ⟨hb, hg, hw, hq, hl⟩

section
variable {s : State} {a : Acc} {pa : Nat} (ht : a.tgt = .dev pa)
include ht

theorem State.makeVisible_store (hk : a.kind = .store) :
    s.makeVisible a = (s.putDev pa a.data a.whole (a.wct?.getD s.chrono)).afterVisible a := by
  simp only [State.makeVisible, ht, hk]
  rfl

theorem State.makeVisible_red {op : AtomOp} (hk : a.kind = .red op ∨ a.kind = .mcred op) :
    s.makeVisible a = (s.putDev pa (bytesOf a.size (atomNew op (8 * a.size) (Memory.num s.mem.bytes pa a.size) (ofBytes a.data)))
      false (a.wct?.getD s.chrono)).afterVisible a := by
  rcases hk with hk | hk
  all_goals
    simp only [State.makeVisible, ht, hk]
    rfl

theorem State.makeVisible_atom {op : AtomOp} {k : Nat} (hk : a.kind = .atom op) (ho : a.owner = .wave k) :
    let old := Memory.read s.mem.bytes pa a.size
    s.makeVisible a = ((if atomWrites op (8 * a.size) (ofBytes old) (ofBytes a.data) = true
        then s.putDev pa (bytesOf a.size (atomNew op (8 * a.size) (ofBytes old) (ofBytes a.data))) false (a.wct?.getD s.chrono)
        else s).modWave k fun w => w.modOp a.op fun o => o.give a.lane 0 old true).afterVisible a := by
  simp only [State.makeVisible, ht, hk, ho]
  rfl

end

section
variable {s : State} {a : Acc} (ha : s.mem.acc? a.id = some a) (hv : s.visibleWith a = [a]) (hd : a.due s.chrono = true)
include ha hv hd

theorem exec_storeVisible_alone (hk : a.kind = .store) : exec (.storeVisible a.id) s = .next (s.makeVisible a) := by
  change execStoreVisible a.id s = _
  simp only [execStoreVisible, ha, hk, hd, hv, settleList, and_self, if_true]

theorem exec_atomicPerform_alone (hk : a.kind ≠ .store) : exec (.atomicPerform a.id) s = .next (s.makeVisible a) := by
  change execAtomicPerform a.id s = _
  simp only [execAtomicPerform, ha, hk, hd, hv, settleList, ne_eq, not_false_eq_true, and_self, if_true]

end

theorem Wave.op?_id {w : Wave} {id : Nat} {o : LOp} (h : w.op? id = some o) : o.id = id := by
  have := List.find?_some h
  exact of_decide_eq_true this

/-- The operation that is changed is found as it was changed. -/
theorem Wave.op?_modOp {w : Wave} {id : Nat} {o : LOp} {f : LOp → LOp} (h : w.op? id = some o) (hf : ∀ o, (f o).id = o.id) :
    (w.modOp id f).op? id = some (f o) := by
  have hid : ∀ o : LOp, decide ((if o.id = id then f o else o).id = id) = decide (o.id = id) := by
    intro o
    split
    · rw [hf]
    · rfl
  have hcomp : ((fun o : LOp => decide (o.id = id)) ∘ fun o => if o.id = id then f o else o) = fun o => decide (o.id = id) :=
    funext hid
  have ho := Wave.op?_id h
  rw [Wave.op?] at h
  rw [Wave.modOp, Wave.op?, List.find?_map, hcomp, h, Option.map_some, if_pos ho]

/-! ### The write completion time returns -/

section
variable {s : State} {a : Acc} {v k : Nat} {w : Wave} (ha : s.mem.acc? a.id = some a) (ho : a.owner = .wave k)
  (hw : s.waveAt? k = some w)
include ha ho hw

theorem wctReturn_pending (hst : a.stage = .pending v) : Steps (.wctReturn a.id) s fun t =>
    (t.waveAt? k = some { w with mwct := BitVec.ofNat 64 (max w.mwct.toNat v) } ∧ t.mem.bytes = s.mem.bytes) ∧
      ∃ b ∈ t.mem.accs, b = { a with stage := .returned v } := by
  refine ⟨(s.modMem fun m => m.modAcc a.id fun b => { b with stage := .returned v }).modWave k fun w => w.adopt v, ?_,
    ⟨?_, by simp⟩, _, ?_, rfl⟩
  · change execWctReturn a.id s = _
    simp only [execWctReturn, ha, hst, ho]
  · rw [State.waveAt?_modWave, if_pos rfl, State.waveAt?_modMem, hw]
    rfl
  · rw [State.modWave_mem]
    exact List.mem_map.mpr ⟨a, List.mem_of_find?_eq_some ha, if_pos rfl⟩

theorem wctReturn_performed (hst : a.stage = .performed v) : Steps (.wctReturn a.id) s fun t =>
    (t.waveAt? k = some { w with mwct := BitVec.ofNat 64 (max w.mwct.toNat v) } ∧ t.mem.bytes = s.mem.bytes) ∧
      ∀ b ∈ t.mem.accs, b.id ≠ a.id := by
  refine ⟨(s.modMem fun m => m.dropAcc a.id).modWave k fun w => w.adopt v, ?_, ⟨?_, by simp⟩, fun b hb => ?_⟩
  · change execWctReturn a.id s = _
    simp only [execWctReturn, ha, hst, ho]
  · rw [State.waveAt?_modWave, if_pos rfl, State.waveAt?_modMem, hw]
    rfl
  · rw [State.modWave_mem] at hb
    exact of_decide_eq_true (List.mem_filter.mp hb).2

end

/-- Settles O45: at the partition and at the home by what the access's point does with it, and at its write completion time by
`State.makeVisible` of that one access. -/
theorem accessSteps : Obligations.AccessSteps := by
  refine ⟨fun s a ha hst hf => ⟨fun k g off x ho ht hg hstale hbad hc hi => ⟨?_, ?_⟩, fun pa ht hs => ⟨?_, ?_, ?_⟩⟩,
    fun s a pa ha ht => ⟨fun hv hd => ⟨fun hk => ?_, fun op hk => ?_, fun op k w o hk ho hw hop => ?_⟩,
      fun v k w ho hw => ⟨wctReturn_pending ha ho hw, wctReturn_performed ha ho hw⟩⟩⟩
  · exact homeAccess_scratch_load ha hst hf ho ht hg hstale hc hi hbad
  · exact homeAccess_scratch_store ha hst hf ho ht hg hstale hc hi
  · exact homeAccess_tagMiss ha hst hf ht hs
  · exact homeAccess_accepts ha hst hf ht hs
  · exact homeAccess_loads ha hst hf ht hs
  · have hwrote := (s.wrote_putDev pa a.data a.whole (a.wct?.getD s.chrono)).afterVisible a
    rw [← State.makeVisible_store ht hk] at hwrote
    exact ⟨_, exec_storeVisible_alone ha hv hd hk, hwrote.bytes, hwrote.waves, hwrote.scratch, hwrote.queues, hwrote.launches⟩
  · have hwrote := (s.wrote_putDev pa (bytesOf a.size
      (atomNew op (8 * a.size) (Memory.num s.mem.bytes pa a.size) (ofBytes a.data))) false (a.wct?.getD s.chrono)).afterVisible a
    rw [← State.makeVisible_red ht hk] at hwrote
    have hk' : a.kind ≠ .store := by rcases hk with hk | hk <;> simp [hk]
    exact ⟨_, exec_atomicPerform_alone ha hv hd hk', hwrote.bytes, hwrote.waves, hwrote.scratch⟩
  · have hwrote := s.wrote_atomic op pa a.size (ofBytes a.data) (a.wct?.getD s.chrono)
    refine ⟨_, exec_atomicPerform_alone ha hv hd (by simp [hk]), fun hwf b => ?_,
      w.modOp a.op fun o => o.give a.lane 0 (Memory.read s.mem.bytes pa a.size) true, ?_, Wave.op?_modOp hop fun _ => rfl⟩
    · rw [State.makeVisible_atom ht hk ho, ← hwrote.bytes hwf]
      unfold State.afterVisible
      split <;> simp [State.modMem]
    · rw [State.makeVisible_atom ht hk ho, State.waveAt?, State.afterVisible_waves, ← State.waveAt?, State.waveAt?_modWave,
        if_pos rfl, State.waveAt?, hwrote.waves, ← State.waveAt?, hw]
      rfl

end Sys2Proof.Machine
end

section
/-! ## Requests of other devices, replies and timeouts (O49) -/

namespace Sys2Proof.Machine

/-! ### The requests that are being performed -/

/-- The requests of other devices that are being performed here, each with its key. -/
def MemSys.peerReqs (m : MemSys) : List (Nat × PeerReq) := m.peers.map fun p => (p.key, p.req)

/-- What a request has come to so far is no part of it. -/
theorem MemSys.peerReqs_of_map {m m' : MemSys} {f : PeerIn → PeerIn} (h : m'.peers = m.peers.map f)
    (hf : ∀ p, ((f p).key, (f p).req) = (p.key, p.req)) : m'.peerReqs = m.peerReqs := by
  rw [MemSys.peerReqs, h, List.map_map]
  exact List.map_congr_left fun p _ => hf p

@[simp] theorem MemSys.modAcc_peerReqs (m : MemSys) (id : Nat) (f : Acc → Acc) : (m.modAcc id f).peerReqs = m.peerReqs := rfl

@[simp] theorem MemSys.dropAcc_peerReqs (m : MemSys) (id : Nat) : (m.dropAcc id).peerReqs = m.peerReqs := rfl

theorem MemSys.peerReqs_lines (m : MemSys) (l : Table LineSt) : ({ m with lines := l } : MemSys).peerReqs = m.peerReqs := rfl

@[simp] theorem State.deliver_peerReqs (s : State) (a : Acc) (bs : List Byte) :
    (s.deliver a bs).mem.peerReqs = s.mem.peerReqs := by
  unfold State.deliver
  dsimp only
  split
  · simp [State.modMem, MemSys.dropAcc, MemSys.peerReqs]
  · rfl
  · exact MemSys.peerReqs_of_map rfl fun p => by split <;> rfl
  · rfl

@[simp] theorem State.failAcc_peerReqs (s : State) (a : Acc) (c : Cause) (f : Failure) (addr : DWord) :
    (s.failAcc a c f addr).mem.peerReqs = s.mem.peerReqs := by
  unfold State.failAcc
  dsimp only
  split
  · rw [State.modWave_mem]
    rfl
  · split
    · split
      · rfl
      · rw [State.modWave_mem]
        rfl
    · rfl
  · exact MemSys.peerReqs_of_map rfl fun p => by split <;> rfl
  · rfl

@[simp] theorem MemSys.evict_peerReqs (m : MemSys) (key : Nat) : (m.evict key).peerReqs = m.peerReqs := by
  unfold MemSys.evict MemSys.setHbmPoison
  dsimp only
  (repeat' split) <;> rfl

@[simp] theorem MemSys.llcTouch_peerReqs (m : MemSys) (key cls ten : Nat) :
    (m.llcTouch key cls ten).peerReqs = m.peerReqs := by
  simp only [MemSys.llcTouch]
  split
  · rfl
  · split
    · rfl
    · split
      · rfl
      · exact MemSys.evict_peerReqs ..

@[simp] theorem MemSys.fillReplica_peerReqs (m : MemSys) (die line ten : Nat) (x : Leased) :
    (m.fillReplica die line ten x).peerReqs = m.peerReqs := by
  simp only [MemSys.fillReplica]
  split
  · exact MemSys.llcTouch_peerReqs ..
  · exact MemSys.llcTouch_peerReqs ..

@[simp] theorem MemSys.put_peerReqs (m : MemSys) (pa : Nat) (bs : List Byte) (whole : Bool) :
    (m.put pa bs whole).peerReqs = m.peerReqs := by
  unfold MemSys.put MemSys.setHbmPoison
  dsimp only
  (repeat' split) <;> rfl

@[simp] theorem State.putDev_peerReqs (s : State) (pa : Nat) (bs : List Byte) (whole : Bool) (n : Nat) :
    (s.putDev pa bs whole n).mem.peerReqs = s.mem.peerReqs := by
  simp [State.putDev, State.modMem]

@[simp] theorem State.makeVisible_peerReqs (s : State) (a : Acc) : (s.makeVisible a).mem.peerReqs = s.mem.peerReqs := by
  have hnote : ∀ (m : MemSys) (id : Nat) (x : Nat × List Byte),
      ({ m with peers := m.peers.map fun p => if p.key = id then { p with old := p.old ++ [x] } else p } : MemSys).peerReqs =
        m.peerReqs := fun m id x => MemSys.peerReqs_of_map rfl fun p => by split <;> rfl
  unfold State.makeVisible
  dsimp only
  (repeat' split) <;> simp only [State.modMem, State.modWave_mem, MemSys.modAcc_peerReqs, MemSys.dropAcc_peerReqs,
    State.putDev_peerReqs, hnote]

@[simp] theorem State.settle_peerReqs (s : State) : s.settle.mem.peerReqs = s.mem.peerReqs :=
  State.settle_of_makeVisible (fun s => s.mem.peerReqs) State.makeVisible_peerReqs s

@[simp] theorem State.acceptBatch_peerReqs (s : State) (a : Acc) (line : Nat) :
    (s.acceptBatch a line).mem.peerReqs = s.mem.peerReqs := by
  unfold State.acceptBatch
  dsimp only
  split
  · rfl
  · exact MemSys.llcTouch_peerReqs ..

/-- A load that is answered, or fails of poison, is over. -/
theorem State.answer_peerReqs (s : State) (lost : Bool) (a : Acc) (pa : Nat) (bs : List Byte) :
    (if lost = true then s.failPoison a pa else s.deliver a bs).mem.peerReqs = s.mem.peerReqs := by
  split
  · exact State.failAcc_peerReqs ..
  · exact State.deliver_peerReqs ..

@[simp] theorem State.serveLoad_peerReqs (s : State) (a : Acc) (pa line : Nat) :
    (s.serveLoad a pa line).mem.peerReqs = s.mem.peerReqs := by
  have htouch : (if inWindow s.house pa = true then s else s.modMem fun m => m.llcTouch line a.cls a.ten).mem.peerReqs =
      s.mem.peerReqs := by
    split
    · rfl
    · exact MemSys.llcTouch_peerReqs ..
  unfold State.serveLoad
  dsimp only
  rw [State.answer_peerReqs]
  split
  · exact htouch
  · rw [← htouch]
    generalize (if inWindow s.house pa = true then s else s.modMem fun m => m.llcTouch line a.cls a.ten) = s1
    (repeat' split) <;> simp only [State.modMem, State.modCore, MemSys.fillReplica_peerReqs, MemSys.peerReqs_lines]

@[simp] theorem State.loadDev_peerReqs (s : State) (a : Acc) (pa line : Nat) :
    (s.loadDev a pa line).mem.peerReqs = s.mem.peerReqs := by
  unfold State.loadDev
  split
  · rfl
  · split
    · dsimp only
      rw [State.answer_peerReqs]
      (repeat' split) <;> simp [State.modMem]
    · exact State.serveLoad_peerReqs ..

@[simp] theorem State.loadWindow_peerReqs (s : State) (a : Acc) (pa : Nat) :
    (s.loadWindow a pa).mem.peerReqs = s.mem.peerReqs := by
  unfold State.loadWindow
  split
  · exact s.loadDev_peerReqs a pa (lineOf pa)
  · split <;> rfl

@[simp] theorem State.scratchAcc_peerReqs (s : State) (a : Acc) (g off : Nat) :
    (s.scratchAcc a g off).mem.peerReqs = s.mem.peerReqs := by
  unfold State.scratchAcc
  dsimp only
  split
  · (repeat' split) <;> simp [State.modMem]
  · rfl

/-- An access is performed for the requests that there are. -/
@[simp] theorem State.perform_peerReqs (s : State) (id : Nat) : (s.perform id).mem.peerReqs = s.mem.peerReqs := by
  unfold State.perform
  dsimp only
  (repeat' split) <;> simp [State.modMem]

/-! ### The turn of a request -/

theorem exec_remoteRequest (r : PeerReq) (s : State) :
    exec (.remoteRequest r) s = .next (if s.brings r.plane = true then s.orderPeer r else s) := rfl

theorem exec_mcredApply (r : PeerReq) (s : State) :
    exec (.mcredApply r) s = .next (if s.brings r.plane = true then s.acceptPeer r else s) := rfl

/-- With none kept, a request whose turn it is, or that begins its order anew, is the only one accepted. -/
theorem State.orderPeer_of_turn {s : State} {r : PeerReq} (he : s.links.early = [])
    (ht : r.pseq = s.links.expected (orderKey r) ∨ r.pseq = 0) :
    s.orderPeer r = (s.expectNext (orderKey r) (r.pseq + 1)).acceptPeer r := by
  unfold State.orderPeer
  dsimp only
  split
  · rw [he]
    rfl
  · next hn =>
    have hsame : (s.modLinks fun l =>
        { l with early := l.early.filter fun x => orderKey x != orderKey r || decide (s.gtime < x.deadline) }) = s := by
      simp only [State.modLinks, he, List.filter_nil]
      rw [← he]
    rw [if_pos (ht.resolve_left hn), hsame, he]
    rfl

theorem State.orderPeer_early {s : State} {r : PeerReq} (hn : r.pseq ≠ s.links.expected (orderKey r)) (h0 : r.pseq ≠ 0) :
    s.orderPeer r = s.modLinks fun l => { l with early := l.early ++ [r] } := by
  unfold State.orderPeer
  dsimp only
  rw [if_neg hn, if_neg h0]

theorem State.acceptPeer_late {s : State} {r : PeerReq} (h : r.deadline ≤ s.gtime) : s.acceptPeer r = s := if_pos h

theorem State.acceptPeer_refused {s : State} {r : PeerReq} (h : s.gtime < r.deadline) (hw : s.windowCheck r = none) :
    s.acceptPeer r = s.reply r.id r.src .refused := by
  simp only [State.acceptPeer, if_neg (not_le.mpr h), hw]

theorem foldl_perform_peerReqs (l : List Acc) (s : State) :
    (l.foldl (fun s a => s.perform a.id) s).mem.peerReqs = s.mem.peerReqs := by
  induction l generalizing s with
  | nil => rfl
  | cons a l ih => rw [List.foldl_cons, ih, State.perform_peerReqs]

theorem State.acceptPeer_performs {s : State} {r : PeerReq} {x : Nat × Nat} (h : s.gtime < r.deadline)
    (hw : s.windowCheck r = some x) : ∃ p ∈ (s.acceptPeer r).mem.peers, p.key = s.nextId ∧ p.req = r := by
  have hreqs : (s.acceptPeer r).mem.peerReqs = s.mem.peerReqs ++ [(s.nextId, r)] := by
    simp only [State.acceptPeer, if_neg (not_le.mpr h), hw, foldl_perform_peerReqs]
    exact List.map_append
  have hmem : (s.nextId, r) ∈ (s.acceptPeer r).mem.peerReqs := by
    rw [hreqs]
    exact List.mem_append_right _ List.mem_cons_self
  obtain ⟨p, hp, heq⟩ := List.mem_map.mp hmem
  exact ⟨p, hp, congrArg Prod.fst heq, congrArg Prod.snd heq⟩

/-- What a request is accepted by: the time, the window, and the number that is free. -/
structure State.AcceptsAs (s u : State) (r : PeerReq) : Prop where
  gtime : u.gtime = s.gtime
  window : u.windowCheck r = s.windowCheck r
  nextId : u.nextId = s.nextId

/-- A request in its turn, or a value that the switches have combined, is accepted. -/
theorem exec_accepts {s u : State} {r : PeerReq} {i : Instr} (hb : s.brings r.plane = true)
    (h : i = .mcredApply r ∧ u = s ∨ i = .remoteRequest r ∧ u = s.expectNext (orderKey r) (r.pseq + 1) ∧ s.links.early = [] ∧
      (r.pseq = s.links.expected (orderKey r) ∨ r.pseq = 0)) :
    exec i s = .next (u.acceptPeer r) ∧ s.AcceptsAs u r := by
  rcases h with ⟨rfl, rfl⟩ | ⟨rfl, rfl, he, ht⟩
  · exact ⟨by rw [exec_mcredApply, if_pos hb], rfl, rfl, rfl⟩
  · exact ⟨by rw [exec_remoteRequest, if_pos hb, State.orderPeer_of_turn he ht], rfl, rfl, rfl⟩

/-! ### The answer to a request -/

section
variable {s : State} {p : PeerIn} (hp : (s.mem.peers.find? fun x => x.key == p.key) = some p)
include hp

theorem remoteAck_waits (h : ∃ a ∈ s.mem.accs, a.owner = .peer p.key ∧ ∀ v, a.stage ≠ .performed v) :
    exec (.remoteAck p.key) s = .next s := by
  obtain ⟨a, ha, ho, hst⟩ := h
  change execRemoteAck p.key s = _
  unfold execRemoteAck
  rw [show (s.mem.peers.find? fun x => decide (x.key = p.key)) = some p from hp]
  dsimp only
  split
  · next hall =>
    have hdone := List.all_eq_true.mp hall a (List.mem_filter.mpr ⟨ha, by simp [ho]⟩)
    split at hdone
    · next v hv => exact absurd hv (hst v)
    · cases hdone
  · rfl

theorem exec_remoteAck (h : ∀ a ∈ s.mem.accs, a.owner = .peer p.key → ∃ v, a.stage = .performed v) :
    exec (.remoteAck p.key) s = .next ((s.modMem fun m => { m with
      peers := m.peers.filter fun q => q.key != p.key
      accs := m.accs.filter fun a => a.owner != .peer p.key }).reply p.req.id p.req.src p.reply) := by
  change execRemoteAck p.key s = _
  unfold execRemoteAck
  rw [show (s.mem.peers.find? fun x => decide (x.key = p.key)) = some p from hp]
  dsimp only
  split
  · rfl
  · next hall =>
    refine absurd (List.all_eq_true.mpr fun a ha => ?_) hall
    obtain ⟨hm, ho⟩ := List.mem_filter.mp ha
    obtain ⟨v, hv⟩ := h a hm (eq_of_beq ho)
    rw [hv]

end

/-- A reply leaves on the first plane that carries traffic. -/
theorem State.reply_of_find {s : State} {id dest pl : Nat} {body : ReplyBody}
    (h : (((List.range 72).map fun i => (Config.hash (dest * 2 ^ 64 + id) + i) % 72).find? fun x =>
      (s.links.port x).st == .up && (s.links.port x).tx.stopped.isNone) = some pl) :
    (s.reply id dest body).outbox = s.outbox ++ [.flit pl (s.flitOf (s.links.port pl).tx (.reply id dest body))] := by
  simp only [State.reply, h]
  rfl

theorem remoteAck_replies {s : State} {p : PeerIn} (hp : (s.mem.peers.find? fun x => x.key == p.key) = some p)
    (h : ∀ a ∈ s.mem.accs, a.owner = .peer p.key → ∃ v, a.stage = .performed v) : Steps (.remoteAck p.key) s fun t =>
      (∀ x ∈ t.mem.peers, x.key ≠ p.key) ∧ (∀ a ∈ t.mem.accs, ¬ a.owner = .peer p.key) ∧
      ∀ pl, (((List.range 72).map fun i => (Config.hash (p.req.src * 2 ^ 64 + p.req.id) + i) % 72).find? fun x =>
          (s.links.port x).st == .up && (s.links.port x).tx.stopped.isNone) = some pl →
        t.outbox = s.outbox ++ [.flit pl (s.flitOf (s.links.port pl).tx (.reply p.req.id p.req.src p.reply))] := by
  refine ⟨_, exec_remoteAck hp h, fun x hx => ?_, fun a ha => ?_, fun pl hpl => State.reply_of_find hpl⟩
  · rw [State.reply_mem] at hx
    simpa using (List.mem_filter.mp hx).2
  · rw [State.reply_mem] at ha
    simpa using (List.mem_filter.mp ha).2

/-! ### Reply slots -/

/-- A slot that has heard a device is else as it was. -/
theorem getD_hearSlots (peer : Nat) (now : Int) (t : Table RSlot) (j : Nat) :
    ∃ h, (hearSlots peer now t).getD j RSlot.init = { t.getD j RSlot.init with heard := h } := by
  unfold hearSlots Table.getD
  rw [Table.get?_mapVals]
  cases t.get? j with
  | none => exact ⟨_, rfl⟩
  | some x =>
    rw [Option.map_some]
    dsimp only
    split
    · exact ⟨_, rfl⟩
    · exact ⟨_, rfl⟩

theorem State.waveAt?_hear (s : State) (peer k : Nat) :
    (s.hear peer).waveAt? k = (s.waveAt? k).map fun w => { w with slots := hearSlots peer s.gtime w.slots } :=
  Table.get?_mapVals s.waves (fun _ w => { w with slots := hearSlots peer s.gtime w.slots }) k

theorem State.quadAt_hear (s : State) (peer q : Nat) :
    ((s.hear peer).quadAt q).slots = hearSlots peer s.gtime (s.quadAt q).slots := by
  have h : (s.hear peer).quads.get? q = (s.quads.get? q).map fun x => { x with slots := hearSlots peer s.gtime x.slots } :=
    Table.get?_mapVals s.quads (fun _ x => { x with slots := hearSlots peer s.gtime x.slots }) q
  unfold State.quadAt Table.getD
  rw [h]
  cases s.quads.get? q <;> rfl

/-- Hearing a device leaves what a slot waits for as it was. -/
theorem State.rslot_hear (s : State) (peer : Nat) (r : SlotRef) :
    ∃ h, (s.hear peer).rslot r = { s.rslot r with heard := h } := by
  unfold State.rslot
  split
  · rw [State.quadAt_hear]
    exact getD_hearSlots ..
  · rw [State.waveAt?_hear]
    cases s.waveAt? r.owner with
    | none => exact ⟨_, rfl⟩
    | some w => exact getD_hearSlots ..

theorem State.awaits_hear (s : State) (peer : Nat) (r : SlotRef) (seq : BitVec 8) :
    (s.hear peer).awaits r seq = s.awaits r seq := by
  obtain ⟨h, hr⟩ := s.rslot_hear peer r
  unfold State.awaits
  rw [hr]
  rfl

theorem State.not_awaits {s : State} {r : SlotRef} {seq : BitVec 8}
    (h : (s.rslot r).busy = none ∨ (s.rslot r).seq ≠ seq ∨ (s.rslot r).gdeadline ≤ s.gtime) : s.awaits r seq = false := by
  unfold State.awaits
  rcases h with h | h | h
  · simp [h]
  · simp [h]
  · simp [not_lt.mpr h]

theorem State.awaits_of {s : State} {r : SlotRef} (hb : (s.rslot r).busy ≠ none) (ha : (s.rslot r).answered = none)
    (hd : s.gtime < (s.rslot r).gdeadline) : s.awaits r (s.rslot r).seq = true := by
  simp [State.awaits, Option.isSome_iff_ne_none.mpr hb, ha, hd]

theorem State.replyOwes_hear (s : State) (peer : Nat) (body : ReplyBody) (l : List Acc) :
    (s.hear peer).replyOwes body l = s.replyOwes body l := by
  have hop : ∀ k id, (((s.hear peer).waveAt? k).bind fun w => w.op? id) = (s.waveAt? k).bind fun w => w.op? id := by
    intro k id
    rw [State.waveAt?_hear]
    cases s.waveAt? k <;> rfl
  unfold State.replyOwes
  simp only [hop]

/-- The accesses that hold a wave's slot are the wave's. -/
theorem State.owner_of_slotAccs {s : State} {r : SlotRef} {a : Acc} (ht : r.tce = false) (ha : a ∈ s.slotAccs r) :
    a.owner = .wave r.owner := by
  obtain ⟨-, h⟩ := List.mem_filter.mp ha
  cases ho : a.owner <;> simp [ho, Owner.holder, ht] at h
  rw [h.2]

section
variable {s : State} {r : SlotRef} {w : Wave} (ht : r.tce = false)
include ht

theorem State.rslot_of_wave (hw : s.waveAt? r.owner = some w) : s.rslot r = w.slots.getD r.slot RSlot.init := by
  simp only [State.rslot, ht, hw, Bool.false_eq_true, if_false]
  rfl

/-- A wave's slots are where its waves are. -/
theorem State.rslot_congr {t : State} (h : t.waves = s.waves) : t.rslot r = s.rslot r := by
  simp only [State.rslot, ht, State.waveAt?, h, Bool.false_eq_true, if_false]

theorem State.waveAt?_setSlot (x : RSlot) (hw : s.waveAt? r.owner = some w) :
    (s.setSlot r x).waveAt? r.owner = some { w with slots := w.slots.set r.slot x } := by
  simp only [State.setSlot, ht, Bool.false_eq_true, if_false, State.waveAt?_modWave, if_true, hw, Option.map_some]

theorem State.rslot_setSlot (x : RSlot) (hw : s.waveAt? r.owner = some w) : (s.setSlot r x).rslot r = x := by
  rw [State.rslot_of_wave ht (State.waveAt?_setSlot ht x hw), Table.getD_set, if_pos rfl]

/-- A slot that is free keeps its number. -/
theorem State.rslot_freeReply (hw : s.waveAt? r.owner = some w) : (s.freeReply r).rslot r = { s.rslot r with busy := none } :=
  State.rslot_setSlot ht _ hw

/-- A slot whose answer has been accepted is free, or will be once what it answered is written (R295). -/
theorem State.rslot_answered (ans : Nat × Mask) (hw : s.waveAt? r.owner = some w) :
    let u := (s.setSlot r { s.rslot r with answered := some ans }).modWave r.owner Wave.freeLanded
    (u.rslot r).busy = none ∨ (u.rslot r).answered = some ans := by
  intro u
  have hu : u.waveAt? r.owner =
      some ({ w with slots := w.slots.set r.slot { s.rslot r with answered := some ans } } : Wave).freeLanded := by
    rw [State.waveAt?_modWave, if_pos rfl, State.waveAt?_setSlot ht _ hw, Option.map_some]
  rw [State.rslot_of_wave ht hu]
  simp only [Wave.freeLanded, Table.getD, Table.get?_mapVals, Table.get?_set, if_true, Option.map_some]
  split
  · exact .inl rfl
  · exact .inr rfl

end

/-! ### Which waves there are -/

@[simp] theorem State.waveAt?_deliver_isSome (s : State) (a : Acc) (bs : List Byte) (k : Nat) :
    ((s.deliver a bs).waveAt? k).isSome = (s.waveAt? k).isSome := by
  unfold State.deliver State.modCopy
  dsimp only
  split <;> simp

@[simp] theorem State.waveAt?_failAcc_isSome (s : State) (a : Acc) (c : Cause) (f : Failure) (addr : DWord) (k : Nat) :
    ((s.failAcc a c f addr).waveAt? k).isSome = (s.waveAt? k).isSome := by
  unfold State.failAcc State.modCopy
  dsimp only
  split
  · simp
  · split
    · split <;> simp
    · simp
  · simp
  · simp

@[simp] theorem State.waveAt?_takeReply_isSome (s : State) (body : ReplyBody) (a : Acc) (k : Nat) :
    ((s.takeReply body a).waveAt? k).isSome = (s.waveAt? k).isSome := by
  cases body with
  | data lanes =>
    dsimp only [State.takeReply]
    split <;> simp
  | ack => simp [State.takeReply]
  | refused => simp [State.takeReply]
  | poison => simp [State.takeReply]
  | unsupported => simp [State.takeReply]

theorem foldl_waveAt?_isSome {α : Type} {f : State → α → State} {k : Nat}
    (h : ∀ s a, ((f s a).waveAt? k).isSome = (s.waveAt? k).isSome) (l : List α) (s : State) :
    ((l.foldl f s).waveAt? k).isSome = (s.waveAt? k).isSome := by
  induction l generalizing s with
  | nil => rfl
  | cons a l ih => rw [List.foldl_cons, ih, h]

theorem foldl_waves {α : Type} {f : State → α → State} (h : ∀ s a, (f s a).waves = s.waves) (l : List α) (s : State) :
    (l.foldl f s).waves = s.waves := by
  induction l generalizing s with
  | nil => rfl
  | cons a l ih => rw [List.foldl_cons, ih, h]

@[simp] theorem State.pushHost_waves (s : State) (o : Owner) : (s.pushHost o).waves = s.waves := by
  refine foldl_waves (fun s a => ?_) _ _
  split
  · split <;> rfl
  · rfl

theorem State.afterReply_of_wave {s : State} {a : Acc} {k : Nat} (ho : a.owner = .wave k) :
    s.afterReply a = (s.pushHost (.wave k)).wakeWave k := by
  simp only [State.afterReply, ho]

/-! ### A slot is answered -/

/-- A slot after a reply: free where the reply owes no register, and else free or answered. -/
def State.Answered (u : State) (r : SlotRef) (owes : Option (Nat × Mask)) : Prop :=
  (owes = none → (u.rslot r).busy = none) ∧
    ∀ ans, owes = some ans → (u.rslot r).busy = none ∨ (u.rslot r).answered = some ans

theorem State.Answered.pushHost {u : State} {r : SlotRef} {owes : Option (Nat × Mask)} (h : u.Answered r owes)
    (ht : r.tce = false) (o : Owner) : (u.pushHost o).Answered r owes := by
  unfold State.Answered
  rw [State.rslot_congr ht (u.pushHost_waves o)]
  exact h

theorem State.closeSlot_answers {s : State} {r : SlotRef} {l : List Acc} (body : ReplyBody) (ht : r.tce = false)
    (hw : (s.waveAt? r.owner).isSome = true) (hl : l ≠ []) (ho : ∀ a ∈ l, a.owner = .wave r.owner) :
    ∃ u : State, s.closeSlot r body l = u.wakeWave r.owner ∧ u.Answered r (s.replyOwes body l) := by
  obtain ⟨a, l', rfl⟩ := List.exists_cons_of_ne_nil hl
  obtain ⟨w, hw'⟩ := Option.isSome_iff_exists.mp ((foldl_waveAt?_isSome (k := r.owner)
    (fun s a => s.waveAt?_takeReply_isSome body a r.owner) (a :: l') s).trans hw)
  simp only [State.closeSlot, State.afterReply_of_wave (ho a List.mem_cons_self)]
  refine ⟨_, rfl, State.Answered.pushHost ?_ ht _⟩
  cases s.replyOwes body (a :: l') with
  | none => exact ⟨fun _ => by rw [State.rslot_freeReply ht hw'], fun _ h => nomatch h⟩
  | some ans =>
    refine ⟨fun h => (nomatch h), fun ans' h => ?_⟩
    cases h
    exact State.rslot_answered ht ans hw'

/-- A request that has failed leaves its slot free, with the number it had. -/
theorem State.failSlot_frees {s : State} {r : SlotRef} {l : List Acc} (ht : r.tce = false)
    (hw : (s.waveAt? r.owner).isSome = true) (hl : l ≠ []) (ho : ∀ a ∈ l, a.owner = .wave r.owner) :
    ∃ u : State, s.failSlot r l = u.wakeWave r.owner ∧ u.rslot r = { s.rslot r with busy := none } := by
  obtain ⟨a, l', rfl⟩ := List.exists_cons_of_ne_nil hl
  obtain ⟨w, hw'⟩ := Option.isSome_iff_exists.mp hw
  refine ⟨(s.freeReply r).pushHost (.wave r.owner), ?_, ?_⟩
  · simp only [State.failSlot, State.afterReply_of_wave (ho a List.mem_cons_self)]
  · rw [State.rslot_congr ht (State.pushHost_waves ..), State.rslot_freeReply ht hw']

theorem exec_remoteReply_dropped {s : State} {r : PeerReply} (hb : s.brings r.plane = false) :
    exec (.remoteReply r) s = .next s := by
  change execRemoteReply r s = _
  simp [execRemoteReply, hb]

/-- A reply that comes is heard, and closes the slot that awaits it. -/
theorem exec_remoteReply {s : State} {r : PeerReply} (hb : s.brings r.plane = true) :
    exec (.remoteReply r) s = .next (if s.awaits r.slot r.seq = true
      then (s.hear r.peer).closeSlot r.slot r.body (s.slotAccs r.slot) else s.hear r.peer) := by
  change execRemoteReply r s = _
  simp only [execRemoteReply, hb, Bool.not_true, Bool.false_eq_true, if_false, State.awaits_hear]
  rfl

theorem remoteReply_discarded {s : State} {r : PeerReply} (hb : s.brings r.plane = true)
    (h : (s.rslot r.slot).busy = none ∨ (s.rslot r.slot).seq ≠ r.seq ∨ (s.rslot r.slot).gdeadline ≤ s.gtime) :
    (s.hear r.peer).awaits r.slot r.seq = false ∧ exec (.remoteReply r) s = .next (s.hear r.peer) := by
  have ha := State.not_awaits h
  refine ⟨(s.awaits_hear ..).trans ha, ?_⟩
  rw [exec_remoteReply hb, ha]
  rfl

theorem exec_mcredAck_dropped {s : State} {pl : Nat} {slot : SlotRef} {seq : BitVec 8} (failed : Option (Nat × Nat))
    (h : s.brings pl = false ∨ s.awaits slot seq = false) : exec (.mcredAck ⟨pl, slot⟩ seq failed) s = .next s := by
  change execMcredAck ⟨pl, slot⟩ seq failed s = _
  rcases h with h | h <;> simp [execMcredAck, h]

/-- What one acknowledgement of the switches does to an access that it covers. -/
def State.acked (failed : Option (Nat × Nat)) (s : State) (a : Acc) : State :=
  match failed with
  | none => s.modMem fun m => m.dropAcc a.id
  | some (peer, code) => s.failAcc a .fabric ⟨code, peer, false, 0, 0⟩ 0

theorem exec_mcredAck {s : State} {pl : Nat} {slot : SlotRef} {seq : BitVec 8} (failed : Option (Nat × Nat))
    (hb : s.brings pl = true) (ha : s.awaits slot seq = true) : exec (.mcredAck ⟨pl, slot⟩ seq failed) s =
      .next (((s.slotAccs slot).foldl (State.acked failed) s).failSlot slot (s.slotAccs slot)) := by
  change execMcredAck ⟨pl, slot⟩ seq failed s = _
  simp only [execMcredAck, hb, ha, Bool.not_true, Bool.or_self, Bool.false_eq_true, if_false]
  rfl

theorem State.waveAt?_acked_isSome (failed : Option (Nat × Nat)) (k : Nat) (s : State) (a : Acc) :
    ((s.acked failed a).waveAt? k).isSome = (s.waveAt? k).isSome := by
  unfold State.acked
  split <;> simp

/-- A request to another device is late at its deadline in group time. -/
theorem exec_requestTimeout {s : State} {slot : SlotRef} (hb : (s.rslot slot).busy ≠ none)
    (ha : (s.rslot slot).answered = none) (hfar : ∀ a ∈ s.slotAccs slot, ∃ p o n, a.tgt = .remote p o n) :
    exec (.requestTimeout slot) s = .next (if (s.rslot slot).gdeadline ≤ s.gtime
      then ((s.failAll (s.slotAccs slot) (s.lateCode (s.rslot slot) (s.slotAccs slot))).setSlot slot
        { s.rslot slot with seq := (s.rslot slot).seq + 1 }).failSlot slot (s.slotAccs slot)
      else s) := by
  change execRequestTimeout slot s = _
  unfold execRequestTimeout
  obtain ⟨n, hn⟩ := Option.ne_none_iff_exists'.mp hb
  dsimp only
  generalize hany : (s.slotAccs slot).any _ = host
  cases host with
  | true =>
    obtain ⟨a, hm, hhost⟩ := List.any_eq_true.mp hany
    obtain ⟨p, o, n, htgt⟩ := hfar a hm
    rw [htgt] at hhost
    cases hhost
  | false =>
    by_cases hd : (s.rslot slot).gdeadline ≤ s.gtime <;> simp [hn, ha, hd]

section
variable {s : State} {slot : SlotRef} {w : Wave} (ht : slot.tce = false) (hw : s.waveAt? slot.owner = some w)
  (hb : (s.rslot slot).busy ≠ none) (ha : (s.rslot slot).answered = none) (hl : s.slotAccs slot ≠ [])
include ht hw hb ha hl

theorem remoteReply_closes {r : PeerReply} (hslot : r.slot = slot) (hseq : r.seq = (s.rslot slot).seq)
    (hbr : s.brings r.plane = true) (hd : s.gtime < (s.rslot slot).gdeadline) : Steps (.remoteReply r) s fun t =>
      ∃ u : State, t = u.wakeWave slot.owner ∧ u.Answered slot (s.replyOwes r.body (s.slotAccs slot)) := by
  subst hslot
  have hw' : ((s.hear r.peer).waveAt? r.slot.owner).isSome = true := by rw [State.waveAt?_hear, hw]; rfl
  obtain ⟨u, hu, hans⟩ := State.closeSlot_answers r.body ht hw' hl fun a ha => State.owner_of_slotAccs ht ha
  rw [State.replyOwes_hear] at hans
  refine ⟨_, ?_, u, hu, hans⟩
  rw [exec_remoteReply hbr, hseq, State.awaits_of hb ha hd]
  rfl

theorem mcredAck_frees {pl : Nat} (failed : Option (Nat × Nat)) (hbr : s.brings pl = true)
    (hd : s.gtime < (s.rslot slot).gdeadline) : Steps (.mcredAck ⟨pl, slot⟩ (s.rslot slot).seq failed) s fun t =>
      ∃ u : State, t = u.wakeWave slot.owner ∧ (u.rslot slot).busy = none := by
  have hw' : (((s.slotAccs slot).foldl (State.acked failed) s).waveAt? slot.owner).isSome = true := by
    rw [foldl_waveAt?_isSome (State.waveAt?_acked_isSome failed slot.owner), hw]
    rfl
  obtain ⟨u, hu, hfree⟩ := State.failSlot_frees ht hw' hl fun a ha => State.owner_of_slotAccs ht ha
  exact ⟨_, exec_mcredAck failed hbr (State.awaits_of hb ha hd), u, hu, by rw [hfree]⟩

theorem requestTimeout_fails (hfar : ∀ a ∈ s.slotAccs slot, ∃ p o n, a.tgt = .remote p o n)
    (hd : (s.rslot slot).gdeadline ≤ s.gtime) : Steps (.requestTimeout slot) s fun t =>
      ∃ u : State, t = u.wakeWave slot.owner ∧ (u.rslot slot).busy = none ∧ (u.rslot slot).seq = (s.rslot slot).seq + 1 := by
  have hfailed : ((s.failAll (s.slotAccs slot) (s.lateCode (s.rslot slot) (s.slotAccs slot))).waveAt? slot.owner).isSome = true := by
    rw [State.failAll, foldl_waveAt?_isSome fun s a => s.waveAt?_failAcc_isSome .., hw]
    rfl
  obtain ⟨w1, hw1⟩ := Option.isSome_iff_exists.mp hfailed
  have hset := State.waveAt?_setSlot ht { s.rslot slot with seq := (s.rslot slot).seq + 1 } hw1
  obtain ⟨u, hu, hfree⟩ := State.failSlot_frees (l := s.slotAccs slot) ht (by rw [hset]; rfl) hl
    fun a ha => State.owner_of_slotAccs ht ha
  rw [State.rslot_setSlot ht _ hw1] at hfree
  refine ⟨_, (exec_requestTimeout hb ha hfar).trans (by rw [if_pos hd]), u, hu, by rw [hfree], by rw [hfree]⟩

end

/-! ### The answer of a host -/

/-- What a reply owes does not turn on the bytes it brings. -/
theorem State.replyOwes_data (s : State) (x y : List (Nat × List Byte)) (l : List Acc) :
    s.replyOwes (.data x) l = s.replyOwes (.data y) l := by
  cases l <;> rfl

section
variable {s : State} {a : Acc} {k port addr : Nat} {w : Wave} (ha : s.mem.acc? a.id = some a) (ht : a.tgt = .host port addr)
  (ho : a.owner = .wave k)
include ha ht ho

/-- A host's answer to a read or an atomic closes the slot of the access. -/
theorem hostCompletion_travelling {j : Nat} (body : ReplyBody) (hst : a.stage = .travelling) (hj : a.slot = some j) :
    ∃ b : ReplyBody, s.replyOwes b [a] = s.replyOwes body [a] ∧ exec (.hostCompletion a.id body) s =
      .next (if (s.rslot ⟨false, k, j⟩).deadline ≤ s.chrono then s else s.closeSlot ⟨false, k, j⟩ b [a]) := by
  change ∃ b : ReplyBody, _ ∧ execHostCompletion a.id body s = _
  simp only [execHostCompletion, ha, ht, hst, hj, ho, Owner.holder]
  cases body with
  | data lanes =>
    cases lanes with
    | nil => exact ⟨_, rfl, rfl⟩
    | cons x lanes => exact ⟨_, s.replyOwes_data .., rfl⟩
  | ack => exact ⟨_, rfl, rfl⟩
  | refused => exact ⟨_, rfl, rfl⟩
  | poison => exact ⟨_, rfl, rfl⟩
  | unsupported => exact ⟨_, rfl, rfl⟩

theorem hostCompletion_closes {j : Nat} (body : ReplyBody) (hw : s.waveAt? k = some w) (hst : a.stage = .travelling)
    (hj : a.slot = some j) (hd : s.chrono < (s.rslot ⟨false, k, j⟩).deadline) : Steps (.hostCompletion a.id body) s fun t =>
      ∃ u : State, t = u.wakeWave k ∧ u.Answered ⟨false, k, j⟩ (s.replyOwes body [a]) := by
  obtain ⟨b, hb, hexec⟩ := hostCompletion_travelling ha ht ho body hst hj
  obtain ⟨u, hu, hans⟩ := State.closeSlot_answers (s := s) (r := ⟨false, k, j⟩) (l := [a]) b rfl
    (Option.isSome_iff_exists.mpr ⟨w, hw⟩) (List.cons_ne_nil a []) fun x hx => by rw [List.mem_singleton.mp hx, ho]
  rw [hb] at hans
  exact ⟨_, hexec.trans (by rw [if_neg (not_le.mpr hd)]), u, hu, hans⟩

end

/-- An access that no step of a list adds is not there after it. -/
theorem foldl_notMem {α : Type} {f : State → α → State} {a : Acc} (h : ∀ s x, a ∉ s.mem.accs → a ∉ (f s x).mem.accs)
    (l : List α) (s : State) (hs : a ∉ s.mem.accs) : a ∉ (l.foldl f s).mem.accs := by
  induction l generalizing s with
  | nil => exact hs
  | cons x l ih => exact ih _ (h s x hs)

/-- Accesses that are put in a stage are not those of another stage. -/
theorem State.notMem_setStage {s : State} {a : Acc} {l : List Acc} {st : Stage} (hst : a.stage ≠ st) (h : a ∉ s.mem.accs) :
    a ∉ (s.setStage l st).mem.accs := by
  intro hm
  obtain ⟨b, hb, heq⟩ := List.mem_map.mp hm
  split at heq
  · exact hst (congrArg Acc.stage heq).symm
  · exact h (heq ▸ hb)

/-- Posted writes that leave bring no flush. -/
theorem State.notMem_pushHost {s : State} {a : Acc} (o : Owner) (hst : a.stage = .flushing) (h : a ∉ s.mem.accs) :
    a ∉ (s.pushHost o).mem.accs := by
  refine foldl_notMem (fun s b hs => ?_) _ _ h
  split
  · split
    · exact State.notMem_setStage (by rw [hst]; decide) hs
    · exact hs
  · exact hs

/-- The completion of the read that follows posted writes ends it. -/
theorem hostCompletion_flushing {s : State} {a : Acc} {k port addr : Nat} (body : ReplyBody) (ha : s.mem.acc? a.id = some a)
    (ht : a.tgt = .host port addr) (ho : a.owner = .wave k) (hst : a.stage = .flushing) :
    Steps (.hostCompletion a.id body) s fun t => ∃ u : State, t = u.wakeWave k ∧ a ∉ u.mem.accs := by
  have hgone : ∀ t : State, a ∉ (t.modMem fun m => { m with accs := m.accs.filter fun b => !(b.owner == a.owner &&
      b.stage == .flushing && decide (b.id ≤ a.id) && (match b.tgt with | .host p _ => p == port | _ => false)) }).mem.accs := by
    intro t hm
    have hf := (List.mem_filter.mp hm).2
    rw [ht, hst] at hf
    simp at hf
  change ∃ t, execHostCompletion a.id body s = .next t ∧ _
  simp only [execHostCompletion, ha, ht, hst]
  refine ⟨_, rfl, _, State.afterReply_of_wave ho, State.notMem_pushHost _ hst ?_⟩
  exact hgone _

/-- Settles O49: a request is accepted in its turn, and a slot that is answered or has failed is free by `State.closeSlot_answers`
and `State.failSlot_frees`. -/
theorem remoteSteps : Obligations.RemoteSteps := by
  refine fun s => ⟨fun r hb => ⟨?_, ?_⟩, fun r i u hb hi => ?_, fun r hb hn h0 => ?_, fun p hp => ?_, fun r => ⟨?_, ?_⟩,
    fun pl slot seq failed h => ?_, fun slot w ht hw hb ha => ⟨?_, ?_, fun hl hfar => ⟨fun hd => ?_, ?_⟩⟩,
    fun a k j port addr body w ha ht ho hw => ⟨fun hst hj => ⟨fun hd => ?_, ?_⟩, ?_⟩⟩
  · rw [exec_remoteRequest, if_neg (by rw [hb]; decide)]
  · rw [exec_mcredApply, if_neg (by rw [hb]; decide)]
  · obtain ⟨hexec, hgtime, hwindow, hnext⟩ := exec_accepts hb hi
    refine ⟨fun hd => ?_, fun hd hw => ?_, fun b ten hd hw => ⟨_, hexec, ?_⟩⟩
    · rw [hexec, State.acceptPeer_late (by rwa [hgtime])]
    · rw [hexec, State.acceptPeer_refused (by rwa [hgtime]) (by rwa [hwindow])]
    · rw [← hnext]
      exact State.acceptPeer_performs (x := (b, ten)) (by rwa [hgtime]) (by rwa [hwindow])
  · refine ⟨s.modLinks fun l => { l with early := l.early ++ [r] }, ?_, rfl, rfl, rfl⟩
    rw [exec_remoteRequest, if_pos hb, State.orderPeer_early hn h0]
  · exact ⟨remoteAck_waits hp, remoteAck_replies hp⟩
  · exact exec_remoteReply_dropped
  · exact remoteReply_discarded
  · refine exec_mcredAck_dropped failed (h.imp_right State.not_awaits)
  · intro r hslot hseq hbr hd hl
    exact remoteReply_closes ht hw hb ha hl hslot hseq hbr hd
  · intro pl failed hbr hd hl
    exact mcredAck_frees ht hw hb ha hl failed hbr hd
  · rw [exec_requestTimeout hb ha hfar, if_neg (not_le.mpr hd)]
  · exact requestTimeout_fails ht hw hb ha hl hfar
  · obtain ⟨b, -, hexec⟩ := hostCompletion_travelling ha ht ho body hst hj
    rw [hexec, if_pos hd]
  · exact hostCompletion_closes ha ht ho body hw hst hj
  · exact hostCompletion_flushing body ha ht ho

end Sys2Proof.Machine
end

section
/-! ## FENCE, hints and PGREQ (O31) -/

namespace Sys2Proof.Machine

/-! ### What a hint may touch -/

/-- Between the two states no wave, group or byte of device memory differs, and nothing beside the memory system, the cores, the
quads, the links and what has been sent. -/
structure State.SameRest (s t : State) : Prop where
  waves : t.waves = s.waves
  groups : t.groups = s.groups
  cp : t.cp = s.cp
  host : t.host = s.host
  mer : t.mer = s.mer
  house : t.house = s.house
  chrono : t.chrono = s.chrono
  bytes : t.mem.bytes = s.mem.bytes

theorem State.SameRest.refl (s : State) : s.SameRest s := ⟨rfl, rfl, rfl, rfl, rfl, rfl, rfl, rfl⟩

theorem State.SameRest.trans {s t u : State} (h : s.SameRest t) (g : t.SameRest u) : s.SameRest u where
  waves := g.waves.trans h.waves
  groups := g.groups.trans h.groups
  cp := g.cp.trans h.cp
  host := g.host.trans h.host
  mer := g.mer.trans h.mer
  house := g.house.trans h.house
  chrono := g.chrono.trans h.chrono
  bytes := g.bytes.trans h.bytes

/-- Between the two states only copies of lines, leases and translation caches differ: nothing has been sent, and no access has
moved on. -/
structure State.Hinted (s t : State) : Prop extends s.SameRest t where
  outbox : t.outbox = s.outbox
  accs : t.mem.accs = s.mem.accs

theorem State.Hinted.refl (s : State) : s.Hinted s := ⟨.refl s, rfl, rfl⟩

theorem State.Hinted.trans {s t u : State} (h : s.Hinted t) (g : t.Hinted u) : s.Hinted u :=
  ⟨h.toSameRest.trans g.toSameRest, g.outbox.trans h.outbox, g.accs.trans h.accs⟩

theorem State.Hinted.settled {s t : State} (h : s.Hinted t) (hs : s.Settled) : t.Settled := by
  unfold State.Settled
  rw [h.accs, h.chrono]
  exact hs

theorem State.hinted_modCore (s : State) (c : Nat) (f : Core → Core) : s.Hinted (s.modCore c f) :=
  ⟨⟨rfl, rfl, rfl, rfl, rfl, rfl, rfl, rfl⟩, rfl, rfl⟩

theorem State.hinted_modMem {s : State} {f : MemSys → MemSys} (hb : (f s.mem).bytes = s.mem.bytes)
    (ha : (f s.mem).accs = s.mem.accs) : s.Hinted (s.modMem f) := ⟨⟨rfl, rfl, rfl, rfl, rfl, rfl, rfl, hb⟩, rfl, ha⟩

theorem State.hinted_llcTouch (s : State) (key cls ten : Nat) : s.Hinted (s.modMem fun m => m.llcTouch key cls ten) :=
  State.hinted_modMem (MemSys.llcTouch_bytes ..) (MemSys.llcTouch_accs ..)

theorem State.hinted_fillReplica (s : State) (die line ten : Nat) (x : Leased) :
    s.Hinted (s.modMem fun m => m.fillReplica die line ten x) :=
  State.hinted_modMem (MemSys.fillReplica_bytes ..) (MemSys.fillReplica_accs ..)

/-- Where nothing is due, a translation fills the caches that it goes through. -/
theorem State.leafFor_hinted {s : State} (hs : s.Settled) (c : Ctx) (ctx va die cap : Nat) (l : List TlbEntry) :
    s.Hinted (s.leafFor c ctx va die cap l).2.2 := by
  unfold State.leafFor
  dsimp only
  rw [hs.settle]
  split
  · exact State.Hinted.refl s
  · split
    · exact State.Hinted.refl s
    · split
      · exact ⟨⟨rfl, rfl, rfl, rfl, rfl, rfl, rfl, rfl⟩, rfl, rfl⟩
      · exact ⟨⟨rfl, rfl, rfl, rfl, rfl, rfl, rfl, rfl⟩, rfl, rfl⟩

theorem State.translateCore_hinted {s : State} (hs : s.Settled) (core ctx va : Nat) (w : Want) :
    s.Hinted (s.translateCore core ctx va w).2 := by
  unfold State.translateCore
  split
  · exact State.Hinted.refl s
  · next c _ =>
    dsimp only
    have h := (State.leafFor_hinted hs c ctx va (dieOfCore core) 64 (s.coreAt core).tlb).trans
      (State.hinted_modCore _ core fun x => { x with tlb := (s.leafFor c ctx va (dieOfCore core) 64 (s.coreAt core).tlb).2.1 })
    split <;> exact h

/-- A PREF changes copies of its line, its lease and the LLC. -/
theorem State.prefetch_hinted {s : State} (hs : s.Settled) (u : Iss) (cls line : Nat) : s.Hinted (s.prefetch u cls line) := by
  unfold State.prefetch
  dsimp only
  rw [hs.settle]
  have htouch := s.hinted_llcTouch line cls u.w.ten
  split
  · exact State.Hinted.refl s
  · split
    · exact htouch
    · split
      · exact htouch
      · have hlease := fun (t : State) (l : Table LineSt) =>
          State.hinted_modMem (s := t) (f := fun m => { m with lines := l }) rfl rfl
        split
        · exact ((htouch.trans (hlease _ _)).trans (State.hinted_fillReplica ..)).trans (State.hinted_modCore ..)
        · exact (htouch.trans (hlease _ _)).trans (State.hinted_modCore ..)

theorem State.demoteLine_hinted (s : State) (line : Nat) : s.Hinted (s.demoteLine line) := by
  refine State.hinted_modMem ?_ ?_
  · split <;> rfl
  · split <;> rfl

/-- A hint's instruction is the issue of its effect on the lines, which it touches as a hint may. -/
theorem hint_of_hintOf {i : Instr} {m : MemI} {pl : Plan} {act : Iss → Nat → State → State}
    (h : hintOf i = some (m, pl, some act)) :
    (∀ s, exec i s = issue i pl (hintBody m act) s) ∧ (pl.p = m.p ∧ pl.pn = m.pn) ∧
      ∀ (u : Iss) (l : Nat) (s : State), s.Settled → s.Hinted (act u l s) := by
  unfold hintOf at h
  split at h
  all_goals cases h
  · exact ⟨fun _ => rfl, ⟨rfl, rfl⟩, fun u l _ hs => State.prefetch_hinted hs u _ l⟩
  · exact ⟨fun _ => rfl, ⟨rfl, rfl⟩, fun u l _ hs => State.prefetch_hinted hs u _ l⟩
  · exact ⟨fun _ => rfl, ⟨rfl, rfl⟩, fun u l s _ => s.hinted_modCore (coreOfWave u.k) fun c => { c with l1 := c.l1.del l }⟩
  · exact ⟨fun _ => rfl, ⟨rfl, rfl⟩, fun u l s _ => s.hinted_modCore (coreOfWave u.k) fun c => { c with l1 := c.l1.del l }⟩
  · exact ⟨fun _ => rfl, ⟨rfl, rfl⟩, fun u l s _ => s.demoteLine_hinted l⟩
  · exact ⟨fun _ => rfl, ⟨rfl, rfl⟩, fun u l s _ => s.demoteLine_hinted l⟩

theorem pgreq_of_hintOf {i : Instr} {m : MemI} {pl : Plan} (h : hintOf i = some (m, pl, none)) :
    (∀ s, exec i s = issue i pl (pgreqBody m) s) ∧ pl.p = m.p ∧ pl.pn = m.pn := by
  unfold hintOf at h
  split at h
  all_goals cases h
  exact ⟨fun _ => rfl, rfl, rfl⟩

/-! ### The lines of a hint -/

/-- One more address of a hint: the state and the lines so far. -/
def hintStep (u : Iss) (acc : State × List Nat) (va : Nat) : State × List Nat :=
  ((acc.1.hintLine u va).1, acc.2 ++ (acc.1.hintLine u va).2.toList)

/-- What a hint at these addresses does: it translates them, and touches each of their lines once. -/
def State.hintAt (s : State) (act : Iss → Nat → State → State) (u : Iss) (addrs : List Nat) : State :=
  let r := addrs.foldl (hintStep u) (s, [])
  (distinct r.2).foldl (fun s l => act u l s) r.1

theorem hintBody_ok {m : MemI} {act : Iss → Nat → State → State} {u : Iss} {s : State} (h : u.w.heldLater = false) :
    hintBody m act u s = .ok ((s.hintAt act u ((lanesIn u.exec).map fun L => (m.addr s u.w L).toNat)).readBy u.k u.w u.exec
      m.lit m.addrSrcs) .seq := by
  unfold hintBody
  rw [if_neg (by rw [h]; decide)]
  rfl

theorem State.hintLine_hinted {s : State} (hs : s.Settled) (u : Iss) (va : Nat) : s.Hinted (s.hintLine u va).1 := by
  unfold State.hintLine
  dsimp only
  split
  · split <;> exact State.translateCore_hinted hs ..
  · exact State.Hinted.refl s

theorem foldl_hintStep_hinted (u : Iss) (addrs : List Nat) {s : State} (hs : s.Settled) (l : List Nat) :
    s.Hinted (addrs.foldl (hintStep u) (s, l)).1 := by
  induction addrs generalizing s l with
  | nil => exact State.Hinted.refl s
  | cons va addrs ih =>
    have h := State.hintLine_hinted hs u va
    exact h.trans (ih (h.settled hs) _)

theorem foldl_act_hinted {act : Iss → Nat → State → State} {u : Iss}
    (hact : ∀ (u : Iss) (l : Nat) (s : State), s.Settled → s.Hinted (act u l s)) (lines : List Nat) {s : State} (hs : s.Settled) :
    s.Hinted (lines.foldl (fun s l => act u l s) s) := by
  induction lines generalizing s with
  | nil => exact State.Hinted.refl s
  | cons l lines ih =>
    have h := hact u l s hs
    exact h.trans (ih (h.settled hs))

theorem State.hintAt_hinted {s : State} (hs : s.Settled) {act : Iss → Nat → State → State}
    (hact : ∀ (u : Iss) (l : Nat) (s : State), s.Settled → s.Hinted (act u l s)) (u : Iss) (addrs : List Nat) :
    s.Hinted (s.hintAt act u addrs) := by
  have h := foldl_hintStep_hinted u addrs hs []
  exact h.trans (foldl_act_hinted hact _ (h.settled hs))

/-- A hint touches no line where each address lies in no window of the device's memory (R188). -/
theorem State.hintAt_outside (s : State) (act : Iss → Nat → State → State) (u : Iss) {addrs : List Nat}
    (h : ∀ va ∈ addrs, 2 ^ 57 ≤ va) : s.hintAt act u addrs = s := by
  have hfold : addrs.foldl (hintStep u) (s, []) = (s, []) := by
    induction addrs with
    | nil => rfl
    | cons va addrs ih =>
      have hstep : hintStep u (s, []) va = (s, []) := by
        simp only [hintStep, State.hintLine, if_neg (Nat.not_lt.mpr (h va List.mem_cons_self))]
        rfl
      rw [List.foldl_cons, hstep]
      exact ih fun x hx => h x (List.mem_cons_of_mem _ hx)
  unfold State.hintAt
  rw [hfold]
  rfl

/-! ### An instruction that reads its sources and goes on -/

/-- What the instruction's body does to the state leaves its wave alone, and then it reads its sources. -/
theorem issue_reads {i : Instr} {pl : Plan} {s s0 s1 : State} {k : Nat} {w : Wave} {e : Entry} {body : Iss → State → Res}
    {x : Mask} {lit : Option DWord} {srcs : List Opnd} (hr : Ready i pl s k w e) (hw : s1.waves = s.waves)
    (hb : body (issOf i pl s k w e) s = .ok (s1.modWave k fun w0 => readEffects s0 w x lit srcs w0) .seq) :
    ∃ (t : State) (w' : Wave), issue i pl body s = .next (t.closeIf (rbOf i) k) ∧ t.waveAt? k = some w' ∧
      w'.frontier = e.past (byteLen i) :: w.frontier.tail ∧ w.SameRegs w' (killsOf srcs) ∧ w.SamePreds w' ∧
      s1.SameOutside t k := by
  have hw1 : s1.waveAt? k = some w := by rw [State.waveAt?, hw]; exact hr.wave
  have hw2 : (s1.modWave k fun w0 => readEffects s0 w x lit srcs w0).waveAt? k = some (readEffects s0 w x lit srcs w) := by
    rw [State.waveAt?_modWave, if_pos rfl, hw1, Option.map_some]
  obtain ⟨t, ht, hw', hs⟩ := issue_next hr hw2 hb
  obtain ⟨⟨d, up, time, b, hrest⟩, hv, hsr⟩ := Wave.hasRead_readEffects s0 w x lit srcs
  refine ⟨t, _, ht, hw', ?_, ⟨fun n L hn hL => ?_, fun n hn => ?_⟩, fun n _ => ?_, (State.sameOutside_modWave ..).trans hs⟩
  · rw [Wave.advance_eq]
    rw [Wave.slotted_frontier, hrest]
    exact hr.entry
  · rw [Wave.issued_vLane, hv n L hn hL]
  · rw [Wave.issued_sReg, hsr n hn]
  · rw [Wave.issued_pMask, hrest]
    rfl

theorem State.sameMemory_of_bytes {s t : State} (hb : t.mem.bytes = s.mem.bytes) (hg : t.groups = s.groups) : s.SameMemory t := by
  refine ⟨fun _ => by rw [hb], fun g x y hx hy => ?_⟩
  rw [State.groupAt?, hg] at hy
  cases hx.symm.trans hy
  exact fun _ => rfl

theorem State.SameRest.sameElsewhere {s s1 t : State} {k : Nat} (h : s.SameRest s1) (hs : s1.SameOutside t k) :
    s.SameElsewhere t k where
  memory := State.sameMemory_of_bytes (by rw [hs.mem, h.bytes]) (hs.groups.trans h.groups)
  waves j hj := (hs.waves j hj).trans (by rw [State.waveAt?, h.waves]; rfl)
  cp := hs.cp.trans h.cp
  host := hs.host.trans h.host
  mer := hs.mer.trans h.mer
  house := hs.house.trans h.house
  chrono := hs.chrono.trans h.chrono

theorem State.SameOutside.sameElsewhere {s s1 t : State} {k : Nat} (h : s.SameOutside s1 k) (g : s1.SameElsewhere t k) :
    s.SameElsewhere t k where
  memory := ⟨fun a => (g.memory.bytes a).trans (h.bytes a), fun j x y hx hy =>
    g.memory.scratch j x y ((congrArg (fun t : Table Group => t.get? j) h.groups).trans hx) hy⟩
  waves j hj := (g.waves j hj).trans (h.waves j hj)
  cp := g.cp.trans h.cp
  host := g.host.trans h.host
  mer := g.mer.trans h.mer
  house := g.house.trans h.house
  chrono := g.chrono.trans h.chrono

theorem State.SameOutside.l1 {s t : State} {k : Nat} (h : s.SameOutside t k) (c : Nat) : (t.coreAt c).l1 = (s.coreAt c).l1 := by
  by_cases hc : c = coreOfWave k
  · rw [hc, h.core]
  · rw [h.cores c hc]

theorem hint_completes {i : Instr} {s : State} {k : Nat} {w : Wave} {e : Entry} {m : MemI} {pl : Plan}
    {act : Iss → Nat → State → State} (hi : hintOf i = some (m, pl, some act)) (hr : Ready i pl s k w e)
    (hh : w.heldLater = false) (hs : s.Settled) :
    Issues i s k fun t w' => w'.frontier = e.past (byteLen i) :: w.frontier.tail ∧ w.SameRegs w' (killsOf m.addrSrcs) ∧
      w.SamePreds w' ∧ s.SameElsewhere t k ∧ t.groups = s.groups ∧ t.outbox = s.outbox ∧
      ((∀ L, L < 64 → inMask (s.execMask w e m.p m.pn) L = true → 2 ^ 57 ≤ (m.addr s w L).toNat) →
        t.mem = s.mem ∧ ∀ c, (t.coreAt c).l1 = (s.coreAt c).l1) := by
  obtain ⟨hexec, ⟨hp, hpn⟩, hact⟩ := hint_of_hintOf hi
  have hhint := State.hintAt_hinted hs hact (issOf i pl s k w e)
    ((lanesIn (issOf i pl s k w e).exec).map fun L => (m.addr s w L).toNat)
  obtain ⟨t, w', ht, hw', hfr, hregs, hpreds, hout⟩ := issue_reads hr hhint.waves
    (hintBody_ok (m := m) (act := act) (u := issOf i pl s k w e) hh)
  refine ⟨t, w', (hexec s).trans ht, hw', hfr, hregs, hpreds, hhint.toSameRest.sameElsewhere hout, hout.groups.trans hhint.groups,
    hout.outbox.trans hhint.outbox, fun hfar => ?_⟩
  have hsame := s.hintAt_outside act (issOf i pl s k w e)
    (addrs := (lanesIn (issOf i pl s k w e).exec).map fun L => (m.addr s w L).toNat) fun va hva => by
      obtain ⟨L, hL, rfl⟩ := List.mem_map.mp hva
      obtain ⟨hlt, hin⟩ := (mem_lanesIn _ _).mp hL
      exact hfar L hlt (by rw [← hp, ← hpn]; exact hin)
  rw [hsame] at hout
  exact ⟨hout.mem, hout.l1⟩

/-! ### PGREQ -/

/-- No wave, group or byte of device memory differs. -/
structure State.SameData (s t : State) : Prop where
  waves : t.waves = s.waves
  groups : t.groups = s.groups
  bytes : t.mem.bytes = s.mem.bytes

theorem State.SameData.refl (s : State) : s.SameData s := ⟨rfl, rfl, rfl⟩

theorem State.SameData.trans {s t u : State} (h : s.SameData t) (g : t.SameData u) : s.SameData u :=
  ⟨g.waves.trans h.waves, g.groups.trans h.groups, g.bytes.trans h.bytes⟩

theorem State.Hinted.sameData {s t : State} (h : s.Hinted t) : s.SameData t := ⟨h.waves, h.groups, h.bytes⟩

/-- A store that is accepted changes no byte yet. -/
theorem State.engineAcc_sameData (s : State) (kind : AKind) (pa : Nat) (bs : List Byte) (after op launch : Nat)
    (page : Option (Nat × Nat)) : s.SameData (s.engineAcc kind pa bs after op launch page).2 := by
  refine ⟨?_, ?_, State.engineAcc_bytes ..⟩
  · unfold State.engineAcc
    dsimp only
    split <;> rfl
  · unfold State.engineAcc
    dsimp only
    split <;> rfl

theorem State.modCtx_sameData (s : State) (c : Nat) (f : Ctx → Ctx) : s.SameData (s.modCtx c f) :=
  ⟨by simp, by simp, by simp⟩

theorem State.send_sameData (s : State) (m : Out) : s.SameData (s.send m) := ⟨rfl, rfl, rfl⟩

theorem State.postPage_sameData (s : State) (ctx vpn kind launch : Nat) : s.SameData (s.postPage ctx vpn kind launch).2 := by
  unfold State.postPage
  dsimp only
  split
  · exact State.SameData.refl s
  · split
    · exact State.SameData.refl s
    · split
      · split
        · exact State.SameData.refl s
        · split
          · exact State.SameData.refl s
          · split
            · exact State.SameData.refl s
            · split
              · exact (State.engineAcc_sameData ..).trans (State.engineAcc_sameData ..)
              · exact (((State.engineAcc_sameData ..).trans (State.engineAcc_sameData ..)).trans
                  (State.engineAcc_sameData ..)).trans ((State.modCtx_sameData ..).trans (State.send_sameData ..))
      · exact State.SameData.refl s

theorem State.postAll_sameData (s : State) (ctx launch : Nat) (l : List Nat) : s.SameData (s.postAll ctx launch l).1 := by
  induction l generalizing s with
  | nil => exact State.SameData.refl s
  | cons v l ih =>
    unfold State.postAll
    dsimp only
    split
    · exact State.SameData.refl s
    · exact (s.postPage_sameData ..).trans (ih _)

theorem State.absentPages_hinted {s : State} (hs : s.Settled) (u : Iss) (l : List Nat) : s.Hinted (s.absentPages u l).1 := by
  induction l generalizing s with
  | nil => exact State.Hinted.refl s
  | cons va l ih =>
    unfold State.absentPages
    split
    · exact ih hs
    · have h := State.translateCore_hinted hs (coreOfWave u.k) u.w.ctx va .load
      dsimp only
      split <;> exact h.trans (ih (h.settled hs))

theorem pgreqBody_ok {m : MemI} {u : Iss} {s : State} (hd : m.dead u.w u.exec = none) (hh : u.w.heldLater = false)
    (hp : let r := s.absentPages u ((lanesIn u.exec).map fun L => (m.addr s u.w L).toNat)
      (r.1.postAll u.w.ctx u.w.launch (distinct r.2)).2 = []) :
    let r := s.absentPages u ((lanesIn u.exec).map fun L => (m.addr s u.w L).toNat)
    pgreqBody m u s = .ok ((r.1.postAll u.w.ctx u.w.launch (distinct r.2)).1.modWave u.k fun w0 =>
      readEffects s u.w u.exec m.lit m.addrSrcs w0) .seq := by
  simp only [pgreqBody, hd, hh, hp, Bool.false_eq_true, if_false, if_true]

theorem pgreq_completes {i : Instr} {s : State} {k : Nat} {w : Wave} {e : Entry} {m : MemI} {pl : Plan}
    (hi : hintOf i = some (m, pl, none)) (hr : Ready i pl s k w e) (hd : m.dead w (s.execMask w e m.p m.pn) = none)
    (hh : w.heldLater = false) (hs : s.Settled)
    (hp : let r := s.absentPages (issOf i pl s k w e) ((lanesIn (s.execMask w e m.p m.pn)).map fun L => (m.addr s w L).toNat)
      (r.1.postAll w.ctx w.launch (distinct r.2)).2 = []) :
    Issues i s k fun t w' => w'.frontier = e.past (byteLen i) :: w.frontier.tail ∧ w.SameRegs w' (killsOf m.addrSrcs) ∧
      w.SamePreds w' ∧ s.SameMemory t ∧ ∀ j, j ≠ k → t.waveAt? j = s.waveAt? j := by
  obtain ⟨hexec, hpl, hpn⟩ := pgreq_of_hintOf hi
  rw [← hpl, ← hpn] at hd hp
  have hdata := (State.absentPages_hinted hs (issOf i pl s k w e)
    ((lanesIn (issOf i pl s k w e).exec).map fun L => (m.addr s w L).toNat)).sameData.trans
      (State.postAll_sameData _ w.ctx w.launch (distinct (s.absentPages (issOf i pl s k w e)
        ((lanesIn (issOf i pl s k w e).exec).map fun L => (m.addr s w L).toNat)).2))
  obtain ⟨t, w', ht, hw', hfr, hregs, hpreds, hout⟩ := issue_reads hr hdata.waves
    (pgreqBody_ok (m := m) (u := issOf i pl s k w e) hd hh hp)
  exact ⟨t, w', (hexec s).trans ht, hw', hfr, hregs, hpreds,
    State.sameMemory_of_bytes (by rw [hout.mem, hdata.bytes]) (hout.groups.trans hdata.groups),
    fun j hj => (hout.waves j hj).trans (by rw [State.waveAt?, hdata.waves]; rfl)⟩

/-! ### FENCE -/

/-- The operation that a fence queues. -/
def fenceOp (scope : Scope) (d : Dst) (pc : DWord) (time id : Nat) : LOp :=
  let sd := match d with | .s _ => true | _ => false
  ⟨id, match d with | .s _ => .sc | _ => .none, pc, .fence scope sd, if sd = true then 1 else 0, 0,
    if sd = true then 1 else 0, match d with | .s n => [⟨.s n.val, 1, [], 0⟩] | _ => [], false, false, none, time, 0, none⟩

theorem fenceBody_ok {scope : Scope} {d : Dst} {u : Iss} {s : State} (hx : u.exec ≠ 0) (hh : u.w.heldLater = false)
    (hf : ∀ n, d = .s n → u.w.full .sc = false) : fenceBody scope d u s =
      .ok ((s.fresh.2.modWave u.k fun w => w.enter (fenceOp scope d u.e.pc u.slot.t s.nextId)).pressHost u.k scope) .seq := by
  unfold fenceBody
  dsimp only
  rw [if_neg hx, if_neg (by rw [hh]; decide)]
  cases d with
  | s n =>
    rw [if_neg (by simp [hf n rfl])]
    rfl
  | v n => rfl
  | null => rfl

/-- What a system-scope wait sends changes no wave and no byte. -/
theorem State.pressHost_sameRest (s : State) (k : Nat) (scope : Scope) : s.SameRest (s.pressHost k scope) := by
  have hport : ∀ (l : List Nat) (s : State), s.SameRest (l.foldl (fun s port =>
      match (s.mem.accs.filter (unflushed (.wave k) port)).getLast? with
      | none => s
      | some a => (s.setStage (s.mem.accs.filter (unflushed (.wave k) port)) .flushing).send
          (.hostRead port (s.ideStream a.ten port) 0 0 a.id)) s) := by
    intro l
    induction l with
    | nil => exact fun s => .refl s
    | cons port l ih =>
      intro s
      refine State.SameRest.trans ?_ (ih _)
      dsimp only
      split
      · exact .refl s
      · exact ⟨rfl, rfl, rfl, rfl, rfl, rfl, rfl, rfl⟩
  unfold State.pressHost
  split
  · exact hport [0, 1] s
  · exact .refl s

theorem exec_fence (f : Xm) (s : State) : exec (.fenceXm f) s =
    issue (.fenceXm f) ⟨f.p, f.pn, [], dstNamed f.d true, [], .none⟩ (fenceBody f.scope f.d) s := rfl

section
variable {f : Xm} {s : State} {k : Nat} {w : Wave} {e : Entry}
  (hr : Ready (.fenceXm f) ⟨f.p, f.pn, [], dstNamed f.d true, [], .none⟩ s k w e)
include hr

/-- With no executing lane a FENCE does nothing. -/
theorem fence_idle (hx : s.execMask w e f.p f.pn = 0) :
    ∃ (t : State) (w' : Wave), exec (.fenceXm f) s = .next (t.closeIf (rbOf (.fenceXm f)) k) ∧ t.waveAt? k = some w' ∧
      w.Moved w' (e.past (byteLen (.fenceXm f)) :: w.frontier.tail) ∧ s.SameOutside t k := by
  obtain ⟨t, ht, hw', hs⟩ := issue_seq (body := fenceBody f.scope f.d) hr (State.SameOutside.refl s k) hr.wave (if_pos hx)
  rw [Wave.advance_eq _ _ _ _ ((Wave.slotted_frontier ..).trans hr.entry)] at hw'
  exact ⟨t, _, (exec_fence f s).trans ht, hw', Wave.moved_of w _ _, hs⟩

/-- A FENCE that nothing holds is pending. -/
theorem fence_pends (hx : s.execMask w e f.p f.pn ≠ 0) (hh : w.heldLater = false) (hf : ∀ n, f.d = .s n → w.full .sc = false) :
    ∃ (t : State) (w' : Wave) (time : Nat), exec (.fenceXm f) s = .next (t.closeIf (rbOf (.fenceXm f)) k) ∧
      t.waveAt? k = some w' ∧
      ({ w with lops := w.lops ++ [w.entered (fenceOp f.scope f.d e.pc time s.nextId)] } : Wave).Moved w'
        (e.past (byteLen (.fenceXm f)) :: w.frontier.tail) ∧ s.SameElsewhere t k := by
  let u := issOf (.fenceXm f) ⟨f.p, f.pn, [], dstNamed f.d true, [], .none⟩ s k w e
  let w1 := w.enter (fenceOp f.scope f.d e.pc u.slot.t s.nextId)
  let s1 := s.fresh.2.modWave k fun w => w.enter (fenceOp f.scope f.d e.pc u.slot.t s.nextId)
  have hpress := s1.pressHost_sameRest k f.scope
  have hw1 : (s1.pressHost k f.scope).waveAt? k = some w1 := by
    rw [State.waveAt?, hpress.waves, ← State.waveAt?, State.waveAt?_modWave, if_pos rfl, State.waveAt?_fresh, hr.wave,
      Option.map_some]
  obtain ⟨t, ht, hw', hs⟩ := issue_next hr hw1 (fenceBody_ok (u := u) hx hh hf)
  have hentry : (w1.slotted u).frontier = e :: w.frontier.tail := (Wave.slotted_frontier w1 u).trans hr.entry
  exact ⟨t, _, u.slot.t, (exec_fence f s).trans ht, hw'.trans (congrArg some (Wave.advance_eq _ _ _ _ hentry)), Wave.moved_of w1 _ _,
    ((State.sameOutside_fresh s k).trans (State.sameOutside_modWave ..)).sameElsewhere (hpress.sameElsewhere hs)⟩

end

/-- Settles O31: a hint leaves a `State.Hinted`, PGREQ a `State.SameData`, and a FENCE queues `fenceOp`. -/
theorem fencesAndHints : Obligations.FencesAndHints := by
  intro i s k w e
  refine ⟨fun m pl act hi hr hh hs => hint_completes hi hr hh hs, fun m pl hi hr hd hh hs => pgreq_completes hi hr hd hh hs,
    fun f hi hr => ?_⟩
  subst hi
  refine ⟨fence_idle hr, fun hx hh hf => ?_⟩
  obtain ⟨t, w', time, hexec, hw', hmoved, hs⟩ := fence_pends hr hx hh hf
  refine ⟨t, w', _, hexec, hw', hmoved, hs, rfl, rfl, rfl, fun n hd => ?_, fun hd => ?_⟩
  · rw [LOp.bare_entered, hd]
    exact ⟨rfl, rfl, rfl, rfl⟩
  · rw [hd]
    exact ⟨rfl, rfl, rfl, rfl⟩

end Sys2Proof.Machine
end
